-- ==== Sys2Proof/Word.lean ====
section
/-! DEFINITION. The word types of the Zeluiward Z9 model, and the plain containers that the state and the
commands are built from. -/

namespace Sys2Proof

/-- One byte. -/
abbrev Byte := BitVec 8
/-- A 32-bit register word (R549). -/
abbrev Word := BitVec 32
/-- A 64-bit word: a token header, a payload word, an operation slot (R142, R196). -/
abbrev DWord := BitVec 64
/-- A byte string, lowest offset first. -/
abbrev Bytes := List Byte
/-- A table by number: entries in rising order of the key, no key twice. -/
abbrev KMap (α : Type) := List (Nat × α)

/-- The party a session acts for (R6, R384). -/
inductive Role where
  | own | ten | mgt | obs | vnd
  deriving DecidableEq, Repr, Inhabited

/-- The code HELLO gives a role (R384). -/
def Role.code : Role → Nat
  | .own => 1 | .ten => 2 | .mgt => 3 | .obs => 4 | .vnd => 5

/-- Whether a command body has its defined length and zero reserved fields (R373 check 4). -/
inductive BodyForm where
  | ok | badLength | reservedSet
  deriving DecidableEq, Repr, Inhabited

end Sys2Proof
end

