-- ==== Sys2Proof/Syntax/Types.lean ====
section
/-! DEFINITION. The operand types of the commands: the fields of the command bodies (R384 to R390), of the boot
messages (R536), of packets, frames and control messages, and what an engine or a sensor reports with an event. -/

namespace Sys2Proof

/-- Where a packet came from, and so where its reply goes (R360): source MAC address, IP address of its family, and UDP
port. -/
structure SrcAddr where
  mac : Nat
  ip : Nat
  udp : Nat
  v6 : Bool
  deriving DecidableEq, Repr, Inhabited

/-- What the descriptor of a host command carries (R45, R363, R407, R355, R360, R377): `ep` is the doorbell queue, 0 to 3
the logical ports, 4 the torus relay, 5 the flow intake (R44); `src` and `entry` say where the packet came from, and
`body` holds the bytes of the message, which a well-formed command's fields spell (R374). -/
structure CmdHdr where
  session : Nat
  reqId : Nat
  ep : Nat
  dscp : Nat
  firstNs : Nat
  form : BodyForm
  src : SrcAddr := default
  entry : Option (Nat × Nat) := none
  body : Bytes := []
  deriving DecidableEq, Repr, Inhabited

/-- The body of CHASE_CREATE and CHASE_CHANGE (R386, R394). -/
structure ChaseFields where
  chase : Nat
  bwMode : Nat
  prioMax : Nat
  compMap : Nat
  pageMap : Nat
  hGran : List Nat
  bGran : Nat
  reqLimit : Nat
  betaH : List Nat
  betaB : Nat
  store : List Nat
  deriving DecidableEq, Repr, Inhabited

/-- The fields of a serving entry (R293, R387). -/
structure ServeFields where
  formeId : Nat
  missPolicy : Nat
  passLimit : Nat
  vocab : Nat
  logitTid : Nat
  maskTid : Nat
  prefillTokens : Nat
  kvClass : Nat
  contextMax : Nat
  folioBytes : Nat
  poolObj : Nat
  concObj : Nat
  eos : List Nat
  draftId : Nat
  draftPool : Nat
  draftFolioBytes : Nat
  draftPassLimit : Nat
  draftTokens : Nat
  draftLogitTid : Nat
  kInit : Nat
  kMax : Nat
  probeGap : Nat
  compSharers : Nat
  deriving DecidableEq, Repr, Inhabited

/-- The body of GENERATE (R388, R318). The FP32 parameters stand as their bit patterns. -/
structure GenParams where
  formeId : Nat
  deadline : Nat
  seed : Nat
  lp : Nat
  maxTokens : Nat
  temp : Word
  topP : Word
  minP : Word
  repPenalty : Word
  topK : Nat
  repWindow : Nat
  tokenBatch : Nat
  spec : Nat
  label : Bytes
  tokens : List Nat
  deriving DecidableEq, Repr, Inhabited

/-- The body of JOB_OPEN (R390, R462). -/
structure JobFields where
  jobId : Nat
  chase : Nat
  ox : Nat
  oy : Nat
  oz : Nat
  ex : Nat
  ey : Nat
  ez : Nat
  deriving DecidableEq, Repr, Inhabited

/-- One entry of the relay set (R376, R384). -/
structure RelayEntry where
  x : Nat
  y : Nat
  z : Nat
  ipv4 : Nat
  ipv6 : Nat
  deriving DecidableEq, Repr, Inhabited

/-- The body of INTAKE_SET (R379, R384). -/
structure IntakeCfg where
  tableObj : Nat
  payloadObj : Nat
  formeId : Nat
  deadline : Nat
  nrec : Nat
  capture : Nat
  idleMs : Nat
  activeMs : Nat
  vxlanPort : Nat
  genevePort : Nat
  notify : Nat
  enable : Nat
  deriving DecidableEq, Repr, Inhabited

/-- The placement record (R452). Each list has one entry for each port TP_0 to TP_5; an EXPECT of
zeros is an unused port. -/
structure Placement where
  nx : Nat
  ny : Nat
  nz : Nat
  x : Nat
  y : Nat
  z : Nat
  expect : List Bytes
  reach : List Nat
  spares : List Bool
  cableDm : List Nat
  deriving DecidableEq, Repr, Inhabited

/-- The content of BOOT_CONFIG (R536). `bootV6` says that BOOT_ADDR and BOOT_PEER are IPv6 addresses; `netSig` is the
signature over the boot network list, none when it is unsigned (R537). -/
structure BootConfig where
  placement : Placement
  mgtCreds : List (Nat × Bytes)
  bootSource : Nat
  bootV6 : Bool
  bootAddr : Nat
  bootPeer : Nat
  bootUdp : Nat
  net : List (Nat × Nat)
  netSig : Option Bytes
  claimExpect : Bytes
  deriving DecidableEq, Repr, Inhabited

/-- An Askest packet: the fields of its header (R363), the header's 32 bytes, which GCM authenticates, the payload with
its tag (R362, R365), and what the port knows of it: its IP family, destination, source, DSCP and first-byte stamp. -/
structure Packet where
  magic : Nat
  version : Nat
  status : Nat
  opcode : Nat
  flags : Nat
  session : Nat
  seq : Nat
  reqId : Nat
  length : Nat
  detail : Nat
  frag : Nat
  header : Bytes
  payload : Bytes
  v6 : Bool
  dst : Nat
  src : SrcAddr
  dscp : Nat
  ns : Nat
  deriving DecidableEq, Repr, Inhabited

/-- What the intake's parser reads of a frame (R378): the fields of the flow key, and the packet's length, TCP flags and
transport payload. Ports are zero for a protocol other than TCP and UDP; IPv4 addresses stand as ::ffff:a.b.c.d
(R380). -/
structure IntakeFrame where
  v6 : Bool
  vxlan : Bool
  geneve : Bool
  vlanTag : Bool
  vlan : Nat
  vni : Nat
  proto : Nat
  srcAddr : Nat
  dstAddr : Nat
  srcPort : Nat
  dstPort : Nat
  ipLen : Nat
  tcpFlags : Nat
  payload : Bytes
  deriving DecidableEq, Repr, Inhabited

/-- A relay frame (R376, R377): the entry device and its logical port, the device it goes to, the MAC address of the
host, the IP packet it carries, and the first-byte stamp of the entry port. A reply carries no stamp. -/
structure RelayFrame where
  entry : Nat
  entryPort : Nat
  target : Nat
  mac : Nat
  v6 : Bool
  packet : Bytes
  ns : Nat
  deriving DecidableEq, Repr, Inhabited

/-- A SAK with what goes with it on a port (R361; IEEE 802.1AE GCM-AES-XPN-256): key, salt, association number, and the
peer's SCI with the short SCIs of the peer and of the port. -/
structure Sak where
  key : Bytes
  salt : Bytes
  an : Nat
  sci : Nat
  ssciRx : Nat
  ssciTx : Nat
  deriving DecidableEq, Repr, Inhabited

/-- One 64 B granule in transit with its two side-band bits (R145). -/
structure Granule where
  data : Bytes
  spoil : Bool
  deriving DecidableEq, Repr, Inhabited

/-- A discovery message: what its sender signs, its certificates among it, and the signature (R455). -/
structure DiscoveryMsg where
  x : Nat
  y : Nat
  z : Nat
  nx : Nat
  ny : Nat
  nz : Nat
  port : Nat
  lifecycle : Nat
  ownerDigest : Bytes
  nonce : Bytes
  eph : Bytes
  certs : Bytes
  sig : Bytes
  deriving DecidableEq, Repr, Inhabited

/-- A JOIN message (R464). `halted` says that the peer's job is HALTED. -/
structure JoinMsg where
  jobId : Nat
  ox : Nat
  oy : Nat
  oz : Nat
  ex : Nat
  ey : Nat
  ez : Nat
  tenantDigest : Bytes
  halted : Bool
  deriving DecidableEq, Repr, Inhabited

/-- What the channel delivers at one try of an access to a granule (R240, R241, R244): whether it failed its parity or
CRC check, the symbols that differ from what was stored, each by its place in the code word and the bits that differ, and
how many corrections of the on-die ECC the DRAM reports with it (R233, R235). -/
structure GranuleOutcome where
  parityError : Bool
  errs : List (Nat × Byte)
  onDie : Nat
  deriving DecidableEq, Repr, Inhabited

/-- Who presents an access to an MT bank (R134): an address generator for a unit's firing, the fabric's queue storage,
a bulk transfer, a feeder or a drain for a galley (by TID), or the configuration port. -/
inductive BankUser where
  | unit (fu : Nat)
  | queue
  | bulk
  | feeder (tid : Nat)
  | drain (tid : Nat)
  | config
  deriving DecidableEq, Repr, Inhabited

/-- An error that a tile pair's protection finds beyond correction: in the 64 B row of a case register, with the bytes as
read (R106); a parity error of an accumulator set or of the block registers that feed it (R117); a parity error of a
gather accumulator (R140). -/
inductive RegError where
  | caseRow (reg row : Nat) (asRead : Bytes)
  | accSet (set : Nat)
  | gatherAcc (i : Nat)
  deriving DecidableEq, Repr, Inhabited

/-- One request that waits at an MT bank (R134): its number at the arbiter, who asks, and the 64 B access it presents.
`singleBit` is the mask of the granule's eight words in which a read finds a single-bit error, `uncorrectable` whether it
finds worse, and `asRead` the granule's bits as such a read delivers them (R229, R230). -/
structure BankReq where
  requester : Nat
  user : BankUser
  write : Bool
  row : Nat
  data : Bytes
  strobe : List Bool
  spoil : Bool
  singleBit : Nat
  uncorrectable : Bool
  asRead : Bytes
  deriving DecidableEq, Repr, Inhabited

/-- What a physical detector reports with a fault (R475, R480): code, domain, chase and tile concerned. -/
structure FaultInfo where
  code : Nat
  domain : Nat
  tile : Nat
  deriving DecidableEq, Repr, Inhabited

/-- What bring-up found (R542): failure code, dies without spine or hub link, dies whose tier H failed, tier B's
population, slow stacks, disabled logical ports, tiles and banks that failed their tests. -/
structure BringUpResult where
  failCode : Nat
  senseOpen : Nat
  dieFail : Nat
  hFail : Nat
  rate8 : Nat
  ddrCause : Nat
  ddrModGib : Nat
  ddrRate : Nat
  epLaneFault : Nat
  tileFail : List Nat
  bankFail : List (Nat × Nat)
  hardRows : List Nat
  deriving DecidableEq, Repr, Inhabited

/-- Measured power (R520, R523): the 1 µs average of input power in watts, the current of each rail in amperes, in the
order of R509 (R511), and the averages that the management controller and the owner read. -/
structure PowerSample where
  watts : Nat
  amps : List Nat
  mgtAvg : Nat
  ownAvg : Nat
  deriving DecidableEq, Repr, Inhabited

end Sys2Proof
end

