-- ==== Sys2Proof/Syntax.lean ====
section
/-! DEFINITION. The commands of the Z9: one constructor for each row of spec/opcode_table.json, in the table's
order. A host command carries its descriptor (`CmdHdr`) and the decoded fields of its body; an event of the block's
own engines, sensors or links carries what identifies it and what the engine, sensor or peer delivers with it. -/

namespace Sys2Proof

/-- A command or event of the Z9. -/
inductive Instr where
  -- sessions and the owner's commands (R384)
  | hello (h : CmdHdr) (role chase credId : Nat) (nonce eph : Bytes)
  | prove (h : CmdHdr) (sig : Bytes)
  | close (h : CmdHdr)
  | ping (h : CmdHdr) (data : Bytes)
  | sessionInfo (h : CmdHdr)
  | claim (h : CmdHdr) (pub label : Bytes)
  | policySet (h : CmdHdr) (entries : List (Nat × Nat))
  | policyGet (h : CmdHdr) (ids : List Nat)
  | credSet (h : CmdHdr) (op role chase credId : Nat) (pub : Bytes)
  | readmit (h : CmdHdr)
  | decommission (h : CmdHdr) (confirm : Nat)
  | relaySet (h : CmdHdr) (entries : List RelayEntry)
  | intakeSet (h : CmdHdr) (cfg : IntakeCfg)
  -- chases and formes (R386, R387)
  | chaseCreate (h : CmdHdr) (f : ChaseFields)
  | chaseChange (h : CmdHdr) (f : ChaseFields)
  | chaseRelease (h : CmdHdr) (chase : Nat)
  | chaseInfo (h : CmdHdr) (chase : Nat)
  | chaseClaim (h : CmdHdr) (pub : Bytes)
  | formeLoad (h : CmdHdr) (total offset : Nat) (data : Bytes)
  | formeStage (h : CmdHdr) (objId : Nat)
  | formeFree (h : CmdHdr) (formeId : Nat)
  | impose (h : CmdHdr) (ids : List Nat)
  | change (h : CmdHdr) (oldId newId : Nat)
  | serveSet (h : CmdHdr) (op : Nat) (e : ServeFields)
  | scanOut (h : CmdHdr) (tile : Nat)
  | scanIn (h : CmdHdr) (record : Bytes)
  | formeList (h : CmdHdr)
  | signkeySet (h : CmdHdr) (op keyId : Nat) (pub : Bytes)
  | formeKeyGet (h : CmdHdr)
  -- objects and requests (R388, R389)
  | objCreate (h : CmdHdr) (objId size kind tier die : Nat)
  | put (h : CmdHdr) (objId offset : Nat) (data : Bytes)
  | seal (h : CmdHdr) (objId : Nat)
  | get (h : CmdHdr) (objId offset len : Nat)
  | move (h : CmdHdr) (objId tier die : Nat)
  | objFree (h : CmdHdr) (objId : Nat)
  | windowSet (h : CmdHdr) (objId window die : Nat)
  | objInfo (h : CmdHdr) (objId : Nat)
  | score (h : CmdHdr) (formeId deadline : Nat) (label input : Bytes)
  | generate (h : CmdHdr) (p : GenParams)
  | fileSubmit (h : CmdHdr) (formeId deadline total offset : Nat) (label data : Bytes)
  | cancel (h : CmdHdr) (target : Nat)
  | resend (h : CmdHdr) (target fromTok : Nat)
  -- jobs, registers, attestation, power and pulls (R390)
  | jobOpen (h : CmdHdr) (f : JobFields)
  | jobStep (h : CmdHdr) (jobId step formeId deadline : Nat) (label input : Bytes)
  | jobRejoin (h : CmdHdr) (jobId step : Nat)
  | jobClose (h : CmdHdr) (jobId : Nat)
  | readReg (h : CmdHdr) (addr count : Nat)
  | writeReg (h : CmdHdr) (addr : Nat) (value : Word)
  | resetReq (h : CmdHdr) (addr : Nat) (value : Word)
  | resetReadmit (h : CmdHdr) (addr : Nat) (value : Word)
  | healthEventsClear (h : CmdHdr) (addr : Nat) (value : Word)
  | colophon (h : CmdHdr) (nonce : Bytes)
  | powerCap (h : CmdHdr) (cap alertCap overdrive : Nat)
  | pullRead (h : CmdHdr) (mode pullId offset len : Nat) (errs : List (Nat × Nat))
  -- packets, timers and the ports (chapter 10)
  | askestPacket (ep : Nat) (frame : Bytes) (ns : Nat)
  | reassemblyTimeout (session opcode reqId : Nat)
  | sessionPendingTimeout (session : Nat)
  | sessionIdleTimeout (session : Nat)
  | fileIdleTimeout (session reqId : Nat)
  | heldChunkTimeout (session reqId : Nat)
  | policyTakeEffect (id : Nat)
  | portRetrain (he : Nat) (trained : Bool)
  | arpRequest (ep : Nat) (frame : Bytes)
  | neighborSolicitation (ep : Nat) (frame : Bytes)
  | mkaFrame (ep peerPrio peerSci : Nat) (peerSak : Option Sak)
  | relayFrame (port : Nat) (f : RelayFrame)
  | relayReply (f : RelayFrame)
  | intakeFrame (ep : Nat) (frame : Bytes)
  | flowIdleExpiry (idx : Nat)
  | flowActiveExpiry (idx : Nat)
  | intakeScore
  | intakeRetry (idx : Nat)
  | intakeResult (idx : Nat)
  | intakeNotify
  -- imposition, running change and scan (chapter 5)
  | imageCheckBegin
  | imageCheckDone
  | fenceDrainDone (chase : Nat)
  | scrubDone (chase : Nat) (vminFail : List Nat)
  | pageLoadDone (chase : Nat)
  | shadowLoadDone (chase : Nat)
  | lockupInject (chase : Nat)
  | lockupTake (tile fu input : Nat)
  | tileSwitch (tile : Nat)
  | preloadDone (tile : Nat)
  | changeTimeout (chase : Nat)
  -- the fabric (chapter 4)
  | tokenEject (k flip : Nat)
  | tokenTake (tile fu input : Nat)
  | fire (tile fu : Nat) (errs : List RegError)
  | branchFire (tile fu : Nat)
  | selectFire (tile fu : Nat)
  | steerFire (tile fu : Nat)
  | mergeFire (tile fu : Nat)
  | loopFire (tile fu : Nat)
  | loopEmit (tile fu : Nat)
  | emit (tile fu : Nat)
  | creditReturn (tile port : Nat)
  | granuleLand (k : Nat)
  | bankGrant (tile bank : Nat) (reqs : List BankReq)
  | longGutterRoute (k : Nat)
  | creditToken (k : Nat)
  | remoteCreditFlush (k : Nat)
  | misregEvent (tile fu : Nat)
  | misreg (tile fu : Nat)
  -- operation slots of the vector datapath (R119), run by the firing in progress of a unit
  | mov (tile fu : Nat)
  | ld (tile fu : Nat)
  | st (tile fu : Nat)
  | bcr (tile fu : Nat)
  | bcc (tile fu : Nat)
  | bcs (tile fu : Nat)
  | extr (tile fu : Nat)
  | ins (tile fu : Nat)
  | rotr (tile fu : Nat)
  | rotc (tile fu : Nat)
  | trans (tile fu : Nat)
  | bfly (tile fu : Nat)
  | add (tile fu : Nat)
  | sub (tile fu : Nat)
  | mul (tile fu : Nat)
  | fma (tile fu : Nat)
  | div (tile fu : Nat)
  | sqrt (tile fu : Nat)
  | min (tile fu : Nat)
  | max (tile fu : Nat)
  | abs (tile fu : Nat)
  | neg (tile fu : Nat)
  | and (tile fu : Nat)
  | or (tile fu : Nat)
  | xor (tile fu : Nat)
  | not (tile fu : Nat)
  | shl (tile fu : Nat)
  | shr (tile fu : Nat)
  | exp (tile fu : Nat)
  | log (tile fu : Nat)
  | rsqrt (tile fu : Nat)
  | tanh (tile fu : Nat)
  | erf (tile fu : Nat)
  | cmp (tile fu : Nat)
  | sel (tile fu : Nat)
  | cvt (tile fu : Nat)
  | mpop (tile fu : Nat)
  | mand (tile fu : Nat)
  | mor (tile fu : Nat)
  | mxor (tile fu : Nat)
  | mnot (tile fu : Nat)
  | rsum (tile fu : Nat)
  | rmax (tile fu : Nat)
  | rmin (tile fu : Nat)
  | gadd (tile fu : Nat)
  | vmul (tile fu : Nat)
  | vdiv (tile fu : Nat)
  | frd (tile fu : Nat)
  | fprd (tile fu : Nat)
  | fsum (tile fu : Nat)
  | fclr (tile fu : Nat)
  | pmac (tile fu : Nat)
  -- galleys, feeders and drains (chapter 7)
  | fillStart (feeder tile tid : Nat) (errs : List (Nat × Nat))
  | fillComplete (k : Nat)
  | slotRelease (tile tid slot : Nat)
  | slipIn (tile tid : Nat) (errs : List (Nat × Nat))
  | slipOut (tile tid : Nat) (errs : List (Nat × Nat))
  | drainTake (tile tid : Nat)
  | drainWrite (tile tid : Nat) (errs : List (Nat × Nat))
  -- serving (chapter 8)
  | passBegin (chase forme : Nat)
  | walkComplete (req : Nat)
  | compositorRow (die : Nat)
  | commit (req : Nat)
  | stepHold (req : Nat)
  -- memory (chapter 6)
  | granuleRead (isH : Bool) (pa : Nat) (reader : Option Nat) (outs : List GranuleOutcome)
  | granuleWrite (isH : Bool) (pa chase : Nat) (data : Bytes) (strobe : List Bool) (spoiled : Bool) (outs : List GranuleOutcome)
  | retrainDone (isH : Bool) (chan : Nat) (ok : Bool)
  | softPpr (isH : Bool) (row : Nat) (spare : Bool)
  | patrolRead (isH : Bool) (outs : List GranuleOutcome)
  | granuleJoin (chase : Nat) (isH : Bool) (g : Nat)
  | moveComplete (chase objId : Nat)
  | windowFill (chase objId block : Nat)
  -- faults, domains and wear (chapter 14)
  | faultDetect (f : FaultInfo)
  | captureDone (domain : Nat)
  | pullDrainDone (domain : Nat)
  | resetLineAssert (domain : Nat)
  | domainResetComplete (domain : Nat)
  | firingWd (tile fu : Nat)
  | progress (req : Nat)
  | commandWd (kind n : Nat)
  | packageReset (code domain : Nat)
  | wearSample (phys delay : Nat)
  | phaseRetire (rail phase charge : Nat) (uneven : Bool)
  -- torus and jobs (chapter 13)
  | discoveryMsg (port : Nat) (m : DiscoveryMsg)
  | linkFrame (port : Nat) (frame : Option Bytes) (side : List (Bool × Bool))
  | frameNak (port seq : Nat)
  | laneSpareRetrain (port lane : Nat) (ok : Bool)
  | linkRekey (port : Nat)
  | rekeyMsg (port : Nat) (nonce eph sig : Bytes)
  | syncMsg (port leader hops t1 t2 t3 : Nat)
  | lossOfSignal (port : Nat)
  | joinMsg (port : Nat) (m : JoinMsg)
  | joinTimeout (jobId : Nat)
  | fenceMsg (port jobId step coord cause : Nat)
  | rejoinMsg (port jobId step epoch : Nat)
  | rejoinAck (port jobId device detail : Nat)
  -- input power, lands, clocks, pace and thermal (chapters 9, 15 and 18)
  | vinRise
  | vinUnder
  | vinOver
  | epoN
  | thermTripN
  | thermTripRelease (hottest : Nat)
  | resetN
  | pwrAlertN
  | alertRelease
  | refclkLoss (clk : Nat)
  | refclkReturn (clk : Nat)
  | tempSample (sensors : List Nat)
  | thermalFloorEnd
  | curBinUpdate (railsMv : List Nat)
  | tiFall
  | railsSettled (railsMv : List Nat)
  | limiter (p : PowerSample)
  | limiterHandback (watts : Nat)
  | throttleStep (watts : Nat)
  | holdEnd (watts : Nat)
  | overdriveEval (watts : Nat)
  | senseCheck (pair remoteMv localMv : Nat)
  | laneShort (kind port lane : Nat)
  -- start-up, firmware, SPDM and test access (chapters 12 and 16)
  | aonCheck (romFail : Nat)
  | bootStatus
  | bootConfig (c : BootConfig)
  | fwChunk (offset : Nat) (data : Bytes)
  | bootDatagram (frame : Bytes)
  | fwDeliveryTimeout
  | fwVerifyDone
  | bringUpDone (r : BringUpResult)
  | rollbackBlow
  | claimWindow (seconds : Nat)
  | claimWindowExpiry
  | getVersion
  | getCapabilities
  | negotiateAlgorithms
  | getDigests
  | getCertificate (slot offset len : Nat)
  | challenge (slot : Nat) (nonce : Bytes)
  | getMeasurements (index : Nat) (nonce : Bytes)
  | unsupportedRequest (code : Nat)
  | scanDone (chase : Nat)
  | udsDestroyed
  | ownerFusesBlown
  | torusPortTrained (port : Nat) (failed : List Nat)
  | inputPowerLoss
  | epoNRelease
  | inputOorChange (vin : Nat)
  | jtagInstruction (code : Nat)
  deriving DecidableEq, Repr

end Sys2Proof
end

