-- ==== Sys2Proof/Decode.lean ====
section
/-! DEFINITION. The command that a word spells by the table's bits. No row of the opcode table gives bits: the Z9 is
a block that takes commands and events, so no word spells one. -/

namespace Sys2Proof

/-- The command a word spells: none, since no row of the table has an encoding. -/
def decodeTableWord (_nbits _w : Nat) : Option Instr := none

end Sys2Proof
end

