-- ==== Sys2Proof/Config.lean ====
section
/-! DEFINITION. What the specification leaves open, or takes from an engine or a published algorithm outside its
rules: constants and functions without a body, so that no proof can see a value of theirs. -/

namespace Sys2Proof.Config

/-- FREE VALUE (log 3): the number that draw n of the model takes where the specification leaves a choice open. -/
opaque freeNat : Nat → Nat
/-- FREE VALUE (log 3): draw n of the true random number generator of the security processor (R57), n bytes long. -/
opaque randomBytes : Nat → Nat → Bytes
/-- FREE VALUE (log 4): how many units in the last place the FP32 result of a transcendental function (its opcode in
R119) of an FP32 operand lies from the nearest code, counted away from zero; it applies where the bound of R122 allows
it. -/
opaque transc : Nat → BitVec 32 → Int
/-- FREE VALUE (log 5): the E8M0 code of a conversion that R96 does not list, by source format and code. -/
opaque cvtUnlisted : Nat → Nat → Nat
/-- A signature with a private key over a digest, 96 bytes (R190, R367, R430): ECDSA draws a fresh number for each, and
the rules do not say how (log 45). -/
opaque sign : Bytes → Bytes → Bytes
/-- FREE VALUE (log 18): the chase seed, from the device identity key, the chase number and the creation count; R397 does
not give the derivation. -/
opaque chaseSeed : Bytes → Nat → Nat → Nat
/-- The UDS of the part, fused by Vogomel (R422). -/
opaque uds : Bytes
/-- The public key of vendor credential n, whose digest stands in the mask ROM (R412). -/
opaque vndKey : Nat → Bytes
/-- The certificate of the Vogomel root, as GET_CERTIFICATE returns it (R435). -/
opaque certChain : Bytes
/-- The contents of the security processor's mask ROM, whose SHA-384 is ROM_DIGEST (R430). -/
opaque maskRom : Bytes
/-- FREE VALUE (log 6): the time in ns that moves this device's timebase at a SYNC (R457) beyond what the rule
states. -/
opaque slew : Nat → Nat

/-- FREE VALUE (log 71): the slots that a GUARANTEED chase borrows on a wheel (0 to 3 tier H of a die, 4 tier B) in the
interval that ends at a timebase (R402); when a transfer takes a slot is left out with the wheels' motion. -/
opaque borrowed : Nat → Nat → Nat → Nat

/-- The pseudo-channel (0 to 31) of its stack that serves a tier H granule, by PA / 64: the controller's fixed map,
which R232 does not give (log 14). -/
opaque pseudoChannel : Nat → Nat

/-- FREE VALUE (log 19): e^(-a / b) in units of 2^-32, as power management computes it for TJ_PRED (R523); the rule
gives no precision. -/
opaque expDecay : Nat → Nat → Nat

/-- FREE VALUE (log 33): the credits that the sender of a remote edge (tile, ROUTE, destination tile and port) holds
at first; R185 does not say how they are set. -/
opaque remoteDepth : Nat → Nat → Nat → Nat

/-- FREE VALUE (log 39): t_hold of a forme in ps, from the injection of a chunk's handle to the release of its slot;
R279 leaves it to the forme and the image does not declare it. -/
opaque tHold : Nat → Nat

/-- The row (within its channel) that holds a granule, by tier (1 H, 2 B) and PA / 64: the controllers' fixed maps,
which R232 and R237 do not give (log 14). -/
opaque dramRow : Nat → Nat → Nat

/-- FREE VALUE (log 83): FMT of a CASE or MT handle whose data no operation of its chain produced, by its SRCARG; R157
names the producing operation only. -/
opaque handleFmt : Nat → Nat

/-- FREE VALUE (log 88): the power of the primitive element at which the roots of the side-band code's generator begin;
R240 does not give it. -/
opaque rsFirst : Nat

/-- FREE VALUE (log 14): the bank of its channel that holds a granule's row, by tier (1 H, 2 B) and PA / 64. -/
opaque dramBank : Nat → Nat → Nat

end Sys2Proof.Config
end

