-- ==== Sys2Proof/Machine/State.lean ====
section
/-! DEFINITION. The state of the Z9 as plain data. Every field's docstring gives, in this order: its width, the
rules of the specification that name it, its value at reset ('-' where the record exists only once something has
created it), and what it is. -/

namespace Sys2Proof.Machine

/-! ### Sessions and messages (chapter 10) -/

/-- A reply that has left the device (R363, R364, R374). -/
structure Reply where
  /-- [2] R360 | - | the logical port it leaves by -/
  ep : Nat
  /-- [6] R360 | - | DSCP of the request -/
  dscp : Nat
  /-- [32] R363 | - | SESSION of the header -/
  session : Nat
  /-- [16] R363 | - | OPCODE, repeated from the command -/
  opcode : Nat
  /-- [32] R363 | - | REQUEST_ID, repeated from the command -/
  reqId : Nat
  /-- [8] R391 | - | STATUS -/
  status : Nat
  /-- [16] R392 | - | DETAIL -/
  detail : Nat
  /-- [14] R364 | - | reply flags: bit 0 SPOILED, bit 1 DEADLINE_MISSED, bit 2 FALLBACK_USED -/
  flags : Nat
  /-- [32] R374 | - | RETRY_AFTER in µs -/
  retryAfter : Nat
  /-- [8] R374, R320 | - | STOP_REASON -/
  stopReason : Nat
  /-- [64] R374 | - | TIMESTAMP, rounded for the role -/
  timestamp : Nat
  /-- [bytes] R374 | - | the body after the 16-byte prefix -/
  body : Bytes
  deriving DecidableEq, Repr, Inhabited

/-- An answer of the I3C target, or of the ROM's UDP responder (R435, R536, R539). -/
structure SideReply where
  /-- [name] R536, R435 | - | the message answered -/
  msg : String
  /-- [1] R536 | - | accepted or rejected -/
  accepted : Bool
  /-- [bytes] R536, R435 | - | the answer's content -/
  body : Bytes
  deriving DecidableEq, Repr, Inhabited

/-- A session (R366 to R369, R413). -/
structure Session where
  /-- [1] R366 | - | true once PROVE has made it OPEN; false while PENDING -/
  isOpen : Bool
  /-- [role] R366 | - | ROLE named in HELLO -/
  role : Role
  /-- [8] R366 | - | CHASE named in HELLO; 255 for a role other than TEN -/
  chase : Nat
  /-- [64] R412 | - | CRED_ID named in HELLO -/
  credId : Nat
  /-- [1] R413 | - | opened with CRED_ID 0 and not yet claimed -/
  provisional : Bool
  /-- [96 B] R413 | - | the CRED_SIG kept from a PROVE with CRED_ID 0 -/
  keptSig : Option Bytes
  /-- [384] R367, R368 | - | TH, the digest of the session's transcript -/
  th : Bytes
  /-- [256] R367 | - | K_HD in the session engine; none once zeroised -/
  keyHD : Option Bytes
  /-- [256] R367 | - | K_DH in the session engine; none once zeroised -/
  keyDH : Option Bytes
  /-- [64] R366 | - | timebase of HELLO -/
  helloNs : Nat
  /-- [64] R369 | - | timebase of the latest authenticated packet -/
  lastNs : Nat
  /-- [64] R365 | - | highest accepted SEQUENCE -/
  rxHigh : Nat
  /-- [1024] R365 | - | sequence numbers accepted within the replay window -/
  rxSeen : List Nat
  /-- [64] R365 | - | next SEQUENCE the device sends -/
  txSeq : Nat
  /-- [port] R360 | - | logical port of the latest authenticated packet -/
  ep : Nat
  /-- [addr] R360, R369 | - | reply address -/
  src : SrcAddr
  /-- [17, 2] R377 | - | entry device and its logical port, of a relayed session; none when not relayed -/
  relayEntry : Option (Nat × Nat)
  deriving DecidableEq, Repr, Inhabited

/-- A message under reassembly (R370). -/
structure Reasm where
  /-- [32] R370 | - | SESSION -/
  session : Nat
  /-- [16] R370 | - | OPCODE -/
  opcode : Nat
  /-- [32] R370 | - | REQUEST_ID -/
  reqId : Nat
  /-- [port] R360 | - | port of the first packet -/
  ep : Nat
  /-- [64] R370 | - | timebase of the first packet -/
  firstNs : Nat
  /-- [6] R407 | - | DSCP of the first packet -/
  dscp : Nat
  /-- [addr] R360 | - | source of the first packet -/
  src : SrcAddr
  /-- [17, 2] R377 | - | entry device and port, of a relayed packet -/
  entry : Option (Nat × Nat)
  /-- [bytes] R370 | - | payloads by FRAG -/
  parts : KMap Bytes
  /-- [16] R370 | - | FRAG of the packet with MORE 0, once it has arrived -/
  last : Option Nat
  deriving DecidableEq, Repr, Inhabited

/-- A command descriptor in a doorbell queue (R45, R47). -/
structure Descriptor where
  /-- [32] R45 | - | SESSION -/
  session : Nat
  /-- [16] R45 | - | OPCODE -/
  opcode : Nat
  /-- [32] R45 | - | REQUEST_ID -/
  reqId : Nat
  /-- [6] R407 | - | DSCP of the first packet -/
  dscp : Nat
  /-- [addr] R360 | - | source of the first packet -/
  src : SrcAddr
  /-- [17, 2] R377 | - | entry device and port, of a relayed packet -/
  entry : Option (Nat × Nat)
  /-- [64] R355 | - | first-byte stamp of the port -/
  firstNs : Nat
  /-- [64] R478 | - | timebase at which it was written -/
  writtenNs : Nat
  /-- [bytes] R45 | - | command parameters; payload by reference into hub SRAM -/
  body : Bytes
  deriving DecidableEq, Repr, Inhabited

/-- A live command: accepted or answered in part, with its final reply still to come (R371, R375). -/
structure LiveCmd where
  /-- [32] R371 | - | SESSION -/
  session : Nat
  /-- [32] R371 | - | REQUEST_ID -/
  reqId : Nat
  /-- [16] R371 | - | OPCODE -/
  opcode : Nat
  /-- [port] R360 | - | port the reply leaves by -/
  ep : Nat
  /-- [8] R52 | - | chase whose fence ends it; 255 for none -/
  chase : Nat
  /-- [1] R371 | - | a request (SCORE, GENERATE, FILE_SUBMIT, JOB_STEP), not counted in the 1,024 -/
  isRequest : Bool
  /-- [reply] R371 | - | latest reply sent, re-sent to a retransmission -/
  latest : Option Reply
  /-- [6] R360 | - | DSCP of the request -/
  dscp : Nat
  deriving DecidableEq, Repr, Inhabited

/-- A final reply kept for 1 s (R371). -/
structure Final where
  /-- [64] R371 | - | timebase at which it was sent -/
  ns : Nat
  /-- [reply] R371 | - | the reply -/
  reply : Reply
  /-- [64 each] R371, R389 | - | of a command of many chunks: the OFFSETs that its chunks had -/
  offsets : List Nat
  deriving DecidableEq, Repr, Inhabited

/-- A credential (R412). VND digests stand in the mask ROM and OWN in fuses; these are the others. -/
structure Cred where
  /-- [role] R412 | - | role -/
  role : Role
  /-- [8] R412 | - | chase for TEN, 255 otherwise -/
  chase : Nat
  /-- [64] R412 | - | CRED_ID -/
  credId : Nat
  /-- [776] R412 | - | P-384 public key -/
  pub : Bytes
  deriving DecidableEq, Repr, Inhabited

/-- A logical port EP_n (R357, R359, PORT_EP_n of R549). -/
structure HostPort where
  /-- [1] R359 | 0 | link trained and up -/
  linkUp : Bool
  /-- [2] R359 | 0 | mode in effect: 0 DISABLED, 1 ASKEST, 2 INTAKE -/
  mode : Nat
  /-- [1] R357 | 0 | the physical port is split -/
  split : Bool
  /-- [1] R513 | 0 | LANE_FAULT -/
  laneFault : Bool
  /-- [1] R361 | 0 | MACSEC_UP: MKA has a live SAK -/
  macsecUp : Bool
  /-- [256] R428 | none | CAK in the MACsec engine -/
  cak : Option Bytes
  /-- [256] R361, R423 | none | SAK loaded by MKA, with its salt and short SCIs -/
  sak : Option Sak
  /-- [64] R361 | 1 | next packet number expected under the SAK; the replay window lies below it -/
  rxPn : Nat
  /-- [64] R361 | 1 | next packet number sent under the SAK -/
  txPn : Nat
  /-- [1] R359 | 0 | the link is retraining -/
  retraining : Bool
  /-- [48] R357 | fused, DESIGN CHOICE 0 (log 12) | MAC address -/
  mac : Nat
  /-- [4 x 32] R549 PORT_DROP | 0 | drop counters j = 0 to 3 -/
  drops : List Nat
  /-- [frames] R360 | empty | ARP and Neighbor Discovery answers sent, by the address answered for -/
  answers : List Nat
  /-- [packets] R481 | empty | reply packets held while the port is in reset -/
  held : List Reply
  /-- [packets] R377 | empty | replies of relayed sessions sent for other devices: the device and its IP packet -/
  relayed : List (Nat × Bytes)
  deriving DecidableEq, Repr, Inhabited

/-- A flow record (R380) with the state of its handling (R381, R382). -/
structure FlowRec where
  /-- [64] R380 | - | FLOW_ID, the key hash -/
  flowId : Nat
  /-- [8] R380 | 0 | STATE: 0 FREE, 1 OPEN, 2 COMPLETE, 3 SCORED, 4 FAILED -/
  state : Nat
  /-- [8] R380 | - | CAUSE -/
  cause : Nat
  /-- [frame] R380 | - | the key fields of the flow's first packet: PROTO, KFLAGS, VLAN, VNI, ports, addresses -/
  key : IntakeFrame
  /-- [64] R380 | - | FIRST_NS -/
  firstNs : Nat
  /-- [64] R380 | - | LAST_NS -/
  lastNs : Nat
  /-- [32] R380 | - | PKTS_FWD, saturating -/
  pktsFwd : Nat
  /-- [32] R380 | - | PKTS_REV, saturating -/
  pktsRev : Nat
  /-- [32] R380 | - | BYTES_FWD, saturating -/
  bytesFwd : Nat
  /-- [32] R380 | - | BYTES_REV, saturating -/
  bytesRev : Nat
  /-- [8] R380 | - | TCPF_FWD -/
  tcpFwd : Nat
  /-- [8] R380 | - | TCPF_REV -/
  tcpRev : Nat
  /-- [32 x 16] R380 | - | SIZES -/
  sizes : List Nat
  /-- [32 x 16] R380 | - | GAPS -/
  gaps : List Nat
  /-- [CAPTURE] R380 | - | forward payload captured -/
  capFwd : Bytes
  /-- [CAPTURE] R380 | - | reverse payload captured -/
  capRev : Bytes
  /-- [1] R380 | - | KFLAGS bit 4: payload truncated at CAPTURE -/
  truncated : Bool
  /-- [128] R380 | - | RESULT -/
  result : Bytes
  /-- [64] R382 | - | timebase from which a refused SCORE may be retried; none when not refused -/
  retryAt : Option Nat
  /-- [32] R382 | - | request number of the internal SCORE, 0 for none -/
  req : Nat
  deriving DecidableEq, Repr, Inhabited

/-- The flow intake (R378 to R382). -/
structure Intake where
  /-- [body] R379 | none | the INTAKE_SET in force -/
  cfg : Option IntakeCfg
  /-- [records] R379, R380 | empty | records by index that are not FREE -/
  recs : KMap FlowRec
  /-- [queue] R382 | empty | COMPLETE records in completion order whose SCORE has not been issued -/
  ready : List Nat
  /-- [32, 32] R382 | none | session and REQUEST_ID of the notification subscription -/
  notifyTo : Option (Nat × Nat)
  /-- [64, 32 B each] R382 | empty | entries of finished records not yet reported, with the timebase of each -/
  unreported : List (Nat × Bytes)
  /-- [64] R382 | 0 | timebase of the first record still unreported -/
  unreportedNs : Nat
  /-- [32] R382 | 0 | internal request ids issued -/
  nextReq : Nat
  deriving DecidableEq, Repr, Inhabited

/-! ### Formes and images (chapter 5) -/

/-- A firing-unit entry (R148, R197). -/
structure UnitCfg where
  /-- [1] R197 | 0 | EN -/
  en : Bool
  /-- [4] R148 | 0 | FUNC -/
  func : Nat
  /-- [2] R148 | 0 | NIN, number of inputs minus one -/
  nin : Nat
  /-- [4 x 6] R148 | 0 | IN_A to IN_D -/
  ins : List Nat
  /-- [12] R148 | 0 | SLOT_FIRST -/
  slotFirst : Nat
  /-- [8] R148 | 0 | SLOT_COUNT -/
  slotCount : Nat
  /-- [2] R148 | 0 | TAGX -/
  tagx : Nat
  /-- [3] R148 | 0 | TAGN -/
  tagn : Nat
  /-- [1] R148 | 0 | HEN -/
  hen : Bool
  /-- [3] R148 | 0 | HGEN -/
  hgen : Nat
  /-- [2] R148 | 0 | HIN -/
  hin : Nat
  /-- [4] R148 | 0 | NEMIT -/
  nemit : Nat
  /-- [8] R148 | 0 | EMIT_FIRST -/
  emitFirst : Nat
  deriving DecidableEq, Repr, Inhabited

/-- An emit entry (R150, R198). -/
structure EmitCfg where
  /-- [1] R150 | 0 | DREMOTE -/
  dremote : Bool
  /-- [8] R150 | 0 | DROUTE -/
  droute : Nat
  /-- [11] R150 | 0 | DTILE -/
  dtile : Nat
  /-- [6] R150 | 0 | DPORT -/
  dport : Nat
  /-- [4] R150 | 0 | SRC -/
  src : Nat
  /-- [33] R150 | 0 | SRCARG -/
  srcarg : Nat
  /-- [2] R150 | 0 | ARM -/
  arm : Nat
  deriving DecidableEq, Repr, Inhabited

/-- A generator descriptor (R136). The four dimensions stand innermost first. -/
structure GenCfg where
  /-- [5] R136 | 0 | INDEX_REG -/
  indexReg : Nat
  /-- [32] R136 | 0 | PAD -/
  pad : Nat
  /-- [4 x 24] R136 | 0 | STRIDE_0 to STRIDE_3, signed -/
  stride : List Int
  /-- [4 x 16] R136 | 0 | VALID_0 to VALID_3 -/
  valid : List Nat
  /-- [4 x 16] R136 | 0 | EXT_0 to EXT_3 -/
  ext : List Nat
  /-- [1] R136 | 0 | MODE, 1 indexed -/
  indexed : Bool
  /-- [4] R136 | 0 | FORMAT -/
  format : Nat
  /-- [20] R136 | 0 | LIMIT_HI -/
  limitHi : Nat
  /-- [19] R136 | 0 | LIMIT_LO -/
  limitLo : Nat
  /-- [19] R136 | 0 | BASE -/
  base : Nat
  deriving DecidableEq, Repr, Inhabited

/-- A tile image (R194), as the configuration latches hold it. -/
structure TileCfg where
  /-- [11] R195 | 0 | TCOORD -/
  tcoord : Nat
  /-- [32] R195 | 0 | PRELOAD_ADDR -/
  preloadAddr : Nat
  /-- [32] R195 | 0 | PRELOAD_LEN -/
  preloadLen : Nat
  /-- [4096 x 64] R196 | empty | operation slots that are not empty -/
  slots : KMap DWord
  /-- [32 x 128] R197 | empty | firing units -/
  units : KMap UnitCfg
  /-- [256 x 128] R198 | empty | emit table -/
  emits : KMap EmitCfg
  /-- [8 x 384] R136 | empty | generators in use -/
  gens : KMap GenCfg
  /-- [8192 bytes] R194 | 0 | preload data -/
  preload : Bytes
  /-- [1] R207 0x0401 | - | every reserved bit and byte of the tile image is zero -/
  reservedOk : Bool
  deriving DecidableEq, Repr, Inhabited

/-- A queue entry of the queue table (R199). -/
structure QueueCfg where
  /-- [1] R199 | - | ENTRY -/
  entry : Bool
  /-- [14] R199 | - | SLOTSZ -/
  slotsz : Nat
  /-- [19] R199 | - | REGION -/
  region : Nat
  /-- [1] R199 | - | LOC -/
  loc : Bool
  /-- [11] R199 | - | DEPTH -/
  depth : Nat
  /-- [11] R199 | - | TILE -/
  tile : Nat
  /-- [6] R199 | - | PORT -/
  port : Nat
  deriving DecidableEq, Repr, Inhabited

/-- A pair record (R200). -/
structure PairCfg where
  /-- [11] R200 | - | JOIN_TILE -/
  tile : Nat
  /-- [5] R200 | - | JOIN_FU -/
  fu : Nat
  /-- [32] R200 | - | L_LONG -/
  lLong : Nat
  /-- [32] R200 | - | L_SHORT -/
  lShort : Nat
  /-- [16] R200 | - | R_NUM -/
  rNum : Nat
  /-- [16] R200 | - | R_DEN -/
  rDen : Nat
  /-- [12 x 16] R200 | - | the NQ queue numbers -/
  qs : List Nat
  deriving DecidableEq, Repr, Inhabited

/-- A tensor descriptor (R202), with the galley fields of R266 when TIER is S. -/
structure TensorCfg where
  /-- [12] R202 | - | TID -/
  tid : Nat
  /-- [12] R202 | - | SCALE_TID -/
  scaleTid : Nat
  /-- [1] R202 | - | MX -/
  mx : Bool
  /-- [1] R202 | - | RW -/
  rw : Bool
  /-- [2] R202 | - | TIER: 0 S, 1 H, 2 B -/
  tier : Nat
  /-- [4] R202 | - | FOLD_C -/
  foldC : Nat
  /-- [4] R202 | - | FOLD_R -/
  foldR : Nat
  /-- [4] R202 | - | FORMAT -/
  format : Nat
  /-- [32] R202 | - | PAD -/
  pad : Nat
  /-- [4 x 32] R202 | - | STRIDE_0 to STRIDE_3, signed -/
  stride : List Int
  /-- [4 x 24] R202 | - | EXT_0 to EXT_3 -/
  ext : List Nat
  /-- [40] R202, R266 | - | OFFSET -/
  offset : Nat
  /-- [64] R202, R266 | - | OBJ_ID -/
  objId : Nat
  deriving DecidableEq, Repr, Inhabited

/-- The parts of a forme image that the device keeps (R191, R192, R199 to R202, R208). -/
structure FormeBody where
  /-- [8] R191 | - | COMPAT: true for ZW-5 mode -/
  zw5 : Bool
  /-- [8] R191 | - | REDUCE_MODE: true for GATHER -/
  gather : Bool
  /-- [64] R191 | - | FORME_ID -/
  formeId : Nat
  /-- [32] R191 | - | FORME_VERSION -/
  version : Nat
  /-- [32] R191 | - | KEY_ID -/
  keyId : Nat
  /-- [64] R191 | - | FALLBACK_ID -/
  fallbackId : Nat
  /-- [32] R191 | - | DEPTH -/
  depth : Nat
  /-- [32] R191 | - | QSLACK -/
  qslack : Nat
  /-- [64] R191 | - | BYTES_STREAMED -/
  bytesStreamed : Nat
  /-- [32] R191 | - | PAGE_MAP -/
  pageMap : Nat
  /-- [8] R191 | - | FORME_CLASS -/
  cls : Nat
  /-- [1] R191 | - | FLAGS bit 0, CYCLIC -/
  cyclic : Bool
  /-- [64] R191 | - | MAX_INPUT_BYTES -/
  maxInput : Nat
  /-- [32] R191 | - | MAX_OUTPUT_TOKENS -/
  maxOutput : Nat
  /-- [16] R199 | - | GUARD_LIMIT -/
  guardLimit : Nat
  /-- [tiles] R192, R194 | - | tile images of the present tile pairs, by virtual coordinate -/
  tiles : KMap TileCfg
  /-- [queues] R199 | - | queue entries, in order of number -/
  queues : List QueueCfg
  /-- [pairs] R200 | - | pair records -/
  pairs : List PairCfg
  /-- [tensors] R202 | - | tensor descriptors, in order of TID -/
  tensors : List TensorCfg
  /-- [256 x 32] R201 | - | route table words -/
  routes : List Nat
  /-- [4 x bytes] R208 | - | bytes of forme store the image takes on each die -/
  storeBytes : List Nat
  /-- [64] R191 | - | TOOL_VERSION -/
  toolVersion : Nat
  deriving DecidableEq, Repr, Inhabited

/-- The state of an image in a forme store (R209). -/
inductive ImageState where
  | checking | resident | inService
  deriving DecidableEq, Repr, Inhabited

/-- An image in the forme stores (R208, R209). -/
structure Image where
  /-- [64] R191 | - | FORME_ID -/
  formeId : Nat
  /-- [state] R209 | - | CHECKING, RESIDENT or IN_SERVICE -/
  state : ImageState
  /-- [image] R208 | - | the image in plaintext -/
  body : FormeBody
  /-- [384] R432 | - | FORME_DIGEST -/
  digest : Bytes
  /-- [1] R50 | - | locked by a load in progress -/
  locked : Bool
  deriving DecidableEq, Repr, Inhabited

/-- A FORME_LOAD receiving chunks, or an image that waits for or runs through the checks (R206, R210, R386). -/
structure Stage where
  /-- [32] R386 | - | session of the command -/
  session : Nat
  /-- [32] R386 | - | REQUEST_ID -/
  reqId : Nat
  /-- [16] R386 | - | opcode: FORME_LOAD or FORME_STAGE -/
  opcode : Nat
  /-- [5] R386 | - | chase -/
  chase : Nat
  /-- [64] R386 | - | TOTAL, the image length -/
  total : Nat
  /-- [bytes] R386 | - | chunks received, by OFFSET -/
  parts : KMap Bytes
  /-- [64] R389 | - | timebase of the latest chunk -/
  lastNs : Nat
  /-- [64] R210 | - | source object of FORME_STAGE, 0 for FORME_LOAD -/
  objId : Nat
  /-- [1] R386 | - | every byte has arrived: the image waits for the engines or is in them -/
  ready : Bool
  /-- [64] R210 | - | timebase at which the checks began; none while it waits -/
  begun : Option Nat
  deriving DecidableEq, Repr, Inhabited
/-! ### Tokens and tile pairs (chapters 3 and 4) -/

/-- A token (R142, R143): the header's fields but HCRC, and the payload word. -/
structure Token where
  /-- [4] R142 | - | KIND -/
  kind : Nat
  /-- [16] R142 | - | TAG -/
  tag : Nat
  /-- [4] R142 | - | IMP -/
  imp : Nat
  /-- [1] R142 | - | PRED -/
  pred : Bool
  /-- [1] R142 | - | SPOIL -/
  spoil : Bool
  /-- [1] R142 | - | REMOTE -/
  remote : Bool
  /-- [8] R142 | - | ROUTE -/
  route : Nat
  /-- [11] R142 | - | TILE -/
  tile : Nat
  /-- [6] R142 | - | PORT -/
  port : Nat
  /-- [4] R142 | - | FMT -/
  fmt : Nat
  /-- [64] R142 | - | payload word -/
  payload : DWord
  deriving DecidableEq, Repr, Inhabited

/-- A token that stands in an input queue or a matching store, with the landing slot it occupies (R169). -/
structure QTok where
  /-- [128] R142 | - | the token -/
  tok : Token
  /-- [10] R169 | none | landing slot of a handle from another tile pair -/
  landing : Option Nat
  /-- [1] R169 | - | its granules have landed -/
  landed : Bool
  /-- [12] R270 | none | TID of the galley whose slot the handle names -/
  galley : Option Nat
  /-- [6] R272 | 0 | galley slot the handle names -/
  gslot : Nat
  /-- [sender] R185 | none | for a token that came over a long gutter, the sender's device, tile and unit -/
  remote : Option (Nat × Nat × Nat)
  deriving DecidableEq, Repr, Inhabited

/-- The queue of one input port (R165 to R169). -/
structure PortQ where
  /-- [DEPTH] R168 | empty | tokens in arrival order -/
  toks : List QTok
  /-- [11] R167 | 0 | credits on their way back on the side-band -/
  returning : Nat
  /-- [10] R169 | 0 | handles that have reached the port, modulo DEPTH: the next landing slot -/
  nextLand : Nat
  /-- [DEPTH] R169 | empty | landing slots not yet released; each holds its credit -/
  landBusy : List Nat
  deriving DecidableEq, Repr, Inhabited

/-- One entry of a matching store (R153 to R156). -/
structure MatchEntry where
  /-- [16] R153, R155 | - | matching key -/
  key : Nat
  /-- [4 tokens] R153 | none | the tokens held on inputs A to D -/
  ins : List (Option QTok)
  /-- [7] R155 | 0 | CONTRACT: firings of the key so far -/
  count : Nat
  /-- [order] R154 | none | order in which the entry became ready -/
  ready : Option Nat
  deriving DecidableEq, Repr, Inhabited

/-- A scalar result of a chain (R150, R157). `live` is false when the EXTR's position was masked. -/
structure Scalar where
  /-- [64] R150 | - | payload word -/
  payload : DWord
  /-- [4] R157 | - | format of the producing operation -/
  fmt : Nat
  /-- [1] R157 | - | spoiled -/
  spoil : Bool
  /-- [1] R129 | - | false for a void result -/
  live : Bool
  deriving DecidableEq, Repr, Inhabited

/-- A firing in progress (R154, R155, R159). -/
structure Firing where
  /-- [1] R159 | - | false for a void firing -/
  live : Bool
  /-- [4 tokens] R154 | - | the tokens it matched, on inputs A to D -/
  ins : List (Option QTok)
  /-- [16] R155 | - | tag of the matched entry -/
  tag : Nat
  /-- [8] R154 | 0 | slots of the chain already completed -/
  pc : Nat
  /-- [8 results] R150 | empty | scalar results in slot order -/
  scalars : List Scalar
  /-- [16] R154 | 0 | emissions already sent, counted over entries and copies -/
  emitted : Nat
  /-- [1] R155 | - | false for a CONTRACT firing that emits nothing -/
  emits : Bool
  /-- [64] R476 | - | timebase at which the firing began -/
  beganNs : Nat
  /-- [17] R164 | 0 | LOOP: tokens to emit in all -/
  loopN : Nat
  /-- [order] R104, R114 | none | acquisition number of the registers of the slot at `pc`, which it holds until its last
  result is written; none while it waits for them -/
  held : Option Nat
  deriving DecidableEq, Repr, Inhabited

/-- The run-time state of a firing unit (R152 to R156, R218). -/
structure FuState where
  /-- [64 entries] R147 | empty | matching store, oldest entry first -/
  store : List MatchEntry
  /-- [order] R154 | 0 | next readiness number -/
  nextReady : Nat
  /-- [firing] R154 | none | the firing in progress -/
  firing : Option Firing
  /-- [4] R218 | empty | inputs from which a LOCKUP token has been taken -/
  lockups : List Nat
  /-- [64] R217 | 0 | payload of the LOCKUP token taken -/
  lockPayload : DWord
  /-- [1] R218 | false | LOCKUP tokens have been emitted onward -/
  passed : Bool
  /-- [2] R182 | 0 | round-robin pointer of MERGE's arbiter -/
  mergePtr : Nat
  /-- [2] R181, R182 | 0 | round-robin pointer of the arbiter that allocates store entries to the inputs -/
  storePtr : Nat
  /-- [64] R179 | 0 | guard timer: nanoseconds it has run at each pace, by picoseconds a firing -/
  guard : KMap Nat
  /-- [1] R180 | false | the misregistration in progress has been recorded -/
  recorded : Bool
  deriving DecidableEq, Repr, Inhabited

/-- An element of an accumulator set, or a gather accumulator (R81, R117). -/
structure AccElem where
  /-- [51] R81 | 0 | wide accumulator -/
  val : BitVec 51
  /-- [5] R117 | 0 | element flags -/
  flags : BitVec 5
  /-- [1] R117 | 0 | spoiled -/
  spoil : Bool
  deriving DecidableEq, Repr, Inhabited

/-- The state of a galley slot (R272). -/
inductive SlotState where
  | empty | filling | ready | taken | released
  deriving DecidableEq, Repr, Inhabited

/-- A galley ring of a tile (R266 to R275, R280 to R282). -/
structure Galley where
  /-- [NSLOT x 3] R272 | EMPTY | slot states -/
  slots : List SlotState
  /-- [6] R272 | 0 | HEAD -/
  head : Nat
  /-- [6] R272 | 0 | TAIL -/
  tail : Nat
  /-- [40] R269 | 0 | next chunk of the pass's stream to fill -/
  chunk : Nat
  /-- [40] R273 | 0 | next chunk whose handle may be injected -/
  inject : Nat
  /-- [16] R271 | 0 | tokens injected in the present pass -/
  injected : Nat
  /-- [32] R270 | none | the request whose pass the galley injects or drains -/
  pass : Option Nat
  /-- [1] R271 | false | the last token of the pass has been injected -/
  passDone : Bool
  /-- [slot bytes] R281 | empty | outbound: bytes appended to the staging slot at HEAD -/
  staged : List (Byte × Bool)
  /-- [40] R281 | 0 | outbound: bytes of the pass appended so far -/
  appended : Nat
  /-- [8] R280 | 0 | outbound: packing in progress of 4- or 6-bit elements: element width, 0 for none -/
  packW : Nat
  /-- [4 elements] R280 | empty | outbound: elements of the incomplete byte or group -/
  pack : List (Nat × Bool)
  /-- [bytes] R281 | empty | outbound: bytes of the token taken last that wait for a free staging slot -/
  rest : List (Byte × Bool)
  /-- [slots] R281 | empty | outbound: full or final slots waiting to be written: start offset and bytes -/
  full : List (Nat × List (Byte × Bool))
  /-- [1] R282 | false | outbound: the drain has taken a LOCKUP token -/
  lockup : Bool
  /-- [1] R290 | false | outbound: a byte of the pass's output was spoiled -/
  spoil : Bool
  deriving DecidableEq, Repr, Inhabited

/-- A tile pair at its virtual coordinate (R99, R133, R215). -/
structure Tile where
  /-- [48 KiB] R194, R215 | none | active configuration latches; none for an inactive tile -/
  active : Option TileCfg
  /-- [48 KiB] R215 | none | shadow configuration latches -/
  shadow : Option TileCfg
  /-- [4] R213, R219 | 0 | impression of the tile's units -/
  imp : Nat
  /-- [1] R219 | false | the preload of a switch is being written; the units fire nothing -/
  preloading : Bool
  /-- [1] R219 | false | the tile has switched in the running change in progress -/
  switched : Bool
  /-- [32 x 8192] R99 | 0 | case registers by number, 1,024 bytes each; one not listed is all zero -/
  cases : KMap Bytes
  /-- [32 x 16] R107 | 0 | spoil bits of case register rows: 16 x register + row, set ones listed -/
  caseSpoil : List Nat
  /-- [8 x 1024] R108 | 0 | mask registers, zero ones unlisted -/
  masks : KMap (BitVec 1024)
  /-- [2 x 2048] R99, R117 | 0 | accumulator sets by number, element 32 x row + column; one not listed is all zero -/
  accs : KMap (List AccElem)
  /-- [32] R99, R127 | 0 | gather accumulators -/
  gaccs : KMap AccElem
  /-- [512 x 5] R130 | 0 | flag slots F_0 onward; slots beyond the list are zero -/
  flags : List (BitVec 5)
  /-- [5] R130 | 0 | tile flag summary -/
  summary : BitVec 5
  /-- [512 KiB] R132 | 0 | SRAM bytes by MT address -/
  mt : List (Nat × BitVec 8)
  /-- [8192] R230 | 0 | spoil bits of MT granules, set ones listed -/
  mtSpoil : List Nat
  /-- [32 units] R147 | empty | firing units that are not idle and empty -/
  fus : KMap FuState
  /-- [64 ports] R165 | empty | input queues that are not empty and idle -/
  queues : KMap PortQ
  /-- [galleys] R266 | empty | galleys by TID -/
  galleys : KMap Galley
  /-- [17] R182 | 0 | round-robin pointers of the bank arbiters -/
  bankPtr : KMap Nat
  /-- [5] R105, R182 | 0 | round-robin pointer of the register arbiter: the unit granted last -/
  regPtr : Nat
  /-- [order] R114 | 0 | acquisitions of registers so far, which order the PMACs that want the lanes -/
  issued : Nat
  deriving DecidableEq, Repr, Inhabited

/-- A token or a granule run on its way through the network (R145, R168, R184). -/
structure Flight where
  /-- [unit] R168 | - | emitting tile, unit and entry, which fix the order -/
  src : Nat × Nat × Nat
  /-- [5] R395 | - | chase -/
  chase : Nat
  /-- [11] R142 | - | destination tile -/
  tile : Nat
  /-- [6] R142 | - | destination port -/
  port : Nat
  /-- [64] R142 | - | header as emitted, HCRC included -/
  header : DWord
  /-- [64] R142 | - | payload word -/
  payload : DWord
  /-- [granules] R145 | - | the granules that follow a handle -/
  granules : List Granule
  /-- [12, 6] R270 | none | galley TID and slot that a feeder's handle names -/
  galley : Option (Nat × Nat)
  /-- [sender] R185 | none | for a token that came over a long gutter, the sender's device, tile and unit -/
  fromRemote : Option (Nat × Nat × Nat)
  deriving DecidableEq, Repr, Inhabited

/-- A handle at its port whose granules are still to land (R169). -/
structure Landing where
  /-- [11] R169 | - | tile -/
  tile : Nat
  /-- [6] R169 | - | port -/
  port : Nat
  /-- [10] R169 | - | landing slot -/
  slot : Nat
  /-- [granules] R145 | - | the granules -/
  granules : List Granule
  deriving DecidableEq, Repr, Inhabited

/-- Credits of a remote edge that are due to its sender (R185). -/
structure RemoteCredit where
  /-- [5] R185 | - | chase -/
  chase : Nat
  /-- [17] R185 | - | sending device -/
  device : Nat
  /-- [11] R185 | - | sending tile -/
  tile : Nat
  /-- [5] R185 | - | sending unit, whose emit side PORT names -/
  fu : Nat
  /-- [16] R185 | - | credits due -/
  due : Nat
  /-- [64] R185 | - | timebase at which the oldest fell due -/
  oldestNs : Nat
  deriving DecidableEq, Repr, Inhabited

/-- A JOB unit: one token or one granule, as on a gutter lane, with the side-band bits of R145 (R32, R446). -/
structure LinkUnit where
  /-- [512] R446 | - | the 64 B of the unit -/
  data : Bytes
  /-- [1] R145 | - | SPOIL -/
  spoil : Bool
  /-- [1] R145 | - | LAST: the final granule of a handle -/
  last : Bool
  deriving DecidableEq, Repr, Inhabited

/-- A token with its granules that waits in the hub's torus switch for hop credits of its port (R184, R450). -/
structure TorusTok where
  /-- [3] R459 | - | torus port on which it leaves -/
  port : Nat
  /-- [1] R450 | - | virtual channel on that port -/
  vc : Nat
  /-- [64] R184 | - | JOB_ID -/
  job : Nat
  /-- [32] R466 | - | STEP of its sender, low 32 bits -/
  step : Nat
  /-- [8] R466 | - | EPOCH of its sender -/
  epoch : Nat
  /-- [3, 1] R450 | none | for traffic in transit, the port and channel whose receive buffer holds its units -/
  source : Option (Nat × Nat)
  /-- [8] R450 | 0 | places that it takes there -/
  places : Nat
  /-- [n x 64 B] R446 | - | units not yet sent -/
  units : List LinkUnit
  deriving DecidableEq, Repr, Inhabited

/-- The sending side of a remote edge and the credits it has in use (R185). -/
structure RemoteEdge where
  /-- [11] R185 | - | sending tile -/
  tile : Nat
  /-- [5] R185 | - | sending unit -/
  fu : Nat
  /-- [8] R185 | - | ROUTE of the emit entry -/
  route : Nat
  /-- [11] R185 | - | destination tile -/
  dtile : Nat
  /-- [6] R185 | - | destination port -/
  dport : Nat
  /-- [16] R185 | - | credits in use -/
  used : Nat
  deriving DecidableEq, Repr, Inhabited

/-- A fill in flight (R276). -/
structure Fill where
  /-- [6] R276 | - | feeder, 2 x page + engine -/
  feeder : Nat
  /-- [5] R276 | - | chase -/
  chase : Nat
  /-- [11] R266 | - | tile -/
  tile : Nat
  /-- [12] R266 | - | TID of the galley -/
  tid : Nat
  /-- [6] R272 | - | slot -/
  slot : Nat
  /-- [40] R269 | - | chunk -/
  chunk : Nat
  /-- [granules] R276 | - | the chunk's granules; none while its source is late (R265) -/
  granules : Option (List Granule)
  deriving DecidableEq, Repr, Inhabited

/-! ### Memory and objects (chapter 6) -/

/-- The state of an object (R257). -/
inductive ObjState where
  | isOpen | sealed | idle | held | moving
  deriving DecidableEq, Repr, Inhabited

/-- A move in progress (R258). -/
structure MoveOp where
  /-- [2] R258 | - | destination tier: 1 H, 2 B -/
  tier : Nat
  /-- [3] R258 | - | destination die -/
  die : Nat
  /-- [blocks] R258 | - | destination blocks -/
  blocks : List Nat
  /-- [8, 32] R258 | - | session and REQUEST_ID of the MOVE -/
  cmd : Nat × Nat
  deriving DecidableEq, Repr, Inhabited

/-- The source of a finished move of a READ_ONLY object that steps begun before it still read (R259, R264). -/
structure OldHome where
  /-- [2] R259 | - | tier -/
  tier : Nat
  /-- [blocks] R259 | - | block list -/
  blocks : List Nat
  /-- [blocks] R264 | - | window blocks, which the steps still read -/
  win : List (Nat × Option Nat × Nat)
  /-- [steps] R259 | - | the steps -/
  steps : List Nat
  deriving DecidableEq, Repr, Inhabited

/-- Who waits for an object (R256). -/
inductive Waiter where
  | step (req : Nat)
  | cmd (session reqId : Nat)
  deriving DecidableEq, Repr, Inhabited

/-- An object (R253 to R259). Block numbers count 2 MiB from address 0 of the tier. -/
structure Obj where
  /-- [5] R253 | - | chase -/
  chase : Nat
  /-- [64] R253 | - | OBJ_ID -/
  objId : Nat
  /-- [1] R253 | - | KIND: true for MUTABLE -/
  isMutable : Bool
  /-- [2] R253 | - | TIER: 1 H, 2 B -/
  tier : Nat
  /-- [3] R253 | - | HOME_DIE, 4 for SPREAD -/
  homeDie : Nat
  /-- [41] R253 | - | SIZE -/
  size : Nat
  /-- [41] R253 | 0 | WINDOW -/
  window : Nat
  /-- [3] R257 | - | STATE -/
  state : ObjState
  /-- [blocks] R254 | - | block list -/
  blocks : List Nat
  /-- [blocks] R262 | empty | tier H blocks of the window: block of the object, or none when not filled, with the order of its last read -/
  win : List (Nat × Option Nat × Nat)
  /-- [32] R256 | none | the request whose step holds the object -/
  holder : Option Nat
  /-- [steps] R257, R259 | empty | the steps that read it -/
  readers : List Nat
  /-- [requests] R256 | empty | steps and commands that wait for it, in arrival order -/
  waiters : List Waiter
  /-- [homes] R259 | empty | sources of finished moves that steps begun before them still read -/
  oldHomes : List OldHome
  /-- [20] R262 | none | block that the window's feeder filled last -/
  lastFill : Option Nat
  /-- [changes] R264 | empty | WINDOW_SETs that wait until the steps that read it have ended: WINDOW, HOME_DIE, session, REQUEST_ID -/
  winWait : List (Nat × Nat × Nat × Nat)
  /-- [move] R258 | none | move in progress -/
  move : Option MoveOp
  deriving DecidableEq, Repr, Inhabited

/-- A PUT, GET, MOVE or WINDOW_SET that waits for a held or moving object (R256, R388). -/
structure ObjWait where
  /-- [5, 64] R256 | - | chase and OBJ_ID -/
  obj : Nat × Nat
  /-- [cmd] R256 | - | the command's header -/
  hdr : CmdHdr
  /-- [16] R256 | - | opcode: 0x41 PUT, 0x43 GET, 0x44 MOVE, 0x46 WINDOW_SET -/
  opcode : Nat
  /-- [64] R388 | - | OFFSET, TIER of a MOVE, or WINDOW -/
  a : Nat
  /-- [32] R388 | - | LEN, or HOME_DIE -/
  b : Nat
  /-- [bytes] R388 | - | DATA of a PUT -/
  data : Bytes
  deriving DecidableEq, Repr, Inhabited

/-- The key slot of a granule (R248, R249). -/
structure KeySlot where
  /-- [5] R248 | - | chase whose keys it holds -/
  chase : Nat
  /-- [64] R248 | - | generation number -/
  gen : Nat
  /-- [768] R423 | - | XTS keys and tag key; none once zeroised -/
  keys : Option Bytes
  deriving DecidableEq, Repr, Inhabited

/-- An error event of a row of DRAM (R245). -/
structure RowEvent where
  /-- [row] R245 | - | channel, bank and row -/
  row : Nat
  /-- [devices] R245 | - | x4 devices that delivered erroneous symbols -/
  devices : List Nat
  /-- [1] R245 | - | whether it was uncorrectable -/
  unc : Bool
  /-- [64] R245 | - | timebase -/
  ns : Nat
  /-- [1] R245 | 0 | whether the row has moved to a spare since -/
  mended : Bool
  deriving DecidableEq, Repr, Inhabited

/-- Memory of tier H or B. A granule stands as its plaintext and its SPOIL bit; its ciphertext, TAG and check symbols
follow from them and the keys of its slot (sealGranule; log 89). -/
structure TierMem where
  /-- [bytes] R232, R237, R246 | 0 (R249) | plaintext by physical address, zero bytes unlisted -/
  bytes : List (Nat × BitVec 8)
  /-- [1 per granule] R239 | 0 | SPOIL bits, by PA / 64, set ones listed -/
  spoil : List Nat
  /-- [slots] R248 | empty | key slots by granule number -/
  slots : KMap KeySlot
  /-- [generations] R248 | 0 | last generation number used, by granule number -/
  gens : KMap Nat
  /-- [channels] R244 | empty | lost pseudo-channels or channels -/
  lost : List Nat
  /-- [errors] R244 | empty | parity errors of the last 1 ms: channel and timebase -/
  errs : List (Nat × Nat)
  /-- [channels] R244 | empty | channels pausing for a retrain -/
  retraining : List Nat
  /-- [lanes] R513 | empty | shorted lanes that no retrain has remapped yet: channel and lane -/
  shorted : List (Nat × Nat)
  /-- [events] R245 | empty | events of the last 24 h -/
  rowEvents : List RowEvent
  /-- [rows] R245 | empty | rows due for repair whose bank had no spare row left -/
  noSpare : List Nat
  /-- [rows] R245, R541 | empty | rows moved to a spare, the always-on repair log -/
  repaired : List Nat
  /-- [devices] R245 | empty | DDR5 devices marked failed -/
  devFailed : List Nat
  /-- [address] R243 | 0 | granule the patrol reads next -/
  patrol : Nat
  deriving DecidableEq, Repr, Inhabited

/-! ### Serving (chapter 8) -/

/-- The kind of a request (R297). -/
inductive ReqKind where
  | score | file | generate
  deriving DecidableEq, Repr, Inhabited

/-- The state of a request (R303). -/
inductive ReqState where
  | receiving | running | walking | prefill | decoding | done | cancelled | domainReset
  deriving DecidableEq, Repr, Inhabited

/-- The kind of a pass (R301). -/
inductive PassKind where
  | score | prefill | decode | draft | verify | draftPrefill
  deriving DecidableEq, Repr, Inhabited

/-- A pass of a request (R299, R301, R408). -/
structure Pass where
  /-- [2] R301 | - | PKIND -/
  kind : PassKind
  /-- [64] R299 | - | forme it runs on -/
  forme : Nat
  /-- [5] R301 | - | NROW -/
  nrow : Nat
  /-- [16] R301 | - | NTOK -/
  ntok : Nat
  /-- [24] R301 | - | POS -/
  pos : Nat
  /-- [1] R408 | - | it has been taken from the ready passes -/
  begun : Bool
  deriving DecidableEq, Repr, Inhabited

/-- A pass in the array, from the start of its fill to the completion of its output (R281, R299, R408). -/
structure ArrayPass where
  /-- [32] R298 | - | request -/
  req : Nat
  /-- [step] R256, R259 | - | number of its step among those of the chase (the model's) -/
  step : Nat
  /-- [pass] R301 | - | the pass -/
  pass : Pass
  /-- [bytes] R301 | - | pass record of a GENERATE -/
  record : Bytes
  /-- [64] R350, R477 | - | timebase of its entry, put forward while its progress timer pauses -/
  entryNs : Nat
  /-- [64] R350 | - | timebase of its admission as a ready pass -/
  startNs : Nat
  /-- [galleys] R281 | empty | TIDs of the outbound galleys whose output of the pass is complete -/
  outs : List Nat
  /-- [objects] R256 | - | objects its step holds -/
  holds : List Nat
  /-- [objects] R257, R259 | - | READ_ONLY objects its step reads -/
  reads : List Nat
  deriving DecidableEq, Repr, Inhabited

/-- A live request (R295 to R307, R318 to R325). -/
structure Req where
  /-- [32] R298 | - | SESSION -/
  session : Nat
  /-- [32] R298 | - | REQUEST_ID -/
  reqId : Nat
  /-- [16] R384 | - | opcode of the command -/
  opcode : Nat
  /-- [port] R360 | - | port the reply leaves by -/
  ep : Nat
  /-- [5] R298 | - | chase -/
  chase : Nat
  /-- [64] R299 | - | forme named -/
  forme : Nat
  /-- [kind] R297 | - | SCORE, FILE_SUBMIT or GENERATE -/
  kind : ReqKind
  /-- [state] R303 | - | request state -/
  state : ReqState
  /-- [64] R327 | - | DEADLINE in ns, 0 for none -/
  deadline : Nat
  /-- [64] R327 | - | timebase of the first byte's arrival -/
  firstNs : Nat
  /-- [3] R407 | - | priority -/
  prio : Nat
  /-- [bytes] R388 | - | LABEL -/
  label : Bytes
  /-- [entry] R295 | - | copy of the serving entry taken at admission -/
  entry : ServeFields
  /-- [64] R297 | - | declared input length -/
  total : Nat
  /-- [64] R328 | 0 | bytes of a FILE_SUBMIT's input beyond its first chunk at admission -/
  ahead : Nat
  /-- [64] R299, R350 | - | timebase at which its next pass became a ready pass -/
  readyNs : Nat
  /-- [bytes] R269, R389 | - | input received, by offset -/
  input : KMap Bytes
  /-- [64] R284 | 0 | input bytes the galley has taken -/
  taken : Nat
  /-- [64] R389 | 0 | WINDOW_END last granted -/
  windowEnd : Nat
  /-- [64] R389 | - | timebase of the latest chunk -/
  chunkNs : Nat
  /-- [params] R318 | - | parameters of a GENERATE -/
  gen : Option GenParams
  /-- [64] R318 | - | seed the compositor draws with -/
  seed : Nat
  /-- [10] R299 | - | pass position in its forme -/
  posn : Nat
  /-- [10] R299 | none | pass position in the draft forme while drafting is enabled -/
  draftPosn : Option Nat
  /-- [10, entry] R295, R332 | none | pass position in the fallback forme and its serving entry, once the monitor has switched to it -/
  fall : Option (Nat × ServeFields)
  /-- [pass] R299 | none | the pass that is ready, or the latest that has entered the array and has not completed its output and its commits -/
  pass : Option Pass
  /-- [folios] R305 | - | main folios listed for positions 0 onward: folio index and whether SHARED -/
  folios : List (Nat × Bool)
  /-- [folios] R305 | - | main folios reserved and not assigned -/
  reserved : List Nat
  /-- [folios] R307 | - | draft folios reserved or in use -/
  draftFolios : List Nat
  /-- [24] R300 | 0 | prompt positions whose KV state exists in the main forme -/
  filled : Nat
  /-- [24] R323 | 0 | positions the draft forme has consumed -/
  draftFilled : Nat
  /-- [tokens] R319 | empty | committed tokens, each with its spoil mark -/
  tokens : List (Nat × Bool)
  /-- [32] R304 | 0 | committed tokens already sent -/
  sent : Nat
  /-- [5] R322 | - | draft length K -/
  k : Nat
  /-- [tokens] R323 | empty | draft tokens of the round, with the kept set and weights of each draft row -/
  drafts : List (Nat × List (Nat × Word))
  /-- [5] R323 | 0 | draft tokens of the round accepted so far -/
  accepted : Nat
  /-- [8] R325 | 0 | consecutive plain passes at K = 0 -/
  plain : Nat
  /-- [row] R317, R319 | none | token drawn and not yet committed: token, spoiled, and whether it ends the round -/
  drawn : Option (Nat × Bool × Bool)
  /-- [5] R316 | 0 | rows of the pass already drawn -/
  row : Nat
  /-- [1] R321 | false | a spoiled token has been committed, or output was spoiled -/
  spoiled : Bool
  /-- [1] R332 | false | FALLBACK_USED -/
  fallback : Bool
  /-- [3] R320 | 0 | stop reason -/
  stop : Nat
  /-- [64] R471 | none | job and step of a JOB_STEP -/
  job : Option (Nat × Nat)
  /-- [bytes] R281 | empty | reply buffer -/
  reply : Bytes
  /-- [flow] R382 | none | flow record of an internal SCORE -/
  flow : Option Nat
  /-- [objects] R256 | empty | objects whose holds the request's step has, and waits for next -/
  holds : List Nat
  /-- [1] R256 | false | the step has all its holds -/
  holdsDone : Bool
  /-- [64] R328 | - | latency bound found at admission, in ps -/
  bound : Nat
  /-- [5] R477 | - | ADM_BIN at admission -/
  admBin : Nat
  deriving DecidableEq, Repr, Inhabited

/-- The token log of a GENERATE that has ended, kept for 1 s (R389). -/
structure TokenLog where
  /-- [32] R298 | - | SESSION -/
  session : Nat
  /-- [32] R298 | - | REQUEST_ID -/
  reqId : Nat
  /-- [64] R389 | - | timebase of the final reply -/
  endNs : Nat
  /-- [tokens] R319 | - | committed tokens -/
  tokens : List Nat
  /-- [1] R321 | - | a spoiled token is among them -/
  spoiled : Bool
  deriving DecidableEq, Repr, Inhabited

/-- A concordance entry (R310). -/
structure ConcEntry where
  /-- [64] R308 | - | CONC_OBJ of the table -/
  obj : Nat
  /-- [64] R310 | - | NODE_ID -/
  node : Nat
  /-- [64] R310 | - | PARENT_ID -/
  parent : Nat
  /-- [32] R310 | - | FOLIO -/
  folio : Nat
  /-- [32] R310 | - | REFS -/
  refs : Nat
  /-- [16] R310 | - | CHILDREN -/
  children : Nat
  /-- [16] R310 | - | KV_CLASS -/
  kvClass : Nat
  /-- [64] R310 | - | LAST_USE -/
  lastUse : Nat
  /-- [16 x 32] R310 | - | TOKENS -/
  tokens : List Nat
  /-- [64] R314 | - | POOL_OBJ whose folio it names -/
  pool : Nat
  /-- [32] R310 | - | the bucket it stands in -/
  bucket : Nat
  /-- [2] R310 | - | its place among the four of its bucket -/
  place : Nat
  deriving DecidableEq, Repr, Inhabited

/-- A compositor (R315, R316). -/
structure Compositor where
  /-- [5] R316 | 0 | round-robin pointer over the chases -/
  ptr : Nat
  /-- [rows] R316 | empty | rows pending in arrival order: chase, request, row -/
  rows : List (Nat × Nat × Nat)
  deriving DecidableEq, Repr, Inhabited

/-! ### Chases (chapter 11) -/

/-- The state of a chase number (R393). -/
inductive ChaseState where
  | free | unclaimed | claimed | releasing
  deriving DecidableEq, Repr, Inhabited

/-- Why a re-imposition runs, which decides what follows its end (R212, R223). -/
inductive ImposeCause where
  | tenant | share | recovery | release | join
  deriving DecidableEq, Repr, Inhabited

/-- How far an activity that fences a chase has come (R212, R399). -/
inductive FencePhase where
  | waiting | draining | scrubbing | loading | resetting
  deriving DecidableEq, Repr, Inhabited

/-- What a chase is doing to its own configuration (R212 to R227, R398, R399). -/
inductive Activity where
  | none
  | impose (cause : ImposeCause) (phase : FencePhase) (formes : List Nat) (cmd : Option (Nat × Nat))
  | change (oldId newId : Nat) (loaded injected : Bool) (timer : KMap Nat) (cmd : Option (Nat × Nat))
  | scan (tile : Nat) (isOut : Bool) (fencedNs : Option Nat) (record : Bytes) (cmd : Nat × Nat)
  deriving DecidableEq, Repr, Inhabited

/-- An accepted order that waits for the chase's activity to end (R223, R225, R406). -/
inductive Order where
  | impose (formes : List Nat) (cmd : Nat × Nat)
  | change (oldId newId : Nat) (cmd : Nat × Nat)
  | scan (tile : Nat) (isOut : Bool) (record : Bytes) (cmd : Nat × Nat)
  deriving DecidableEq, Repr, Inhabited

/-- A misregistration event record (R180). -/
structure MisregRec where
  /-- [64] R180 | - | timebase -/
  ns : Nat
  /-- [11] R180 | - | tile of the join -/
  tile : Nat
  /-- [5] R180 | - | unit of the join -/
  fu : Nat
  /-- [2] R180 | - | the full input -/
  fullIn : Nat
  /-- [2] R180 | - | the empty input -/
  emptyIn : Nat
  /-- [16] R180 | - | lowest tag present in the store -/
  tag : Nat
  deriving DecidableEq, Repr, Inhabited

/-- A chase number and what it holds (R393 to R409, R423). -/
structure Chase where
  /-- [2] R393 | FREE | STATE -/
  state : ChaseState
  /-- [fields] R394, R558 | 0 | the fields of CHASE_CREATE in force -/
  cfg : ChaseFields
  /-- [fields, cmd] R398 | none | the layout of a CHASE_CHANGE whose granules are being written, and its command -/
  newCfg : Option (ChaseFields × (Nat × Nat))
  /-- [granules] R396 | empty | tier H granules -/
  granH : List Nat
  /-- [granules] R396 | empty | tier B granules -/
  granB : List Nat
  /-- [granules] R249 | empty | granules of CHASE_CREATE that are being written: tier and number -/
  creating : List (Nat × Nat)
  /-- [granules] R249, R398 | empty | granules of a CHASE_CHANGE: tier and number, with whether written -/
  joining : List (Nat × Nat × Bool)
  /-- [granules] R398, R424 | empty | granules returned by a CHASE_CHANGE whose key slots are still to be zeroised: tier and number -/
  leaving : List (Nat × Nat)
  /-- [64] R397, R423 | 0 | CREATE_COUNT_c -/
  createCount : Nat
  /-- [384] R423 | none | CRK_c -/
  crk : Option Bytes
  /-- [64] R397 | 0 | chase seed -/
  seed : Nat
  /-- [776] R427 | none | key of CHASE_CLAIM -/
  claimPub : Option Bytes
  /-- [256] R427 | none | pull key -/
  pullKey : Option Bytes
  /-- [16 keys] R386 | empty | tenant signing keys by KEY_ID -/
  signKeys : KMap Bytes
  /-- [images] R209 | empty | forme images -/
  images : List Image
  /-- [256] R292 | empty | serving entries -/
  serving : List ServeFields
  /-- [entries] R295 | empty | FORME_IDs of entries cleared and not yet freed -/
  cleared : List Nat
  /-- [1] R51, R212 | false | the fence is asserted on the chase's pages -/
  fenced : Bool
  /-- [64] R478 | 0 | timebase at which the fence was last asserted -/
  fenceNs : Nat
  /-- [scrubs] R501 | 0 | scrubs of the chase so far: the bank of each MT whose Vmin is tested next -/
  scrubs : Nat
  /-- [1] R222, R484, R493 | false | the chase stays fenced with no forme in service -/
  heldDown : Bool
  /-- [1] R212, R406 | false | admissions are stopped -/
  stopped : Bool
  /-- [activity] R223 | none | re-imposition, running change or scan in progress -/
  act : Activity
  /-- [orders] R223, R225 | empty | accepted orders that wait for the activity in progress -/
  orders : List Order
  /-- [16] R217 | 0 | running-change count -/
  changeCount : Nat
  /-- [16 per forme] R271 | 0 | TB of each forme in service -/
  tb : KMap Nat
  /-- [per forme] R408 | none | the request whose pass injects, by FORME_ID -/
  injecting : KMap Nat
  /-- [per forme] R281, R299 | empty | passes in the array by FORME_ID, in order of entry -/
  array : KMap (List ArrayPass)
  /-- [per forme and priority] R408 | 0 | request served last -/
  lastServed : KMap Nat
  /-- [steps] R256, R259 | 0 | steps begun so far (the model's; it numbers them) -/
  steps : Nat
  /-- [22 x 32] R556 | 0 | CHEV event counters -/
  chev : List Nat
  /-- [8 x 64] R288 | 0 | stall nanoseconds by cause -/
  stall : List Nat
  /-- [units] R288 | empty | what waits now, oldest first: unit key, cause, and the part of the unit that waits: 0 its
  own work, 1 to 4 an input, 5 a LOCKUP to pass on, 6 an MT bank access -/
  waiting : List (Nat × Nat × Nat)
  /-- [records] R180 | empty | misregistration event records -/
  misregs : List MisregRec
  /-- [32] R558 | 0 | CH_ADMITTED -/
  admitted : Nat
  /-- [32] R558 | 0 | CH_REFUSED -/
  refused : Nat
  /-- [10 x 32] R558 | 0 | CH_REFUSED_k -/
  refusedK : List Nat
  /-- [5 x 64] R558 | 0 | CH_BORROW_w -/
  borrow : List Nat
  /-- [formes] R493 | empty | FORME_IDs in service at the fabric's last reset -/
  lastSet : List Nat
  /-- [entries] R310 | empty | concordance entries -/
  conc : List ConcEntry
  /-- [folios] R305 | FREE | folio states that are not FREE: pool, folio, 1 RESERVED, 2 PRIVATE, 3 SHARED -/
  folios : List (Nat × Nat × Nat)
  /-- [windows] R254 | empty | metadata blocks: tier and block -/
  metaBlks : List (Nat × Nat)
  deriving DecidableEq, Repr, Inhabited
/-! ### Torus and jobs (chapter 13) -/

/-- A JOB unit that waits in a torus port's receive buffer for its step (R466). -/
structure HeldUnit where
  /-- [64] R466 | - | JOB_ID -/
  job : Nat
  /-- [32] R466 | - | STEP, its low 32 bits -/
  step : Nat
  /-- [8] R466 | - | EPOCH -/
  epoch : Nat
  /-- [17, 11, 5] R461, R185 | - | index of the sending device, sending tile and unit -/
  src : Nat × Nat × Nat
  /-- [2] R184, R201, R467 | - | destination die -/
  die : Nat
  /-- [units] R461 | - | the token: header, payload word and granules -/
  body : DWord × DWord × List Granule
  /-- [1] R450 | - | virtual channel on which it came -/
  vc : Nat
  /-- [8] R450 | - | places of the receive buffer that it takes -/
  places : Nat
  deriving DecidableEq, Repr, Inhabited

/-- A transfer of a virtual channel whose last unit has not arrived (R145, R450). -/
structure Arriving where
  /-- [1] R450 | - | virtual channel -/
  vc : Nat
  /-- [32] R466 | - | STEP, low 32 bits -/
  step : Nat
  /-- [8] R466 | - | EPOCH -/
  epoch : Nat
  /-- [8] R450 | - | places of the receive buffer that it takes -/
  places : Nat
  /-- [n x 64 B] R446 | - | units so far -/
  units : List LinkUnit
  deriving DecidableEq, Repr, Inhabited

/-- A frame in the replay buffer (R449). -/
structure SentFrame where
  /-- [32] R446 | - | SEQ -/
  seq : Nat
  /-- [1,056 B] R446, R448 | - | header, sealed payload and tag -/
  bytes : Bytes
  /-- [16 x 2] R145 | - | SPOIL and LAST of its units -/
  side : List (Bool × Bool)
  /-- [1] R481 | - | a RELAY frame -/
  relay : Bool
  deriving DecidableEq, Repr, Inhabited

/-- A torus port TP_n (R441 to R457). -/
structure TorusPort where
  /-- [3] R454 | 0 DOWN | STATE -/
  state : Nat
  /-- [4] R458 | 0 | CLOSE_CAUSE -/
  cause : Nat
  /-- [2] R458 | 0 | SPARES_USED -/
  sparesUsed : Nat
  /-- [10] R445 | empty | lanes that failed -/
  lanesFailed : List Nat
  /-- [1] R445 | false | retraining -/
  retraining : Bool
  /-- [64] R463 | none | JOB_ID of the job that holds the port -/
  job : Option Nat
  /-- [32] R446 | 0 | SEQ of the last frame accepted from the peer -/
  rxSeq : Nat
  /-- [32] R448 | 0 | SEQ of the last frame sent -/
  txSeq : Nat
  /-- [32] R449 | 0 | highest SEQ the peer has acknowledged -/
  acked : Nat
  /-- [256 frames] R449 | empty | replay buffer: frames sent and not acknowledged -/
  replay : List SentFrame
  /-- [2 x 8] R450 | 128 each once the link is up | hop credits by virtual channel -/
  credits : List Nat
  /-- [2 x 8] R446, R450 | 0, 0 | places of the receive buffer that were freed and are not yet announced in CREDITS -/
  freed : List Nat
  /-- [units] R466 | empty | receive buffer: JOB units of a later step -/
  buffer : List HeldUnit
  /-- [units] R450 | empty | receive buffer: transfers whose last unit has not arrived -/
  arriving : List Arriving
  /-- [256] R429 | none | key of the direction to the peer -/
  keyTx : Option Bytes
  /-- [256] R429 | none | key of the direction from the peer -/
  keyRx : Option Bytes
  /-- [776] R429, R451 | none | the peer's alias public key, which signs its exchange messages -/
  peerPub : Option Bytes
  /-- [32] R448, R451 | 0 | key generation of the direction to the peer -/
  genTx : Nat
  /-- [32] R448, R451 | 0 | key generation of the direction from the peer -/
  genRx : Nat
  /-- [64] R451 | 0 | timebase of the last key change -/
  keyNs : Nat
  /-- [1] R451 | false | a re-key exchange is in progress -/
  rekeying : Bool
  /-- [256, key] R429, R455 | none | this end's nonce and ephemeral private key of the exchange in progress -/
  disc : Option (Bytes × Bytes)
  /-- [256] R451 | none | key to the peer that takes effect at the re-key boundary of that direction -/
  newTx : Option Bytes
  /-- [256] R451 | none | key from the peer that takes effect at the re-key boundary of that direction -/
  newRx : Option Bytes
  /-- [64] R457 | 0 | timebase at which the link reached OPEN or RELAY_ONLY -/
  upNs : Nat
  /-- [message] R464 | none | the JOIN last received -/
  join : Option JoinMsg
  /-- [frames] R446, R449 | empty | every frame sent since the port last went DOWN, replays included, latest last, with
  SPOIL and LAST of its units -/
  frames : List (Bytes × List (Bool × Bool))
  /-- [12] R458 | 0 | ONE_WAY_NS -/
  oneWay : Nat
  /-- [3 x 32] R549 TORUS_CNT | 0 | LINK_REPLAY, LINK_TAG_FAIL, retrains -/
  counts : List Nat
  /-- [times] R449 | empty | tag failures of the last 1 s -/
  tagFails : List Nat
  /-- [messages] R455, R464, R469, R472 | empty | control messages that wait to be sent -/
  ctlOut : List (String × List Nat)
  deriving DecidableEq, Repr, Inhabited

/-- The state of a job on this device (R465). -/
inductive JobState where
  | forming | ready | stepping | halted | rejoining
  deriving DecidableEq, Repr, Inhabited

/-- A job on this device (R462 to R473). -/
structure Job where
  /-- [64] R462 | - | JOB_ID, chase, origin and extent -/
  fields : JobFields
  /-- [state] R465 | - | job state -/
  state : JobState
  /-- [64] R465 | 0 | NEXT -/
  next : Nat
  /-- [8] R465 | 0 | EPOCH -/
  epoch : Nat
  /-- [ports] R464 | - | held ports, each with whether it has agreed -/
  ports : List (Nat × Bool)
  /-- [1] R464 | false | a peer's job is HALTED -/
  peerHalted : Bool
  /-- [64] R464 | - | timebase of acceptance, for the 10 s of R464 -/
  openedNs : Nat
  /-- [cmds] R464, R472 | empty | the JOB_OPEN or JOB_REJOIN commands that wait -/
  cmds : List (Nat × Nat)
  /-- [64] R472 | 0 | step aborted last -/
  aborted : Nat
  /-- [64] R472 | 0 | STEP of the rejoin in progress -/
  rejoinStep : Nat
  /-- [3] R472 | none | port the REJOIN came from; none when this device began it -/
  rejoinFrom : Option Nat
  /-- [devices] R472 | empty | devices that have acknowledged the rejoin -/
  acks : List Nat
  /-- [32, 8] R471 | 0 | FAIL_COORD and FAIL_CAUSE of the last failure -/
  fail : Nat × Nat
  deriving DecidableEq, Repr, Inhabited

/-! ### Faults (chapter 14) -/

/-- A reset in progress (R482, R483). -/
structure ResetOp where
  /-- [16] R480 | - | DOMAIN -/
  domain : Nat
  /-- [16] R475 | - | primary fault code -/
  code : Nat
  /-- [8 x 16] R485 | empty | secondary codes -/
  secondary : List Nat
  /-- [11] R488 | 0x7FF | FAULT_TILE -/
  tile : Nat
  /-- [64] R488 | - | timebase at detection -/
  ns : Nat
  /-- [chases] R479 | - | chases fenced -/
  chases : List Nat
  /-- [1] R492 | false | the count of its domain has reached the escalation limit -/
  esc : Bool
  /-- [1] R482 | false | capture complete -/
  captured : Bool
  /-- [64] R427 | 0 | timebase at the capture -/
  capNs : Nat
  /-- [256 bytes each] R488 | empty | pull heads made at the capture, by chase -/
  heads : KMap Bytes
  /-- [chases] R485 | empty | chases whose tile pairs had already been scrubbed, and are not captured -/
  scrubbed : List Nat
  /-- [1] R487 | false | the captured buffers have drained -/
  drained : Bool
  /-- [1] R483 | false | reset line asserted -/
  line : Bool
  deriving DecidableEq, Repr, Inhabited

/-- A pull or a scan record in the pull area (R427, R488, R489). -/
structure Pull where
  /-- [32] R427 | - | PULL_ID -/
  pullId : Nat
  /-- [8] R427 | - | CHASE, 0xFF for none -/
  chase : Nat
  /-- [8] R427 | - | CAUSE -/
  cause : Nat
  /-- [64] R427 | - | TIME -/
  time : Nat
  /-- [bytes] R427 | - | the byte string that PULL_READ returns: header, content, tag -/
  bytes : Bytes
  /-- [64] R427 | - | LENGTH -/
  length : Nat
  deriving DecidableEq, Repr, Inhabited

/-- Faults, domains and pulls (R475 to R496). -/
structure Faults where
  /-- [resets] R482 | empty | resets in progress -/
  resets : List ResetOp
  /-- [times] R492 | empty | counted resets: DOMAIN and timebase -/
  counted : List (Nat × Nat)
  /-- [7 x 32] R557 | 0 | RESET_TOTAL by class -/
  totals : List Nat
  /-- [16 each] R557 | 0 | counted resets since start-up, by DOMAIN -/
  domTotals : KMap Nat
  /-- [domains] R493, R495 | empty | DOMAIN codes out of service -/
  oos : List Nat
  /-- [32 x buffer] R486 | empty | capture buffers not yet drained: page, domain, captured tile blocks by coordinate -/
  buffers : KMap (Nat × KMap Bytes)
  /-- [16 MiB] R489 | empty | pulls and scan records, oldest first -/
  pulls : List Pull
  /-- [32] R427 | 0 | PULL_IDs issued -/
  pullCount : Nat
  /-- [times] R498 | empty | CONFIG_PARITY events (kind 0) and uncorrectable errors of case registers and
  accumulators (kind 1) of the last 24 h: physical index, kind, timebase -/
  tileEvents : List (Nat × Nat × Nat)
  deriving DecidableEq, Repr, Inhabited

/-! ### Spares and wear (R497 to R504, R541, R549) -/

/-- What the SPARES block and the fuse array hold of a physical tile pair. -/
structure TileSpare where
  /-- [1] R498, R541 | fuse map | RETIRED -/
  retired : Bool
  /-- [1] R549 | 0 | PENDING -/
  pending : Bool
  /-- [1] R498 | 0 | retirement waits for the next scrub -/
  retirePending : Bool
  /-- [5] R133 | none | RETIRED_BANK in force -/
  bank : Option Nat
  /-- [5] R133 | none | bank mapping that waits for the next scrub -/
  bankPending : Option Nat
  /-- [11] R549 | position | VCOORD; 0x7FF for a spare not in service or a retired tile pair -/
  vcoord : Nat
  /-- [11] R499 | 0 | PACE_NORM in thousandths of TAU_REF -/
  paceNorm : Nat
  /-- [sum, count] R499 | 0, 0 | samples of the present 1 s average, in millionths of TAU_REF -/
  paceAcc : Nat × Nat
  /-- [events] R500 | empty | bank events of the last 24 h: bank, uncorrectable, word, timebase -/
  bankEvents : List (Nat × Bool × Nat × Nat)
  /-- [64] R229 | 0 | CE_S of the MT: corrections of its words -/
  ceS : Nat
  deriving DecidableEq, Repr, Inhabited

/-- A supply rail's phases (R502, R509, SPARES_RAIL_r). -/
structure Rail where
  /-- [8] R509 | R509 | phases in service -/
  phases : Nat
  /-- [8] R509 | R509 | PH_SPARE_LEFT -/
  spares : Nat
  /-- [8] R502 | 0 | PH_RETIRED -/
  retired : Nat
  /-- [8] R511 | 0 | failing phases kept in service beyond the spares -/
  failing : Nat
  /-- [phases] R502 | 0 | electromigration counter of each phase, in A·s -/
  em : KMap Nat
  /-- [phases] R502 | empty | phases that are retired or failing -/
  lost : List Nat
  deriving DecidableEq, Repr, Inhabited

/-- Spares, wear and memory interfaces (R497 to R504, R549). -/
structure Spares where
  /-- [2176] R549 | unlisted: in place, not retired | tile pairs by physical index of R480 that differ from their place -/
  tiles : KMap TileSpare
  /-- [12 rails] R509 | R509 | rails -/
  rails : List Rail
  /-- [16 x 16] R549 | 0 | ROWS of SPARES_HBM_n -/
  hbmRows : List Nat
  /-- [16 x 8] R541 | 0 | HARD_ROWS -/
  hbmHard : List Nat
  /-- [16 x 8] R244 | 0 | LANES remapped -/
  hbmLanes : List Nat
  /-- [16 x 12] R549 | 0 | ROWS of SPARES_DDR_n -/
  ddrRows : List Nat
  /-- [16 x 20] R245 | 0 | DEV_FAILED -/
  ddrDev : List Nat
  deriving DecidableEq, Repr, Inhabited

/-! ### Power, pace and thermal (chapters 9 and 15) -/

/-- One role's POWER_CAP values (R516). -/
structure RoleCap where
  /-- [16] R516 | 0 | CAP_W -/
  cap : Nat
  /-- [16] R516 | 0 | ALERT_CAP_W -/
  alert : Nat
  /-- [1] R516 | 0 owner, 1 management controller | OVERDRIVE -/
  od : Bool
  deriving DecidableEq, Repr, Inhabited

/-- Power management, the limiter and the pace bins (R343 to R346, R507 to R531). -/
structure Power where
  /-- [5] R343 | 0x03 | CUR_BIN -/
  curBin : Nat
  /-- [5] R343 | 0x03 | SUST_BIN -/
  sustBin : Nat
  /-- [5] R343 | 0x03 | ADM_BIN -/
  admBin : Nat
  /-- [5] R346 | none | faster SUST_BIN that waits for the rails to settle -/
  sustNext : Option Nat
  /-- [32] R343 | 0 | SLOW_COUNT -/
  slowCount : Nat
  /-- [64] R343 | 0 | SLOW_NS -/
  slowNs : Nat
  /-- [10] R510 | 760 mV (R542) once started; 0 before | set voltage of the core rails in mV -/
  setMv : Nat
  /-- [4 x 10] R344, R512 | 0 each | core-rail voltages measured at the sense in use, in mV -/
  railsMv : List Nat
  /-- [values] R516 | 0, 0, 0 | the owner's caps -/
  capOwn : RoleCap
  /-- [values] R516 | 0, 0, 1 | the management controller's caps -/
  capMgt : RoleCap
  /-- [1] R519 | 0 | ALERT: alert cap in force -/
  alert : Bool
  /-- [1] R523 | 0 | OD_GRANT -/
  grant : Bool
  /-- [11] R523 | 0 | LEDGER_MS -/
  ledger : Nat
  /-- [times] R523 | empty | the spans of the last 20 s in which input power exceeded 3,200 W: from and to -/
  odSpans : List (Nat × Nat)
  /-- [64] R523 | none | timebase from which input power has exceeded 3,200 W -/
  odFrom : Option Nat
  /-- [1] R521 | 0 | HOLD -/
  hold : Bool
  /-- [3] R521 | 0 | THROTTLE -/
  throttle : Nat
  /-- [64] R521 | 0 | timebase of the last THROTTLE step -/
  throttleNs : Nat
  /-- [64] R521 | none | timebase from which the average has stayed at or below 90 % of the cap -/
  calmNs : Option Nat
  /-- [64] R521 | none | timebase from which the average has exceeded the cap at 0.61 V -/
  overNs : Option Nat
  /-- [1] R520 | 0 | LIMITER -/
  limiter : Bool
  /-- [64] R520 | none | timebase from which the average has stayed at or below 97 % of the cap -/
  limiterCalmNs : Option Nat
  /-- [1] R521 | false | the effective cap has risen to 2,000 W or more during the hold -/
  capRose : Bool
  /-- [32] R530 | 0 | HOLD_COUNT -/
  holdCount : Nat
  /-- [64] R530 | 0 | HOLD_NS -/
  holdNs : Nat
  deriving DecidableEq, Repr, Inhabited

/-- Thermal state, input state and measured values (R507, R512, R525 to R531). -/
structure Thermal where
  /-- [6] R530 | 0 | SENSE_OPEN -/
  senseOpen : Nat
  /-- [1] R530 | 0 | INPUT_OOR -/
  inputOor : Bool
  /-- [1] R526 | 0 | THERM_FLOOR -/
  floor : Bool
  /-- [64] R526 | none | timebase from which the hottest sensor has stayed below 95 °C -/
  coolNs : Option Nat
  /-- [8] R531 | 0 | TJ_MAX -/
  tjMax : Nat
  /-- [3] R531 | 0 | HOT_DIE -/
  hotDie : Nat
  /-- [8] R531 | 0 | TJ_PRED -/
  tjPred : Nat
  /-- [2] R344 | 3 (bin 3) | temperature index ti -/
  ti : Nat
  /-- [3 x 64] R344 | none | timebase from which the sensor has stayed below the limit of index 0, 1 and 2 minus 6 °C -/
  tiFallNs : List (Option Nat)
  /-- [16] R530 | 0 | VIN in units of 10 mV -/
  vin : Nat
  /-- [16] R530 | 0 | PIN, 1 µs average of input power -/
  pin : Nat
  /-- [16] R411 | 0 | PIN as the management controller reads it, 10 ms average -/
  pinMgt : Nat
  /-- [16] R530 | 0 | PIN as the owner reads it, 1 ms average -/
  pinOwn : Nat
  /-- [1] R527 | false | the Z9 itself holds THERM_TRIP_N low -/
  tripOwn : Bool
  /-- [3 sums] R411 | 0 | sums over the present aligned 10 ms interval of VIN, TJ_MAX and TJ_PRED, one value each ns -/
  sums : List Nat
  /-- [3 x 16] R411 | 0 | 10 ms averages of VIN, TJ_MAX and TJ_PRED, as the management controller reads them -/
  avg : List Nat
  deriving DecidableEq, Repr, Inhabited

/-- The control lands as the always-on domain sees them (R569, R570), true for high. -/
structure Pins where
  /-- [1] R569 | high, DESIGN CHOICE (log 12) | EPO_N -/
  epoN : Bool
  /-- [1] R569 | high, DESIGN CHOICE (log 12) | PWR_ALERT_N -/
  pwrAlertN : Bool
  /-- [1] R569 | high, DESIGN CHOICE (log 12) | THERM_TRIP_N -/
  thermTripN : Bool
  /-- [6] R565, R567 | present, DESIGN CHOICE (log 12) | reference clocks present: REFCLK_HS_0 to 3, REFCLK_LS_0 to 1 -/
  refclk : List Bool
  /-- [6] R567 | false | PLLs in holdover -/
  holdover : List Bool
  deriving DecidableEq, Repr, Inhabited

/-! ### Fuses, start-up and ownership (chapters 12 and 16) -/

/-- An owner-key slot (R416). -/
structure OwnerSlot where
  /-- [1] R416 | 0 | in-use fuse -/
  inUse : Bool
  /-- [776] R416 | 0 | key fuses blown -/
  key : Bytes
  deriving DecidableEq, Repr, Inhabited

/-- The fuses (R415, R416, R421, R422, R534, R541 and the fields marked fused). -/
structure Fuses where
  /-- [2] R415, R439 | fused, DESIGN CHOICE 1 UNOWNED (log 12) | LC_STATE -/
  lifecycle : Nat
  /-- [7] R421 | fused, DESIGN CHOICE 0 (log 12) | ROLLBACK -/
  rollback : Nat
  /-- [1] R422, R417 | intact, DESIGN CHOICE (log 12) | the UDS has not been destroyed -/
  udsIntact : Bool
  /-- [4 slots] R416 | unused, DESIGN CHOICE (log 12) | owner-key slots -/
  slots : List OwnerSlot
  /-- [776] R416 | none, DESIGN CHOICE (log 12) | OWNER_PUB bound by the state fuse -/
  ownerPub : Option Bytes
  /-- [4] R420 | intact, DESIGN CHOICE (log 12) | revoked firmware keys -/
  fwRevoked : List Nat
  /-- [4] R412 | intact, DESIGN CHOICE (log 12) | revoked VND credentials -/
  vndRevoked : List Nat
  /-- [4 x 384] R420 | mask ROM, DESIGN CHOICE the digest of the base point (log 12) | SHA-384 digests of the vendor
  firmware keys, by KEY_INDEX, as big-endian numbers -/
  vendorKeys : List Nat
  /-- [28 x 16] R342, R343 | fused, DESIGN CHOICE the limits of R341 (log 12) | TAU_PS by bin -/
  tau : List Nat
  /-- [128] R549 | fused, DESIGN CHOICE 0 (log 12) | SERIAL -/
  serial : Nat
  /-- [32] R549 | fused, DESIGN CHOICE 0 (log 12) | VENDOR_NUM -/
  vendorNum : Nat
  /-- [8] R549 | fused, DESIGN CHOICE 0 (log 12) | STEPPING -/
  stepping : Nat
  /-- [16] R531 | fused, DESIGN CHOICE 8,700 (log 12) | RTH_UCW -/
  rth : Nat
  /-- [16] R531 | fused, DESIGN CHOICE 1,000 (log 12) | TAU_TH_MS -/
  tauTh : Nat
  /-- [776] R434, R455 | mask ROM, DESIGN CHOICE the base point (log 12) | public key of the Vogomel root, as a
  big-endian number -/
  rootPub : Nat
  /-- [768] R423 | fused, DESIGN CHOICE zeros (log 12) | Vogomel's signature in the device certificate -/
  deviceSig : Bytes
  /-- [48] R502 | fused, DESIGN CHOICE 2^40 (log 12) | electromigration budget of a converter phase in A·s -/
  emBudget : Nat
  /-- [2176] R541 | empty, DESIGN CHOICE (log 12) | retired tile pairs, by physical index -/
  tilesRetired : List Nat
  /-- [2176 x 5] R541 | empty, DESIGN CHOICE (log 12) | retired banks: physical index and bank -/
  banksRetired : List (Nat × Nat)
  deriving DecidableEq, Repr, Inhabited

/-- The package fault record (R490, R557). -/
structure PkgRecord where
  /-- [16] R557 | 0 | CODE -/
  code : Nat
  /-- [16] R557 | 0 | DOMAIN -/
  domain : Nat
  /-- [8] R557 | 0 | PKG_RESETS -/
  resets : Nat
  /-- [64] R557 | 0 | TIME -/
  time : Nat
  deriving DecidableEq, Repr, Inhabited

/-- The running firmware's manifest values (R419, R420, R430). -/
structure Firmware where
  /-- [8] R419 | - | SVN -/
  svn : Nat
  /-- [8] R419 | - | KEY_INDEX -/
  keyIndex : Nat
  /-- [64] R419 | - | FW_VERSION -/
  version : Nat
  /-- [384] R420 | - | FW_DIGEST -/
  digest : Bytes
  deriving DecidableEq, Repr, Inhabited

/-- Start-up (R532 to R548) and the always-on domain (R534). -/
structure Boot where
  /-- [3] R532, R548 | 0 AON | START_STATE -/
  state : Nat
  /-- [8] R548 | 0 | FAIL_CODE -/
  failCode : Nat
  /-- [8] R548 | 0 | FW_REJECT -/
  fwReject : Nat
  /-- [1] R548 | 0 | BOOT_SRC -/
  bootSrc : Nat
  /-- [1] R548 | 0 | BOOTNET_BAD -/
  bootnetBad : Bool
  /-- [config] R536, R534 | none | boot configuration, kept in the always-on domain -/
  cfg : Option BootConfig
  /-- [1] R536 | 0 | BOOT_SOURCE in force in this start-up -/
  source : Nat
  /-- [48] R539 | none | MAC address from which BOOT_PEER's datagrams come -/
  peerAt : Option Nat
  /-- [48 MiB] R538 | empty | image bytes received, by offset -/
  image : KMap Bytes
  /-- [64] R538 | none | timebase of the delivery's first byte -/
  firstNs : Option Nat
  /-- [64] R538 | 0 | timebase of the latest byte -/
  lastNs : Nat
  /-- [manifest] R420 | none | the image in force -/
  fw : Option Firmware
  /-- [64] R545 | none | end of the claim window -/
  claimEnd : Option Nat
  /-- [3] R530 | 0 (retained) | STOP_CAUSE -/
  stopCause : Nat
  /-- [512] R490, R557 | 0 | package fault record -/
  record : PkgRecord
  /-- [times] R492, R534 | empty | counted package resets -/
  pkgResets : List Nat
  /-- [1] R505, R529 | false | stopped by input under-voltage -/
  underVolt : Bool
  /-- [cmd] R546 | none | CLAIM in progress: session, REQUEST_ID and OWNER_PUB -/
  claim : Option (Nat × Nat × Bytes)
  /-- [cmd] R417 | none | DECOMMISSION in progress: session and REQUEST_ID -/
  decom : Option (Nat × Nat)
  /-- [64] R417, R478 | 0 | timebase at which DECOMMISSION was accepted -/
  decomNs : Nat
  /-- [1] R423 | false | DIK and alias key stand in the SP key store -/
  aliasKey : Bool
  /-- [1] R423 | false | patrol key stands in the memory engines -/
  patrolKey : Option Bytes
  /-- [instruction] R418 | BYPASS | instruction in effect at the test access port: 0 BYPASS, 1 SAMPLE/PRELOAD, 2 IDCODE, 3 EXTEST, 4 and up private -/
  jtag : Nat
  /-- [messages] R435 | empty | SPDM requests answered since start-up: the transcript's message codes -/
  spdm : List Nat
  deriving DecidableEq, Repr, Inhabited

/-- Device counters and telemetry (R252, R439, R549, R552). -/
structure Health where
  /-- [32] R439 | 0 | VIOL_COUNT -/
  viol : Nat
  /-- [5] R549 | 0 | HEALTH_EVENTS_OWN -/
  evOwn : Nat
  /-- [5] R549 | 0 | HEALTH_EVENTS_MGT -/
  evMgt : Nat
  /-- [16] R549 | 0 | HBM_LOST -/
  hbmLost : Nat
  /-- [16] R549 | 0 | DDR_LOST -/
  ddrLost : Nat
  /-- [7 x 64] R252 | 0 | CE_S, CE_H, CE_B, UE_S, UE_H, UE_B, TAG_FAIL -/
  cnt : List Nat
  /-- [4] R549 PORT_HBM | 0 | H_OOS -/
  hOos : Nat
  /-- [16] R234 | 0 | RATE8 -/
  rate8 : Nat
  /-- [1] R549 PORT_DDR | 0 | B_IN_SERVICE -/
  bInService : Bool
  /-- [4] R549 | 0 | CAUSE of PORT_DDR -/
  ddrCause : Nat
  /-- [2] R549 | 0 | DDR_RATE -/
  ddrRate : Nat
  /-- [9] R549 | 0 | MOD_GIB -/
  modGib : Nat
  /-- [32] R549 | 0 | TORUS_RELAY_DROP -/
  relayDrop : Nat
  /-- [1] R549 TB_SYNC | 0 | SYNCED -/
  synced : Bool
  /-- [7] R549 | 0 | HOPS -/
  hops : Nat
  /-- [17] R549 | 0 | LEADER -/
  leader : Nat
  deriving DecidableEq, Repr, Inhabited

/-- Event counts at the latest 1 ms boundary of the timebase, as the owner and observers read them (R54, R553). -/
structure Snap where
  /-- [32] R553 | 0 | VIOL_COUNT -/
  viol : Nat
  /-- [7 x 64] R553 | 0 | HEALTH_CNT -/
  cnt : List Nat
  /-- [4 x 4 x 32] R553 | 0 | PORT_DROP -/
  drops : List (List Nat)
  /-- [32] R553 | 0 | TORUS_RELAY_DROP -/
  relayDrop : Nat
  /-- [6 x 3 x 32] R553 | 0 | TORUS_CNT -/
  torus : List (List Nat)
  /-- [7 x 32] R553 | 0 | RESET_TOTAL -/
  totals : List Nat
  /-- [16 each] R553 | 0 | counted resets by DOMAIN -/
  domTotals : KMap Nat
  /-- [32] R553 | 0 | SLOW_COUNT -/
  slowCount : Nat
  /-- [32] R553 | 0 | HOLD_COUNT -/
  holdCount : Nat
  /-- [chases] R409, R553 | 0 | live, admitted and refused requests, refusals by code, borrowed slots, by chase -/
  chases : KMap (List Nat)
  /-- [3] R54, R409 | 0 | H blocks, B blocks and store KiB in use over all chases -/
  use : List Nat
  /-- [spares] R54 | as State.spares | the repair and wear state as it stood -/
  spares : Spares
  /-- [fuses] R54, R541 | empty | tile pairs and MT banks retired as the fuses stood -/
  retired : List Nat × List (Nat × Nat)
  deriving DecidableEq, Repr, Inhabited

/-- The reasons for which the machine could stop with a fault. No command of the Z9 stops it: a fault of the
specification is an event that fences, resets and recovers (R475 to R485), so it is a next state. -/
inductive Fault where
  /-- Raised by nobody (safe): kept so that the type has a value. -/
  | none
  deriving DecidableEq, Repr, Inhabited

/-- The reasons for which a command could have no meaning. -/
inductive Refusal where
  /-- The command named has no meaning in this model yet (safe). -/
  | notModelled (mnemonic : String)
  deriving DecidableEq, Repr, Inhabited

/-- The Zeluiward Z9: every register, buffer, queue, counter, mode and land the specification gives it, and the
queue of commands that wait. -/
structure State where
  /-- [queue] the model's own | empty | commands that wait, first in, first out -/
  pending : List Instr
  /-- [counter] the model's own | 0, DESIGN CHOICE (log 3) | free values drawn so far -/
  draws : Nat
  /-- [64] R15, R59 | 0 | timebase in ns (TB_LO, TB_HI) -/
  now : Nat
  /-- [fuses] R415 | see Fuses | fuses -/
  fuses : Fuses
  /-- [start-up] R532 | see Boot | start-up state and always-on domain -/
  boot : Boot
  /-- [lands] R569 | see Pins | control lands -/
  pins : Pins
  /-- [power] R516 | see Power | power management, pace bins -/
  power : Power
  /-- [thermal] R525 | see Thermal | sensors and input -/
  thermal : Thermal
  /-- [counters] R549 | see Health | device counters and memory interface status -/
  health : Health
  /-- [policies] R385, R436, R491 | every policy at its default (R534) | policy values that differ from the default -/
  policies : KMap Nat
  /-- [policies] R385 | empty | changes that wait 10 ms after their DONE: policy, value, timebase -/
  policyDue : List (Nat × Nat × Nat)
  /-- [credentials] R412 | empty | TEN and OBS credentials; MGT ones stand in the boot configuration -/
  creds : List Cred
  /-- [4096 + 256] R369 | empty | sessions by id -/
  sessions : KMap Session
  /-- [ids] R366 | empty | closed session ids with their closing timebase -/
  closedIds : KMap Nat
  /-- [32 MiB] R370 | empty | messages under reassembly -/
  reasm : List Reasm
  /-- [6 x 1024] R44 | empty | doorbell queues -/
  doorbells : List (List Descriptor)
  /-- [3] R47 | 0 | doorbell queue to be taken from next -/
  doorPtr : Nat
  /-- [cmds] R371 | empty | live commands -/
  live : List LiveCmd
  /-- [256 per session] R371 | empty | final replies kept for 1 s, with their timebase -/
  finals : List Final
  /-- [chunks] R389 | empty | FILE_SUBMIT chunks held without their OFFSET 0 chunk: session, REQUEST_ID, first timebase, offset, data -/
  heldChunks : List (Nat × Nat × Nat × Nat × Bytes)
  /-- [4 ports] R357 | DISABLED | logical ports -/
  ports : List HostPort
  /-- [512] R376 | empty | relay set -/
  relaySet : List RelayEntry
  /-- [frames] R376, R377 | empty | relay frames and relayed replies sent onto the torus: target and content -/
  relayOut : List (Nat × RelayFrame)
  /-- [intake] R378 | none | flow intake -/
  intake : Intake
  /-- [frames] R357, R360 | empty | frames that have left the Ethernet ports: logical port and bytes, latest last -/
  wire : List (Nat × Bytes)
  /-- [packets] R377 | empty | packets of relayed sessions that have still to go back over the torus -/
  relayWire : List RelayFrame
  /-- [replies] R363 | empty | replies that have left the device, latest last -/
  out : List Reply
  /-- [replies] R536 | empty | answers on the sideband, latest last -/
  sbOut : List SideReply
  /-- [32 chases] R393 | FREE | chases by number that are not FREE, or that keep a creation count -/
  chases : KMap Chase
  /-- [queue] R210 | empty | image loads and stages, in order of arrival -/
  stages : List Stage
  /-- [2048 tiles] R99 | scrubbed | tile pairs by virtual coordinate that are not scrubbed and unconfigured -/
  tiles : KMap Tile
  /-- [network] R168 | empty | tokens and granules on their way -/
  net : List Flight
  /-- [network] R169 | empty | granules that follow a handle already ejected -/
  landings : List Landing
  /-- [credits] R185 | empty | remote credits due -/
  remoteDue : List RemoteCredit
  /-- [credits] R167, R185 | 0 used | credits of remote edges in use: (tile, port, route) key and count -/
  remoteUsed : List RemoteEdge
  /-- [tokens] R184 | empty | long-gutter tokens handed to the torus: job, destination coordinate, die, header, payload, granules -/
  torusOut : List TorusTok
  /-- [tier H] R232 | zeros, no slot loaded | tier H -/
  memH : TierMem
  /-- [tier B] R237 | zeros, no slot loaded | tier B -/
  memB : TierMem
  /-- [262144] R254 | empty | objects -/
  objs : List Obj
  /-- [waits] R256 | empty | object commands that wait -/
  objWaits : List ObjWait
  /-- [65536] R298 | empty | requests by request number -/
  reqs : KMap Req
  /-- [counter] R298 | 0 | request numbers issued -/
  nextReq : Nat
  /-- [logs] R389 | empty | token logs of ended GENERATEs -/
  logs : List TokenLog
  /-- [4] R315 | idle | compositors -/
  comps : List Compositor
  /-- [64 x 4] R276 | empty | fills in flight: feeder, chase, tile, TID, slot, chunk, granules -/
  fills : List Fill
  /-- [64] R276 | 0 | feeders' round-robin pointers by feeder number 2 x page + engine -/
  feederPtr : KMap Nat
  /-- [6] R441 | DOWN | torus ports -/
  torus : List TorusPort
  /-- [jobs] R462 | empty | jobs by JOB_ID -/
  jobs : List Job
  /-- [faults] R475 | none | resets, domains, pulls -/
  faults : Faults
  /-- [spares] R497 | see Spares | spares and wear -/
  spares : Spares
  /-- [counts] R553 | see Snap | event counts at the latest 1 ms boundary -/
  snap : Snap
  deriving DecidableEq, Repr

/-! ### Reset -/

/-- An unused owner-key slot (R416). -/
def OwnerSlot.unused : OwnerSlot := ⟨false, []⟩

/-- The fuses of a part as it leaves Vogomel's test; DESIGN CHOICE, log 12. TAU_PS stands at the limits of R341. -/
def Fuses.reset : Fuses where
  lifecycle := 1
  rollback := 0
  udsIntact := true
  slots := List.replicate 4 OwnerSlot.unused
  ownerPub := none
  fwRevoked := []
  vndRevoked := []
  vendorKeys := List.replicate 4
    0x8c4f262412b7f9ed867606705a130de5212fd048fbaf8c3842f4a240f4b45ba0c90f82194ccdda3ed89c96b0afe1d51d
  tau := [754, 769, 800, 833, 654, 667, 694, 722, 576, 588, 612, 637, 515, 526, 547, 570, 478, 488, 508, 529,
    450, 459, 477, 497, 435, 435, 452, 471]
  serial := 0
  vendorNum := 0
  stepping := 0
  rth := 8700
  tauTh := 1000
  rootPub :=
    4 * 2 ^ 768 + 0xaa87ca22be8b05378eb1c71ef320ad746e1d3b628ba79b9859f741e082542a385502f25dbf55296c3a545e3872760ab7 * 2 ^ 384 +
      0x3617de4a96262c6f5d9e98bf9292dc29f8f41dbd289a147ce9da3113b5f0b8c00a60b1ce1d7e819d7a431d7c90ea0e5f
  deviceSig := List.replicate 96 0
  emBudget := 2 ^ 40
  tilesRetired := []
  banksRetired := []

/-- Start-up state when the always-on domain comes up (R532, R534, R548). -/
def Boot.reset : Boot where
  state := 0
  failCode := 0
  fwReject := 0
  bootSrc := 0
  bootnetBad := false
  cfg := none
  source := 0
  peerAt := none
  image := []
  firstNs := none
  lastNs := 0
  fw := none
  claimEnd := none
  stopCause := 0
  record := ⟨0, 0, 0, 0⟩
  pkgResets := []
  underVolt := false
  claim := none
  decom := none
  decomNs := 0
  aliasKey := false
  patrolKey := none
  jtag := 0
  spdm := []

/-- Control lands high and reference clocks present; DESIGN CHOICE, log 12. -/
def Pins.reset : Pins where
  epoN := true
  pwrAlertN := true
  thermTripN := true
  refclk := List.replicate 6 true
  holdover := List.replicate 6 false

/-- Power management at start-up (R343, R516, R530). -/
def Power.reset : Power where
  curBin := 3
  sustBin := 3
  admBin := 3
  sustNext := none
  slowCount := 0
  slowNs := 0
  setMv := 0
  railsMv := [0, 0, 0, 0]
  capOwn := ⟨0, 0, false⟩
  capMgt := ⟨0, 0, true⟩
  alert := false
  grant := false
  ledger := 0
  odSpans := []
  odFrom := none
  hold := false
  throttle := 0
  throttleNs := 0
  calmNs := none
  overNs := none
  limiter := false
  limiterCalmNs := none
  capRose := false
  holdCount := 0
  holdNs := 0

/-- Sensors and input at start-up (R530, R531). -/
def Thermal.reset : Thermal where
  senseOpen := 0
  inputOor := false
  floor := false
  coolNs := none
  tjMax := 0
  hotDie := 0
  tjPred := 0
  ti := 3
  tiFallNs := [none, none, none]
  vin := 0
  pin := 0
  pinMgt := 0
  pinOwn := 0
  tripOwn := false
  sums := [0, 0, 0]
  avg := [0, 0, 0]

/-- Device counters at start-up (R439, R549, R554). -/
def Health.reset : Health where
  viol := 0
  evOwn := 0
  evMgt := 0
  hbmLost := 0
  ddrLost := 0
  cnt := List.replicate 7 0
  hOos := 0
  rate8 := 0
  bInService := false
  ddrCause := 0
  ddrRate := 0
  modGib := 0
  relayDrop := 0
  synced := false
  hops := 0
  leader := 0

/-- A logical port before any policy is applied (R359, R385). -/
def HostPort.reset : HostPort where
  linkUp := false
  mode := 0
  split := false
  laneFault := false
  macsecUp := false
  cak := none
  sak := none
  rxPn := 1
  txPn := 1
  retraining := false
  mac := 0
  drops := List.replicate 4 0
  answers := []
  held := []
  relayed := []

/-- The intake with no INTAKE_SET in force (R379). -/
def Intake.reset : Intake := ⟨none, [], [], none, [], 0, 0⟩

/-- A tier with nothing written, no key slot loaded and no error recorded (R249, R254). -/
def TierMem.reset : TierMem := ⟨[], [], [], [], [], [], [], [], [], [], [], [], 0⟩

/-- A torus port that is DOWN (R454, R458). -/
def TorusPort.reset : TorusPort where
  state := 0
  cause := 0
  sparesUsed := 0
  lanesFailed := []
  retraining := false
  job := none
  rxSeq := 0
  txSeq := 0
  acked := 0
  replay := []
  credits := [128, 128]
  freed := [0, 0]
  buffer := []
  arriving := []
  keyTx := none
  keyRx := none
  peerPub := none
  genTx := 0
  genRx := 0
  keyNs := 0
  rekeying := false
  disc := none
  newTx := none
  newRx := none
  upNs := 0
  join := none
  frames := []
  oneWay := 0
  counts := [0, 0, 0]
  tagFails := []
  ctlOut := []

/-- No reset in progress, every domain in service, no pull (R554). -/
def Faults.reset : Faults := ⟨[], [], List.replicate 7 0, [], [], [], [], 0, []⟩

/-- The rails of R509 with their phases in service and their spares, in the order of R549. -/
def Rail.all : List Rail :=
  [(50, 5), (50, 5), (50, 5), (50, 5), (8, 1), (5, 1), (5, 1), (5, 1), (5, 1), (4, 1), (5, 1), (1, 1)].map fun x =>
    ⟨x.1, x.2, 0, 0, [], []⟩

/-- Every tile pair in its place, every spare left (R549). -/
def Spares.reset : Spares where
  tiles := []
  rails := Rail.all
  hbmRows := List.replicate 16 0
  hbmHard := List.replicate 16 0
  hbmLanes := List.replicate 16 0
  ddrRows := List.replicate 16 0
  ddrDev := List.replicate 16 0

/-- No event counted (R554). -/
def Snap.reset : Snap where
  viol := 0
  cnt := List.replicate 7 0
  drops := List.replicate 4 (List.replicate 4 0)
  relayDrop := 0
  torus := List.replicate 6 [0, 0, 0]
  totals := List.replicate 7 0
  domTotals := []
  slowCount := 0
  holdCount := 0
  chases := []
  use := [0, 0, 0]
  spares := Spares.reset
  retired := ([], [])

/-- The device when the always-on domain comes up with input power: AON, no firmware, no chase, no session, no
job (R532 to R534, R543), every policy at its default. -/
def State.reset : State where
  pending := []
  draws := 0
  now := 0
  fuses := Fuses.reset
  boot := Boot.reset
  pins := Pins.reset
  power := Power.reset
  thermal := Thermal.reset
  health := Health.reset
  policies := []
  policyDue := []
  creds := []
  sessions := []
  closedIds := []
  reasm := []
  doorbells := List.replicate 6 []
  doorPtr := 0
  live := []
  finals := []
  heldChunks := []
  ports := List.replicate 4 HostPort.reset
  relaySet := []
  relayOut := []
  wire := []
  relayWire := []
  intake := Intake.reset
  out := []
  sbOut := []
  chases := []
  stages := []
  tiles := []
  net := []
  landings := []
  remoteDue := []
  remoteUsed := []
  torusOut := []
  memH := TierMem.reset
  memB := TierMem.reset
  objs := []
  objWaits := []
  reqs := []
  nextReq := 0
  logs := []
  comps := List.replicate 4 ⟨0, []⟩
  fills := []
  feederPtr := []
  torus := List.replicate 6 TorusPort.reset
  jobs := []
  faults := Faults.reset
  spares := Spares.reset
  snap := Snap.reset

end Sys2Proof.Machine
end

