-- ==== Sys2Proof/Machine/Ops.lean ====
section
/-! DEFINITION. The named operations over the state that every family of commands shares: tables by number, byte
memories in canonical form, counters, chases, tile pairs, policies, rounding and replies. -/

namespace Sys2Proof.Machine

/-! ### Tables by number -/

/-- The entry of a key. -/
def kget {α : Type} : KMap α → Nat → Option α
  | [], _ => none
  | (a, v) :: r, k => if a = k then some v else if a < k then kget r k else none

/-- Put an entry, keeping the keys rising. -/
def kset {α : Type} : KMap α → Nat → α → KMap α
  | [], k, v => [(k, v)]
  | (a, w) :: r, k, v => if a = k then (k, v) :: r else if a < k then (a, w) :: kset r k v else (k, v) :: (a, w) :: r

/-- Remove an entry. -/
def kdel {α : Type} : KMap α → Nat → KMap α
  | [], _ => []
  | (a, w) :: r, k => if a = k then r else if a < k then (a, w) :: kdel r k else (a, w) :: r

/-- Change an entry that exists. -/
def kmod {α : Type} (m : KMap α) (k : Nat) (f : α → α) : KMap α :=
  match kget m k with
  | some v => kset m k (f v)
  | none => m

/-- The entry of a key, or a default. -/
def kgetD {α : Type} (m : KMap α) (k : Nat) (d : α) : α := (kget m k).getD d

/-- Keys strictly rising. -/
def kwf {α : Type} : KMap α → Bool
  | [] => true
  | [_] => true
  | (a, _) :: (b, w) :: r => decide (a < b) && kwf ((b, w) :: r)

/-! ### Byte memories: what is not listed reads as zero (R141, R249) -/

/-- One byte of a memory. -/
def memRead (m : List Host.Cell) (a : Nat) : Byte := kgetD m a 0

/-- Write one byte; writing zero removes the entry, so that equal memories are equal lists. -/
def memWrite (m : List Host.Cell) (a : Nat) (b : Byte) : List Host.Cell := if b = 0 then kdel m a else kset m a b

/-- The canonical form: addresses strictly rising, and no entry equal to what an unlisted address reads as. -/
def Memory.wf (m : List Host.Cell) : Bool := kwf m && m.all fun c => c.2 != 0

/-- n bytes from address a. -/
def memReadN (m : List Host.Cell) (a n : Nat) : Bytes := (List.range n).map fun i => memRead m (a + i)

/-- Write a byte string at address a. -/
def memWriteN : List Host.Cell → Nat → Bytes → List Host.Cell
  | m, _, [] => m
  | m, a, b :: r => memWriteN (memWrite m a b) (a + 1) r

/-! ### Sets of numbers, kept rising -/

/-- Put a number into a set. -/
def nset : List Nat → Nat → List Nat
  | [], k => [k]
  | a :: r, k => if a = k then a :: r else if a < k then a :: nset r k else k :: a :: r

/-- Put or remove a number. -/
def nput (l : List Nat) (k : Nat) (on : Bool) : List Nat := if on then nset l k else l.filter (· != k)

/-! ### Lists and bytes -/

/-- Entry i of a list replaced. -/
def lset {α : Type} (l : List α) (i : Nat) (v : α) : List α := l.set i v

/-- Entry i of a list changed. -/
def lmod {α : Type} (l : List α) (i : Nat) (f : α → α) : List α := l.modify i f

/-- A saturating 32-bit counter raised by n (R554). -/
def sat32 (c n : Nat) : Nat := Nat.min (c + n) 0xFFFFFFFF

/-- Entry i of a list of 32-bit counters raised by one; the list is lengthened with zeros as needed. -/
def bump (l : List Nat) (i : Nat) : List Nat :=
  let l := l ++ List.replicate (i + 1 - l.length) 0
  l.modify i (sat32 · 1)

/-- Bit i of a number. -/
def nbit (n i : Nat) : Bool := n / 2 ^ i % 2 == 1

/-- Bits [lo + w - 1 : lo] of a number. -/
def nbits (n lo w : Nat) : Nat := n / 2 ^ lo % 2 ^ w

/-- One if true. -/
def b2n (b : Bool) : Nat := if b then 1 else 0

/-- Quotient rounded up. -/
def ceilDiv (a b : Nat) : Nat := (a + b - 1) / b

/-- A number as n bytes, little-endian (R374). -/
def le : Nat → Nat → Bytes
  | 0, _ => []
  | n + 1, v => BitVec.ofNat 8 v :: le n (v / 256)

/-- A number as n bytes, big-endian (R14). -/
def be (n v : Nat) : Bytes := (le n v).reverse

/-- The number that bytes stand for, little-endian. -/
def ofLe : Bytes → Nat
  | [] => 0
  | b :: r => b.toNat + 256 * ofLe r

/-- n bytes of a byte string from an offset, zeros beyond its end. -/
def slice (b : Bytes) (off n : Nat) : Bytes := (List.range n).map fun i => b.getD (off + i) 0

/-- A little-endian field of a byte string. -/
def field (b : Bytes) (off n : Nat) : Nat := ofLe ((b.drop off).take n)

/-- n zero bytes. -/
def zeros (n : Nat) : Bytes := List.replicate n 0

/-- Pad a byte string with zeros to n bytes. -/
def padTo (n : Nat) (b : Bytes) : Bytes := b.take n ++ zeros (n - b.length)

/-- The bytes of an ASCII string. -/
def ascii (t : String) : Bytes := t.toList.map fun c => BitVec.ofNat 8 c.toNat

/-! ### Free values and random draws -/

/-- Take the next free number; it advances the count of draws (log 3). -/
def drawNat (s : State) : Nat × State := (Config.freeNat s.draws, { s with draws := s.draws + 1 })

/-- Take n random bytes (R422); it advances the count of draws (log 3). -/
def drawBytes (s : State) (n : Nat) : Bytes × State :=
  (Config.randomBytes s.draws n, { s with draws := s.draws + 1 })

/-! ### Policies (R385, R436, R491) -/

/-- Default of a policy, none for an unknown id. The CAK policies keep no value (R428). -/
def policyDefault : Nat → Option Nat
  | 0x0101 => some 41952
  | 0x0102 => some 9000
  | 0x0103 => some 0
  | 0x0104 => some 0
  | 0x0105 => some 0
  | 0x0106 => some 60
  | 0x0107 => some 1000
  | 0x0108 => some 0
  | 0x0109 => some 0
  | 0x010A => some 0
  | 0x010B => some 0
  | 0x010C => some 0
  | 0x010D => some 0
  | 0x010E => some 0
  | 0x010F => some 0xFF
  | 0x0201 => some 0
  | 0x0202 => some 0
  | 0x0203 => some 0
  | 0x0301 => some 4
  | 0x0302 => some 60
  | 0x0303 => some 3
  | 0x0304 => some 10
  | 0x0305 => some 100
  | _ => none

/-- The value of a policy in force. -/
def policy (s : State) (id : Nat) : Nat := kgetD s.policies id ((policyDefault id).getD 0)

/-! ### Chases -/

/-- A chase number that nothing has been granted to (R393). -/
def Chase.fresh : Chase := { (default : Chase) with state := .free }

/-- The record of a chase number. -/
def chase (s : State) (c : Nat) : Chase := kgetD s.chases c Chase.fresh

/-- Change the record of a chase number. -/
def modChase (s : State) (c : Nat) (f : Chase → Chase) : State :=
  { s with chases := kset s.chases c (f (chase s c)) }

/-- Raise an event counter CHEV_j of a chase (R556). -/
def chev (s : State) (c j : Nat) : State := modChase s c fun ch => { ch with chev := bump ch.chev j }

/-- Whether a chase number holds resources. -/
def Chase.held (ch : Chase) : Bool := ch.state != .free

/-- The chase that holds a page (index 8d + p), none when no chase does. -/
def chaseOfPage (s : State) (p : Nat) : Option Nat :=
  (s.chases.find? fun e => e.2.held && nbit e.2.cfg.pageMap p).map Prod.fst

/-- The chase of a tile pair by virtual coordinate (R142): bits [10:6] are its page. -/
def chaseOfTile (s : State) (t : Nat) : Option Nat := chaseOfPage s (t / 64)

/-- Pages of a page map, ascending. -/
def pagesOf (m : Nat) : List Nat := (List.range 32).filter (nbit m)

/-- Every virtual tile coordinate of a page map, ascending. -/
def tilesOf (m : Nat) : List Nat := (pagesOf m).flatMap fun p => (List.range 64).map fun k => p * 64 + k

/-- The image of a chase with a FORME_ID. -/
def imageOf (ch : Chase) (id : Nat) : Option Image := ch.images.find? fun i => i.formeId == id

/-- Change the image with a FORME_ID. -/
def modImage (ch : Chase) (id : Nat) (f : Image → Image) : Chase :=
  { ch with images := ch.images.map fun i => if i.formeId = id then f i else i }

/-- Whether a forme is IN_SERVICE in its chase. -/
def inService (ch : Chase) (id : Nat) : Bool := ch.images.any fun i => i.formeId == id && i.state == .inService

/-- The FORME_IDs in service, in the order of the images. -/
def serviceIds (ch : Chase) : List Nat := (ch.images.filter fun i => i.state == .inService).map Image.formeId

/-- The IN_SERVICE forme whose pages hold a tile pair. -/
def formeOfTile (ch : Chase) (t : Nat) : Option Image :=
  ch.images.find? fun i => i.state == .inService && nbit i.body.pageMap (t / 64)

/-- Whether a chase is busy with a re-imposition, a running change or a scan (R223). -/
def Chase.busy (ch : Chase) : Bool := match ch.act with | .none => false | _ => true

/-! ### Tile pairs -/

/-- A scrubbed, unconfigured tile pair (R141). -/
def Tile.fresh : Tile where
  active := none
  shadow := none
  imp := 0
  preloading := false
  switched := false
  cases := []
  caseSpoil := []
  masks := []
  accs := []
  gaccs := []
  flags := []
  summary := 0
  mt := []
  mtSpoil := []
  fus := []
  queues := []
  galleys := []
  bankPtr := []
  regPtr := 0
  issued := 0

/-- The tile pair at a virtual coordinate. -/
def tile (s : State) (t : Nat) : Tile := kgetD s.tiles t Tile.fresh

/-- Replace a tile pair. -/
def setTile (s : State) (t : Nat) (x : Tile) : State := { s with tiles := kset s.tiles t x }

/-- Change a tile pair. -/
def modTile (s : State) (t : Nat) (f : Tile → Tile) : State := setTile s t (f (tile s t))

/-- A firing unit at rest. -/
def FuState.idle : FuState := ⟨[], 0, none, [], 0, false, 0, 0, [], false⟩

/-- The run-time state of a firing unit. -/
def fuOf (x : Tile) (u : Nat) : FuState := kgetD x.fus u FuState.idle

/-- Replace the run-time state of a firing unit. -/
def setFu (x : Tile) (u : Nat) (f : FuState) : Tile := { x with fus := kset x.fus u f }

/-- An empty queue. -/
def PortQ.empty : PortQ := ⟨[], 0, 0, []⟩

/-- The queue of an input port. -/
def portQ (x : Tile) (p : Nat) : PortQ := kgetD x.queues p PortQ.empty

/-- Replace the queue of an input port. -/
def setPortQ (x : Tile) (p : Nat) (q : PortQ) : Tile := { x with queues := kset x.queues p q }

/-- The configuration entry of a firing unit, when the tile is active and the unit is configured (R148). -/
def unitCfg (x : Tile) (u : Nat) : Option UnitCfg :=
  match x.active with
  | some c => (kget c.units u).filter UnitCfg.en
  | none => none

/-- A timer that counts paces (R179): nanoseconds run at each pace, by picoseconds a firing, with n more at one of them. -/
def runAt (m : KMap Nat) (ps n : Nat) : KMap Nat := if n = 0 then m else kset m ps (kgetD m ps 0 + n)

/-- Whether the paces that a timer has counted reach a limit: the sum of its intervals, each divided by its pace. -/
def pacesReach (m : KMap Nat) (limit : Nat) : Bool :=
  let q := m.foldl (fun (a : Nat × Nat) e => (a.1 * e.1 + 1000 * e.2 * a.2, a.2 * e.1)) (0, 1)
  decide (limit * q.2 ≤ q.1)

/-- Count n violations (R439). -/
def violations (s : State) (n : Nat) : State := { s with health := { s.health with viol := sat32 s.health.viol n } }

/-- Count a violation (R439). -/
def violation (s : State) : State := { s with health := { s.health with viol := sat32 s.health.viol 1 } }

/-- Raise health event bits in both words (R549 HEALTH_EVENTS). -/
def healthEvent (s : State) (mask : Nat) : State :=
  { s with health := { s.health with evOwn := s.health.evOwn ||| mask, evMgt := s.health.evMgt ||| mask } }

/-- Raise a device error counter of R252: 0 CE_S, 1 CE_H, 2 CE_B, 3 UE_S, 4 UE_H, 5 UE_B, 6 TAG_FAIL. -/
def countErr (s : State) (k : Nat) : State :=
  let s := { s with health := { s.health with cnt := s.health.cnt.modify k (· + 1) } }
  if k = 3 ∨ k = 4 ∨ k = 5 then healthEvent s 1 else s

/-! ### Stalls (R287, R288) -/

/-- Stall causes by number (R556). -/
def Wait.bank : Nat := 0
def Wait.tierH : Nat := 1
def Wait.tierB : Nat := 2
def Wait.link : Nat := 3
def Wait.tag : Nat := 4
def Wait.credit : Nat := 5
def Wait.arb : Nat := 6
def Wait.change : Nat := 7

/-- Part `sub` of a unit, feeder or drain waits on a cause: 0 is its firing, emission, fill or drain, 1 to 4 its inputs
A to D, 5 a LOCKUP to pass on, 6 an MT bank access. A part that waits already keeps its place and takes the cause. -/
def stallOn (s : State) (c key sub cause : Nat) : State :=
  modChase s c fun ch =>
    { ch with
      waiting :=
        if ch.waiting.any fun w => w.1 == key && w.2.2 == sub then
          ch.waiting.map fun w => if w.1 = key ∧ w.2.2 = sub then (key, cause, sub) else w
        else ch.waiting ++ [(key, cause, sub)] }

/-- Part `sub` of a unit, feeder or drain waits no longer. -/
def unstallOn (s : State) (c key sub : Nat) : State :=
  modChase s c fun ch => { ch with waiting := ch.waiting.filter fun w => w.1 != key || w.2.2 != sub }

/-- A unit, feeder or drain waits on a cause in its own work. -/
def stall (s : State) (c key cause : Nat) : State := stallOn s c key 0 cause

/-- A unit, feeder or drain goes on with its own work. -/
def unstall (s : State) (c key : Nat) : State := unstallOn s c key 0

end Sys2Proof.Machine
end

