-- ==== Sys2Proof/Machine/Crypto.lean ====
section
/-! DEFINITION. The published algorithms that the rules name for keys and records, with their published constants
(PRESUMED, log 8): SHA-384, HKDF-SHA-384, the P-384 group and AES-256-GCM (R187, R367, R422, R423, R427). -/

namespace Sys2Proof.Machine

/-- The number that bytes stand for, big-endian. -/
def ofBe (b : Bytes) : Nat := b.foldl (fun n x => n * 256 + x.toNat) 0

/-! ### SHA-384 -/

/-- Rotation of a 64-bit word to the right. -/
def rotr64 (n x : Nat) : Nat := (x >>> n) ||| ((x <<< (64 - n)) % 2 ^ 64)

/-- Words of 64 bits that a number holds side by side, the first one in its highest bits. -/
def words64 (count n : Nat) : List Nat := (List.range count).map fun i => n >>> (64 * (count - 1 - i)) % 2 ^ 64

/-- The fractions of the cube roots of the first 80 primes, 64 bits of each (test_shaK checks them against the roots). -/
def shaRoots : Nat :=
  let n := 0
  let n := n * 2 ^ 384 + 0x428a2f98d728ae227137449123ef65cdb5c0fbcfec4d3b2fe9b5dba58189dbbc3956c25bf348b53859f111f1b605d019
  let n := n * 2 ^ 384 + 0x923f82a4af194f9bab1c5ed5da6d8118d807aa98a303024212835b0145706fbe243185be4ee4b28c550c7dc3d5ffb4e2
  let n := n * 2 ^ 384 + 0x72be5d74f27b896f80deb1fe3b1696b19bdc06a725c71235c19bf174cf692694e49b69c19ef14ad2efbe4786384f25e3
  let n := n * 2 ^ 384 + 0x0fc19dc68b8cd5b5240ca1cc77ac9c652de92c6f592b02754a7484aa6ea6e4835cb0a9dcbd41fbd476f988da831153b5
  let n := n * 2 ^ 384 + 0x983e5152ee66dfaba831c66d2db43210b00327c898fb213fbf597fc7beef0ee4c6e00bf33da88fc2d5a79147930aa725
  let n := n * 2 ^ 384 + 0x06ca6351e003826f142929670a0e6e7027b70a8546d22ffc2e1b21385c26c9264d2c6dfc5ac42aed53380d139d95b3df
  let n := n * 2 ^ 384 + 0x650a73548baf63de766a0abb3c77b2a881c2c92e47edaee692722c851482353ba2bfe8a14cf10364a81a664bbc423001
  let n := n * 2 ^ 384 + 0xc24b8b70d0f89791c76c51a30654be30d192e819d6ef5218d69906245565a910f40e35855771202a106aa07032bbd1b8
  let n := n * 2 ^ 384 + 0x19a4c116b8d2d0c81e376c085141ab532748774cdf8eeb9934b0bcb5e19b48a8391c0cb3c5c95a634ed8aa4ae3418acb
  let n := n * 2 ^ 384 + 0x5b9cca4f7763e373682e6ff3d6b2b8a3748f82ee5defb2fc78a5636f43172f6084c87814a1f0ab728cc702081a6439ec
  let n := n * 2 ^ 384 + 0x90befffa23631e28a4506cebde82bde9bef9a3f7b2c67915c67178f2e372532bca273eceea26619cd186b8c721c0c207
  let n := n * 2 ^ 384 + 0xeada7dd6cde0eb1ef57d4f7fee6ed17806f067aa72176fba0a637dc5a2c898a6113f9804bef90dae1b710b35131c471b
  let n := n * 2 ^ 384 + 0x28db77f523047d8432caab7b40c724933c9ebe0a15c9bebc431d67c49c100d4c4cc5d4becb3e42b6597f299cfc657e2a
  let n := n * 2 ^ 128 + 0x5fcb6fab3ad6faec6c44198c4a475817
  n

/-- The round constants, first to last. -/
def shaK : List Nat := words64 80 shaRoots

/-- The initial value of SHA-384: the fractions of the square roots of the ninth to the sixteenth prime. -/
def shaInit : List Nat :=
  words64 8 (0xcbbb9d5dc1059ed8629a292a367cd5079159015a3070dd17152fecd8f70e5939 * 2 ^ 256 +
    0x67332667ffc00b318eb44a8768581511db0c2e0d64f98fa747b5481dbefa4fa4)

/-- Extend the message schedule, latest word first, by n words. -/
def shaSchedule : Nat → List Nat → List Nat
  | 0, w => w
  | n + 1, w =>
    let x := w.getD 1 0
    let y := w.getD 14 0
    let s1 := (rotr64 19 x ^^^ rotr64 61 x) ^^^ (x >>> 6)
    let s0 := (rotr64 1 y ^^^ rotr64 8 y) ^^^ (y >>> 7)
    shaSchedule n ((s1 + w.getD 6 0 + s0 + w.getD 15 0) % 2 ^ 64 :: w)

/-- One round on the eight working words. -/
def shaRound (v : List Nat) (kw : Nat × Nat) : List Nat :=
  match v with
  | [a, b, c, d, e, f, g, h] =>
    let s1 := (rotr64 14 e ^^^ rotr64 18 e) ^^^ rotr64 41 e
    let ch := (e &&& f) ^^^ ((2 ^ 64 - 1 - e) &&& g)
    let t1 := h + s1 + ch + kw.1 + kw.2
    let s0 := (rotr64 28 a ^^^ rotr64 34 a) ^^^ rotr64 39 a
    let maj := ((a &&& b) ^^^ (a &&& c)) ^^^ (b &&& c)
    [(t1 + s0 + maj) % 2 ^ 64, a, b, c, (d + t1) % 2 ^ 64, e, f, g]
  | v => v

/-- Compress one block of 128 bytes. -/
def shaBlock (h : List Nat) (block : Bytes) : List Nat :=
  let w := (List.range 16).map fun i => ofBe ((block.drop (8 * i)).take 8)
  let w := (shaSchedule 64 w.reverse).reverse
  (h.zip ((shaK.zip w).foldl shaRound h)).map fun x => (x.1 + x.2) % 2 ^ 64

/-- Compress the first n blocks of a padded message. -/
def shaBlocks : Nat → List Nat → Bytes → List Nat
  | 0, h, _ => h
  | n + 1, h, m => shaBlocks n (shaBlock h (m.take 128)) (m.drop 128)

/-- SHA-384 of a byte string, 48 bytes. -/
@[irreducible] def sha384 (m : Bytes) : Bytes :=
  let p := m ++ [0x80] ++ zeros ((239 - m.length % 128) % 128) ++ be 16 (8 * m.length)
  ((shaBlocks (p.length / 128) shaInit p).take 6).flatMap (be 8)

/-- HMAC-SHA-384. -/
def hmac384 (key msg : Bytes) : Bytes :=
  let k := padTo 128 (if 128 < key.length then sha384 key else key)
  sha384 (k.map (· ^^^ 0x5C) ++ sha384 (k.map (· ^^^ 0x36) ++ msg))

/-- Output blocks i, i + 1, ... of HKDF, after the block t. -/
def hkdfExpand (prk info : Bytes) : Nat → Nat → Bytes → Bytes
  | 0, _, _ => []
  | n + 1, i, t =>
    let t := hmac384 prk (t ++ info ++ le 1 i)
    t ++ hkdfExpand prk info n (i + 1) t

/-- n bytes of HKDF-SHA-384; an empty salt stands for 48 zero bytes. -/
@[irreducible] def hkdf (n : Nat) (ikm salt info : Bytes) : Bytes :=
  let prk := hmac384 (if salt.isEmpty then zeros 48 else salt) ikm
  (hkdfExpand prk info ((n + 47) / 48) 1 []).take n

/-! ### P-384 -/

/-- The field prime of P-384. -/
def p384P : Nat := 2 ^ 384 - 2 ^ 128 - 2 ^ 96 + 2 ^ 32 - 1

/-- The order of the group of P-384. -/
def p384N : Nat :=
  0xffffffffffffffffffffffffffffffffffffffffffffffffc7634d81f4372ddf581a0db248b0a77aecec196accc52973

/-- The constant b of the curve y^2 = x^3 - 3x + b. -/
def p384B : Nat :=
  0xb3312fa7e23ee7e4988e056be3f82d19181d9c6efe8141120314088f5013875ac656398d8a2ed19d2a85c8edd3ec2aef

/-- The base point. -/
def p384G : Nat × Nat :=
  (0xaa87ca22be8b05378eb1c71ef320ad746e1d3b628ba79b9859f741e082542a385502f25dbf55296c3a545e3872760ab7,
    0x3617de4a96262c6f5d9e98bf9292dc29f8f41dbd289a147ce9da3113b5f0b8c00a60b1ce1d7e819d7a431d7c90ea0e5f)

/-- A difference in the field. -/
def p384Sub (a b : Nat) : Nat := (a + (p384P - b % p384P)) % p384P

/-- Double a point in Jacobian coordinates; Z = 0 is the point at infinity. -/
def p384Double (q : Nat × Nat × Nat) : Nat × Nat × Nat :=
  let (x, y, z) := q
  let d := z * z % p384P
  let g := y * y % p384P
  let b := x * g % p384P
  let a := 3 * p384Sub x d * (x + d) % p384P
  let x3 := p384Sub (a * a) (8 * b)
  let z3 := p384Sub ((y + z) * (y + z)) (g + d)
  (x3, p384Sub (a * p384Sub (4 * b) x3) (8 * g * g), z3)

/-- Add an affine point. -/
def p384Add (q : Nat × Nat × Nat) (r : Nat × Nat) : Nat × Nat × Nat :=
  let (x, y, z) := q
  if z = 0 then (r.1, r.2, 1)
  else
    let h := p384Sub (r.1 * z * z) x
    let s := p384Sub (r.2 * z * z * z) y
    if h = 0 then (if s = 0 then p384Double q else (1, 1, 0))
    else
      let h2 := h * h % p384P
      let h3 := h2 * h % p384P
      let x3 := p384Sub (s * s) (h3 + 2 * x * h2)
      (x3, p384Sub (s * p384Sub (x * h2) x3) (y * h3), z * h % p384P)

/-- The multiple of a point by the low n bits of d. -/
def p384Mul (d : Nat) (r : Nat × Nat) : Nat → Nat × Nat × Nat → Nat × Nat × Nat
  | 0, q => q
  | n + 1, q =>
    let q := p384Double q
    p384Mul d r n (if d / 2 ^ n % 2 = 1 then p384Add q r else q)

/-- A power modulo m, by the low n bits of the exponent. -/
def modPow (m b e : Nat) : Nat → Nat → Nat
  | 0, acc => acc
  | n + 1, acc =>
    let acc := acc * acc % m
    modPow m b e n (if e / 2 ^ n % 2 = 1 then acc * b % m else acc)

/-- Affine coordinates. -/
def p384Affine (q : Nat × Nat × Nat) : Nat × Nat :=
  let i := modPow p384P q.2.2 (p384P - 2) 384 1
  (q.1 * i * i % p384P, q.2.1 * i * i * i % p384P)

/-- The private key of 56 random or derived bytes (R422): reduced as FIPS 186-5 gives for extra random bits. -/
def p384Scalar (b : Bytes) : Nat := ofBe b % (p384N - 1) + 1

/-- The public key of a private key, an uncompressed point of 97 bytes. -/
@[irreducible] def pubOf (priv : Bytes) : Bytes :=
  let q := p384Affine (p384Mul (p384Scalar priv) p384G 384 (1, 1, 0))
  [0x04] ++ be 48 q.1 ++ be 48 q.2

/-- A byte string is an uncompressed point of the curve (R207, R373). -/
def p384Valid (pub : Bytes) : Bool :=
  let x := ofBe (slice pub 1 48)
  let y := ofBe (slice pub 49 48)
  pub.length == 97 && pub.getD 0 0 == 0x04 && decide (x < p384P) && decide (y < p384P) &&
    decide (y * y % p384P = (x * x * x + (p384P - 3) * x + p384B) % p384P)

/-- The x-coordinate of the ECDH product of a private key and a public key, 48 bytes. -/
@[irreducible] def ecdh (priv pub : Bytes) : Bytes :=
  let r := (ofBe (slice pub 1 48), ofBe (slice pub 49 48))
  be 48 (p384Affine (p384Mul (p384Scalar priv) r 384 (1, 1, 0))).1

/-- An ECDSA P-384 signature, r then s (R190), verifies under a public key over a digest. -/
@[irreducible] def ecdsaOk (pub digest sig : Bytes) : Bool :=
  let r := ofBe (slice sig 0 48)
  let t := ofBe (slice sig 48 48)
  let inv := modPow p384N t (p384N - 2) 384 1
  let a := p384Mul (ofBe digest * inv % p384N) p384G 384 (1, 1, 0)
  let b := p384Mul (r * inv % p384N) (ofBe (slice pub 1 48), ofBe (slice pub 49 48)) 384 (1, 1, 0)
  let q := if b.2.2 = 0 then a else p384Add a (p384Affine b)
  sig.length == 96 && p384Valid pub && decide (0 < r) && decide (r < p384N) && decide (0 < t) && decide (t < p384N) &&
    q.2.2 != 0 && (p384Affine q).1 % p384N == r

/-! ### AES-256-GCM -/

/-- The product by x in the field of AES. -/
def aesX (a : Nat) : Nat := if a < 128 then 2 * a else (2 * a) % 256 ^^^ 0x1B

/-- A product in the field of AES, over the low n bits of b. -/
def aesMul (a b : Nat) : Nat → Nat
  | 0 => 0
  | n + 1 => aesX (aesMul a (b / 2) n) ^^^ (if b % 2 = 1 then a else 0)

/-- The inverse in the field of AES, a^254, and 0 of 0. -/
def aesInv (a : Nat) : Nat :=
  let m := fun x y => aesMul x y 8
  let a2 := m a a
  let a3 := m a2 a
  let a6 := m a3 a3
  let a12 := m a6 a6
  let a15 := m a12 a3
  let a30 := m a15 a15
  let a60 := m a30 a30
  let a63 := m a60 a3
  let a126 := m a63 a63
  let a127 := m a126 a
  m a127 a127

/-- The S-box at a byte. -/
def aesSub (a : Nat) : Nat :=
  let b := aesInv a
  let r := fun n => (b * 2 ^ n) % 256 ||| b / 2 ^ (8 - n)
  (((b ^^^ r 1) ^^^ r 2) ^^^ r 3) ^^^ r 4 ^^^ 0x63

/-- The S-box as a table. -/
def aesBox : List Nat := (List.range 256).map aesSub

/-- The exclusive or of two rows of bytes. -/
def xorRow (a b : List Nat) : List Nat := a.zipWith (· ^^^ ·) b

/-- Words i, i + 1, ... of the key schedule, latest first; rc is the round constant that comes next. -/
def aesExpand (box : List Nat) : Nat → Nat → Nat → List (List Nat) → List (List Nat)
  | 0, _, _, w => w
  | n + 1, i, rc, w =>
    let t := w.getD 0 []
    let sub := fun (t : List Nat) => t.map fun b => box.getD b 0
    let t :=
      if i % 8 = 0 then xorRow (sub (t.drop 1 ++ t.take 1)) [rc, 0, 0, 0]
      else if i % 8 = 4 then sub t else t
    aesExpand box n (i + 1) (if i % 8 = 0 then aesX rc else rc) (xorRow (w.getD 7 []) t :: w)

/-- The 15 round keys of an AES-256 key, 16 bytes each. -/
def aesKeys (box : List Nat) (key : Bytes) : List (List Nat) :=
  let k := key.map BitVec.toNat
  let w := (aesExpand box 52 8 1 ((List.range 8).map fun i => (k.drop (4 * i)).take 4).reverse).reverse
  (List.range 15).map fun i => ((w.drop (4 * i)).take 4).flatten

/-- SubBytes and ShiftRows of a state, byte r + 4c being row r of column c. -/
def aesShift (box st : List Nat) : List Nat :=
  (List.range 16).map fun i => box.getD (st.getD ((i + 4 * (i % 4)) % 16) 0) 0

/-- MixColumns. -/
def aesMix (st : List Nat) : List Nat :=
  (List.range 16).map fun i =>
    let a := fun k => st.getD (i / 4 * 4 + (i + k) % 4) 0
    ((aesX (a 0) ^^^ (aesX (a 1) ^^^ a 1)) ^^^ a 2) ^^^ a 3

/-- The rounds after the first key: the last one without MixColumns. -/
def aesRounds (box : List Nat) : List (List Nat) → List Nat → List Nat
  | [], st => st
  | [k], st => xorRow (aesShift box st) k
  | k :: ks, st => aesRounds box ks (xorRow (aesMix (aesShift box st)) k)

/-- One block under AES-256. -/
def aesBlock (box : List Nat) (keys : List (List Nat)) (b : Bytes) : Bytes :=
  match keys with
  | [] => b
  | k :: ks => (aesRounds box ks (xorRow (b.map BitVec.toNat) k)).map (BitVec.ofNat 8)

/-- The inverse of the S-box as a table. -/
def aesUnbox : List Nat := (List.range 256).map fun v => aesBox.idxOf v

/-- The inverse of SubBytes and ShiftRows. -/
def aesUnshift (unbox st : List Nat) : List Nat :=
  (List.range 16).map fun i => unbox.getD (st.getD ((i + 12 * (i % 4)) % 16) 0) 0

/-- The inverse of MixColumns: the column times 14, 11, 13, 9. -/
def aesUnmix (st : List Nat) : List Nat :=
  (List.range 16).map fun i =>
    ([14, 11, 13, 9].zipIdx).foldl (fun v c => v ^^^ aesMul (st.getD (i / 4 * 4 + (i + c.2) % 4) 0) c.1 4) 0

/-- The rounds backward, from the last but one to the first key. -/
def aesUnrounds (unbox : List Nat) : List (List Nat) → List Nat → List Nat
  | [], st => st
  | [k], st => xorRow st k
  | k :: ks, st => aesUnrounds unbox ks (aesUnshift unbox (aesUnmix (xorRow st k)))

/-- The inverse of one block under AES-256. -/
def aesUnblock (unbox : List Nat) (keys : List (List Nat)) (b : Bytes) : Bytes :=
  match keys.reverse with
  | [] => b
  | k :: ks => (aesUnrounds unbox ks (aesUnshift unbox (xorRow (b.map BitVec.toNat) k))).map (BitVec.ofNat 8)

/-- The product in the field of GCM, over bits n - 1 down to 0 of y, the highest bit first. -/
def ghashMul (y : Nat) : Nat → Nat → Nat → Nat
  | 0, _, z => z
  | n + 1, v, z =>
    ghashMul y n (if v % 2 = 1 then v / 2 ^^^ (0xE1 * 2 ^ 120) else v / 2) (if y / 2 ^ n % 2 = 1 then z ^^^ v else z)

/-- GHASH of the first n blocks of a byte string, from x on. -/
def ghash (h : Nat) : Nat → Nat → Bytes → Nat
  | 0, x, _ => x
  | n + 1, x, b => ghash h n (ghashMul (x ^^^ ofBe (b.take 16)) 128 h 0) (b.drop 16)

/-- Fill a byte string with zeros to whole blocks of 16. -/
def pad16 (b : Bytes) : Bytes := b ++ zeros ((16 - b.length % 16) % 16)

/-- AES-256-GCM of a plaintext under a key, a 12-byte nonce and associated data: ciphertext and tag. -/
@[irreducible] def gcmSeal (key nonce aad plain : Bytes) : Bytes :=
  let box := aesBox
  let keys := aesKeys box (padTo 32 key)
  let blk := fun (n : Nat) => aesBlock box keys (padTo 12 nonce ++ be 4 n)
  let stream := (List.range ((plain.length + 15) / 16)).flatMap fun i => blk (i + 2)
  let ct := plain.zipWith (· ^^^ ·) stream
  let m := pad16 aad ++ pad16 ct ++ be 8 (8 * aad.length) ++ be 8 (8 * ct.length)
  let h := ofBe (aesBlock box keys (zeros 16))
  ct ++ (be 16 (ghash h (m.length / 16) 0 m)).zipWith (· ^^^ ·) (blk 1)

/-- The plaintext of a ciphertext with its 16-byte tag, none when the tag does not verify: the cipher is its own
inverse, so that the plaintext is what seals to the same bytes. -/
@[irreducible] def gcmOpen (key nonce aad sealed : Bytes) : Option Bytes :=
  let ct := sealed.take (sealed.length - 16)
  let plain := (gcmSeal key nonce aad ct).take ct.length
  if 16 ≤ sealed.length ∧ gcmSeal key nonce aad plain = sealed then some plain else none

end Sys2Proof.Machine
end

