-- ==== Sys2Proof/Machine/Sideband.lean ====
section
/-! DEFINITION. What protects a granule of tiers H and B: XTS-AES-256 (R246), the keyed tag (R247), the side-band and its
Reed–Solomon code (R239, R240). -/

namespace Sys2Proof.Machine

/-! ### Encryption (R246) -/

/-- The exclusive or of byte strings. -/
def xorBytes (a b : Bytes) : Bytes := a.zipWith (· ^^^ ·) b

/-- The tweak of the block after one with this tweak: the product by x, the tweak being a little-endian number. -/
def xtsNext (t : Nat) : Nat := if t / 2 ^ 127 = 0 then 2 * t else 2 * t % 2 ^ 128 ^^^ 0x87

/-- Blocks of 16 bytes, each through a cipher between two exclusive ors with its tweak. -/
def xtsBlocks (cipher : Bytes → Bytes) : Nat → Nat → Bytes → Bytes
  | 0, _, _ => []
  | n + 1, t, b => xorBytes (cipher (xorBytes (b.take 16) (le 16 t))) (le 16 t) ++ xtsBlocks cipher n (xtsNext t) (b.drop 16)

/-- The tweak of the first block of the data unit with number `unit`, under the second key. -/
def xtsTweak (keys : Bytes) (unit : Nat) : Nat := ofLe (aesBlock aesBox (aesKeys aesBox (slice keys 32 32)) (le 16 unit))

/-- XTS-AES-256 of a data unit of whole blocks under the 64 key bytes of a slot. -/
@[irreducible] def xtsEnc (keys : Bytes) (unit : Nat) (plain : Bytes) : Bytes :=
  xtsBlocks (aesBlock aesBox (aesKeys aesBox (slice keys 0 32))) (plain.length / 16) (xtsTweak keys unit) plain

/-- Its inverse. -/
@[irreducible] def xtsDec (keys : Bytes) (unit : Nat) (cipher : Bytes) : Bytes :=
  xtsBlocks (aesUnblock aesUnbox (aesKeys aesBox (slice keys 0 32))) (cipher.length / 16) (xtsTweak keys unit) cipher

/-- TAG of a ciphertext at PA ÷ 64 = `unit`, under the third key of a slot (R247). -/
@[irreducible] def granTag (keys : Bytes) (unit : Nat) (cipher : Bytes) : Nat :=
  let aes := aesBlock aesBox (aesKeys aesBox (slice keys 64 32))
  (ghash (ofBe (aes (zeros 16))) 4 0 cipher ^^^ ofBe (aes ([0x01] ++ zeros 7 ++ be 8 unit))) / 2 ^ 100

/-! ### GF(2^8) of R240; polynomials stand lowest power first -/

/-- The product by x. -/
def gfX (a : Nat) : Nat := if a < 128 then 2 * a else (2 * a) % 256 ^^^ 0x1D

/-- A product, over the low n bits of b. -/
def gfMulN (a b : Nat) : Nat → Nat
  | 0 => 0
  | n + 1 => gfX (gfMulN a (b / 2) n) ^^^ (if b % 2 = 1 then a else 0)

/-- A product. -/
def gfMul (a b : Nat) : Nat := gfMulN a b 8

/-- The power of the primitive element x. -/
def gfExp : Nat → Nat
  | 0 => 1
  | n + 1 => gfX (gfExp n)

/-- The power of an element. -/
def gfPow (a : Nat) : Nat → Nat
  | 0 => 1
  | n + 1 => gfMul (gfPow a n) a

/-- The inverse, a^254 = a^2 · a^4 · … · a^128, and 0 of 0. -/
def gfInv (a : Nat) : Nat :=
  ((List.range 7).foldl (fun (x : Nat × Nat) _ => (gfMul x.1 x.1, gfMul x.2 (gfMul x.1 x.1))) (a, 1)).2

/-- A sum of polynomials. -/
def polyAdd : List Nat → List Nat → List Nat
  | [], q => q
  | p, [] => p
  | a :: p, b :: q => (a ^^^ b) :: polyAdd p q

/-- A polynomial times an element. -/
def polyScale (c : Nat) (p : List Nat) : List Nat := p.map (gfMul c)

/-- A product of polynomials. -/
def polyMul : List Nat → List Nat → List Nat
  | [], _ => []
  | a :: p, q => polyAdd (polyScale a q) (0 :: polyMul p q)

/-- The value of a polynomial. -/
def polyAt (p : List Nat) (x : Nat) : Nat := p.foldr (fun c v => gfMul v x ^^^ c) 0

/-! ### The code (R240): the first symbol is the coefficient of the highest power, and the roots of the generator begin
at the power `first` of the primitive element (log 88) -/

/-- The generator polynomial with r roots. -/
def rsGen (first r : Nat) : List Nat := (List.range r).foldl (fun p i => polyMul p [gfExp (first + i), 1]) [1]

/-- The check symbols of a message. -/
def rsCheck (first r : Nat) (msg : Bytes) : Bytes :=
  let g := ((rsGen first r).take r).reverse
  (msg.foldl (fun st m =>
    let f := st.headD 0 ^^^ m.toNat
    xorRow (st.drop 1 ++ [0]) (polyScale f g)) (List.replicate r 0)).map (BitVec.ofNat 8)

/-- The syndromes of a word. -/
def rsSyndromes (first r : Nat) (word : Bytes) : List Nat :=
  (List.range r).map fun i =>
    let a := gfExp (first + i)
    word.foldl (fun v b => gfMul v a ^^^ b.toNat) 0

/-- Berlekamp's iteration from syndrome k on, over the syndromes s with e erasures: the locator, its last correction
and its length. -/
def rsLocator (s : List Nat) (e : Nat) : Nat → Nat → List Nat × List Nat × Nat → List Nat × List Nat × Nat
  | 0, _, x => x
  | n + 1, k, (loc, cor, len) =>
    let d := (loc.zipIdx).foldl (fun v c => if c.2 ≤ k then v ^^^ gfMul c.1 (s.getD (k - c.2) 0) else v) 0
    let cor := 0 :: cor
    rsLocator s e n (k + 1) (
      if d = 0 then (loc, cor, len)
      else
        let new := polyAdd loc (polyScale d cor)
        if 2 * len ≤ k + e then (new, polyScale (gfInv d) loc, k + 1 + e - len) else (new, cor, len))

/-- The word that the code corrects to, with the symbols at the given positions decoded as erasures; none when it
cannot. -/
@[irreducible] def rsDecode (first r : Nat) (erased : List Nat) (word : Bytes) : Option Bytes :=
  let s := rsSyndromes first r word
  if s.all (· == 0) then some word
  else
    let n := word.length
    let at' (p : Nat) : Nat := gfExp (n - 1 - p)
    let gam := erased.foldl (fun q p => polyMul q [1, at' p]) [1]
    let (loc, _, len) := rsLocator s erased.length (r - erased.length) erased.length (gam, gam, erased.length)
    let bad := (List.range n).filter fun p => polyAt loc (gfInv (at' p)) == 0
    let ev := (polyMul s loc).take r
    let der := (loc.drop 1).zipIdx.map fun c => if c.2 % 2 = 0 then c.1 else 0
    let fixed := bad.foldl (fun (w : Bytes) p =>
      let x := at' p
      let y := gfMul (gfMul (polyAt ev (gfInv x)) (gfInv (polyAt der (gfInv x)))) (gfMul x (gfInv (gfPow x first)))
      w.modify p (· ^^^ BitVec.ofNat 8 y)) word
    if r < erased.length ∨ bad.length ≠ len ∨ r < 2 * len - erased.length then none
    else if (rsSyndromes first r fixed).all (· == 0) then some fixed else none

/-- Check symbols of a granule: 4 in tier H, 12 in tier B. -/
def rsRoots (isH : Bool) : Nat := if isH then 4 else 12

/-- What is stored of a granule (R239, R242): its ciphertext, the metadata with TAG and SPOIL, and the check symbols. -/
def sealGranule (isH : Bool) (keys : Bytes) (pa : Nat) (g : Granule) : Bytes :=
  let c := xtsEnc keys (pa / 64) (padTo 64 g.data)
  let msg := c ++ le 4 (granTag keys (pa / 64) c * 16 + b2n g.spoil * 8)
  msg ++ rsCheck Config.rsFirst (rsRoots isH) msg

/-- The x4 device, 0 to 9 of its subchannel, that holds a symbol of a tier B granule: each holds 8 whole symbols (R240;
which is DESIGN CHOICE, log 88). -/
def symbolDevice (p : Nat) : Nat := p / 8

end Sys2Proof.Machine
end

