-- ==== Sys2Proof/Machine/Frames.lean ====
section
/-! DEFINITION. The frames and packets of the Ethernet ports as bytes (R358, R360 to R365, R374, R378): Ethernet II with
its FCS, IPv4, IPv6, UDP, ARP and Neighbor Discovery, MACsec, the Askest header, and the intake's parser. The layouts
that the rules name by their standards are those standards' (PRESUMED, log 95). -/

namespace Sys2Proof.Machine

/-- A big-endian field of a byte string (R14). -/
def fieldBe (b : Bytes) (off n : Nat) : Nat := ofBe ((b.drop off).take n)

/-! ### Check sums -/

/-- The remainder of CRC-32 after n more bits. -/
def crcBits : Nat → Nat → Nat
  | 0, r => r
  | n + 1, r => crcBits n (if r % 2 = 1 then r / 2 ^^^ 0xEDB88320 else r / 2)

/-- The frame check sequence of IEEE 802.3 (R358). -/
def fcs (b : Bytes) : Bytes := le 4 (b.foldl (fun r x => crcBits 8 (r ^^^ x.toNat)) 0xFFFFFFFF ^^^ 0xFFFFFFFF)

/-- The sum of the 16-bit words of a byte string. -/
def wordSum : Bytes → Nat
  | a :: b :: r => a.toNat * 256 + b.toNat + wordSum r
  | [a] => a.toNat * 256
  | [] => 0

/-- The Internet checksum of a sum of words, never 0xFFFF for one that holds a word other than 0. -/
def checksum (sum : Nat) : Nat := if sum = 0 then 0xFFFF else 0xFFFF - (if sum % 0xFFFF = 0 then 0xFFFF else sum % 0xFFFF)

/-! ### Ethernet (R358) -/

/-- An Ethernet II frame: its addresses, the tag control information of its 802.1Q tag, its EtherType and what it
carries. -/
structure Eth where
  dst : Nat
  src : Nat
  tag : Option Nat
  kind : Nat
  body : Bytes
  deriving DecidableEq, Repr, Inhabited

/-- An Ethernet II frame with at most one 802.1Q tag, without its FCS. LLC and SNAP frames and stacked tags are not
supported (R358). -/
def ethOf (b : Bytes) : Option Eth :=
  let put (tag : Option Nat) (off : Nat) : Option Eth :=
    let k := fieldBe b off 2
    if k < 0x600 ∨ k = 0x8100 ∨ k = 0x88A8 ∨ b.length < off + 2 then none
    else some ⟨fieldBe b 0 6, fieldBe b 6 6, tag, k, b.drop (off + 2)⟩
  if fieldBe b 12 2 = 0x8100 then put (some (fieldBe b 14 2)) 16 else put none 12

/-- A frame as a port receives it: 64 to 9,216 bytes with an FCS that agrees (R358). -/
def frameIn (f : Bytes) : Option Eth :=
  let b := f.take (f.length - 4)
  if 64 ≤ f.length ∧ f.length ≤ 9216 ∧ fcs b = f.drop (f.length - 4) then ethOf b else none

/-- The VLAN of a frame, 0 for one without a tag. -/
def Eth.vid (e : Eth) : Nat := (e.tag.map fun t => t % 4096).getD 0

/-- What follows the addresses of a frame: the tag of a VLAN other than 0, the EtherType and the body. -/
def etherData (vid kind : Nat) (body : Bytes) : Bytes :=
  (if vid = 0 then [] else be 2 0x8100 ++ be 2 vid) ++ be 2 kind ++ body

/-- A frame as it leaves: padded to 60 bytes, with its FCS. -/
def frameOut (b : Bytes) : Bytes :=
  let b := b ++ zeros (60 - b.length)
  b ++ fcs b

/-! ### MACsec (R361) -/

/-- The nonce of GCM-AES-XPN-256: the short SCI and the packet number, under the salt. -/
def xpnNonce (k : Sak) (ssci pn : Nat) : Bytes := (be 4 ssci ++ be 8 pn).zipWith (· ^^^ ·) (padTo 12 k.salt)

/-- A SecTAG with its SCI: encrypted and integrity-protected, offset 0. -/
def secTag (k : Sak) (pn sci : Nat) (short : Nat) : Bytes :=
  be 2 0x88E5 ++ be 1 (0x2C + k.an % 4) ++ be 1 (if short < 48 then short else 0) ++ be 4 (pn % 2 ^ 32) ++ be 8 sci

/-- Protect what follows the addresses of a frame. -/
def secure (k : Sak) (pn sci : Nat) (addrs data : Bytes) : Bytes :=
  let tag := secTag k pn sci data.length
  tag ++ gcmSeal k.key (xpnNonce k k.ssciTx pn) (addrs ++ tag) data

/-- The packet number that the low 32 bits stand for: the least that is not below the lowest one acceptable. -/
def pnOf (lowest low : Nat) : Nat := lowest + (low + 2 ^ 32 - lowest % 2 ^ 32) % 2 ^ 32

/-- Open a protected frame: its packet number and the plain frame, none where SecTAG or ICV are not valid or the packet
number lies below `lowest`. -/
def unsecure (k : Sak) (lowest : Nat) (e : Eth) : Option (Nat × Eth) :=
  let addrs := be 6 e.dst ++ be 6 e.src
  let pn := pnOf lowest (fieldBe e.body 2 4)
  if e.tag.isSome ∨ e.kind ≠ 0x88E5 ∨ e.body.length < 30 ∨ fieldBe e.body 0 1 ≠ 0x2C + k.an % 4 ∨
      fieldBe e.body 6 8 ≠ k.sci ∨ lowest + 2 ^ 31 ≤ pn then none
  else
    match gcmOpen k.key (xpnNonce k k.ssciRx pn) (addrs ++ be 2 0x88E5 ++ e.body.take 14) (e.body.drop 14) with
    | some d => (ethOf (addrs ++ d)).map fun x => (pn, x)
    | none => none

/-! ### IP and UDP (R360) -/

/-- A UDP datagram with the fields of its IP header that matter. -/
structure Datagram where
  v6 : Bool
  src : Nat
  dst : Nat
  dscp : Nat
  srcPort : Nat
  dstPort : Nat
  data : Bytes
  deriving DecidableEq, Repr, Inhabited

/-- The sum of the pseudo-header of UDP and ICMPv6 over IP addresses that are given as bytes. -/
def pseudoSum (addrs : Bytes) (proto len : Nat) : Nat := wordSum addrs + proto + len % 65536 + len / 65536

/-- UDP within an IP packet. A zero checksum stands for none, over IPv4 only. -/
def udpOf (v6 : Bool) (addrs : Bytes) (dscp : Nat) (u : Bytes) : Option Datagram :=
  let n := fieldBe u 4 2
  let half := addrs.length / 2
  if n < 8 ∨ u.length < n then none
  else if fieldBe u 6 2 = 0 then
    if v6 then none
    else some ⟨v6, ofBe (addrs.take half), ofBe (addrs.drop half), dscp, fieldBe u 0 2, fieldBe u 2 2, (u.take n).drop 8⟩
  else if checksum (pseudoSum addrs 17 n + wordSum (u.take n)) ≠ 0 then none
  else some ⟨v6, ofBe (addrs.take half), ofBe (addrs.drop half), dscp, fieldBe u 0 2, fieldBe u 2 2, (u.take n).drop 8⟩

/-- The UDP datagram of an IP packet, none for anything else: no fragment, no IPv4 options, no IPv6 extension headers,
and only with the checksums that agree (R360). -/
def datagramOf (v6 : Bool) (b : Bytes) : Option Datagram :=
  if v6 then
    if fieldBe b 0 1 / 16 ≠ 6 ∨ fieldBe b 6 1 ≠ 17 ∨ b.length < 40 + fieldBe b 4 2 then none
    else udpOf true ((b.drop 8).take 32) (fieldBe b 0 2 / 64 % 64) ((b.drop 40).take (fieldBe b 4 2))
  else if fieldBe b 0 1 ≠ 0x45 ∨ fieldBe b 2 2 < 20 ∨ b.length < fieldBe b 2 2 ∨ fieldBe b 6 2 % 0x4000 ≠ 0 ∨
      fieldBe b 9 1 ≠ 17 ∨ checksum (wordSum (b.take 20)) ≠ 0 then none
  else udpOf false ((b.drop 12).take 8) (fieldBe b 1 1 / 4) ((b.take (fieldBe b 2 2)).drop 20)

/-- A UDP datagram as an IP packet: ECN not-ECT, hop limit 64 (R360). IPv4 packets carry identification 0 and Don't
Fragment, IPv6 packets flow label 0 (DESIGN CHOICE, log 95). -/
def Datagram.packet (d : Datagram) : Bytes :=
  let n := d.data.length + 8
  let addrs := if d.v6 then be 16 d.src ++ be 16 d.dst else be 4 d.src ++ be 4 d.dst
  let u := be 2 d.srcPort ++ be 2 d.dstPort ++ be 2 n
  let c := checksum (pseudoSum addrs 17 n + wordSum (u ++ zeros 2 ++ d.data))
  let u := u ++ be 2 (if c = 0 then 0xFFFF else c) ++ d.data
  if d.v6 then be 4 (6 * 2 ^ 28 + d.dscp * 2 ^ 22) ++ be 2 n ++ [17, 64] ++ addrs ++ u
  else
    let h (c : Nat) : Bytes :=
      [0x45] ++ be 1 (4 * d.dscp) ++ be 2 (n + 20) ++ zeros 2 ++ be 2 0x4000 ++ [64, 17] ++ be 2 c ++ addrs
    h (checksum (wordSum (h 0))) ++ u

/-! ### ARP and Neighbor Discovery (R360) -/

/-- An ARP request for an IPv4 address: the sender's MAC and IP addresses, and the address asked for. -/
def arpOf (e : Eth) : Option (Nat × Nat × Nat) :=
  let b := e.body
  if e.kind ≠ 0x0806 ∨ b.length < 28 ∨ fieldBe b 0 8 ≠ 0x0001080006040001 then none
  else some (fieldBe b 8 6, fieldBe b 14 4, fieldBe b 24 4)

/-- The ARP reply of an address `ip` at a MAC address. -/
def arpReply (mac ip dstMac dstIp : Nat) : Bytes :=
  be 8 0x0001080006040002 ++ be 6 mac ++ be 4 ip ++ be 6 dstMac ++ be 4 dstIp

/-- A Neighbor Solicitation: the sender's IP address, and the address asked for. -/
def solicitOf (e : Eth) : Option (Nat × Nat) :=
  let b := e.body
  let n := fieldBe b 4 2
  if e.kind ≠ 0x86DD ∨ fieldBe b 0 1 / 16 ≠ 6 ∨ fieldBe b 6 1 ≠ 58 ∨ fieldBe b 7 1 ≠ 255 ∨ n < 24 ∨ b.length < 40 + n ∨
      fieldBe b 40 2 ≠ 135 * 256 ∨ checksum (pseudoSum ((b.drop 8).take 32) 58 n + wordSum ((b.drop 40).take n)) ≠ 0 then none
  else some (fieldBe b 8 16, fieldBe b 48 16)

/-- The Neighbor Advertisement of an address `ip` at a MAC address: solicited, with the link-layer address. -/
def advertisement (mac ip dst : Nat) : Bytes :=
  let addrs := be 16 ip ++ be 16 dst
  let m (c : Nat) : Bytes := be 2 (136 * 256) ++ be 2 c ++ be 4 (6 * 2 ^ 28) ++ be 16 ip ++ [2, 1] ++ be 6 mac
  be 4 (6 * 2 ^ 28) ++ be 2 32 ++ [58, 255] ++ addrs ++ m (checksum (pseudoSum addrs 58 32 + wordSum (m 0)))

/-! ### Askest packets (R362 to R365, R374) -/

/-- The 32 bytes of an Askest header (R363). -/
def askestHeader (status opcode flags session seq reqId length detail frag : Nat) : Bytes :=
  be 2 0x5A39 ++ be 1 1 ++ be 1 status ++ be 2 opcode ++ be 2 flags ++ be 4 session ++ be 8 seq ++ be 4 reqId ++
    be 4 length ++ be 2 detail ++ be 2 frag

/-- The Askest packet of a UDP payload (R362, R363), none where it is too short for a header and a tag. -/
def packetOf (d : Datagram) (mac ns : Nat) : Option Packet :=
  let b := d.data
  if b.length < 48 then none
  else
    some
      { magic := fieldBe b 0 2, version := fieldBe b 2 1, status := fieldBe b 3 1, opcode := fieldBe b 4 2
        flags := fieldBe b 6 2, session := fieldBe b 8 4, seq := fieldBe b 12 8, reqId := fieldBe b 20 4
        length := fieldBe b 24 4, detail := fieldBe b 28 2, frag := fieldBe b 30 2, header := b.take 32
        payload := b.drop 32, v6 := d.v6, dst := d.dst, src := ⟨mac, d.src, d.srcPort, d.v6⟩, dscp := d.dscp, ns := ns }

/-- The nonce of a packet: SESSION, then SEQUENCE (R365). -/
def askestNonce (session seq : Nat) : Bytes := be 4 session ++ be 8 seq

/-- A byte string in parts of n bytes, the last one shorter; an empty one is one empty part. Fuel bounds their number. -/
def parts (n : Nat) : Nat → Bytes → List Bytes
  | 0, b => [b]
  | fuel + 1, b => if b.length ≤ n then [b] else b.take n :: parts n fuel (b.drop n)

/-! ### The intake's parser (R378) -/

/-- What an IP header says, and what follows it. -/
structure IpHead where
  v6 : Bool
  proto : Nat
  src : Nat
  dst : Nat
  len : Nat
  data : Bytes
  deriving DecidableEq, Repr, Inhabited

/-- Skip up to `fuel` hop-by-hop, routing or destination-options headers: the protocol and the bytes that follow. A
fragment other than the first gives none. -/
def skipExt : Nat → Nat → Bytes → Option (Nat × Bytes)
  | fuel, next, b =>
    if next = 44 ∧ fieldBe b 2 2 / 8 ≠ 0 then none
    else if [0, 43, 60].contains next then
      match fuel with
      | 0 => none
      | n + 1 => skipExt n (fieldBe b 0 1) (b.drop (8 * fieldBe b 1 1 + 8))
    else some (next, b)

/-- The IP header at the start of a byte string; none for what the intake does not parse and for a fragment other than
the first. -/
def ipOf (kind : Nat) (b : Bytes) : Option IpHead :=
  if kind = 0x0800 then
    if fieldBe b 0 1 ≠ 0x45 ∨ fieldBe b 2 2 < 20 ∨ b.length < fieldBe b 2 2 ∨ fieldBe b 6 2 % 0x2000 ≠ 0 then none
    else
      some ⟨false, fieldBe b 9 1, 0xFFFF * 2 ^ 32 + fieldBe b 12 4, 0xFFFF * 2 ^ 32 + fieldBe b 16 4, fieldBe b 2 2,
        (b.take (fieldBe b 2 2)).drop 20⟩
  else if kind = 0x86DD then
    let n := fieldBe b 4 2
    if fieldBe b 0 1 / 16 ≠ 6 ∨ b.length < 40 + n then none
    else
      (skipExt 2 (fieldBe b 6 1) ((b.drop 40).take n)).map fun x =>
        ⟨true, x.1, fieldBe b 8 16, fieldBe b 24 16, 40 + n, x.2⟩
  else none

/-- The key and the contents of a packet by its IP header (R378, R379). -/
def IpHead.keyed (i : IpHead) (tag : Option Nat) (vxlan geneve : Bool) (vni : Nat) : IntakeFrame :=
  let hasPorts := i.proto == 6 || i.proto == 17
  { v6 := i.v6, vxlan := vxlan, geneve := geneve, vlanTag := tag.isSome, vlan := (tag.map fun t => t % 4096).getD 0
    vni := vni, proto := i.proto, srcAddr := i.src, dstAddr := i.dst
    srcPort := if hasPorts then fieldBe i.data 0 2 else 0, dstPort := if hasPorts then fieldBe i.data 2 2 else 0
    ipLen := i.len, tcpFlags := if i.proto = 6 then fieldBe i.data 13 1 else 0
    payload := if i.proto = 6 then i.data.drop (4 * (fieldBe i.data 12 1 / 16))
      else if i.proto = 17 then i.data.drop 8 else i.data }

/-- A frame as the intake reads it, with the UDP ports of VXLAN and GENEVE: an encapsulated frame is keyed by its inner
headers and its VNI, one level deep. None for a frame that is counted in INTAKE_SKIP. -/
def intakeOf (vxPort gePort : Nat) (f : Bytes) : Option IntakeFrame := do
  let e ← frameIn f
  let i ← ipOf e.kind e.body
  let d := i.data.drop 8
  if i.proto = 17 ∧ fieldBe i.data 2 2 = vxPort then
    let e ← ethOf (d.drop 8)
    let j ← ipOf e.kind e.body
    some (j.keyed e.tag true false (fieldBe d 4 3))
  else if i.proto = 17 ∧ fieldBe i.data 2 2 = gePort then
    let inner := d.drop (8 + 4 * (fieldBe d 0 1 % 64))
    if fieldBe d 2 2 = 0x6558 then
      let e ← ethOf inner
      let j ← ipOf e.kind e.body
      some (j.keyed e.tag false true (fieldBe d 4 3))
    else
      let j ← ipOf (fieldBe d 2 2) inner
      some (j.keyed none false true (fieldBe d 4 3))
  else some (i.keyed e.tag false false 0)

end Sys2Proof.Machine
end

