-- ==== Sys2Proof/Machine/Wire.lean ====
section
/-! DEFINITION. Replies and how they leave (R359 to R365, R369 to R371, R374, R377, R481): the live commands, the final
replies kept, the packets of a reply under its session's key, and the frames of the ports. -/

namespace Sys2Proof.Machine

/-! ### Logical ports -/

/-- Whether a logical port is present (R357). -/
def portPresent (s : State) (n : Nat) : Bool := n % 2 == 0 || (((s.ports[n - 1]?).map HostPort.split).getD false)

/-- Whether a host-port domain is out of service (R493). -/
def portOos (s : State) (n : Nat) : Bool := s.faults.oos.contains (5 * 4096 + n)

/-- The mode in effect at a logical port: DISABLED while it is absent, faulty or out of service (R357, R493, R513). -/
def portMode (s : State) (n : Nat) : Nat :=
  match s.ports[n]? with
  | some p => if portPresent s n && !p.laneFault && !portOos s n then p.mode else 0
  | none => 0

/-- Whether the domain of a logical port is in reset (R481). -/
def portInReset (s : State) (ep : Nat) : Bool := s.faults.resets.any fun r => r.domain == 5 * 4096 + ep

/-- Whether a logical port serves frames: present, trained, and outside a reset. -/
def portServes (s : State) (ep mode : Nat) : Bool :=
  match s.ports[ep]? with
  | some p => p.linkUp && !p.retraining && portMode s ep == mode && !portInReset s ep
  | none => false

/-- Whether MACsec is enabled on a logical port (R385). -/
def macsecOn (s : State) (ep : Nat) : Bool := nbit (policy s 0x010A) ep

/-- The device's own address of a family, none when policy gives none (R360). -/
def ownAddr (s : State) (v6 : Bool) : Option Nat :=
  let a := if v6 then policy s 0x0104 * 2 ^ 64 + policy s 0x0105 else policy s 0x0103
  if a = 0 then none else some a

/-! ### Frames that leave (R360, R361) -/

/-- Send an Ethernet frame from a logical port, tagged with the port's VLAN; where MACsec is enabled it is protected
under the SAK, and without a SAK nothing leaves. -/
def sendEth (s : State) (ep dst kind : Nat) (body : Bytes) : State :=
  match s.ports[ep]? with
  | none => s
  | some p =>
    let addrs := be 6 dst ++ be 6 p.mac
    let data := etherData (nbits (policy s 0x0109) (12 * ep) 12) kind body
    if macsecOn s ep then
      match p.sak with
      | none => s
      | some k =>
        { s with
          ports := lset s.ports ep { p with txPn := p.txPn + 1 }
          wire := s.wire ++ [(ep, frameOut (addrs ++ secure k p.txPn (p.mac * 65536 + 1) addrs data))] }
    else { s with wire := s.wire ++ [(ep, frameOut (addrs ++ data))] }

/-- The EtherType of an IP packet. -/
def ipKind (v6 : Bool) : Nat := if v6 then 0x86DD else 0x0800

/-- Send a UDP payload to the address a packet came from (R360): by its port, or, for a packet that came over the relay,
towards its entry device (R377). -/
def sendUdp (s : State) (ep : Nat) (dest : SrcAddr) (entry : Option (Nat × Nat)) (dscp : Nat) (data : Bytes) : State :=
  let d : Datagram :=
    { v6 := dest.v6, src := (ownAddr s dest.v6).getD 0, dst := dest.ip, dscp := dscp, srcPort := policy s 0x0101
      dstPort := dest.udp, data := data }
  match entry with
  | some e => { s with relayWire := s.relayWire ++ [⟨e.1, e.2, 0, dest.mac, dest.v6, d.packet, 0⟩] }
  | none => sendEth s ep dest.mac (ipKind dest.v6) d.packet

/-! ### Sessions and replies -/

/-- Round a time value down for the role that reads it (R54, R553). -/
def roundNs (r : Role) (ns : Nat) : Nat :=
  match r with
  | .own => ns / 1000000 * 1000000
  | .obs => ns / 1000000 * 1000000
  | _ => ns

/-- The role a reply is rounded for: that of its session, the owner for a session that is gone. -/
def roleOf (s : State) (id : Nat) : Role := ((kget s.sessions id).map Session.role).getD .own

/-- The 16-byte prefix of a reply and its body (R374). -/
def Reply.message (r : Reply) : Bytes := le 4 r.retryAfter ++ le 1 r.stopReason ++ zeros 3 ++ le 8 r.timestamp ++ r.body

/-- The UDP payload of one packet of a reply: its header with DIR = 1, MORE but in the last packet, and the payload
sealed under K_DH, or in clear with a tag of zeros for HELLO (R362 to R365, R367, R370). -/
def Reply.udp (r : Reply) (key : Option Bytes) (seq frag : Nat) (more : Bool) (payload : Bytes) : Bytes :=
  let head := askestHeader r.status r.opcode (32768 + 16384 * b2n more + r.flags) r.session seq r.reqId payload.length
    r.detail frag
  match key with
  | some k => head ++ gcmSeal k (askestNonce r.session seq) head payload
  | none => head ++ payload ++ zeros 16

/-- The UDP payloads of a message's parts, numbered from `seq` (R365, R370). -/
def Reply.packets (r : Reply) (key : Option Bytes) (seq : Nat) (ps : List Bytes) : List Bytes :=
  ps.zipIdx.map fun e => r.udp key (if key.isNone then 0 else seq + e.2) e.2 (e.2 + 1 != ps.length) e.1

/-- The largest payload of a packet (R362). -/
def maxPayload (s : State) : Nat := policy s 0x0102 - 96

/-- A reply departs to the source of its session's most recent authenticated packet, by the port on which that arrived
(R360, R369). While the port is in reset it is held, up to 4 MiB (R481); from a port that is in another mode, or that
retrains, it is lost (R359). Before SEQUENCE 2^64 - 1 would be sent, the session loses its keys and accepts nothing
further (R365). A reply whose session is gone has no packets. -/
def depart (s : State) (r : Reply) : State :=
  match kget s.sessions r.session with
  | none => { s with out := s.out ++ [r] }
  | some se =>
    let r := { r with ep := se.ep }
    if portInReset s r.ep then
      { s with ports := lmod s.ports r.ep fun p =>
        if (p.held.map fun x => x.body.length + 16).foldl (· + ·) (r.body.length + 16) ≤ 4194304 then
          { p with held := p.held ++ [r] } else p }
    else
      let ps := parts (maxPayload s) r.message.length r.message
      if 2 ^ 64 ≤ se.txSeq + ps.length then
        { s with sessions := kmod s.sessions r.session fun x =>
          { x with isOpen := false, keyHD := none, keyDH := none } }
      else
        let s := { s with sessions := kmod s.sessions r.session fun x => { x with txSeq := x.txSeq + ps.length } }
        if se.relayEntry.isNone && !portServes s r.ep 1 then s
        else
          (r.packets (some (se.keyDH.getD [])) se.txSeq ps).foldl (fun s u => sendUdp s r.ep se.src se.relayEntry r.dscp u)
            { s with out := s.out ++ [r] }

/-- The OFFSETs of the chunks of a command, whose reply is at hand (R371, R389). -/
def chunkOffsets (s : State) (r : Reply) : List Nat :=
  if r.opcode = 0x0052 then
    match s.reqs.find? fun e => e.2.session == r.session && e.2.reqId == r.reqId && e.2.flow.isNone with
    | some e => e.2.input.map Prod.fst
    | none => []
  else if r.opcode = 0x0030 then
    match s.stages.find? fun x => x.session == r.session && x.reqId == r.reqId with
    | some x => x.parts.map Prod.fst
    | none => []
  else []

/-- Remember a final reply for 1 s, the last 256 of each session, one for a command (R371). -/
def rememberFinal (s : State) (r : Reply) : State :=
  let old := s.finals.filter fun e =>
    !(e.reply.session == r.session && e.reply.opcode == r.opcode && e.reply.reqId == r.reqId)
  let mine := old.filter fun e => e.reply.session == r.session
  let fs := if 256 ≤ mine.length then old.eraseP fun e => e.reply.session == r.session else old
  { s with finals := fs ++ [⟨s.now, r, chunkOffsets s r⟩] }

/-- Whether a status is final (R375). -/
def isFinal (status : Nat) : Bool := status != 1 && status != 2

/-- The live command of a session and request id. -/
def liveOf (s : State) (session reqId : Nat) : Option LiveCmd :=
  s.live.find? fun l => l.session == session && l.reqId == reqId

/-- A reply as it leaves: its timestamp is rounded for the session's role (R374), it has the DSCP of the command
(R360), and a final one ends the command and is remembered (R371). -/
def emitReply (s : State) (r : Reply) : State :=
  let r := { r with
    timestamp := roundNs (roleOf s r.session) s.now
    ep := ((kget s.sessions r.session).map Session.ep).getD r.ep
    dscp := ((liveOf s r.session r.reqId).map LiveCmd.dscp).getD r.dscp }
  let s := depart s r
  let s := { s with live := s.live.map fun l =>
    if l.session = r.session ∧ l.reqId = r.reqId then { l with latest := some r } else l }
  if isFinal r.status then
    rememberFinal { s with live := s.live.filter fun l => !(l.session == r.session && l.reqId == r.reqId) } r
  else s

/-- A reply with its status and body only. -/
def mkReply (ep session opcode reqId status detail : Nat) (body : Bytes) : Reply :=
  { ep := ep, dscp := 0, session := session, opcode := opcode, reqId := reqId, status := status, detail := detail
    flags := 0, retryAfter := 0, stopReason := 0, timestamp := 0, body := body }

/-- Send a reply again as it was, to the source of the latest packet (R371). -/
def resendReply (s : State) (r : Option Reply) : State :=
  match r with
  | some r => depart s r
  | none => s

/-- A reply that leaves the command that is live under its REQUEST_ID as it is: to another opcode (R371), or to one chunk
(R389). -/
def conflictReply (s : State) (se : Session) (r : Reply) : State :=
  depart s { r with timestamp := roundNs se.role s.now, ep := se.ep }

/-- Statuses (R391). -/
def St.done : Nat := 0x00
def St.accepted : Nat := 0x01
def St.partialOut : Nat := 0x02
def St.cancelled : Nat := 0x03
def St.notFound : Nat := 0x04
def St.busy : Nat := 0x10
def St.tooLarge : Nat := 0x11
def St.malformed : Nat := 0x12
def St.verifyFailed : Nat := 0x13
def St.noResources : Nat := 0x14
def St.wrongState : Nat := 0x15
def St.stepAborted : Nat := 0x20
def St.domainReset : Nat := 0x21
def St.outOfService : Nat := 0x22
def St.powerHold : Nat := 0x30

/-- Reply to a live command, named by session and request id. -/
def replyLive (s : State) (session reqId status detail : Nat) (body : Bytes) : State :=
  match liveOf s session reqId with
  | some l => emitReply s (mkReply l.ep session l.opcode reqId status detail body)
  | none => s

/-- Reply to the command that several parts of the model remember as (session, request id). -/
def replyCmd (s : State) (cmd : Option (Nat × Nat)) (status detail : Nat) : State :=
  match cmd with
  | some (a, b) => replyLive s a b status detail []
  | none => s

end Sys2Proof.Machine
end

