-- ==== Sys2Proof/Machine/Mem.lean ====
section
/-! DEFINITION. Tiers H and B and their objects: address maps (R232, R237), reads and writes of granules with their
spoil marks (R241, R242), blocks (R254), and the PUT, GET and MOVE that wait for an object (R256). -/

namespace Sys2Proof.Machine

/-- Bytes of a block (R254). -/
def blockBytes : Nat := 2097152
/-- Blocks of a tier H granule of 1 GiB and of a tier B granule of 4 GiB. -/
def granBlocks (isH : Bool) : Nat := if isH then 512 else 2048

/-- The memory of a tier. -/
def tier (s : State) (isH : Bool) : TierMem := if isH then s.memH else s.memB

/-- Replace the memory of a tier. -/
def setTier (s : State) (isH : Bool) (m : TierMem) : State := if isH then { s with memH := m } else { s with memB := m }

/-- The pseudo-channel of tier H (32 x stack + pseudo-channel, R232) or the channel of tier B (R237) of an
address. -/
def channelOf (isH : Bool) (pa : Nat) : Nat :=
  if isH then 32 * (4 * (pa / 2 ^ 30 / 288) + pa / 4096 % 4) + Config.pseudoChannel (pa / 64) % 32
  else pa / 4096 % 16

/-- Whether the channel that serves an address is lost (R244). -/
def isLost (m : TierMem) (isH : Bool) (pa : Nat) : Bool := m.lost.any (· == channelOf isH pa)

/-- The chase that holds a granule of a tier, none when no chase does. -/
def chaseOfGranule (s : State) (isH : Bool) (g : Nat) : Option Nat :=
  (s.chases.find? fun e => (if isH then e.2.granH else e.2.granB).any (· == g)).map Prod.fst

/-- Granule number of a physical address (R232, R237). -/
def granuleOf (isH : Bool) (pa : Nat) : Nat := if isH then pa / 2 ^ 30 else pa / 2 ^ 32

/-- The keys that protect a granule: those of its slot, or the patrol key where no chase holds it (R243, R248). -/
def granKeys (s : State) (isH : Bool) (g : Nat) : Option Bytes :=
  match kget (tier s isH).slots g with
  | some k => k.keys
  | none => s.boot.patrolKey

/-- Count an error of a granule for the device and for the chase that holds it (R252): 0 corrected, 1 uncorrectable,
2 a tag mismatch. -/
def countMem (s : State) (isH : Bool) (pa k : Nat) : State :=
  let t := if isH then 1 else 2
  let s := countErr s (match k with | 0 => t | 1 => 3 + t | _ => 6)
  match chaseOfGranule s isH (granuleOf isH pa) with
  | some c => if k = 0 then s else chev s c (if k = 1 then 14 + t else 17)
  | none => s

/-- An access that completes at once on a lost channel counts an uncorrectable event for each granule (R244). -/
def countLost (s : State) (gs : List (Bool × Nat)) : State :=
  gs.foldl (fun s g => if isLost (tier s g.1) g.1 g.2 then countMem s g.1 g.2 1 else s) s

/-! ### Accesses that wait (R244, R245, R265, R481) -/

/-- The row of a granule: its channel, its bank there, and its row. -/
def rowOf (isH : Bool) (pa : Nat) : Nat :=
  let t := if isH then 1 else 2
  (channelOf isH pa * 2 ^ 16 + Config.dramBank t (pa / 64) % 2 ^ 16) * 2 ^ 32 + Config.dramRow t (pa / 64) % 2 ^ 32

/-- The channel and bank of a row. -/
def rowBank (row : Nat) : Nat := row / 2 ^ 32

/-- The channel of a row. -/
def rowChannel (row : Nat) : Nat := row / 2 ^ 48

/-- Whether a row is due for soft repair: 8 corrected events within 24 h, or any uncorrectable one, since it was
repaired last; a row of a bank with no spare row left stays in use (R245). -/
def rowDue (s : State) (isH : Bool) (row : Nat) : Bool :=
  let m := tier s isH
  let evs := m.rowEvents.filter fun e => e.row == row && !e.mended && decide (s.now < e.ns + 86400000000000)
  !m.noSpare.contains row && (decide (8 ≤ evs.length) || evs.any RowEvent.unc)

/-- Whether a granule's bank is paused: a row of it is being repaired, from the event that made it due to SOFT_PPR
(log 90). -/
def bankPaused (s : State) (isH : Bool) (pa : Nat) : Bool :=
  (tier s isH).rowEvents.any fun e => rowBank e.row == rowBank (rowOf isH pa) && rowDue s isH e.row

/-- Whether a die is in reset, so that its controllers accept no access (R57, R481). -/
def dieInReset (s : State) (d : Nat) : Bool := s.faults.resets.any fun r => r.domain == 3 * 4096 + d

/-- The key of a channel among what is stalled. -/
def memKey (isH : Bool) (channel : Nat) : Nat := 33554432 + (if isH then 0 else 1024) + channel

/-- What an access of a granule waits for, as a key among what is stalled and its cause; none when it goes through, as
one to a lost channel does. -/
def accessStall (s : State) (isH : Bool) (pa : Nat) : Option (Nat × Nat) :=
  let m := tier s isH
  let ch := channelOf isH pa
  if isLost m isH pa then none
  else if m.retraining.contains ch || bankPaused s isH pa || (isH && dieInReset s (pa / 2 ^ 30 / 288)) then
    some (memKey isH ch, if isH then Wait.tierH else Wait.tierB)
  else none

/-- A read or write of a chase waits for a memory channel. -/
def stallMem (s : State) (c : Nat) (k : Nat × Nat) : State := stallOn s c k.1 0 k.2

/-- What a read of the 64 B granule at pa delivers, as it stands: its bytes and its spoil mark; zeros spoiled from a
lost channel (R241 step 4, R244). -/
def granuleData (m : TierMem) (isH : Bool) (pa : Nat) : Granule :=
  if isLost m isH pa then ⟨zeros 64, true⟩
  else ⟨memReadN m.bytes (pa / 64 * 64) 64, m.spoil.any (· == pa / 64)⟩

/-- Write bytes that lie within one granule (R242): a whole granule takes the mark of the data; a part keeps the
granule spoiled when it was, and spoils it when the data is. Nothing is written to a lost channel. -/
def granulePut (m : TierMem) (isH : Bool) (pa : Nat) (data : Bytes) (spoiled : Bool) : TierMem :=
  if isLost m isH pa then m
  else
    let was := m.spoil.any (· == pa / 64)
    let mark := if data.length = 64 then spoiled else was || spoiled
    { m with bytes := memWriteN m.bytes pa data, spoil := nput m.spoil (pa / 64) mark }

/-- A tier without the contents of a granule (R249): it holds encrypted zeros. -/
def zeroGranule (m : TierMem) (isH : Bool) (g : Nat) : TierMem :=
  { m with
    bytes := m.bytes.filter fun e => granuleOf isH e.1 != g
    spoil := m.spoil.filter fun a => granuleOf isH (a * 64) != g }

/-- A tier without the key slots of the granules that `gone` names, whose contents no key decrypts any more (R249,
R424). -/
def TierMem.forget (m : TierMem) (isH : Bool) (gone : Nat → Bool) : TierMem :=
  { m with
    slots := m.slots.filter fun e => !gone e.1
    bytes := m.bytes.filter fun e => !gone (granuleOf isH e.1)
    spoil := m.spoil.filter fun a => !gone (granuleOf isH (a * 64)) }

/-- Write a byte string with one spoil mark per byte from address pa, granule by granule; fuel bounds the number of
granules. -/
def tierWrite (isH : Bool) : Nat → TierMem → Nat → List (Byte × Bool) → TierMem
  | 0, m, _, _ => m
  | fuel + 1, m, pa, data =>
    if data.isEmpty then m
    else
      let n := 64 - pa % 64
      let part := data.take n
      tierWrite isH fuel (granulePut m isH pa (part.map Prod.fst) (part.any Prod.snd)) (pa + n) (data.drop n)

/-- Physical address of a byte of an object. -/
def objPA (o : Obj) (off : Nat) : Nat := o.blocks.getD (off / blockBytes) 0 * blockBytes + off % blockBytes

/-- Whether an object is homed in tier H. -/
def Obj.isH (o : Obj) : Bool := o.tier == 1

/-- The granules of bytes [off, off + len) of an object at its home: tier and address. -/
def objGrans (o : Obj) (off len : Nat) : List (Bool × Nat) :=
  (List.range (if len = 0 then 0 else (off + len - 1) / 64 - off / 64 + 1)).map fun i =>
    (o.isH, objPA o ((off / 64 + i) * 64))

/-- Bytes [off, off + len) of an object at its home, with the number of spoiled granules among them. -/
def objRead (s : State) (o : Obj) (off len : Nat) : Bytes × Nat :=
  let m := tier s o.isH
  let data := (List.range len).map fun i =>
    let pa := objPA o (off + i)
    if isLost m o.isH pa then (0 : Byte) else memRead m.bytes pa
  (data, (objGrans o off len).countP fun g => (granuleData m g.1 g.2).spoil)

/-- Write a byte string with spoil marks into an object, block by block. -/
def objWriteFuel : Nat → TierMem → Obj → Nat → List (Byte × Bool) → TierMem
  | 0, m, _, _, _ => m
  | fuel + 1, m, o, off, data =>
    if data.isEmpty then m
    else
      let n := blockBytes - off % blockBytes
      let part := data.take n
      objWriteFuel fuel (tierWrite o.isH (part.length / 64 + 2) m (objPA o off) part) o (off + n) (data.drop n)

/-- Write into an object at its home. -/
def objWrite (s : State) (o : Obj) (off : Nat) (data : List (Byte × Bool)) : State :=
  setTier s o.isH (objWriteFuel (data.length / blockBytes + 2) (tier s o.isH) o off data)

/-- The object of a chase with an OBJ_ID. -/
def findObj (s : State) (c id : Nat) : Option Obj := s.objs.find? fun o => o.chase == c && o.objId == id

/-- Change the object of a chase with an OBJ_ID. -/
def modObj (s : State) (c id : Nat) (f : Obj → Obj) : State :=
  { s with objs := s.objs.map fun o => if o.chase = c ∧ o.objId = id then f o else o }

/-- Whether the flow intake holds an object: no command may name it while ENABLE is 1 (R379). -/
def intakeHolds (s : State) (c id : Nat) : Bool :=
  match s.intake.cfg with
  | some k => k.enable == 1 && policy s 0x010F == c && (k.tableObj == id || k.payloadObj == id)
  | none => false

/-! ### Blocks (R254) -/

/-- Blocks of a tier that objects, moves, windows or metadata take. -/
def usedBlocks (s : State) (isH : Bool) : List Nat :=
  let t := if isH then 1 else 2
  s.objs.flatMap (fun o =>
    (if o.tier = t then o.blocks else []) ++
    o.oldHomes.flatMap (fun h => (if h.tier = t then h.blocks else []) ++ (if isH then h.win.map Prod.fst else [])) ++
    (match o.move with | some m => if m.tier = t then m.blocks else [] | none => []) ++
    (if isH then o.win.map Prod.fst else [])) ++
  s.chases.flatMap fun e => (e.2.metaBlks.filter fun x => x.1 == t).map Prod.snd

/-- Free blocks of a chase in a tier, lowest first; for tier H those of one die (DEDUCED, log 15). -/
def freeBlocks (s : State) (c : Nat) (isH : Bool) (die : Nat) : List Nat :=
  let ch := chase s c
  let gs := if isH then ch.granH.filter (fun g => g / 288 == die) else ch.granB
  let used := usedBlocks s isH
  (gs.flatMap fun g => (List.range (granBlocks isH)).map fun i => g * granBlocks isH + i).filter
    fun b => !used.contains b

/-- Dies on which a chase holds tier H granules, ascending (R253). -/
def diesOf (s : State) (c : Nat) : List Nat :=
  (List.range 4).filter fun d => (chase s c).granH.any fun g => g / 288 == d

/-- Choose n blocks for an object homed in a tier on a die (4 for SPREAD), none when too few are free. -/
def pickBlocks (s : State) (c : Nat) (isH : Bool) (die n : Nat) : Option (List Nat) :=
  if isH && die == 4 then
    let ds := diesOf s c
    let frees := ds.map (freeBlocks s c true)
    let picks := (List.range n).map fun i => (frees.getD (i % ds.length) []).getD (i / ds.length) 0
    let enough := !ds.isEmpty && (List.range ds.length).all fun k =>
      decide ((n + ds.length - 1 - k) / ds.length ≤ (frees.getD k []).length)
    if enough then some picks else none
  else
    let f := freeBlocks s c isH die
    if n ≤ f.length then some (f.take n) else none

/-- Entries of block lists that one metadata block holds (R254). -/
def metaEntries : Nat := blockBytes / 8

/-- The die on which an object's block list lies; tier B has one place (R254). -/
def metaDie (tierNo die : Nat) (blocks : List Nat) : Nat :=
  if tierNo = 2 then 0 else if die = 4 then blocks.headD 0 / 512 / 288 else die

/-- Metadata blocks that a chase needs in a tier and die for the given objects' block lists, those of moves in
progress included. -/
def metaNeed (objs : List Obj) (c tierNo die : Nat) : Nat :=
  let entries (t d : Nat) (bs : List Nat) : Nat := if t = tierNo ∧ metaDie t d bs = die then bs.length else 0
  ceilDiv ((objs.filter fun o => o.chase == c).foldl (fun a o =>
    a + entries o.tier o.homeDie o.blocks + (match o.move with | some m => entries m.tier m.die m.blocks | none => 0)) 0)
    metaEntries

/-- Metadata blocks that a chase has in a tier and die. -/
def metaHave (s : State) (c tierNo die : Nat) : List (Nat × Nat) :=
  (chase s c).metaBlks.filter fun x => x.1 == tierNo && (tierNo == 2 || x.2 / 512 / 288 == die)

/-- Bring the metadata blocks of a chase in a tier and die to what its block lists need: take the lowest free blocks,
or give back the highest; none when too few are free. -/
def fitMeta (s : State) (c tierNo die : Nat) : Option State :=
  let need := metaNeed s.objs c tierNo die
  let have' := metaHave s c tierNo die
  if need ≤ have'.length then
    let drop := have'.drop need
    some (modChase s c fun ch => { ch with metaBlks := ch.metaBlks.filter fun x => !drop.contains x })
  else
    let f := freeBlocks s c (tierNo == 1) die
    let k := need - have'.length
    if k ≤ f.length then
      some (modChase s c fun ch => { ch with metaBlks := ch.metaBlks ++ (f.take k).map fun b => (tierNo, b) })
    else none

/-- Remove an object with its blocks, its window and the metadata that is no longer needed (R257, R262). -/
def dropObj (s : State) (o : Obj) : State :=
  let s' := { s with objs := s.objs.filter fun x => !(x.chase == o.chase && x.objId == o.objId) }
  (fitMeta s' o.chase o.tier (metaDie o.tier o.homeDie o.blocks)).getD s'

/-! ### Concordance tables that a PUT writes (R310) -/

/-- Byte of the concordance object where an entry stands. -/
def concOffset (e : ConcEntry) : Nat := e.bucket * 512 + e.place * 128

/-- The entry that 128 bytes of a concordance object stand for, none with NODE_ID 0 (R310). The bytes do not name the
pool: `pool` does. -/
def concParse (obj pool bucket place : Nat) (b : Bytes) : Option ConcEntry :=
  if field b 0 8 = 0 then none
  else some
    { obj := obj, node := field b 0 8, parent := field b 8 8, folio := field b 16 4, refs := field b 20 4
      children := field b 24 2, kvClass := field b 26 2, lastUse := field b 32 8
      tokens := (List.range 16).map fun i => field b (64 + 4 * i) 4, pool := pool, bucket := bucket, place := place }

/-- The walker sees what a PUT has written into bytes [off, off + len) of a concordance object: the entries there are
those that its bytes stand for (R310). The pool of an entry stays, or is that of the first serving entry with the
object as CONC_OBJ (log 94). -/
def concReread (s : State) (c id off len : Nat) : State :=
  let ch := chase s c
  let pool := (ch.serving.find? fun e => e.concObj == id).map ServeFields.poolObj
  match findObj s c id with
  | none => s
  | some o =>
    if len = 0 ∨ (pool.isNone ∧ !ch.conc.any fun e => e.obj == id) then s
    else
      let slots := (List.range ((off + len - 1) / 128 - off / 128 + 1)).map (off / 128 + ·)
      let old := ch.conc
      let new := slots.filterMap fun k =>
        let was := old.find? fun e => e.obj == id && concOffset e == 128 * k
        concParse id ((was.map ConcEntry.pool).getD (pool.getD 0)) (k / 4) (k % 4) (objRead s o (128 * k) 128).1
      modChase s c fun ch =>
        { ch with conc := old.filter (fun e => e.obj != id || !slots.contains (concOffset e / 128)) ++ new }

/-! ### PUT, GET and MOVE once they reach the object -/

/-- Count spoiled granules that reads deliver to a chase (R252, CHEV 13). -/
def countSpoiled (s : State) (c n : Nat) : State :=
  modChase s c fun ch =>
    let l := ch.chev ++ List.replicate (14 - ch.chev.length) 0
    { ch with chev := l.modify 13 (sat32 · n) }

/-- PUT at an object that nobody holds (R388): data from PUT is never spoiled, and a concordance table that it writes
holds what its bytes say (R310). -/
def doPut (s : State) (c id off : Nat) (data : Bytes) (session reqId : Nat) : State :=
  match findObj s c id with
  | none => replyLive s session reqId St.notFound 0 []
  | some o =>
    if o.state = .sealed then replyLive s session reqId St.wrongState 0 []
    else
      let s := concReread (objWrite s o off (data.map fun b => (b, false))) c id off data.length
      replyLive (countLost s (objGrans o off data.length)) session reqId St.done 0 []

/-- GET at an object that nobody holds (R388): SPOILED when a granule read is spoiled. -/
def doGet (s : State) (c id off len : Nat) (session reqId : Nat) : State :=
  match findObj s c id, liveOf s session reqId with
  | some o, some l =>
    let (data, n) := objRead s o off len
    let s := if n = 0 then s else countSpoiled s c n
    let s := countLost s (objGrans o off len)
    emitReply s { mkReply l.ep session l.opcode reqId St.done 0 data with flags := if n = 0 then 0 else 1 }
  | _, _ => replyLive s session reqId St.notFound 0 []

/-- Whether an IN_SERVICE forme of a chase reads an object through a TIER = 1 descriptor (R264). -/
def readThroughWindow (s : State) (c id : Nat) : Bool :=
  (chase s c).images.any fun i => i.state == .inService && i.body.tensors.any fun d => d.tier == 1 && d.objId == id

/-- The window blocks that stay when a window shrinks to n: unfilled ones go first, then the block whose last read
lies furthest in the past (R264). -/
def shrinkWin : Nat → List (Nat × Option Nat × Nat) → Nat → List (Nat × Option Nat × Nat)
  | 0, w, _ => w
  | fuel + 1, w, n =>
    if w.length ≤ n then w
    else
      let rank (e : Nat × Option Nat × Nat) : Nat := if e.2.1.isNone then 0 else e.2.2 + 1
      let least := ((w.map rank).min?).getD 0
      shrinkWin fuel (w.eraseP fun e => rank e == least) n

/-- WINDOW_SET at an object that does not move (R262, R264). A window that is freed, or moved to another die, waits for
the steps that read it; a smaller one gives up its blocks at once, since a step reads a block only while a fill takes
it. -/
def doWindow (s : State) (c id window die : Nat) (session reqId : Nat) : State :=
  match findObj s c id with
  | none => replyLive s session reqId St.notFound 0 []
  | some o =>
    let n := window / blockBytes
    let put (w : List (Nat × Option Nat × Nat)) : State :=
      replyLive (modObj s c id fun o => { o with window := window, homeDie := die, win := w }) session reqId St.done 0 []
    let fresh (s : State) (k : Nat) : Option (List (Nat × Option Nat × Nat)) :=
      let f := freeBlocks s c true die
      if k ≤ f.length then some ((f.take k).map fun b => (b, none, 0)) else none
    if o.isMutable ∨ o.tier ≠ 2 then replyLive s session reqId St.wrongState 0 []
    else if (window = 0 ∨ die ≠ o.homeDie) ∧ readThroughWindow s c id then
      replyLive s session reqId St.wrongState 0 []
    else if (window = 0 ∨ die ≠ o.homeDie) ∧ !o.win.isEmpty ∧ !o.readers.isEmpty then
      modObj s c id fun o => { o with winWait := o.winWait ++ [(window, die, session, reqId)] }
    else if die ≠ o.homeDie then
      match fresh (modObj s c id fun o => { o with win := [] }) n with
      | some w => put w
      | none => replyLive s session reqId St.noResources 0 []
    else if n ≤ o.win.length then put (shrinkWin o.win.length o.win n)
    else
      match fresh s (n - o.win.length) with
      | some w => put (o.win ++ w)
      | none => replyLive s session reqId St.noResources 0 []

/-- The steps that read an object may have ended: WINDOW_SETs that waited for them go on (R264). -/
def settleWindow (s : State) (c id : Nat) : State :=
  match findObj s c id with
  | none => s
  | some o =>
    if o.winWait.isEmpty || !o.readers.isEmpty then s
    else
      o.winWait.foldl (fun s w => doWindow s c id w.1 w.2.1 w.2.2.1 w.2.2.2)
        (modObj s c id fun o => { o with winWait := [] })

/-- What a PUT or GET that has reached its object waits for in its memory (R244, R265). -/
def waitStall (s : State) (w : ObjWait) : Option (Nat × Nat) :=
  if w.opcode = 0x41 ∨ w.opcode = 0x43 then
    match findObj s w.obj.1 w.obj.2 with
    | some o => (objGrans o w.a (if w.opcode = 0x41 then w.data.length else w.b)).findSome? fun g => accessStall s g.1 g.2
    | none => none
  else none

/-- MOVE of an object that is IDLE or SEALED (R258 steps 1 and 2): the destination blocks and the metadata for its new
block list (R254) are taken, or the command completes with NO_RESOURCES and the object is unchanged. -/
def doMove (s : State) (c id tierNo die : Nat) (session reqId : Nat) : State :=
  match findObj s c id with
  | none => replyLive s session reqId St.notFound 0 []
  | some o =>
    match pickBlocks s c (tierNo == 1) die o.blocks.length with
    | none => replyLive s session reqId St.noResources 0 []
    | some bs =>
      let s' := modObj s c id fun o => { o with state := .moving, move := some ⟨tierNo, die, bs, (session, reqId)⟩ }
      (fitMeta s' c tierNo (metaDie tierNo die bs)).getD (replyLive s session reqId St.noResources 0 [])

/-- Run a waiting object command that has reached its object. -/
def runWait (s : State) (w : ObjWait) : State :=
  let s := { s with objWaits := s.objWaits.filter (· != w) }
  match w.opcode with
  | 0x41 => doPut s w.obj.1 w.obj.2 w.a w.data w.hdr.session w.hdr.reqId
  | 0x43 => doGet s w.obj.1 w.obj.2 w.a w.b w.hdr.session w.hdr.reqId
  | 0x46 => doWindow s w.obj.1 w.obj.2 w.a w.b w.hdr.session w.hdr.reqId
  | _ => doMove s w.obj.1 w.obj.2 w.a w.b w.hdr.session w.hdr.reqId

/-- Let the next waiters at an object that has become free: commands run in arrival order until a step takes the
hold, a move begins or a command waits for its memory (R256, R265). Fuel bounds the number of waiters. -/
def wakeObj : Nat → State → Nat → Nat → State
  | 0, s, _, _ => s
  | fuel + 1, s, c, id =>
    match findObj s c id with
    | none => s
    | some o =>
      if o.state = .held ∨ o.state = .moving then s
      else
        match o.waiters with
        | [] => s
        | .step n :: r =>
          let s := modObj s c id fun o => { o with waiters := r, state := .held, holder := some n }
          { s with reqs := kmod s.reqs n fun q => { q with holds := nset q.holds id } }
        | .cmd a b :: r =>
          match s.objWaits.find? fun w => w.hdr.session == a && w.hdr.reqId == b with
          | none => wakeObj fuel (modObj s c id fun o => { o with waiters := r }) c id
          | some w =>
            match waitStall s w with
            | some k => stallMem s c k
            | none => wakeObj fuel (runWait (modObj s c id fun o => { o with waiters := r }) w) c id

/-- Release a hold on an object and let the next waiter at it (R256). -/
def releaseHold (s : State) (c n id : Nat) : State :=
  match findObj s c id with
  | some o =>
    if o.holder = some n then
      let s := modObj s c id fun o => { o with state := .idle, holder := none }
      wakeObj (o.waiters.length + 1) s c id
    else s
  | none => s

/-- Memory channels serve again: what waited for those that `back` names, by `memKey`, goes on. -/
def memResume (s : State) (back : Nat → Bool) : State :=
  let goes (ch : Chase) : Chase :=
    { ch with waiting := ch.waiting.filter fun w => !(decide (33554432 ≤ w.1) && back w.1) }
  let s : State := { s with chases := s.chases.map fun e => (e.1, goes e.2) }
  (s.objs.filter fun (o : Obj) => !o.waiters.isEmpty).foldl (fun s o => wakeObj (o.waiters.length + 1) s o.chase o.objId) s

/-- Which objects' reading a step gives up: the reader leaves, a source of a finished move goes with its last reader,
and a WINDOW_SET that waited goes on (R257, R259, R264). -/
def endReads (s : State) (c : Nat) (ids : List Nat) (gone : Nat → Bool) : State :=
  let s := { s with objs := s.objs.map fun o =>
    if o.chase = c ∧ ids.contains o.objId then
      { o with
        readers := o.readers.filter fun n => !gone n
        oldHomes := (o.oldHomes.map fun h => { h with steps := h.steps.filter fun n => !gone n }).filter
          fun h => !h.steps.isEmpty }
    else o }
  ids.foldl (fun s id => settleWindow s c id) s

/-- The object as the step with number n reads it: at the source of a move that was finished after the step began
(R259). -/
def Obj.seenBy (o : Obj) (n : Nat) : Obj :=
  match o.oldHomes.find? fun h => h.steps.contains n with
  | some h => { o with tier := h.tier, blocks := h.blocks, win := h.win }
  | none => o

end Sys2Proof.Machine
end

