-- ==== Sys2Proof/Machine/Flags.lean ====
section
/-! DEFINITION. The five exception flags (R93, R94) and the rounding modes (R89). -/

namespace Sys2Proof.Machine

/-- Sticky flags: bit 0 NV, 1 DZ, 2 OF, 3 UF, 4 NX, the order in which R119 numbers them. -/
abbrev Flags := BitVec 5

namespace Fl
/-- No flag. -/
def none : Flags := 0
/-- Invalid, the only flag of its result (R94). -/
def nv : Flags := 1
/-- Divide-by-zero, which comes with no other flag (R94). -/
def dz : Flags := 2
/-- Overflow, with inexact (R94). -/
def ofx : Flags := 20
/-- Underflow, with inexact (R94). -/
def ufx : Flags := 24
/-- Inexact. -/
def nx : Flags := 16
end Fl

/-- The flags of a result computed in two steps: NV excludes the others (R94). -/
def Flags.join (a b : Flags) : Flags := if a == Fl.nv || b == Fl.nv then Fl.nv else a ||| b

/-- Flag number i of a set of flags (R119: 0 NV, 1 DZ, 2 OF, 3 UF, 4 NX; no other number names a flag). -/
def Flags.bit (f : Flags) (i : Nat) : Bool := f.getLsbD i

/-- How a result is rounded (R89). -/
inductive Rnd where
  | rne | rtz | sr
  deriving DecidableEq, Repr

/-- The mode of an RND field; 0b11 is refused by the loader (R89) and reads as round to nearest even. -/
def Rnd.ofCode : Nat → Rnd
  | 1 => .rtz
  | 2 => .sr
  | _ => .rne

/-- Number of bits of a natural number. -/
def bitLen (n : Nat) : Nat := if n = 0 then 0 else Nat.log2 n + 1

end Sys2Proof.Machine
end

