-- ==== Sys2Proof/Machine/Random.lean ====
section
/-! DEFINITION. The published bit-mixing functions that the rules name: Philox-4x32-10 (R92, R317), the CRC-8 of a
token header (R142) and SipHash-2-4 (R309, R381). Their constants are the published ones (PRESUMED, log 8). -/

namespace Sys2Proof.Machine

/-- One Philox round on the counter words c0 to c3 with the key words k0 and k1. -/
def philoxRound (c : Nat × Nat × Nat × Nat) (k0 k1 : Nat) : Nat × Nat × Nat × Nat :=
  let p0 := 0xD2511F53 * c.1
  let p1 := 0xCD9E8D57 * c.2.2.1
  (Nat.xor (Nat.xor (p1 / 2 ^ 32) c.2.1) k0, p1 % 2 ^ 32, Nat.xor (Nat.xor (p0 / 2 ^ 32) c.2.2.2) k1, p0 % 2 ^ 32)

/-- n rounds with the key raised between them. -/
def philoxRounds : Nat → Nat × Nat × Nat × Nat → Nat → Nat → Nat × Nat × Nat × Nat
  | 0, c, _, _ => c
  | n + 1, c, k0, k1 =>
    philoxRounds n (philoxRound c k0 k1) ((k0 + 0x9E3779B9) % 2 ^ 32) ((k1 + 0xBB67AE85) % 2 ^ 32)

/-- Philox-4x32-10 of a 64-bit seed and a counter (R92). -/
def philox (seed : Nat) (c0 c1 c2 c3 : Nat) : Nat × Nat × Nat × Nat :=
  philoxRounds 10 (c0, c1, c2, c3) (seed % 2 ^ 32) (seed / 2 ^ 32 % 2 ^ 32)

/-- Word j of a Philox result. -/
def philoxWord (x : Nat × Nat × Nat × Nat) (j : Nat) : Nat :=
  match j with
  | 0 => x.1
  | 1 => x.2.1
  | 2 => x.2.2.1
  | _ => x.2.2.2

/-- The 16-bit random number of element i of operation `op` of a tile (R92). -/
def srRandom (seed op tile imp tag i : Nat) : Nat :=
  let x := philox seed (i / 8) (imp % 16 * 65536 + tag % 65536) (op % 4096 * 2048 + tile % 2048) 1
  philoxWord x (i % 8 / 2) / (if i % 2 = 0 then 1 else 65536) % 65536

/-- CRC-8 of n bits of w, most significant bit first, polynomial x^8 + x^2 + x + 1, initial value r. -/
def crc8Bits : Nat → Nat → Nat → Nat
  | 0, _, r => r
  | n + 1, w, r =>
    let top := Nat.xor (r / 128 % 2) (w / 2 ^ n % 2)
    let r := r * 2 % 256
    crc8Bits n w (if top = 1 then Nat.xor r 7 else r)

/-- Rotate a 64-bit number left. -/
def rotl64 (x k : Nat) : Nat := (x * 2 ^ k) % 2 ^ 64 + x / 2 ^ (64 - k)

/-- One SipHash round. -/
def sipRound (v : Nat × Nat × Nat × Nat) : Nat × Nat × Nat × Nat :=
  let v0 := (v.1 + v.2.1) % 2 ^ 64
  let v1 := Nat.xor (rotl64 v.2.1 13) v0
  let v0 := rotl64 v0 32
  let v2 := (v.2.2.1 + v.2.2.2) % 2 ^ 64
  let v3 := Nat.xor (rotl64 v.2.2.2 16) v2
  let v0 := (v0 + v3) % 2 ^ 64
  let v3 := Nat.xor (rotl64 v3 21) v0
  let v2 := (v2 + v1) % 2 ^ 64
  let v1 := Nat.xor (rotl64 v1 17) v2
  (v0, v1, rotl64 v2 32, v3)

/-- Absorb one 64-bit word with two rounds. -/
def sipAbsorb (v : Nat × Nat × Nat × Nat) (m : Nat) : Nat × Nat × Nat × Nat :=
  let v := sipRound (sipRound (v.1, v.2.1, v.2.2.1, Nat.xor v.2.2.2 m))
  (Nat.xor v.1 m, v.2.1, v.2.2.1, v.2.2.2)

/-- SipHash-2-4 under a 128-bit key of a message given as its whole 64-bit words and its last word, which holds the
rest of the bytes and the length. -/
def sipHash24 (k0 k1 : Nat) (words : List Nat) (last : Nat) : Nat :=
  let v := (Nat.xor k0 0x736F6D6570736575, Nat.xor k1 0x646F72616E646F6D, Nat.xor k0 0x6C7967656E657261,
    Nat.xor k1 0x7465646279746573)
  let v := sipAbsorb (words.foldl sipAbsorb v) last
  let v := sipRound (sipRound (sipRound (sipRound (v.1, v.2.1, Nat.xor v.2.2.1 255, v.2.2.2))))
  Nat.xor (Nat.xor v.1 v.2.1) (Nat.xor v.2.2.1 v.2.2.2)

end Sys2Proof.Machine
end

