-- ==== Sys2Proof/Machine/Tokens.lean ====
section
/-! DEFINITION. The token header of R142 with its CRC, packed and unpacked, and the handle payloads of R144. -/

namespace Sys2Proof.Machine

/-- Bits [63:8] of a token's header (R142). -/
def tokenHeaderBody (k : Token) : Nat :=
  k.fmt % 16 + 16 * (k.port % 64) + 1024 * (k.tile % 2048) + 2097152 * (k.route % 256) + 536870912 * b2n k.remote +
  1073741824 * b2n k.spoil + 2147483648 * b2n k.pred + 4294967296 * (k.imp % 16) + 68719476736 * (k.tag % 65536) +
  4503599627370496 * (k.kind % 16)

/-- A token's header: bits [63:8] and HCRC, the CRC-8 over them (R142, R146). -/
def tokenHeader (k : Token) : DWord :=
  BitVec.ofNat 64 (tokenHeaderBody k * 256 + crc8Bits 56 (tokenHeaderBody k) 0)

/-- Whether the HCRC of a header agrees with its bits [63:8] (R146). -/
def headerOk (h : DWord) : Bool := crc8Bits 56 (h.toNat / 256) 0 == h.toNat % 256

/-- The token that a header and a payload word spell (R142). -/
def tokenOf (h payload : DWord) : Token where
  kind := nbits h.toNat 60 4
  tag := nbits h.toNat 44 16
  imp := nbits h.toNat 40 4
  pred := nbit h.toNat 39
  spoil := nbit h.toNat 38
  remote := nbit h.toNat 37
  route := nbits h.toNat 29 8
  tile := nbits h.toNat 18 11
  port := nbits h.toNat 12 6
  fmt := nbits h.toNat 8 4
  payload := payload

end Sys2Proof.Machine
end

