-- ==== Sys2Proof/Machine/Formats.lean ====
section
/-! DEFINITION. The fifteen element formats: their codes (R60, R100), decoding to exact values (R61, R68, R72,
R77), rounding into a format (R89 to R91) and conversions (R73, R76, R96). -/

namespace Sys2Proof.Machine

/-- An exact value: NaN, an infinity, or (-1)^neg times m times 2^e, with signed zeros. -/
inductive FV where
  | nan
  | inf (neg : Bool)
  | fin (neg : Bool) (m : Nat) (e : Int)
  deriving DecidableEq, Repr, Inhabited

/-- What kind of special codes a floating-point format has (R61). -/
inductive Special where
  | ieee | nanOnly | noneAtAll
  deriving DecidableEq, Repr

/-- Layout of a floating-point format (R61): exponent bits, fraction bits, bias, specials. -/
structure FFmt where
  eb : Nat
  fb : Nat
  bias : Nat
  sp : Special
  deriving DecidableEq, Repr

/-- Format codes (R100). -/
def F.fp32 : Nat := 0
def F.bf16 : Nat := 1
def F.fp16 : Nat := 2
def F.e4m3 : Nat := 3
def F.e5m2 : Nat := 4
def F.e3m2 : Nat := 5
def F.e2m3 : Nat := 6
def F.e2m1 : Nat := 7
def F.int32 : Nat := 8
def F.int16 : Nat := 9
def F.int8 : Nat := 10
def F.uint8 : Nat := 11
def F.int4 : Nat := 12
def F.e8m0 : Nat := 13
def F.vlg8 : Nat := 14

/-- The floating-point layout of a format code, none for the other formats (R61). -/
def fltFmt : Nat → Option FFmt
  | 0 => some ⟨8, 23, 127, .ieee⟩
  | 1 => some ⟨8, 7, 127, .ieee⟩
  | 2 => some ⟨5, 10, 15, .ieee⟩
  | 3 => some ⟨4, 3, 7, .nanOnly⟩
  | 4 => some ⟨5, 2, 15, .ieee⟩
  | 5 => some ⟨3, 2, 3, .noneAtAll⟩
  | 6 => some ⟨2, 3, 1, .noneAtAll⟩
  | 7 => some ⟨2, 1, 1, .noneAtAll⟩
  | _ => none

/-- Width of an element in bits (R60). -/
def fmtBits : Nat → Nat
  | 0 | 8 => 32
  | 1 | 2 | 9 => 16
  | 5 | 6 => 6
  | 7 | 12 => 4
  | _ => 8

/-- Width of an element in a case register view: FP6 sits in a byte (R101, R102). -/
def viewBits (fmt : Nat) : Nat := if fmtBits fmt = 6 then 8 else fmtBits fmt

/-- Least and greatest value of an integer format, none for the others (R68). -/
def intRange : Nat → Option (Int × Int)
  | 8 => some (-2147483648, 2147483647)
  | 9 => some (-32768, 32767)
  | 10 => some (-128, 127)
  | 11 => some (0, 255)
  | 12 => some (-8, 7)
  | _ => none

/-- Two's complement of w bits. -/
def toSigned (w n : Nat) : Int := if n < 2 ^ (w - 1) then (n : Int) else (n : Int) - 2 ^ w

/-- The code of an integer in w bits. -/
def ofSigned (w : Nat) (i : Int) : Nat := (i % (2 ^ w : Int)).toNat

/-- The value of a floating-point code (R61). -/
def FFmt.decode (f : FFmt) (bits : Nat) : FV :=
  let s := bits / 2 ^ (f.eb + f.fb) % 2 == 1
  let e := bits / 2 ^ f.fb % 2 ^ f.eb
  let fr := bits % 2 ^ f.fb
  if f.sp = .ieee ∧ e = 2 ^ f.eb - 1 then
    if fr = 0 then .inf s else .nan
  else if f.sp = .nanOnly ∧ e = 2 ^ f.eb - 1 ∧ fr = 2 ^ f.fb - 1 then .nan
  else if e = 0 then .fin s fr (1 - (f.bias : Int) - f.fb)
  else .fin s (2 ^ f.fb + fr) ((e : Int) - f.bias - f.fb)

/-- The one NaN a format produces (R62); zero in the formats that have none. -/
def FFmt.nanBits (f : FFmt) : Nat :=
  match f.sp with
  | .ieee => (2 ^ f.eb - 1) * 2 ^ f.fb + 2 ^ (f.fb - 1)
  | .nanOnly => 2 ^ (f.eb + f.fb) - 1
  | .noneAtAll => 0

/-- Largest finite code without sign (R61). -/
def FFmt.maxBits (f : FFmt) : Nat :=
  match f.sp with
  | .ieee => (2 ^ f.eb - 1) * 2 ^ f.fb - 1
  | .nanOnly => 2 ^ (f.eb + f.fb) - 2
  | .noneAtAll => 2 ^ (f.eb + f.fb) - 1

/-- The sign bit of a format. -/
def FFmt.signBits (f : FFmt) (neg : Bool) : Nat := if neg then 2 ^ (f.eb + f.fb) else 0

/-- Code of an infinity: the largest finite value where the format has none, with OF and NX (R96). -/
def FFmt.infBits (f : FFmt) (neg : Bool) : Nat × Flags :=
  match f.sp with
  | .ieee => (f.signBits neg + (2 ^ f.eb - 1) * 2 ^ f.fb, Fl.none)
  | _ => (f.signBits neg + f.maxBits, Fl.ofx)

/-- Whether the part rem of 2^sh (with more below it when sticky) rounds the magnitude up (R89, R91). -/
def roundUp (rnd : Rnd) (u : Nat) (odd sticky : Bool) (rem sh : Nat) : Bool :=
  match rnd with
  | .rtz => false
  | .rne => decide (2 ^ sh < 2 * rem) || (decide (2 * rem = 2 ^ sh) && decide (0 < sh) && (odd || sticky))
  | .sr => decide (u < rem * 65536 / 2 ^ sh)

/-- Round the magnitude m * 2^e (a little more than that when sticky) to a floating-point format, with the flags
of R93 and the overflow of R90. `u` is the random number of R91. -/
def FFmt.round (f : FFmt) (rnd : Rnd) (u : Nat) (neg : Bool) (m : Nat) (e : Int) (sticky : Bool) : Nat × Flags :=
  if m = 0 ∧ sticky = false then (f.signBits neg, Fl.none)
  else
    let emin : Int := 1 - (f.bias : Int) - f.fb
    let q : Int := max emin (e + bitLen m - (f.fb + 1))
    let sh := (q - e).toNat
    let m := if q < e then m * 2 ^ (e - q).toNat else m
    let rem := m % 2 ^ sh
    let keep := m / 2 ^ sh
    let keep := if roundUp rnd u (keep % 2 == 1) sticky rem sh then keep + 1 else keep
    let inexact := sticky || rem != 0
    let (keep, q) := if keep = 2 ^ (f.fb + 1) then (2 ^ f.fb, q + 1) else (keep, q)
    let code : Int := if keep < 2 ^ f.fb then keep else (q - emin + 1) * 2 ^ f.fb + (keep - 2 ^ f.fb : Nat)
    if (f.maxBits : Int) < code then
      match f.sp, rnd with
      | .ieee, .rtz => (f.signBits neg + f.maxBits, Fl.ofx)
      | .ieee, _ => ((f.infBits neg).1, Fl.ofx)
      | _, _ => (f.signBits neg + f.maxBits, Fl.ofx)
    else
      (f.signBits neg + code.toNat,
        if inexact then (if keep < 2 ^ f.fb then Fl.ufx else Fl.nx) else Fl.none)

/-- An exact value rounded to a floating-point format: NaN and infinity by R62 and R96. -/
def FFmt.ofFV (f : FFmt) (rnd : Rnd) (u : Nat) : FV → Nat × Flags
  | .nan => if f.sp = .noneAtAll then (0, Fl.nv) else (f.nanBits, Fl.none)
  | .inf neg => f.infBits neg
  | .fin neg m e => f.round rnd u neg m e false

/-! ### Integers -/

/-- Saturate an exact integer to a range, raising OF and NX when it changes (R69). -/
def satInt (lo hi i : Int) : Int × Flags :=
  if i < lo then (lo, Fl.ofx) else if hi < i then (hi, Fl.ofx) else (i, Fl.none)

/-- Round (-1)^neg * n / 2^sh to an integer. -/
def roundInt (rnd : Rnd) (u : Nat) (neg : Bool) (n sh : Nat) (sticky : Bool) : Int × Bool :=
  let rem := n % 2 ^ sh
  let keep := n / 2 ^ sh
  let keep := if roundUp rnd u (keep % 2 == 1) sticky rem sh then keep + 1 else keep
  (if neg then -(keep : Int) else keep, sticky || rem != 0)

/-- Convert an exact value to an integer format: NaN gives 0, infinities and out-of-range values saturate, each
with NV (R96). -/
def intOfFV (lo hi : Int) (rnd : Rnd) (u : Nat) : FV → Int × Flags
  | .nan => (0, Fl.nv)
  | .inf neg => (if neg then lo else hi, Fl.nv)
  | .fin neg m e =>
    let (i, inexact) := roundInt rnd u neg (m * 2 ^ e.toNat) (-e).toNat false
    if i < lo then (lo, Fl.nv) else if hi < i then (hi, Fl.nv) else (i, if inexact then Fl.nx else Fl.none)

/-- The exact value of an integer. -/
def FV.ofInt (i : Int) : FV := .fin (decide (i < 0)) i.natAbs 0

/-! ### VLG8 (R72 to R76) -/

/-- Floor of 2^(j/8) * 2^40 for j = 0 to 7: the exact root of R76 cut at forty bits. -/
def root8 (j : Nat) : Nat :=
  [1099511627776, 1199025932245, 1307547050779, 1425890169698, 1554944255987, 1695678735018, 1849150772653,
    2016513216442].getD j 0

/-- The significand table t of R76, times 128. -/
def vlgT (j : Nat) : Nat := [128, 140, 152, 166, 181, 197, 215, 235].getD j 0

/-- A non-zero VLG8 magnitude code as the platen and BF16 see it (R76): exact with respect to the table. -/
def vlgTable (neg : Bool) (m : Nat) : FV :=
  let q := m / 8
  let r := m % 8
  if r = 0 then .fin neg 1 (4 - (q : Int)) else .fin neg (vlgT (8 - r)) (3 - (q : Int) - 7)

/-- VLG8 code to the exact value that BF16 conversion and the platen use (R72, R76). -/
def vlgDecode (b : Nat) : FV :=
  let neg := b / 128 % 2 == 1
  let m := b % 128
  if m = 127 then .fin neg 0 0 else vlgTable neg m

/-- VLG8 to FP32 or FP16: correctly rounded to nearest even from (-1)^s * 2^(4 - m/8) (R76). -/
def vlgToFlt (f : FFmt) (b : Nat) : Nat × Flags :=
  let neg := b / 128 % 2 == 1
  let m := b % 128
  if m = 127 then (f.signBits neg, Fl.none)
  else if m % 8 = 0 then f.round .rne 0 neg 1 (4 - (m / 8 : Nat)) false
  else f.round .rne 0 neg (root8 (8 - m % 8)) (3 - (m / 8 : Nat) - 40) true

/-- Sign of 16 * (4 - log2 x) - k for x = m * 2^e, m odd or not: whether x^16 * 2^k < 2^64, compared exactly
(R73 has no ties). -/
def vlgAbove (m : Nat) (e : Int) (k : Nat) : Bool :=
  -- x^16 * 2^k < 2^64  iff  m^16 * 2^(16 e + k - 64) < 1
  let p : Int := 16 * e + k - 64
  if 0 ≤ p then decide (m ^ 16 * 2 ^ p.toNat < 1) else decide (m ^ 16 < 2 ^ (-p).toNat)

/-- The code that minimises |m - 8 (4 - log2 x)| among 0 to 126, for x within range: the number of half-steps
(odd k = 2 m + 1) that x lies beyond. -/
def vlgCode (m : Nat) (e : Int) : Nat :=
  (List.range 126).countP fun i => vlgAbove m e (2 * i + 1)

/-- Conversion of an exact value to VLG8 (R73). -/
def vlgOfFV : FV → Nat × Flags
  | .nan => (127, Fl.nv)
  | .inf neg => (if neg then 128 else 0, Fl.ofx)
  | .fin neg 0 _ => (if neg then 255 else 127, Fl.none)
  | .fin neg m e =>
    let s := if neg then 128 else 0
    -- 8 (4 - log2 x) < 0  iff  x > 2^4
    let above : Bool := if 0 ≤ e then decide (16 < m * 2 ^ e.toNat) else decide (16 * 2 ^ (-e).toNat < m)
    if above then (s, Fl.ofx)
    else if vlgAbove m e 253 then (s + 127, Fl.ufx)
    else
      let k := vlgCode m e
      -- exact when x is a power of two 2^(k/8) with k a multiple of 8
      let exact : Bool := m == 2 ^ Nat.log2 m
      (s + k, if exact then Fl.none else Fl.nx)

/-! ### E8M0 (R77, R96) -/

/-- The value of an E8M0 scale (R77). -/
def e8m0Decode (b : Nat) : FV := if b = 255 then .nan else .fin false 1 ((b : Int) - 127)

/-- Conversion of FP32, BF16 or FP16 to E8M0 (R96). -/
def e8m0OfFV : FV → Nat × Flags
  | .nan => (255, Fl.nv)
  | .inf _ => (255, Fl.nv)
  | .fin _ m e =>
    if m = 0 then (0, Fl.ufx)
    else
      let l : Int := e + Nat.log2 m
      if l < -127 then (0, Fl.ufx) else if 127 ≤ l then (254, Fl.none) else ((l + 127).toNat, Fl.none)

/-! ### Conversions (R96) -/

/-- The code of an element as its register holds it: FP6 containers drop bits 7:6 (R102). -/
def maskFmt (fmt bits : Nat) : Nat := bits % 2 ^ fmtBits fmt

/-- The exact value of an element. VLG8 stands with its table value (R76). -/
def decode (fmt bits : Nat) : FV :=
  let bits := maskFmt fmt bits
  match fltFmt fmt with
  | some f => f.decode bits
  | none =>
    match fmt with
    | 8 => FV.ofInt (toSigned 32 bits)
    | 9 => FV.ofInt (toSigned 16 bits)
    | 10 => FV.ofInt (toSigned 8 bits)
    | 11 => FV.ofInt bits
    | 12 => FV.ofInt (toSigned 4 bits)
    | 13 => e8m0Decode bits
    | _ => vlgDecode bits

/-- The integer an integer element holds (R68). -/
def decodeInt (fmt bits : Nat) : Int :=
  if fmt = F.uint8 then (maskFmt fmt bits : Int) else toSigned (fmtBits fmt) (maskFmt fmt bits)

/-- Layouts used by name. -/
def fFP32 : FFmt := ⟨8, 23, 127, .ieee⟩
def fBF16 : FFmt := ⟨8, 7, 127, .ieee⟩
def fFP16 : FFmt := ⟨5, 10, 15, .ieee⟩

/-- Conversion of a floating-point value to any format but itself (R96). -/
def cvtFlt (dst : Nat) (rnd : Rnd) (u : Nat) (v : FV) : Nat × Flags :=
  match fltFmt dst with
  | some f => f.ofFV rnd u v
  | none =>
    match intRange dst with
    | some (lo, hi) =>
      let (i, fl) := intOfFV lo hi rnd u v
      (ofSigned (fmtBits dst) i, fl)
    | none => if dst = F.e8m0 then e8m0OfFV v else vlgOfFV v

/-- Conversion of element `bits` from format src to format dst (R96), with the slot's rounding and the element's
random number. DEDUCED (log 7): the two roundings of an integer to FP8, FP6 or FP4 take the same mode and number.
DESIGN CHOICE (log 85): BF16 to FP16 and FP16 to BF16, for which R96 has no row, round by RND as the row of FP32 says. -/
def cvt (src dst : Nat) (rnd : Rnd) (u bits : Nat) : Nat × Flags :=
  let b := maskFmt src bits
  if src = dst then
    match fltFmt src with
    | some f => (match f.decode b with | .nan => (f.nanBits, Fl.none) | _ => (b, Fl.none))
    | none => (b, Fl.none)
  else if src = F.vlg8 then
    if dst = F.bf16 then fBF16.ofFV .rne 0 (vlgDecode b)
    else if dst = F.fp16 then vlgToFlt fFP16 b
    else
      let (x, fl) := vlgToFlt fFP32 b
      if dst = F.fp32 then (x, fl)
      else
        let (y, fl2) := cvtFlt dst rnd u (fFP32.decode x)
        -- R93: a conversion to E8M0 raises only the flags of its row
        (y, if dst = F.e8m0 then fl2 else fl.join fl2)
  else if src = F.e8m0 then cvtFlt dst rnd u (e8m0Decode b)
  else
    match intRange src with
    | some _ =>
      let i := decodeInt src b
      match intRange dst with
      | some (lo, hi) =>
        let (j, fl) := satInt lo hi i
        (ofSigned (fmtBits dst) j, fl)
      | none =>
        if dst = F.e8m0 then (Config.cvtUnlisted src b % 256, Fl.none)
        else if dst ≤ 2 then cvtFlt dst rnd u (FV.ofInt i)
        else
          let (x, fl) := fFP32.ofFV rnd u (FV.ofInt i)
          if dst = F.vlg8 then
            let (y, fl2) := vlgOfFV (fFP32.decode x)
            -- R93: a conversion to E8M0 raises only the flags of its row
        (y, if dst = F.e8m0 then fl2 else fl.join fl2)
          else
            let (y, fl2) := cvtFlt dst rnd u (fFP32.decode x)
            -- R93: a conversion to E8M0 raises only the flags of its row
        (y, if dst = F.e8m0 then fl2 else fl.join fl2)
    | none =>
      if dst = F.e8m0 ∧ 3 ≤ src then (Config.cvtUnlisted src b % 256, Fl.none)
      else cvtFlt dst rnd u (decode src b)

end Sys2Proof.Machine
end

