-- ==== Sys2Proof/Machine/Transc.lean ====
section
/-! DEFINITION. EXP, LOG, RSQRT, TANH and ERF (R122): each function in fixed point with 320 bits below the point, far
finer than any destination, and the FP32 codes that the error bound of R122 allows around it. -/

namespace Sys2Proof.Machine

/-- Bitwise integer square root: bits i - 1 down to 0 of the root of n above r. -/
def isqrtBits (n : Nat) : Nat → Nat → Nat
  | 0, r => r
  | i + 1, r => isqrtBits n i (if (r + 2 ^ i) * (r + 2 ^ i) ≤ n then r + 2 ^ i else r)

/-- Integer square root. -/
def isqrt (n : Nat) : Nat := isqrtBits n (bitLen n / 2 + 1) 0

/-- One in fixed point. -/
def fxOne : Int := 2 ^ 320

/-- The natural logarithm of 2 in fixed point. -/
def fxLn2 : Int :=
  1480553391661173448385607439722553250922680800745876974795605978609098082859138712941075737848984

/-- 2 / sqrt(pi) in fixed point. -/
def fxErf : Int :=
  2410203272519249216264429303418431786590919952803993071303316359311055940753903742343790935809570

/-- The magnitude m * 2^e in fixed point; every finite FP32 value below 2^10 is a multiple of 2^-149. -/
def fxOf (m : Nat) (e : Int) : Int := m * 2 ^ (e + 320).toNat

/-- Terms n, n + 1, ... of the series of e^r. -/
def expSum (r : Int) : Nat → Nat → Int → Int → Int
  | 0, _, _, acc => acc
  | fuel + 1, n, t, acc => expSum r fuel (n + 1) (t * r / fxOne / n) (acc + t)

/-- e^x as a fixed-point number between 1/2 and 2, and a power of two. -/
def fxExp (x : Int) : Nat × Int :=
  let k := (2 * x + fxLn2) / (2 * fxLn2)
  ((expSum (x - k * fxLn2) 80 1 fxOne 0).toNat, k)

/-- Terms n, n + 2, ... of the series of the inverse hyperbolic tangent, t being the power in turn and z2 the square. -/
def atanhSum (z2 : Int) : Nat → Nat → Int → Int → Int
  | 0, _, _, acc => acc
  | fuel + 1, n, t, acc => atanhSum z2 fuel (n + 2) (t * z2 / fxOne) (acc + t / n)

/-- ln (m * 2^e): the significand is brought between 1 / sqrt 2 and sqrt 2. -/
def fxLn (m : Nat) (e : Int) : Int :=
  let l := bitLen m - 1
  let (l, k) := if 2 * 4 ^ l ≤ m * m then (l + 1, e + l + 1) else (l, e + l)
  let z : Int := ((m : Int) - 2 ^ l) * fxOne / (m + 2 ^ l)
  2 * atanhSum (z * z / fxOne) 80 1 z 0 + k * fxLn2

/-- tanh of a magnitude; from 64 on it differs from 1 by less than any destination shows. -/
def fxTanh (x : Int) : Int :=
  if 64 * fxOne ≤ x then fxOne - 1
  else
    let (m, k) := fxExp (2 * x)
    let t : Int := m * 2 ^ k.toNat
    (t - fxOne) * fxOne / (t + fxOne)

/-- Terms of the series of erf: t is (-1)^n x^(2n+1) / n!. -/
def erfSum (x2 : Int) : Nat → Nat → Int → Int → Int
  | 0, _, _, acc => acc
  | fuel + 1, n, t, acc => erfSum x2 fuel (n + 1) (-(t * x2 / fxOne) / (n + 1)) (acc + t / (2 * n + 1))

/-- erf of a magnitude; from 6 on it differs from 1 by less than 2^-55. -/
def fxErfOf (x : Int) : Int :=
  if 6 * fxOne ≤ x then fxOne - 2 ^ 265 else erfSum (x * x / fxOne) 300 0 x 0 * fxErf / fxOne

/-- The value of a function of R122 (by its opcode in R119) at a finite non-zero operand: sign, significand and
exponent, a little below the exact magnitude. -/
def transcValue (opc : Nat) (neg : Bool) (m : Nat) (e : Int) : Bool × Nat × Int :=
  let big (n : Int) : Bool := decide (n < bitLen m + e)
  match opc with
  | 0x31 =>
    if big 10 then (false, 1, if neg then -2000 else 2000)
    else
      let (v, k) := fxExp (if neg then -(fxOf m e) else fxOf m e)
      (false, v, k - 320)
  | 0x32 =>
    let v := fxLn m e
    (decide (v < 0), v.natAbs, -320)
  | 0x33 =>
    let (m, e) := if e % 2 = 0 then (m, e) else (2 * m, e - 1)
    (false, isqrt (2 ^ 400 / m), -200 - e / 2)
  | 0x34 => (neg, (fxTanh (if big 10 then 64 * fxOne else fxOf m e)).toNat, -320)
  | _ => (neg, (fxErfOf (if big 10 then 64 * fxOne else fxOf m e)).toNat, -320)

/-- The bound of R122 for an FP32 destination, in units in the last place. -/
def transcBound (opc : Nat) : Nat := match opc with | 0x31 => 2 | 0x32 => 2 | 0x33 => 1 | _ => 3

/-- A code of format f lies within n units in the last place, at m * 2^e, of m * 2^e. -/
def withinUlps (f : FFmt) (n m : Nat) (e : Int) (code : Nat) : Bool :=
  match f.decode code with
  | .fin _ mc ec =>
    let emin : Int := 1 - (f.bias : Int) - f.fb
    let g := min e emin
    let q := max emin (e + bitLen m - (f.fb + 1))
    let d : Int := (m : Int) * 2 ^ (e - g).toNat - (mc : Int) * 2 ^ (ec - g).toNat
    decide (d.natAbs ≤ n * 2 ^ (q - g).toNat)
  | _ => false

/-- An FP32 magnitude lies within the bound of R122 of m * 2^e. -/
def transcWithin (opc m : Nat) (e : Int) (code : Nat) : Bool := withinUlps fFP32 (transcBound opc) m e code

/-- The FP32 result (R122): the code that lies the free number of units from the nearest one where the bound allows
it, else the nearest one. -/
def transcCode (opc m : Nat) (e : Int) (near : Nat) (free : Int) : Nat :=
  let mag : Int := (near % 2 ^ 31 : Nat) + free
  if 0 ≤ mag ∧ mag ≤ fFP32.maxBits ∧ transcWithin opc m e mag.toNat then near - near % 2 ^ 31 + mag.toNat else near

end Sys2Proof.Machine
end

