-- ==== Sys2Proof/Machine/Arith.lean ====
section
/-! DEFINITION. The elementwise operations of the vector engine on element codes (R64, R69, R74, R75, R119 to R123),
each with the flags it raises (R93, R94). -/

namespace Sys2Proof.Machine

/-! ### Exact arithmetic on values -/

/-- Negation of a value; NaN stays NaN. -/
def FV.neg : FV → FV
  | .nan => .nan
  | .inf s => .inf (!s)
  | .fin s m e => .fin (!s) m e

/-- Whether a value is negative, counting minus zero. -/
def FV.isNeg : FV → Bool
  | .nan => false
  | .inf s => s
  | .fin s _ _ => s

/-- Whether a value is a zero. -/
def FV.isZero : FV → Bool
  | .fin _ m _ => m == 0
  | _ => false

/-- The significand of a finite value scaled down to exponent e, signed. -/
def scaled (s : Bool) (m : Nat) (ex e : Int) : Int :=
  let n : Int := m * 2 ^ (ex - e).toNat
  if s then -n else n

/-- Exact sum (R64); NV for infinities of opposite signs. -/
def FV.add : FV → FV → FV × Flags
  | .nan, _ => (.nan, Fl.none)
  | _, .nan => (.nan, Fl.none)
  | .inf a, .inf b => if a = b then (.inf a, Fl.none) else (.nan, Fl.nv)
  | .inf a, _ => (.inf a, Fl.none)
  | _, .inf b => (.inf b, Fl.none)
  | .fin sa ma ea, .fin sb mb eb =>
    let e := Min.min ea eb
    let t := scaled sa ma ea e + scaled sb mb eb e
    if t = 0 then (.fin (sa && sb) 0 0, Fl.none) else (.fin (decide (t < 0)) t.natAbs e, Fl.none)

/-- Exact product; NV for zero times infinity. -/
def FV.mul : FV → FV → FV × Flags
  | .nan, _ => (.nan, Fl.none)
  | _, .nan => (.nan, Fl.none)
  | .inf a, .inf b => (.inf (a != b), Fl.none)
  | .inf a, .fin sb mb _ => if mb = 0 then (.nan, Fl.nv) else (.inf (a != sb), Fl.none)
  | .fin sa ma _, .inf b => if ma = 0 then (.nan, Fl.nv) else (.inf (sa != b), Fl.none)
  | .fin sa ma ea, .fin sb mb eb => (.fin (sa != sb) (ma * mb) (ea + eb), Fl.none)

/-- Exact comparison: none when an operand is NaN (R121). The two zeros are equal. -/
def FV.compare : FV → FV → Option Ordering
  | .nan, _ => none
  | _, .nan => none
  | .inf a, .inf b => some (if a = b then .eq else if a then .lt else .gt)
  | .inf a, _ => some (if a then .lt else .gt)
  | _, .inf b => some (if b then .gt else .lt)
  | .fin sa ma ea, .fin sb mb eb =>
    let e := Min.min ea eb
    some (Ord.compare (scaled sa ma ea e) (scaled sb mb eb e))

/-! ### Rounded results -/

/-- The layout of a floating-point format code. -/
def fltOf (fmt : Nat) : FFmt := (fltFmt fmt).getD fFP32

/-- Round an exact result and its flags to a floating-point format: NaN is the format's NaN (R62). -/
def finishF (f : FFmt) (rnd : Rnd) (u : Nat) (r : FV × Flags) : Nat × Flags :=
  match r.1 with
  | .nan => (f.nanBits, r.2)
  | v => f.ofFV rnd u v

/-- Store an integer result: it saturates, it never wraps (R69). -/
def finishI (fmt : Nat) (lo hi i : Int) : Nat × Flags :=
  let (j, fl) := satInt lo hi i
  (ofSigned (fmtBits fmt) j, fl)

/-- ADD (R119). -/
def elemAdd (fmt : Nat) (rnd : Rnd) (u a b : Nat) : Nat × Flags :=
  match intRange fmt with
  | some (lo, hi) => finishI fmt lo hi (decodeInt fmt a + decodeInt fmt b)
  | none => finishF (fltOf fmt) rnd u ((decode fmt a).add (decode fmt b))

/-- SUB (R119). -/
def elemSub (fmt : Nat) (rnd : Rnd) (u a b : Nat) : Nat × Flags :=
  match intRange fmt with
  | some (lo, hi) => finishI fmt lo hi (decodeInt fmt a - decodeInt fmt b)
  | none => finishF (fltOf fmt) rnd u ((decode fmt a).add (decode fmt b).neg)

/-- MUL (R119). -/
def elemMul (fmt : Nat) (rnd : Rnd) (u a b : Nat) : Nat × Flags :=
  match intRange fmt with
  | some (lo, hi) => finishI fmt lo hi (decodeInt fmt a * decodeInt fmt b)
  | none => finishF (fltOf fmt) rnd u ((decode fmt a).mul (decode fmt b))

/-- FMA: the exact product plus c, with one rounding (R119). A NaN operand raises nothing (R94). -/
def elemFma (fmt : Nat) (rnd : Rnd) (u a b c : Nat) : Nat × Flags :=
  let f := fltOf fmt
  match decode fmt c, (decode fmt a).mul (decode fmt b) with
  | .nan, _ => (f.nanBits, Fl.none)
  | z, (p, fl) => if fl = Fl.nv then (f.nanBits, Fl.nv) else finishF f rnd u (p.add z)

/-- Quotient of two naturals rounded to an integer, with whether it was inexact. -/
def divRound (rnd : Rnd) (u n d : Nat) : Nat × Bool :=
  let q := n / d
  let r := n % d
  let up := match rnd with
    | .rtz => false
    | .rne => decide (d < 2 * r) || (decide (d = 2 * r) && q % 2 == 1)
    | .sr => decide (u < r * 65536 / d)
  (if up then q + 1 else q, r != 0)

/-- Integer DIV (R69), the quotient rounded by RND (R89; DEDUCED, log 10). -/
def elemDivInt (fmt : Nat) (lo hi : Int) (rnd : Rnd) (u : Nat) (a b : Int) : Nat × Flags :=
  if b = 0 then
    if a = 0 then (0, Fl.nv)
    else (ofSigned (fmtBits fmt) (if 0 < a then hi else lo), Fl.dz)
  else
    let (q, inexact) := divRound rnd u a.natAbs b.natAbs
    let i : Int := if (a < 0) ≠ (b < 0) then -(q : Int) else q
    let (x, fl) := finishI fmt lo hi i
    (x, if fl = Fl.none ∧ inexact then Fl.nx else fl)

/-- Floating-point DIV, correctly rounded (R119). -/
def elemDivFlt (f : FFmt) (rnd : Rnd) (u : Nat) : FV → FV → Nat × Flags
  | .nan, _ => (f.nanBits, Fl.none)
  | _, .nan => (f.nanBits, Fl.none)
  | .inf _, .inf _ => (f.nanBits, Fl.nv)
  | .inf a, .fin sb _ _ => f.infBits (a != sb)
  | .fin sa _ _, .inf b => (f.signBits (sa != b), Fl.none)
  | .fin sa ma ea, .fin sb mb eb =>
    if mb = 0 then
      if ma = 0 then (f.nanBits, Fl.nv) else ((f.infBits (sa != sb)).1, Fl.dz)
    else
      let k := 64 + bitLen mb
      f.round rnd u (sa != sb) (ma * 2 ^ k / mb) (ea - eb - k) (ma * 2 ^ k % mb != 0)

/-- DIV (R119). -/
def elemDiv (fmt : Nat) (rnd : Rnd) (u a b : Nat) : Nat × Flags :=
  match intRange fmt with
  | some (lo, hi) => elemDivInt fmt lo hi rnd u (decodeInt fmt a) (decodeInt fmt b)
  | none => elemDivFlt (fltOf fmt) rnd u (decode fmt a) (decode fmt b)

/-- SQRT, correctly rounded (R119, R93). -/
def elemSqrt (fmt : Nat) (rnd : Rnd) (u a : Nat) : Nat × Flags :=
  let f := fltOf fmt
  match decode fmt a with
  | .nan => (f.nanBits, Fl.none)
  | .inf s => if s then (f.nanBits, Fl.nv) else f.infBits false
  | .fin s m e =>
    if m = 0 then (f.signBits s, Fl.none)
    else if s then (f.nanBits, Fl.nv)
    else
      let n := (if e % 2 = 0 then m else 2 * m) * 2 ^ 128
      let r := isqrt n
      f.round rnd u false r (e / 2 - 64) (r * r != n)

/-- Pick the lesser (or the greater) of two elements: minus zero lies below plus zero; NaN gives NaN (R120). -/
def elemMinMax (isMax : Bool) (fmt a b : Nat) : Nat × Flags :=
  let x := decode fmt a
  let y := decode fmt b
  let a := maskFmt fmt a
  let b := maskFmt fmt b
  match x.compare y with
  | none => ((fltOf fmt).nanBits, Fl.none)
  | some .lt => (if isMax then b else a, Fl.none)
  | some .gt => (if isMax then a else b, Fl.none)
  | some .eq => (if x.isNeg != isMax then a else b, Fl.none)

/-- ABS (R119). -/
def elemAbs (fmt a : Nat) : Nat × Flags :=
  match intRange fmt with
  | some (lo, hi) => finishI fmt lo hi (decodeInt fmt a).natAbs
  | none =>
    match decode fmt a with
    | .nan => ((fltOf fmt).nanBits, Fl.none)
    | _ => (maskFmt fmt a % 2 ^ (fmtBits fmt - 1), Fl.none)

/-- NEG (R119). -/
def elemNeg (fmt a : Nat) : Nat × Flags :=
  match intRange fmt with
  | some (lo, hi) => finishI fmt lo hi (-(decodeInt fmt a))
  | none =>
    match decode fmt a with
    | .nan => ((fltOf fmt).nanBits, Fl.none)
    | _ => (Nat.xor (maskFmt fmt a) (2 ^ (fmtBits fmt - 1)), Fl.none)

/-- SHL by the unsigned count n (R120). -/
def elemShl (fmt n a : Nat) : Nat :=
  let w := fmtBits fmt
  if w ≤ n then 0 else a * 2 ^ n % 2 ^ w

/-- Arithmetic SHR by the unsigned count n (R120). -/
def elemShr (fmt n a : Nat) : Nat :=
  let w := fmtBits fmt
  let i := toSigned w (a % 2 ^ w)
  if w ≤ n then (if i < 0 then 2 ^ w - 1 else 0) else ofSigned w (i / (2 ^ n : Int))

/-- Predicate of CMP (R121). -/
def elemCmp (fmt pred a b : Nat) : Bool :=
  match (decode fmt a).compare (decode fmt b), pred with
  | none, 1 => true
  | none, 6 => true
  | none, _ => false
  | some o, 0 => o == .eq
  | some o, 1 => o != .eq
  | some o, 2 => o == .lt
  | some o, 3 => o != .gt
  | some o, 4 => o == .gt
  | some o, 5 => o != .lt
  | some _, _ => false

/-! ### VLG8 code arithmetic (R74) -/

/-- Sign bit of a VLG8 result. -/
def vlgSign (a b : Nat) : Nat := if (a / 128 % 2 == 1) != (b / 128 % 2 == 1) then 128 else 0

/-- A VLG8 result from its sign and its unbounded code (R74). -/
def vlgFinish (s : Nat) (m : Int) : Nat × Flags :=
  if m < 0 then (s, Fl.ofx) else if 126 < m then (s + 127, Fl.ufx) else (s + m.toNat, Fl.none)

/-- VMUL (R74). -/
def elemVmul (a b : Nat) : Nat × Flags :=
  let s := vlgSign a b
  if a % 128 = 127 ∨ b % 128 = 127 then (s + 127, Fl.none)
  else vlgFinish s ((a % 128 : Nat) + (b % 128 : Nat) - 32)

/-- VDIV (R74). -/
def elemVdiv (a b : Nat) : Nat × Flags :=
  let s := vlgSign a b
  if b % 128 = 127 then
    if a % 128 = 127 then (127, Fl.nv) else (s, Fl.dz)
  else if a % 128 = 127 then (s + 127, Fl.none)
  else vlgFinish s ((a % 128 : Nat) - (b % 128 : Nat) + 32)

/-! ### Transcendental functions (R122, R123) -/

/-- A result of R122 that is no special case of R123: the FP32 result rounded to the destination by RND. It always
raises NX, UF where what is delivered lies below the smallest normal magnitude (R93), and OF with R90. A free FP32 code
from which a narrow destination under RNE or RTZ would miss its bound of one unit gives way to the nearest code. An EXP
below the smallest subnormal follows R123, under SR by the exact value. -/
def transcResult (opc fmt : Nat) (rnd : Rnd) (u : Nat) (neg : Bool) (m : Nat) (e : Int) (free : Int) : Nat × Flags :=
  let f := fltOf fmt
  let (s, v, x) := transcValue opc neg m e
  if opc = 0x31 ∧ (bitLen v : Int) - 1 + x < 1 - (f.bias : Int) - f.fb then
    if rnd = .sr then f.round .sr u false v x true else (0, Fl.ufx)
  else
    let near := (fFP32.round .rne 0 s v x true).1
    match fFP32.decode near with
    | .fin _ _ _ =>
      let out (c : Nat) : Nat × Flags := if fmt = F.fp32 then (c, Fl.none) else cvtFlt fmt rnd u (fFP32.decode c)
      let c := transcCode opc v x near free
      let keep := fmt == F.fp32 || rnd == .sr || withinUlps f 1 v x ((out c).1 % 2 ^ (f.eb + f.fb))
      let (y, fl) := out (if keep then c else near)
      (y, if fl.bit 2 then Fl.ofx else if y % 2 ^ (f.eb + f.fb) < 2 ^ f.fb then Fl.ufx else Fl.nx)
    | _ => f.round rnd u s v x true

/-- One of EXP (0x31), LOG (0x32), RSQRT (0x33), TANH (0x34) and ERF (0x35): the special cases of R123, and else a
result within the bound of R122, free within it (log 4). -/
def elemTransc (opc fmt : Nat) (rnd : Rnd) (u a : Nat) : Nat × Flags :=
  let f := fltOf fmt
  let one := f.round .rne 0 false 1 0 false
  let v := decode fmt a
  let a32 := (fFP32.ofFV .rne 0 v).1
  let gen :=
    match v with
    | .fin s m e => transcResult opc fmt rnd u s m e (Config.transc opc (BitVec.ofNat 32 a32))
    | _ => (0, Fl.none)
  match opc, v with
  | _, .nan => (f.nanBits, Fl.none)
  | 0x31, .inf s => if s then (0, Fl.none) else f.infBits false
  | 0x31, .fin _ m _ => if m = 0 then one else gen
  | 0x32, .inf s => if s then (f.nanBits, Fl.nv) else f.infBits false
  | 0x32, .fin s m e =>
    if m = 0 then ((f.infBits true).1, Fl.dz)
    else if s then (f.nanBits, Fl.nv)
    else if FV.compare (.fin s m e) (.fin false 1 0) = some .eq then (0, Fl.none)
    else gen
  | 0x33, .inf s => if s then (f.nanBits, Fl.nv) else (0, Fl.none)
  | 0x33, .fin s m _ =>
    if m = 0 then ((f.infBits s).1, Fl.dz)
    else if s then (f.nanBits, Fl.nv)
    else gen
  | _, .inf s => (f.signBits s + one.1, Fl.none)
  | _, .fin s m _ => if m = 0 then (f.signBits s, Fl.none) else gen

end Sys2Proof.Machine
end

