-- ==== Sys2Proof/Machine/Wide.lean ====
section
/-! DEFINITION. The wide accumulator (R81) and the platen's block sums (R78 to R88, R576). -/

namespace Sys2Proof.Machine

/-- Value of a wide accumulator: sign [50], exponent [49:40] with bias 511, fraction [39:0] (R81). -/
def wDecode (w : BitVec 51) : FV :=
  let n : Nat := w.toNat
  let s := n / 2 ^ 50 == 1
  let e : Nat := n / 2 ^ 40 % 1024
  let f : Nat := n % 2 ^ 40
  if e = 0 then .fin s 0 0
  else if e = 1023 then (if f = 0 then .inf s else .nan)
  else .fin s (2 ^ 40 + f) ((e : Int) - 511 - 40)

/-- Round a value to the wide accumulator, to nearest even at 41 bits: below 2^-510 it becomes zero of its sign
with UF and NX, beyond the exponent range an infinity with OF and NX (R81). The NaN code is the model's choice
(log 11), as no operation reads it. -/
def wRound (neg : Bool) (m : Nat) (e : Int) : BitVec 51 × Flags :=
  let s : Nat := if neg then 2 ^ 50 else 0
  if m = 0 then (BitVec.ofNat 51 s, Fl.none)
  else
    let q : Int := e + bitLen m - 41
    let sh := (q - e).toNat
    let m := if q < e then m * 2 ^ (e - q).toNat else m
    let rem := m % 2 ^ sh
    let keep := m / 2 ^ sh
    let keep := if roundUp .rne 0 (keep % 2 == 1) false rem sh then keep + 1 else keep
    let (keep, q) := if keep = 2 ^ 41 then (2 ^ 40, q + 1) else (keep, q)
    let ex : Int := q + 40 + 511
    if ex < 1 then (BitVec.ofNat 51 s, Fl.ufx)
    else if 1022 < ex then (BitVec.ofNat 51 (s + 1023 * 2 ^ 40), Fl.ofx)
    else (BitVec.ofNat 51 (s + ex.toNat * 2 ^ 40 + (keep - 2 ^ 40)), if rem = 0 then Fl.none else Fl.nx)

/-- A value as a wide accumulator. -/
def wOfFV : FV → BitVec 51 × Flags
  | .nan => (BitVec.ofNat 51 (1023 * 2 ^ 40 + 2 ^ 39), Fl.none)
  | .inf s => (BitVec.ofNat 51 ((if s then 2 ^ 50 else 0) + 1023 * 2 ^ 40), Fl.none)
  | .fin s m e => wRound s m e

/-- Add a value into a wide accumulator with one rounding (R81, R88). -/
def wAdd (w : BitVec 51) (v : FV) : BitVec 51 × Flags :=
  let (t, fl) := (wDecode w).add v
  let (r, fl2) := wOfFV t
  (r, fl.join fl2)

/-- Whether a pair of formats is accumulated by single products (R85, R86): BF16, FP16 or FP32. -/
def isDirect (fa : Nat) : Bool := decide (fa ≤ 2)

/-- Whether a pair is windowed (R83): E5M2 with E4M3, E5M2 or VLG8. -/
def isWindowed (fa fb : Nat) : Bool :=
  (fa == F.e5m2 && (fb == F.e4m3 || fb == F.e5m2)) || (fb == F.e5m2 && (fa == F.e4m3 || fa == F.vlg8))

/-- The result of a block with a non-finite product or a NaN scale, none when every product is finite (R79, R88;
the rows of R88 taken in their order, DEDUCED, log 9). -/
def blockSpecial (ps : List (FV × FV)) (nanScale : Bool) : Option (FV × Flags) :=
  let isNan : FV → Bool := fun v => match v with | .nan => true | _ => false
  let isInf : FV → Bool := fun v => match v with | .inf _ => true | _ => false
  if nanScale || ps.any (fun p => isNan p.1 || isNan p.2) then some (.nan, Fl.none)
  else if ps.any (fun p => (isInf p.1 && p.2.isZero) || (isInf p.2 && p.1.isZero)) then some (.nan, Fl.nv)
  else
    let infs := ps.filter fun p => isInf p.1 || isInf p.2
    let negs := infs.map fun p => p.1.isNeg != p.2.isNeg
    if infs.isEmpty then none
    else if negs.any id && negs.any not then some (.nan, Fl.nv)
    else some (.inf (negs.any id), Fl.none)

/-- The exponent of the most significant bit of a value. -/
def topExp : FV → Option Int
  | .fin _ m e => if m = 0 then none else some (e + Nat.log2 m)
  | _ => none

/-- Cut a product below exponent l toward zero (R84), with whether a non-zero bit was discarded. -/
def cutBelow (l : Int) : FV → FV × Bool
  | .fin s m e => if e < l then (.fin s (m / 2 ^ (l - e).toNat) l, m % 2 ^ (l - e).toNat != 0) else (.fin s m e, false)
  | v => (v, false)

/-- The exact (or windowed) sum of the products of a block (R82, R84). -/
def blockSum (windowed : Bool) (ps : List (FV × FV)) : FV × Flags :=
  let prods := ps.map fun p => (p.1.mul p.2).1
  let tops := prods.filterMap topExp
  let (prods, cut) : List FV × Bool :=
    match windowed, tops.max? with
    | true, some t =>
      let cs := prods.map (cutBelow (t - 41))
      (cs.map Prod.fst, cs.any Prod.snd)
    | _, _ => (prods, false)
  let sum : FV := prods.foldl (fun (a v : FV) => (a.add v).1) (.fin false 0 0)
  (match sum with
    | .fin _ 0 _ => .fin false 0 0
    | v => v, if cut then Fl.nx else Fl.none)

/-- Multiply a value by two scales (R78). -/
def scaleBy (sa sb : FV) (v : FV) : FV :=
  match sa, sb, v with
  | .fin _ _ ea, .fin _ _ eb, .fin s m e => .fin s m (e + ea + eb)
  | _, _, v => v

/-- The high and low BF16 parts of an FP32 value (R86). -/
def splitFp32 : FV → FV × FV
  | .fin s m e =>
    let (hb, _) := fBF16.round .rne 0 s m e false
    let hb := if hb % 32768 = 0x7F80 then fBF16.signBits s + fBF16.maxBits else hb
    let hi := fBF16.decode hb
    let (lb, _) := fBF16.ofFV .rne 0 ((FV.fin s m e).add hi.neg).1
    (hi, fBF16.decode lb)
  | v => (v, .fin false 0 0)

/-- The products that a pair of operands puts into its block, in their order: the pair itself, or in FP32 mode the
three of R86. What R86 does not compute raises no flag (DESIGN CHOICE, log 81). -/
def partProducts (fa : Nat) (p : FV × FV) : List (FV × FV) :=
  if fa = F.fp32 then
    let (ah, al) := splitFp32 p.1
    let (bh, bl) := splitFp32 p.2
    [(ah, bh), (ah, bl), (al, bh)]
  else [p]

/-- Add one block of 32 products with its two scales into an accumulator (R78 to R88). In FP32 mode R88 judges the
products of R86, so an infinite operand meets the zero low part of the other one. -/
def pmacBlock (fa fb : Nat) (as bs : List Nat) (sa sb : FV) (w : BitVec 51) : BitVec 51 × Flags :=
  let ps := ((as.map (decode fa)).zip (bs.map (decode fb))).flatMap (partProducts fa)
  match blockSpecial ps (sa == .nan || sb == .nan) with
  | some (v, fl) =>
    let (w', fl2) := wAdd w v
    (w', fl.join fl2)
  | none =>
    if isDirect fa then
      ps.foldl
        (fun (acc : BitVec 51 × Flags) p =>
          let (w', fl) := wAdd acc.1 (scaleBy sa sb (p.1.mul p.2).1)
          (w', acc.2 ||| fl)) (w, Fl.none)
    else
      let (v, fl) := blockSum (isWindowed fa fb) ps
      let (w', fl2) := wAdd w (scaleBy sa sb v)
      (w', fl ||| fl2)

end Sys2Proof.Machine
end

