-- ==== Sys2Proof/Machine/Operands.lean ====
section
/-! DEFINITION. The operand forms of a tile pair: operation slots (R109, R113, R196), views of case registers (R101 to
R103), masks and their governing views (R108), address generators (R136 to R139) and accesses to the MT (R132). -/

namespace Sys2Proof.Machine

/-! ### Operation slots -/

/-- Opcode of a slot word (R196). -/
def slotOpc (w : Nat) : Nat := nbits w 56 8

/-- A vector slot (R109, R196). -/
structure VSlot where
  opc : Nat
  fmt : Nat
  fmt2 : Nat
  rnd : Nat
  men : Bool
  msel : Nat
  dst : Nat
  srca : Nat
  srcb : Nat
  srcc : Nat
  imm : Nat
  deriving DecidableEq, Repr, Inhabited

/-- The vector slot that a word spells (R196). -/
def VSlot.ofWord (w : Nat) : VSlot where
  opc := nbits w 56 8
  fmt := nbits w 52 4
  fmt2 := nbits w 48 4
  rnd := nbits w 46 2
  men := nbit w 45
  msel := nbits w 42 3
  dst := nbits w 37 5
  srca := nbits w 32 5
  srcb := nbits w 27 5
  srcc := nbits w 22 5
  imm := nbits w 0 16

/-- A PMAC slot (R113, R196). -/
structure PSlot where
  fmt : Nat
  fmt2 : Nat
  aga : Nat
  agb : Nat
  mxa : Bool
  mxb : Bool
  agsa : Nat
  agsb : Nat
  kblk : Nat
  acc : Nat
  clr : Bool
  wo : Bool
  ofmt : Nat
  rnd : Nat
  odst : Bool
  dst : Nat
  deriving DecidableEq, Repr, Inhabited

/-- The PMAC slot that a word spells (R196). -/
def PSlot.ofWord (w : Nat) : PSlot where
  fmt := nbits w 52 4
  fmt2 := nbits w 48 4
  aga := nbits w 45 3
  agb := nbits w 42 3
  mxa := nbit w 41
  mxb := nbit w 40
  agsa := nbits w 37 3
  agsb := nbits w 34 3
  kblk := nbits w 22 12
  acc := nbits w 21 1
  clr := nbit w 20
  wo := nbit w 19
  ofmt := nbits w 15 4
  rnd := nbits w 13 2
  odst := nbit w 12
  dst := nbits w 7 5

/-! ### The registers that a slot holds (R104, R114) -/

/-- Registers as the interlock counts them: case register r is r, mask register m is 32 + m, accumulator set a is
40 + a. -/
structure RegUse where
  reads : List Nat
  writes : List Nat
  deriving DecidableEq, Repr, Inhabited

/-- A group of n case registers. -/
def caseGroupOf (b n : Nat) : List Nat := (List.range n).map (b + ·)

/-- Registers on the side of an operand of width `a` bits, beside one of width `b` (R103). -/
def groupLen (a b : Nat) : Nat := Nat.max 1 (a / Nat.max 1 b)

/-- Registers of the group that a platen write-out fills, by the width of its view (R116). -/
def platenRegs (w : Nat) : Nat := match w with | 32 => 8 | 16 => 4 | 8 => 2 | _ => 1

/-- The index registers that generators read (R138). -/
def indexRegs (gens : KMap GenCfg) (l : List Nat) : List Nat :=
  l.filterMap fun i => (kget gens i).bind fun g => if g.indexed then some g.indexReg else none

/-- The generators that a slot names (R109, R113). -/
def slotGens (w : Nat) : List Nat :=
  if slotOpc w = 0x40 then
    let p := PSlot.ofWord w
    [p.aga, p.agb] ++ (if p.mxa then [p.agsa] else []) ++ (if p.mxb then [p.agsb] else []) ++
      (if p.wo && p.odst then [p.dst % 8] else [])
  else if slotOpc w = 0x02 ∨ slotOpc w = 0x03 then [(VSlot.ofWord w).imm % 8]
  else []

/-- Source registers of a vector slot (R119). -/
def VSlot.sources (v : VSlot) : List Nat :=
  let two := [v.srca, v.srcb]
  match v.opc with
  | 0x02 | 0x08 | 0x0A | 0x4B | 0x58 | 0x59 | 0x5A | 0x5B => []
  | 0x20 | 0x21 | 0x22 | 0x25 | 0x27 | 0x28 | 0x2B | 0x2C | 0x2D | 0x38 | 0x50 | 0x51 => two
  | 0x23 => two ++ [v.srcc]
  | 0x2F | 0x30 => if v.srcb = 0 then [v.srca] else two
  | 0x39 => two ++ [32 + v.srcc % 8]
  | 0x3A => caseGroupOf v.srca (groupLen (viewBits v.fmt2) (viewBits v.fmt))
  | 0x3B | 0x3F => [32 + v.srca % 8]
  | 0x3C | 0x3D | 0x3E => [32 + v.srca % 8, 32 + v.srcb % 8]
  | _ => [v.srca]

/-- Destination registers of a vector slot (R119). -/
def VSlot.dests (v : VSlot) : List Nat :=
  match v.opc with
  | 0x03 | 0x09 | 0x3B | 0x4B | 0x5A | 0x5B => []
  | 0x38 | 0x3C | 0x3D | 0x3E | 0x3F | 0x58 => [32 + v.dst % 8]
  | 0x59 => [32 + v.dst % 8, 32 + (v.dst + 1) % 8]
  | 0x3A => caseGroupOf v.dst (groupLen (viewBits v.fmt) (viewBits v.fmt2))
  | _ => [v.dst]

/-- What an operation slot reads and writes (R104, R114); a PMAC holds its accumulator set, and a group it writes out to
from its first block on (DESIGN CHOICE, log 84). -/
def slotUse (gens : KMap GenCfg) (w : Nat) : RegUse :=
  if slotOpc w = 0x40 then
    let p := PSlot.ofWord w
    { reads := indexRegs gens (slotGens w)
      writes := (40 + p.acc) :: if p.wo && !p.odst then caseGroupOf p.dst (platenRegs (viewBits p.ofmt)) else [] }
  else
    let v := VSlot.ofWord w
    { reads := v.sources ++ (if v.men then [32 + v.msel] else []) ++ indexRegs gens (slotGens w), writes := v.dests }

/-- Whether a slot must wait for what another holds: a destination that is locked or read, or a source that is locked
(R104). -/
def RegUse.clash (a held : RegUse) : Bool :=
  a.writes.any (fun r => held.writes.contains r || held.reads.contains r) || a.reads.any held.writes.contains

/-! ### Views (R101, R102) -/

/-- Row length of the view of a format. -/
def viewCols (fmt : Nat) : Nat := 512 / viewBits fmt

/-- Elements of a register in the view of a format. -/
def viewLen (fmt : Nat) : Nat := 16 * viewCols fmt

/-- The containers of a run of bytes in the view of a format, in row-major order. Bits [7:6] of an FP6 container are
part of it, though no read of the element takes them (R102). -/
def containers (fmt : Nat) (b : Bytes) : List Nat :=
  match viewBits fmt with
  | 4 => b.flatMap fun x => [x.toNat % 16, x.toNat / 16]
  | w => (List.range (b.length / (w / 8))).map fun i => field b (i * (w / 8)) (w / 8)

/-- The elements of a run of bytes in the view of a format, in row-major order. -/
def unpack (fmt : Nat) (b : Bytes) : List Nat := (containers fmt b).map (maskFmt fmt)

/-- Two nibbles to a byte, the even element low (R70). -/
def packNibbles : List Nat → Bytes
  | a :: b :: r => BitVec.ofNat 8 (a % 16 + 16 * (b % 16)) :: packNibbles r
  | [a] => [BitVec.ofNat 8 (a % 16)]
  | [] => []

/-- The bytes of a list of containers in the view of a format. FP6 elements stand one to a byte (R102). -/
def pack (fmt : Nat) (l : List Nat) : Bytes :=
  match viewBits fmt with
  | 4 => packNibbles l
  | w => l.flatMap fun v => le (w / 8) v

/-- An element as an operation reads or writes it: its code, and whether it is spoiled (R107, R289). -/
abbrev Elt := Nat × Bool

/-! ### Case registers -/

/-- A case register; one that is not listed is all zero. -/
def caseReg (x : Tile) (r : Nat) : Bytes := kgetD x.cases r (zeros 1024)

/-- Put a case register. -/
def setCase (x : Tile) (r : Nat) (b : Bytes) : Tile :=
  { x with cases := if b.all (· == 0) then kdel x.cases r else kset x.cases r b }

/-- The elements of a register in a view, each with the spoil mark of its row (R107). -/
def regElts (x : Tile) (fmt r : Nat) : List Elt :=
  (unpack fmt (caseReg x r)).zipIdx.map fun e => (e.1, x.caseSpoil.contains (16 * r + e.2 / viewCols fmt))

/-- Write elements of a register in a view: none leaves an element as it is. A row's spoil bit is set by a spoiled
element, and cleared when every element of the row is rewritten without one (R107). -/
def putElts (x : Tile) (fmt r : Nat) (new : List (Option Elt)) : Tile :=
  let old := containers fmt (caseReg x r)
  let vals := old.zipIdx.map fun e => match new.getD e.2 none with | some v => maskFmt fmt v.1 | none => e.1
  let cols := viewCols fmt
  let sp := (List.range 16).foldl (fun (sp : List Nat) row =>
    let es := (List.range cols).map fun c => new.getD (row * cols + c) none
    if es.any fun e => match e with | some v => v.2 | none => false then nset sp (16 * r + row)
    else if es.all Option.isSome then nput sp (16 * r + row) false
    else sp) x.caseSpoil
  { setCase x r (pack fmt vals) with caseSpoil := sp }

/-- Elements of an operand in the row-major order of the governing view `gov`, when its own view `fmt` is as wide or
wider: element (r, c) lies in register base + c ÷ W at column c mod W (R103). -/
def readView (x : Tile) (gov fmt base : Nat) : List Elt :=
  let wn := viewCols gov
  let w := viewCols fmt
  let regs := (List.range (wn / w)).map fun k => regElts x fmt (base + k)
  (List.range (16 * wn)).map fun j =>
    let r := j / wn
    let c := j % wn
    (regs.getD (c / w) []).getD (r * w + c % w) (0, false)

/-- Write results given in the row-major order of the governing view into an operand whose view is as wide or wider
(R103). -/
def writeView (x : Tile) (gov fmt base : Nat) (new : List (Option Elt)) : Tile :=
  let wn := viewCols gov
  let w := viewCols fmt
  (List.range (wn / w)).foldl (fun x k =>
    putElts x fmt (base + k) ((List.range (16 * w)).map fun i => new.getD ((i / w) * wn + k * w + i % w) none)) x

/-! ### Masks (R108, R129) -/

/-- A mask register. -/
def maskReg (x : Tile) (m : Nat) : BitVec 1024 := kgetD x.masks m 0

/-- Put a mask register; zero ones are not listed. -/
def setMask (x : Tile) (m : Nat) (v : BitVec 1024) : Tile :=
  { x with masks := if v = 0 then kdel x.masks m else kset x.masks m v }

/-- The mask bit that governs element j of a view: in the 4-bit view one bit governs two elements. -/
def maskIdx (fmt j : Nat) : Nat := if viewBits fmt = 4 then j / 2 else j

/-- Bits of a mask register that a view uses. -/
def maskBits (fmt : Nat) : Nat := Nat.min 1024 (viewLen fmt)

/-- Whether position j of a view is active (R129). -/
def activeAt (x : Tile) (v : VSlot) (gov j : Nat) : Bool := !v.men || (maskReg x v.msel).getLsbD (maskIdx gov j)

/-! ### Accumulators (R99, R117, R127) -/

/-- An accumulator set. -/
def accSet (x : Tile) (a : Nat) : List AccElem := kgetD x.accs a (List.replicate 2048 ⟨0, 0, false⟩)

/-- A gather accumulator. -/
def gacc (x : Tile) (i : Nat) : AccElem := kgetD x.gaccs i ⟨0, 0, false⟩

/-- Put a gather accumulator. -/
def setGacc (x : Tile) (i : Nat) (a : AccElem) : Tile := { x with gaccs := kset x.gaccs i a }

/-! ### Flag slots (R130) -/

/-- OR flags into flag slot F_(j mod 512) and the tile flag summary. -/
def orFlag (x : Tile) (j : Nat) (f : Flags) : Tile :=
  if f = Fl.none then x
  else
    let k := j % 512
    let l := x.flags ++ List.replicate (k + 1 - x.flags.length) (0 : BitVec 5)
    { x with flags := l.modify k (· ||| f), summary := x.summary ||| f }

/-- OR the flags of a list of positions. -/
def orFlags (x : Tile) (l : List (Nat × Flags)) : Tile := l.foldl (fun x e => orFlag x e.1 e.2) x

/-! ### The MT (R132, R230) -/

/-- Bytes of an MT. -/
def mtBytes : Nat := 524288

/-- Whether the granule of an MT byte address is spoiled. -/
def mtSpoiled (x : Tile) (a : Nat) : Bool := x.mtSpoil.contains (a / 64)

/-- Write bytes into one MT granule (R230): a whole granule takes the mark of the data; a part keeps a granule
spoiled when it was, and spoils it when the data is. -/
def mtPut (x : Tile) (a : Nat) (b : Bytes) (spoiled : Bool) : Tile :=
  let mark := if b.length = 64 then spoiled else mtSpoiled x a || spoiled
  { x with mt := memWriteN x.mt a b, mtSpoil := nput x.mtSpoil (a / 64) mark }

/-- Write whole granules from an MT address on. -/
def mtPutGranules (x : Tile) (a : Nat) (gs : List Granule) : Tile :=
  gs.zipIdx.foldl (fun x g => mtPut x (a + 64 * g.2) (padTo 64 g.1.data) g.1.spoil) x

/-- The granule at an MT address. -/
def mtGranule (x : Tile) (a : Nat) : Granule := ⟨memReadN x.mt (a / 64 * 64) 64, mtSpoiled x a⟩

/-- A byte string written over several granules, with one mark. -/
def mtWriteBytes (x : Tile) (a : Nat) (b : Bytes) : Tile :=
  (List.range (ceilDiv (a % 64 + b.length) 64)).foldl (fun x k =>
    let start := if k = 0 then a else a / 64 * 64 + 64 * k
    let off := start - a
    let n := Nat.min (64 - start % 64) (b.length - off)
    mtPut x start ((b.drop off).take n) false) x

/-! ### Address generators (R136 to R139, R151) -/

/-- A generator as a firing uses it: relocated or not (R151). -/
structure Gen where
  cfg : GenCfg
  /-- bytes added to BASE and to the bounds -/
  reloc : Nat
  /-- end of the handle's extent, when a handle relocates it -/
  cap : Option Nat
  deriving DecidableEq, Repr, Inhabited

/-- First byte of the generator's bounds. -/
def Gen.lo (g : Gen) : Nat := g.cfg.limitLo + g.reloc
/-- First byte beyond the generator's bounds. -/
def Gen.hi (g : Gen) : Nat := match g.cap with | some c => Nat.min (g.cfg.limitHi + g.reloc) c | none => g.cfg.limitHi + g.reloc

/-- Length of the generator's walk (R137, R138). -/
def Gen.len (g : Gen) : Nat :=
  if g.cfg.indexed then Nat.min 256 (g.cfg.ext.getD 0 0) else g.cfg.ext.foldl (· * ·) 1

/-- Indices (i0, i1, i2, i3) of walk position p. -/
def Gen.pos (g : Gen) (p : Nat) : List Nat :=
  let e := g.cfg.ext
  let e0 := e.getD 0 1
  let e1 := e.getD 1 1
  let e2 := e.getD 2 1
  [p % e0, p / e0 % e1, p / (e0 * e1) % e2, p / (e0 * e1 * e2)]

/-- Whether the index that a generator's indexed mode reads for position p lies in a spoiled row (R107). -/
def indexSpoiled (x : Tile) (g : GenCfg) (p : Nat) : Bool := g.indexed && x.caseSpoil.contains (16 * g.indexReg + p / 16)

/-- The element of a register that a generator's indexed mode reads for position p (R138). -/
def indexOf (x : Tile) (g : GenCfg) (p : Nat) : Int :=
  toSigned 32 (field (caseReg x g.indexReg) (4 * p) 4)

/-- Element offset of walk position p, none for a pad position (R137, R138). -/
def Gen.offset (x : Tile) (g : Gen) (p : Nat) : Option Int :=
  if g.cfg.indexed then
    if g.cfg.valid.getD 0 0 ≤ p then none else some (indexOf x g.cfg p * g.cfg.stride.getD 0 0)
  else
    let is := g.pos p
    if (is.zip g.cfg.valid).any fun e => decide (e.2 ≤ e.1) then none
    else some ((is.zip g.cfg.stride).foldl (fun (a : Int) e => a + (e.1 : Int) * e.2) 0)

/-- First byte, last byte and shift in bits of the element at offset o of a run that begins at byte `base` (R137). -/
def elemAddr (fmt : Nat) (base : Nat) (o : Int) : Int × Int × Nat :=
  match fmtBits fmt with
  | 4 => let a := (base : Int) + o.fdiv 2
         (a, a, if o % 2 = 0 then 0 else 4)
  | 6 => let a := (base : Int) + 3 * o.fdiv 4
         let k := 6 * (o % 4).toNat
         (a + (k / 8 : Nat), a + ((k + 5) / 8 : Nat), k % 8)
  | w => let a := (base : Int) + o * (w / 8 : Nat)
         (a, a + (w / 8 : Nat) - 1, 0)

/-- The bytes that the bounds of R139 judge for the element at offset o: its own, or its 3-byte group (R137; DEDUCED,
log 82). -/
def boundBytes (fmt : Nat) (base : Nat) (o : Int) : Int × Int :=
  if fmtBits fmt = 6 then let a := (base : Int) + 3 * o.fdiv 4
    (a, a + 2)
  else ((elemAddr fmt base o).1, (elemAddr fmt base o).2.1)

/-- What a generator's access at a walk position comes to. -/
inductive Access where
  | pad
  | fault (outside : Bool)
  | at (addr : Nat) (n : Nat) (shift : Nat)
  deriving DecidableEq, Repr, Inhabited

/-- The access of walk position p (R137 to R139): `outside` says that it lies outside the MT as well. -/
def Gen.access (x : Tile) (g : Gen) (p : Nat) : Access :=
  match g.offset x p with
  | none => .pad
  | some o =>
    let (a, b, sh) := elemAddr g.cfg.format (g.cfg.base + g.reloc) o
    let (first, last) := boundBytes g.cfg.format (g.cfg.base + g.reloc) o
    if first < (g.lo : Int) ∨ (g.hi : Int) ≤ last then .fault (decide (first < 0 ∨ (mtBytes : Int) ≤ last))
    else .at a.toNat (b - a + 1).toNat sh

/-- Read the element of an access. -/
def readAt (x : Tile) (fmt a n sh : Nat) : Elt :=
  (nbits (ofLe (memReadN x.mt a n)) sh (fmtBits fmt), mtSpoiled x a || mtSpoiled x (a + n - 1))

/-- The effect of generator accesses on what the firing reports: whether an address fault was raised, and how many
accesses lay outside the MT, each of them a violation (R139, R438, R439). -/
structure AccFx where
  fault : Bool
  outside : Nat
  deriving DecidableEq, Repr, Inhabited

/-- Combine two reports. -/
def AccFx.or (a b : AccFx) : AccFx := ⟨a.fault || b.fault, a.outside + b.outside⟩

/-- No fault. -/
def AccFx.ok : AccFx := ⟨false, 0⟩

/-- Read walk position p: pad, zero with an address fault, or the element (R137, R139); an index from a spoiled row
spoils what it leads to (R107). -/
def Gen.read (x : Tile) (g : Gen) (p : Nat) : Elt × AccFx :=
  match g.access x p with
  | .pad => ((maskFmt g.cfg.format g.cfg.pad, false), .ok)
  | .fault out => ((0, false), ⟨true, b2n out⟩)
  | .at a n sh => let e := readAt x g.cfg.format a n sh
    ((e.1, e.2 || indexSpoiled x g.cfg p), .ok)

/-- Write one element through a generator: it changes only the element's bits (R137, R230). -/
def Gen.write (x : Tile) (g : Gen) (p : Nat) (e : Elt) : Tile × AccFx :=
  match g.access x p with
  | .pad => (x, .ok)
  | .fault out => (x, ⟨true, b2n out⟩)
  | .at a n sh =>
    let old := ofLe (memReadN x.mt a n)
    let w := fmtBits g.cfg.format
    let v := old - nbits old sh w * 2 ^ sh + maskFmt g.cfg.format e.1 * 2 ^ sh
    let bytes := le n v
    let spoil := (if e.2 || indexSpoiled x g.cfg p then [a / 64, (a + n - 1) / 64] else []).foldl nset x.mtSpoil
    ({ x with mt := memWriteN x.mt a bytes, mtSpoil := spoil }, .ok)

end Sys2Proof.Machine
end

