-- ==== Sys2Proof/Machine/Image.lean ====
section
/-! DEFINITION. Forme images as bytes (R187 to R205, R266): what the loader reads from the plaintext body, and the
layout of a tile image in both directions, as a scan needs it. -/

namespace Sys2Proof.Machine

/-! ### Tile images (R194 to R198, R136) -/

/-- A number of w bits read as signed. -/
def sbits (n lo w : Nat) : Int := toSigned w (nbits n lo w)

/-- A firing-unit entry (R197). -/
def unitOfBits (n : Nat) : UnitCfg where
  en := nbit n 73
  func := nbits n 69 4
  nin := nbits n 67 2
  ins := [nbits n 61 6, nbits n 55 6, nbits n 49 6, nbits n 43 6]
  slotFirst := nbits n 31 12
  slotCount := nbits n 23 8
  tagx := nbits n 21 2
  tagn := nbits n 18 3
  hen := nbit n 17
  hgen := nbits n 14 3
  hin := nbits n 12 2
  nemit := nbits n 8 4
  emitFirst := nbits n 0 8

/-- The bits of a firing-unit entry. -/
def UnitCfg.bits (u : UnitCfg) : Nat :=
  u.emitFirst + u.nemit * 2 ^ 8 + u.hin * 2 ^ 12 + u.hgen * 2 ^ 14 + b2n u.hen * 2 ^ 17 + u.tagn * 2 ^ 18 +
  u.tagx * 2 ^ 21 + u.slotCount * 2 ^ 23 + u.slotFirst * 2 ^ 31 + u.ins.getD 3 0 * 2 ^ 43 + u.ins.getD 2 0 * 2 ^ 49 +
  u.ins.getD 1 0 * 2 ^ 55 + u.ins.getD 0 0 * 2 ^ 61 + u.nin * 2 ^ 67 + u.func * 2 ^ 69 + b2n u.en * 2 ^ 73

/-- An emit entry (R198). -/
def emitOfBits (n : Nat) : EmitCfg where
  dremote := nbit n 64
  droute := nbits n 56 8
  dtile := nbits n 45 11
  dport := nbits n 39 6
  src := nbits n 35 4
  srcarg := nbits n 2 33
  arm := nbits n 0 2

/-- The bits of an emit entry. -/
def EmitCfg.bits (e : EmitCfg) : Nat :=
  e.arm + e.srcarg * 2 ^ 2 + e.src * 2 ^ 35 + e.dport * 2 ^ 39 + e.dtile * 2 ^ 45 + e.droute * 2 ^ 56 +
  b2n e.dremote * 2 ^ 64

/-- A generator descriptor (R136). -/
def genOfBits (n : Nat) : GenCfg where
  indexReg := nbits n 320 5
  pad := nbits n 288 32
  stride := [sbits n 192 24, sbits n 216 24, sbits n 240 24, sbits n 264 24]
  valid := [nbits n 128 16, nbits n 144 16, nbits n 160 16, nbits n 176 16]
  ext := [nbits n 64 16, nbits n 80 16, nbits n 96 16, nbits n 112 16]
  indexed := nbit n 62
  format := nbits n 58 4
  limitHi := nbits n 38 20
  limitLo := nbits n 19 19
  base := nbits n 0 19

/-- The bits of a generator descriptor. -/
def GenCfg.bits (g : GenCfg) : Nat :=
  let four (l : List Nat) (w : Nat) : Nat := l.getD 0 0 + l.getD 1 0 * 2 ^ w + l.getD 2 0 * 2 ^ (2 * w) + l.getD 3 0 * 2 ^ (3 * w)
  g.base + g.limitLo * 2 ^ 19 + g.limitHi * 2 ^ 38 + g.format * 2 ^ 58 + b2n g.indexed * 2 ^ 62 + four g.ext 16 * 2 ^ 64 +
  four g.valid 16 * 2 ^ 128 + four (g.stride.map (ofSigned 24)) 24 * 2 ^ 192 + g.pad * 2 ^ 288 + g.indexReg * 2 ^ 320

/-- The entries of a table that are not all zero, by index. -/
def tableOf {α : Type} (b : Bytes) (off n size : Nat) (f : Nat → α) : KMap α :=
  (List.range n).filterMap fun i =>
    let v := field b (off + i * size) size
    if v = 0 then none else some (i, f v)

/-- Whether n bytes from an offset are all zero. -/
def allZero (b : Bytes) (off n : Nat) : Bool := ((b.drop off).take n).all (· == 0)

/-- Whether SRCARG of an emit entry has no reserved bit set (R144, R150). -/
def srcargOk (e : EmitCfg) : Bool :=
  if e.src = 0xC then e.srcarg / 128 == 0
  else if e.src = 0xD then true
  else e.srcarg == 0

/-- Whether every reserved bit and byte of a tile image is zero (R194 to R198, R136; check 0x0401). -/
def tileReservedOk (b : Bytes) : Bool :=
  field b 0 2 / 2048 == 0 && allZero b 2 2 && allZero b 12 52 &&
  (List.range 4096).all (fun i =>
    let w := field b (0x40 + 8 * i) 8
    if slotOpc w = 0x40 then w % 128 == 0 else nbits w 16 6 == 0) &&
  (List.range 32).all (fun i =>
    let n := field b (0x8040 + 16 * i) 16
    n / 2 ^ 74 == 0 && (nbit n 73 || n == 0)) &&
  (List.range 256).all (fun i =>
    let n := field b (0x8240 + 16 * i) 16
    n / 2 ^ 65 == 0 && srcargOk (emitOfBits n)) &&
  (List.range 8).all (fun i =>
    let n := field b (0x9240 + 48 * i) 48
    n / 2 ^ 325 == 0 && !nbit n 63) &&
  allZero b 0x93C0 3136

/-- A tile image of 48 KiB (R194). -/
def tileOfBytes (b : Bytes) : TileCfg where
  tcoord := field b 0 2
  preloadAddr := field b 4 4
  preloadLen := field b 8 4
  slots := tableOf b 0x40 4096 8 (BitVec.ofNat 64)
  units := tableOf b 0x8040 32 16 unitOfBits
  emits := tableOf b 0x8240 256 16 emitOfBits
  gens := tableOf b 0x9240 8 48 genOfBits
  preload := slice b 0xA000 8192
  reservedOk := tileReservedOk b

/-- The 48 KiB of a tile configuration (R194), as a scan record holds it (R226). -/
def TileCfg.bytes (c : TileCfg) : Bytes :=
  le 2 c.tcoord ++ zeros 2 ++ le 4 c.preloadAddr ++ le 4 c.preloadLen ++ zeros 52 ++
  (List.range 4096).flatMap (fun i => le 8 (kgetD c.slots i 0).toNat) ++
  (List.range 32).flatMap (fun i => le 16 (((kget c.units i).map UnitCfg.bits).getD 0)) ++
  (List.range 256).flatMap (fun i => le 16 (((kget c.emits i).map EmitCfg.bits).getD 0)) ++
  (List.range 8).flatMap (fun i => le 48 (((kget c.gens i).map GenCfg.bits).getD 0)) ++
  zeros 3136 ++ padTo 8192 c.preload

/-! ### Sections of the body -/

/-- A queue entry (R199). -/
def queueOfBits (n : Nat) : QueueCfg where
  entry := nbit n 63
  slotsz := nbits n 49 14
  region := nbits n 30 19
  loc := nbit n 29
  depth := nbits n 18 11
  tile := nbits n 6 11
  port := nbits n 0 6

/-- A pair record (R200). -/
def pairOfBytes (b : Bytes) (off : Nat) : PairCfg where
  tile := field b off 2 % 2048
  fu := field b (off + 2) 1
  lLong := field b (off + 4) 4
  lShort := field b (off + 8) 4
  rNum := field b (off + 12) 2
  rDen := field b (off + 14) 2
  qs := (List.range (Nat.min 12 (field b (off + 3) 1))).map fun i => field b (off + 16 + 2 * i) 2

/-- A tensor descriptor (R202). -/
def tensorOfBits (n : Nat) : TensorCfg where
  tid := nbits n 388 12
  scaleTid := nbits n 376 12
  mx := nbit n 375
  rw := nbit n 374
  tier := nbits n 372 2
  foldC := nbits n 368 4
  foldR := nbits n 364 4
  format := nbits n 360 4
  pad := nbits n 328 32
  stride := [sbits n 200 32, sbits n 232 32, sbits n 264 32, sbits n 296 32]
  ext := [nbits n 104 24, nbits n 128 24, nbits n 152 24, nbits n 176 24]
  offset := nbits n 64 40
  objId := nbits n 0 64

/-- A page directory entry (R192): body offset, page, PRESENT. -/
structure DirEntry where
  offset : Nat
  vpage : Nat
  resv : Nat
  present : Nat
  deriving DecidableEq, Repr, Inhabited

/-- The page directory. -/
def dirOf (b : Bytes) : List DirEntry :=
  let off := field b 72 8
  (List.range (field b 52 1)).map fun i =>
    let o := off + 16 * i
    { offset := field b o 4, vpage := field b (o + 4) 1, resv := field b (o + 5) 3, present := field b (o + 8) 8 }

/-- Number of bits set among the lowest 64. -/
def popcount64 (n : Nat) : Nat := (List.range 64).countP (nbit n)

/-- Positions of the bits set among the lowest 64. -/
def bitsSet (n : Nat) : List Nat := (List.range 64).filter (nbit n)

/-- The tile images of a body with their directory places: virtual coordinate and 48 KiB of bytes (R192). -/
def tileBytesOf (b : Bytes) : List (Nat × Bytes) :=
  (dirOf b).flatMap fun d => (bitsSet d.present).zipIdx.map fun e =>
    (d.vpage * 64 + e.1, (b.drop (d.offset + e.2 * 49152)).take 49152)

/-- Bytes of store that an image takes on a die (R208): the page images, the header, the queue entries and pair
records of the die's tiles, the tensor descriptors and the route table; none on a die without a page. -/
def storeBytesOf (b : Bytes) (queues : List QueueCfg) (pairs : List PairCfg) (d : Nat) : Nat :=
  let pages := (dirOf b).filter fun e => e.vpage / 8 == d
  if pages.isEmpty then 0
  else
    let images : Nat := (pages.map fun e => 49152 * popcount64 e.present).foldl (· + ·) 0
    images + 512 + 16 * queues.countP (fun q => q.tile / 512 == d) + 48 * pairs.countP (fun p => p.tile / 512 == d) +
      64 * field b 68 2 + 1024

/-- What the device keeps of a plaintext body (R191, R192, R199 to R202, R208). -/
def formeOfBytes (b : Bytes) : FormeBody :=
  let qt := field b 80 8
  let nq := field b (qt + 4) 4
  let queues := (List.range nq).map fun i => queueOfBits (field b (qt + 16 + 16 * i) 16)
  let pairs := (List.range (field b (qt + 8) 4)).map fun i => pairOfBytes b (qt + 16 + 16 * nq + 48 * i)
  { zw5 := field b 6 1 == 1
    gather := field b 7 1 == 1
    formeId := field b 8 8
    version := field b 16 4
    keyId := field b 20 4
    fallbackId := field b 24 8
    depth := field b 32 4
    qslack := field b 36 4
    bytesStreamed := field b 40 8
    pageMap := field b 48 4
    cls := field b 53 1
    cyclic := nbit (field b 54 1) 0
    maxInput := field b 56 8
    maxOutput := field b 64 4
    guardLimit := field b qt 2
    tiles := (tileBytesOf b).foldl (fun m e => kset m e.1 (tileOfBytes e.2)) []
    queues := queues
    pairs := pairs
    tensors := (List.range (field b 68 2)).map fun i => tensorOfBits (field b (field b 96 8 + 64 * i) 64)
    routes := (List.range 256).map fun i => field b (field b 104 8 + 4 * i) 4
    storeBytes := (List.range 4).map (storeBytesOf b queues pairs)
    toolVersion := field b 120 8 }

/-! ### Tensor geometry (R202, R203, R266, R267, R269) -/

/-- Elements of a tensor. -/
def TensorCfg.count (t : TensorCfg) : Nat := t.ext.foldl (· * ·) 1

/-- Element offset of walk position p of a tensor (R269): i0 fastest. -/
def TensorCfg.elemOffset (t : TensorCfg) (p : Nat) : Int :=
  let e := t.ext
  let e0 := e.getD 0 1
  let e1 := e.getD 1 1
  let e2 := e.getD 2 1
  (([p % e0, p / e0 % e1, p / (e0 * e1) % e2, p / (e0 * e1 * e2)].zip t.stride).foldl
    (fun (a : Int) x => a + (x.1 : Int) * x.2) 0)

/-- Least and greatest element offset that extents and strides reach. -/
def TensorCfg.span (t : TensorCfg) : Int × Int :=
  (t.ext.zip t.stride).foldl (fun (a : Int × Int) x =>
    let d : Int := ((x.1 : Int) - 1) * x.2
    if d < 0 then (a.1 + d, a.2) else (a.1, a.2 + d)) (0, 0)

/-- First and last byte that the tensor's elements reach, from the start of its object. For TIER S the offset is the
MT byte address. -/
def TensorCfg.byteSpan (t : TensorCfg) : Int × Int :=
  let base := if t.tier = 0 then t.offset % 2 ^ 19 else t.offset
  let (lo, hi) := t.span
  ((elemAddr t.format base lo).1, (elemAddr t.format base hi).2.1)

/-- GKIND of a TIER S descriptor (R266). -/
def TensorCfg.gkind (t : TensorCfg) : Nat := if t.tier = 0 then nbits t.objId 62 2 else 0
/-- NSLOT. -/
def TensorCfg.nslot (t : TensorCfg) : Nat := nbits t.offset 33 7
/-- SLOTG, the slot size in granules. -/
def TensorCfg.slotg (t : TensorCfg) : Nat := nbits t.offset 19 14
/-- GTID. -/
def TensorCfg.gtid (t : TensorCfg) : Nat := nbits t.objId 50 12
/-- GPORT. -/
def TensorCfg.gport (t : TensorCfg) : Nat := nbits t.objId 44 6
/-- OUTLEN. -/
def TensorCfg.outlen (t : TensorCfg) : Nat := nbits t.objId 12 32
/-- The tile of a TIER S tensor. -/
def TensorCfg.stile (t : TensorCfg) : Nat := nbits t.objId 0 11
/-- First MT byte of a TIER S tensor or ring (R267). -/
def TensorCfg.mtBase (t : TensorCfg) : Nat := nbits t.offset 0 19

/-- MT byte where slot k of a galley begins (R267). -/
def TensorCfg.slotAddr (t : TensorCfg) (k : Nat) : Nat := t.mtBase + k * t.slotg * 64

/-- The tensor of a forme with a TID. -/
def tensorOf (b : FormeBody) (tid : Nat) : Option TensorCfg := b.tensors.find? fun t => t.tid == tid

/-- The galleys of a forme: its TIER S descriptors with a GKIND of 1 (inbound) or 2 (outbound). -/
def galleysOf (b : FormeBody) (kind : Nat) : List TensorCfg := b.tensors.filter fun t => t.gkind == kind

/-- The ENTRY queues of a forme (R199, R217). -/
def entryQueues (b : FormeBody) : List QueueCfg := b.queues.filter QueueCfg.entry

/-- The MT region of a queue: queue storage and landing ring (R199). -/
def QueueCfg.bytes (q : QueueCfg) : Nat := if q.loc then q.depth * 64 + q.depth * q.slotsz * 64 else 0

/-- The unit input that a port is bound to in a tile configuration (R147). -/
def boundTo (c : TileCfg) (port : Nat) : Option (Nat × Nat) :=
  (c.units.flatMap fun u => if u.2.en then
      ((u.2.ins.take (u.2.nin + 1)).zipIdx.filter fun p => p.1 == port).map fun p => (u.1, p.2)
    else []).head?

/-- The emit entries of a unit, in table order. -/
def emitsOf (c : TileCfg) (u : UnitCfg) : List EmitCfg :=
  (List.range u.nemit).map fun i => kgetD c.emits (u.emitFirst + i) (emitOfBits 0)

/-- The slot words of a unit's chain, in order. -/
def chainOf (c : TileCfg) (u : UnitCfg) : List Nat :=
  if u.func = 0 then (List.range u.slotCount).map fun i => (kgetD c.slots (u.slotFirst + i) 0).toNat else []

/-- Whether a slot produces a scalar result (R150): EXTR, MPOP or FSUM. -/
def producesScalar (opc : Nat) : Bool := opc == 0x09 || opc == 0x3B || opc == 0x5A

end Sys2Proof.Machine
end

