-- ==== Sys2Proof/Machine/Link.lean ====
section
/-! DEFINITION. The link layer of the torus (R446 to R451): frames as bytes with their protection, JOB units, hop
credits, the replay buffer and control messages. -/

namespace Sys2Proof.Machine

/-! ### Frames -/

/-- The header of a frame (R446). -/
structure FrameHead where
  type : Nat
  rekey : Bool
  vc : Nat
  nunit : Nat
  epoch : Nat
  credits : Nat
  crVc : Nat
  step : Nat
  seq : Nat
  ack : Nat
  deriving DecidableEq, Repr, Inhabited

/-- The 16 bytes of a frame header, bit 127 first (R446). -/
def FrameHead.bytes (h : FrameHead) : Bytes :=
  be 16 (h.ack % 2 ^ 32 + 2 ^ 32 * (h.seq % 2 ^ 32) + 2 ^ 64 * (h.step % 2 ^ 32) + 2 ^ 96 * (h.crVc % 2) +
    2 ^ 97 * (h.credits % 128) + 2 ^ 109 * (h.epoch % 256) + 2 ^ 117 * (h.nunit % 32) + 2 ^ 122 * (h.vc % 2) +
    2 ^ 123 * b2n h.rekey + 2 ^ 124 * (h.type % 16))

/-- The header that a frame begins with. -/
def headOf (b : Bytes) : FrameHead :=
  let n := ofBe (b.take 16)
  { type := nbits n 124 4, rekey := nbit n 123, vc := nbits n 122 1, nunit := nbits n 117 5, epoch := nbits n 109 8
    credits := nbits n 97 7, crVc := nbits n 96 1, step := nbits n 64 32, seq := nbits n 32 32, ack := nbits n 0 32 }

/-- The nonce of a frame: zero, the key generation and SEQ (R448). -/
def linkNonce (gen seq : Nat) : Bytes := be 4 0 ++ be 4 gen ++ be 4 seq

/-- A frame as it leaves: header, sealed payload and tag under the link key; in clear with an all-zero tag without one
(R446, R448, R455). -/
def frameBytes (key : Option Bytes) (gen : Nat) (h : FrameHead) (data : Bytes) : Bytes :=
  match key with
  | some k => h.bytes ++ gcmSeal k (linkNonce gen h.seq) h.bytes data
  | none => h.bytes ++ data ++ zeros 16

/-- The payload of a frame under a link key, none where its length is not that of its units or its tag fails (R448). -/
def openFrame (key : Bytes) (gen : Nat) (b : Bytes) : Option Bytes :=
  let h := headOf b
  if b.length ≠ 32 + 64 * h.nunit ∨ 16 < h.nunit then none
  else gcmOpen key (linkNonce gen h.seq) (b.take 16) (b.drop 16)

/-- A frame leaves a torus port: it takes the next SEQ, acknowledges what has come, announces the places freed on one
channel, VC 0 before VC 1, and waits in the replay buffer, the last 256 frames sent, until it is acknowledged (R446,
R448, R449). -/
def TorusPort.emit (p : TorusPort) (type vc step epoch : Nat) (rekey : Bool) (data : Bytes)
    (side : List (Bool × Bool)) : TorusPort :=
  let cv := if p.freed.getD 0 0 = 0 then 1 else 0
  let cr := Nat.min 127 (p.freed.getD cv 0)
  let h : FrameHead :=
    { type := type, rekey := rekey, vc := vc, nunit := data.length / 64, epoch := epoch, credits := cr, crVc := cv
      step := step, seq := p.txSeq + 1, ack := p.rxSeq }
  let b := frameBytes p.keyTx p.genTx h data
  { p with
    txSeq := p.txSeq + 1
    freed := lmod p.freed cv (· - cr)
    replay := (p.replay ++ [({ seq := p.txSeq + 1, bytes := b, side := side, relay := type == 2 } : SentFrame)]).drop (p.replay.length + 1 - 256)
    frames := p.frames ++ [(b, side)] }

/-- An IDLE frame, which carries acknowledgements and credits (R446, R447). -/
def TorusPort.idle (p : TorusPort) : TorusPort := p.emit 0 0 0 0 false [] []

/-- Fill to whole units of 64 B. -/
def padUnits (b : Bytes) : Bytes := b ++ zeros ((64 - b.length % 64) % 64)

/-- A message leaves in frames of at most 16 units (R446). -/
def TorusPort.sendMessage (p : TorusPort) (type : Nat) (b : Bytes) : TorusPort :=
  (List.range ((b.length + 1023) / 1024)).foldl
    (fun p i => p.emit type 0 0 0 false (padUnits ((b.drop (1024 * i)).take 1024)) []) p

/-! ### Ports -/

/-- The dimension of a port's axis. -/
def axisDim (p : Placement) (n : Nat) : Nat := [p.nx, p.ny, p.nz].getD (n / 2) 0

/-- Whether a port may leave DOWN: a placement record is in force, its axis is longer than 1 (R453), and the port is not
out of service (R493). -/
def portUsable (s : State) (n : Nat) : Bool :=
  match s.boot.cfg with
  | some c => decide (1 < axisDim c.placement n) && !s.faults.oos.contains (6 * 4096 + n)
  | none => false

/-- Lanes a port has (R442, R444): 10, or 8 in class 3 without spares. -/
def laneTotal (s : State) (n : Nat) : Nat :=
  match s.boot.cfg with
  | some c => if c.placement.reach.getD n 0 = 3 ∧ c.placement.spares.getD n false = false then 8 else 10
  | none => 10

/-- The lanes that a port picks in a training: the first 8 of its lanes that work (R445). -/
def pickLanes (s : State) (n : Nat) (failed : List Nat) : List Nat :=
  ((List.range (laneTotal s n)).filter fun l => !failed.contains l).take 8

/-- A port without its link: keys zeroised (R424), nothing to replay, every buffer empty. -/
def TorusPort.unlinked (p : TorusPort) : TorusPort := { p with
  keyTx := none, keyRx := none, peerPub := none, genTx := 0, genRx := 0, newTx := none, newRx := none, rekeying := false
  disc := none, rxSeq := 0, txSeq := 0, acked := 0, replay := [], credits := [128, 128], freed := [0, 0]
  buffer := [], arriving := [], join := none }

/-- Change a torus port. -/
def modPort (s : State) (n : Nat) (f : TorusPort → TorusPort) : State := { s with torus := lmod s.torus n f }

/-- A control message as bytes, in the model's encoding (log 66): its name in 16 bytes, then each field with its length
before it. -/
def ctlBytes (name : String) (fields : List Nat) : Bytes :=
  padTo 16 (ascii name) ++ fields.flatMap fun n => let k := n.log2 / 8 + 1; le 2 k ++ le k n

/-- Send a control message on a torus port (R449, R455, R464, R469, R472). -/
def sendCtl (s : State) (port : Nat) (name : String) (fields : List Nat) : State :=
  modPort s port fun p => { p.sendMessage 3 (ctlBytes name fields) with ctlOut := p.ctlOut ++ [(name, fields)] }

/-! ### JOB units (R32, R145, R446) -/

/-- The units of a token with its granules. What the hub's torus switches need of its route and the destination of its
sender, which a header does not carry, stands in the padding of the token's unit (DESIGN CHOICE, log 66): the index of the
destination device, the destination die, and the sender's device, tile and unit. -/
def jobUnits (dest die : Nat) (src : Nat × Nat × Nat) (u : DWord × DWord × List Granule) : List LinkUnit :=
  ⟨padTo 64 (le 8 u.1.toNat ++ le 8 u.2.1.toNat ++ le 4 dest ++ le 4 src.1 ++ le 1 die ++ le 2 src.2.1 ++ le 1 src.2.2),
    false, false⟩ ::
    u.2.2.zipIdx.map fun g => ⟨padTo 64 g.1.data, g.1.spoil, g.2 + 1 == u.2.2.length⟩

/-- A number in the first unit of a transfer: 0 header, 8 payload word, 16 destination, 20 sending device, 24 die, 25
sending tile, 27 sending unit. -/
def unitField (us : List LinkUnit) (off n : Nat) : Nat := field ((us.headD default).data) off n

/-- The token that units spell: header, payload word and granules. -/
def tokenUnits (us : List LinkUnit) : DWord × DWord × List Granule :=
  (BitVec.ofNat 64 (unitField us 0 8), BitVec.ofNat 64 (unitField us 8 8), us.tail.map fun u => ⟨u.data, u.spoil⟩)

/-- Whether units are a whole transfer: a token without data, or a handle whose final granule is there (R145). -/
def wholeUnits (us : List LinkUnit) : Bool :=
  let kind := unitField us 0 8 / 2 ^ 60
  (kind != 2 && kind != 3) || us.any LinkUnit.last

/-! ### Hop credits (R450) -/

/-- Places of a port's receive buffer are freed. -/
def freePlaces (s : State) (port vc k : Nat) : State :=
  modPort s port fun p => { p with freed := lmod p.freed vc (· + k) }

/-- Every port that has places to announce does so in IDLE frames (R446, R447). -/
def announce (s : State) : State :=
  { s with torus := s.torus.map fun p =>
      (List.range 3).foldl (fun p _ => if 4 ≤ p.state ∧ p.freed.any (0 < ·) then p.idle else p) p }

/-- Send what waits for a channel of a port as far as its hop credits and its replay buffer allow, 16 units to a frame;
the units free the places they took here. Nothing leaves during a retrain (R445, R449, R450). -/
def sendRuns : Nat → State → Nat → Nat → State
  | 0, s, _, _ => s
  | fuel + 1, s, n, vc =>
    match s.torusOut.find? (fun r => r.port == n && r.vc == vc), s.torus[n]? with
    | some r, some p =>
      let k := Nat.min 16 (Nat.min (p.credits.getD vc 0) r.units.length)
      if k = 0 ∨ p.state ≠ 5 ∨ p.retraining = true ∨ 256 ≤ p.replay.length then s
      else
        let us := r.units.take k
        let s := modPort s n fun p =>
          { p.emit 1 vc r.step r.epoch false (us.flatMap LinkUnit.data) (us.map fun u => (u.spoil, u.last)) with
            credits := lmod p.credits vc (· - k) }
        let f := Nat.min k r.places
        let s := match r.source with
          | some (m, v) => freePlaces s m v f
          | none => s
        let left : TorusTok := { r with units := r.units.drop k, places := r.places - f }
        let s := { s with torusOut :=
          if left.units = [] then s.torusOut.erase r else s.torusOut.map fun x => if x = r then left else x }
        sendRuns fuel s n vc
    | _, _ => s

/-- Send what waits for a port, on both channels. -/
def pump (s : State) (n : Nat) : State :=
  let fuel := (s.torusOut.map fun r => r.units.length + 1).sum
  sendRuns fuel (sendRuns fuel s n 0) n 1

/-- The units of a job are gone from every buffer of the torus ports, and their places are free (R464, R470). -/
def flushJob (s : State) (id : Nat) : State :=
  let mine (p : TorusPort) (vc : Nat) : Nat :=
    ((p.buffer.filter fun b => b.job == id && b.vc == vc).map HeldUnit.places).sum +
      (if p.job = some id then ((p.arriving.filter fun a => a.vc == vc).map Arriving.places).sum else 0)
  let runs := s.torusOut.filter fun r => r.job == id
  let s := { s with
    torusOut := s.torusOut.filter fun r => r.job != id
    torus := s.torus.map fun p => { p with
      freed := p.freed.mapIdx fun vc k => k + mine p vc
      buffer := p.buffer.filter fun b => b.job != id
      arriving := if p.job = some id then [] else p.arriving } }
  announce (runs.foldl (fun s r => match r.source with
    | some (m, v) => freePlaces s m v r.places
    | none => s) s)

/-- What waits to leave by a port is gone with its link, and what came in by it and waits elsewhere holds no place of it
any more. -/
def dropRuns (s : State) (n : Nat) : State :=
  { s with torusOut := (s.torusOut.filter fun r => r.port != n).map fun r =>
      { r with source := if r.source.map Prod.fst = some n then none else r.source } }

end Sys2Proof.Machine
end

