-- ==== Sys2Proof/Machine/Requests.lean ====
section
/-! DEFINITION. What every end of a request shares: its final reply, its flags, and the release of its pass
positions, folios, references and holds (R303 to R307, R320, R333). -/

namespace Sys2Proof.Machine

/-- The request with a number. -/
def req (s : State) (n : Nat) : Option Req := kget s.reqs n

/-- Change a request. -/
def modReq (s : State) (n : Nat) (f : Req → Req) : State := { s with reqs := kmod s.reqs n f }

/-- Whether a request state is final (R303). -/
def ReqState.final : ReqState → Bool
  | .done => true
  | .cancelled => true
  | .domainReset => true
  | _ => false

/-- Whether a pass of a request is in the array (R299). -/
def inArray (s : State) (c n : Nat) : Bool := (chase s c).array.any fun e => e.2.any fun p => p.req == n

/-- Whether a request still holds its pass positions: it is live, or its last pass is still in the array (R333). -/
def holdsPosition (s : State) (n : Nat) (r : Req) : Bool := !r.state.final || inArray s r.chase n

/-- Bytes as hub SRAM gives them: an uncorrectable error, given as a place and the bits that changed, spoils its byte
(R475). -/
def hubRead (b : List (Byte × Bool)) (errs : List (Nat × Nat)) : List (Byte × Bool) :=
  b.zipIdx.map fun x => match errs.find? fun e => e.1 == x.2 with
    | some e => (x.1.1 ^^^ BitVec.ofNat 8 e.2, true)
    | none => x.1

/-- The body of a run of committed tokens (R388): FIRST, COUNT, reserved and the tokens. FIRST counts from 1. -/
def tokenBody (first : Nat) (toks : List Nat) : Bytes :=
  le 4 first ++ le 2 toks.length ++ zeros 2 ++ toks.flatMap (le 4)

/-- The committed tokens not yet sent, as a reply body (R304). -/
def unsentBody (r : Req) : Bytes := tokenBody (r.sent + 1) ((r.tokens.drop r.sent).map Prod.fst)

/-- Reply flags of a request (R364, R392): SPOILED for spoiled output carried, DEADLINE_MISSED and FALLBACK_USED in
final replies. -/
def reqFlags (s : State) (r : Req) (carries : Bool) (final : Bool) : Nat :=
  b2n (r.spoiled && carries) +
  (if final then
    2 * b2n (r.stop == 5 || (r.deadline != 0 && decide (r.firstNs + r.deadline < s.now))) + 4 * b2n r.fallback
   else 0)

/-- Final reply body of a request: LABEL, then its output or its unsent tokens (R388). -/
def finalBody (r : Req) (status : Nat) : Bytes :=
  match r.kind with
  | .generate => r.label ++ unsentBody r
  | _ => r.label ++ (if status = St.done ∧ r.stop = 0 then r.reply else [])

/-- Send the final reply of a request; an internal SCORE of the flow intake and a request whose session is gone
send none (R369, R382). -/
def sendFinal (s : State) (r : Req) (status detail : Nat) (extra : Bytes) : State :=
  if r.flow.isSome then s
  else
    match liveOf s r.session r.reqId with
    | none => s
    | some l =>
      let carries := match r.kind with | .generate => true | _ => decide (status = St.done)
      emitReply s { mkReply l.ep r.session l.opcode r.reqId status detail (finalBody r status ++ extra) with
        flags := reqFlags s r carries true
        stopReason := match r.kind with | .generate => r.stop | _ => 0 }

/-- Folio states of a chase without the given folios of a pool. -/
def freeFolios (ch : Chase) (pool : Nat) (fs : List Nat) : Chase :=
  { ch with folios := ch.folios.filter fun x => !(x.1 == pool && fs.contains x.2.1) }

/-! ### Concordance tables (R310) -/

/-- SipHash-2-4 of a byte string under a 128-bit key given as two halves (R309, R379). -/
def sipHash (k : Nat × Nat) (b : Bytes) : Nat :=
  let n := b.length / 8
  sipHash24 k.1 k.2 ((List.range n).map fun i => field b (8 * i) 8)
    (ofLe (b.drop (8 * n)) + b.length % 256 * 2 ^ 56)

/-- Buckets of a concordance object (R310). -/
def bucketsOf (s : State) (c obj : Nat) : Nat := ((findObj s c obj).map fun o => o.size / 512).getD 1

/-- The bytes of a concordance entry (R310). -/
def concBytes (e : ConcEntry) : Bytes :=
  le 8 e.node ++ le 8 e.parent ++ le 4 e.folio ++ le 4 e.refs ++ le 2 e.children ++ le 2 e.kvClass ++ zeros 4 ++
  le 8 e.lastUse ++ zeros 24 ++ e.tokens.flatMap (le 4)

/-- Write bytes of a concordance table to its object. -/
def concPut (s : State) (c : Nat) (e : ConcEntry) (b : Bytes) : State :=
  match findObj s c e.obj with
  | some o => objWrite s o (concOffset e) (b.map fun x => (x, false))
  | none => s

/-- Change the concordance entries of a chase: the tables in their objects follow (R310). -/
def setConc (s : State) (c : Nat) (new : List ConcEntry) : State :=
  let old := (chase s c).conc
  let s := (old.filter fun e => !new.contains e).foldl (fun s e => concPut s c e (zeros 128)) s
  let s := (new.filter fun e => !old.contains e).foldl (fun s e => concPut s c e (concBytes e)) s
  modChase s c fun ch => { ch with conc := new }

/-- Drop one reference to each SHARED folio a request used (R307). -/
def dropRefs (s : State) (c pool : Nat) (fs : List Nat) : State :=
  setConc s c ((chase s c).conc.map fun e =>
    if e.pool = pool ∧ fs.contains e.folio then { e with refs := e.refs - 1 } else e)

/-- Free a serving entry that was cleared once its last live request has ended (R295). -/
def freeCleared (s : State) (c : Nat) : State :=
  modChase s c fun ch =>
    { ch with cleared := ch.cleared.filter fun id =>
        s.reqs.any fun e => e.2.chase == c && e.2.entry.formeId == id && !e.2.state.final }

/-- The key of a request's step among what is stalled (R256, R288). -/
def stepKey (n : Nat) : Nat := 16777216 + n

/-- Release everything a request reserved: folios, references, holds and reads (R307, R256, R259). -/
def releaseReq (s : State) (n : Nat) : State :=
  match req s n with
  | none => s
  | some r =>
    let priv := (r.folios.filter fun f => !f.2).map Prod.fst
    let shared := (r.folios.filter Prod.snd).map Prod.fst
    let s := modChase (dropRefs s r.chase r.entry.poolObj shared) r.chase fun ch =>
      freeFolios (freeFolios ch r.entry.poolObj (priv ++ r.reserved))
        r.entry.draftPool r.draftFolios
    let s := { s with objs := s.objs.map fun o => { o with waiters := o.waiters.filter (· != Waiter.step n) } }
    let held : List Nat := (s.objs.filter fun (o : Obj) => o.chase == r.chase && o.holder == some n).map Obj.objId
    let s := held.foldl (fun s id => releaseHold s r.chase n id) s
    let s := { s with reqs := if r.flow.isSome then kmod s.reqs n fun q =>
      { q with pass := none, folios := [], reserved := [], draftFolios := [], holds := [] } else kdel s.reqs n }
    let s := modChase s r.chase fun ch =>
      { ch with
        injecting := ch.injecting.filter fun e => e.2 != n
        waiting := ch.waiting.filter fun w => w.1 != stepKey n }
    freeCleared s r.chase

/-- The request input received in sequence from offset 0 (R269). -/
def inputBytes (r : Req) : Bytes :=
  r.input.foldl (fun b e => if e.1 = b.length then b ++ e.2 else b) []

/-- A request ended in RECEIVING whose pass is in the array: its input is discarded, and the pass runs to its end on
free values in place of what had not been taken (R333; DESIGN CHOICE, log 40). -/
def fillRest (s : State) (n : Nat) : State :=
  match req s n with
  | some r =>
    if r.kind = .file ∧ (inputBytes r).length < r.total then
      let (b, s) := drawBytes s (r.total - r.taken)
      modReq s n fun q => { q with input := [(0, (inputBytes r).take r.taken ++ padTo (r.total - r.taken) b)] }
    else s
  | none => s

/-- End a request with a final state (R303): the final reply leaves, a job goes on to its next step (R465), and what
the request held is released, at once or when its pass in the array has ended (R333). -/
def endReq (s : State) (n : Nat) (st : ReqState) (status detail : Nat) (extra : Bytes) : State :=
  match req s n with
  | none => s
  | some r =>
    if r.state.final then s
    else
      let s := sendFinal s r status detail extra
      let s := modReq s n fun q => { q with state := st, sent := q.tokens.length, drawn := none }
      let s : State := match r.job with
        | some (id, step) =>
          if st == ReqState.domainReset then s
          else { s with jobs := s.jobs.map fun j =>
            if j.fields.jobId = id then { j with state := .ready, next := step + 1 } else j }
        | none => s
      let s : State := if r.kind = .generate then
          { s with logs := (s.logs.filter fun l => decide (s.now ≤ l.endNs + 1000000000)) ++
            [⟨r.session, r.reqId, s.now, r.tokens.map Prod.fst, r.spoiled⟩] }
        else s
      let s := { s with comps := s.comps.map fun k => { k with rows := k.rows.filter fun x => x.2.1 != n } }
      if inArray s r.chase n && st != ReqState.domainReset then fillRest s n else releaseReq s n

/-- Requests of a chase that have not ended, in order of number. -/
def liveReqs (s : State) (c : Nat) : List (Nat × Req) :=
  s.reqs.filter fun e => e.2.chase == c && !e.2.state.final

end Sys2Proof.Machine
end

