-- ==== Sys2Proof/Machine/Fence.lean ====
section
/-! DEFINITION. Fences and faults: what the fence of a chase ends (R52, R212, R258, R398), how a job fails (R468 to
R471), and the detection of a fault with its domain, its order and its escalation (R475 to R485, R492). -/

namespace Sys2Proof.Machine

/-! ### Jobs -/

/-- This device's coordinate in the layout of COORD: X [7:0], Y [15:8], Z [23:16], valid [31] (R430). -/
def myCoord (s : State) : Nat :=
  match s.boot.cfg with
  | some c => c.placement.x + 256 * c.placement.y + 65536 * c.placement.z + 2147483648
  | none => 0

/-- The job of a chase on this device. -/
def jobOfChase (s : State) (c : Nat) : Option Job := s.jobs.find? fun j => j.fields.chase == c

/-- The job with a JOB_ID. -/
def findJob (s : State) (id : Nat) : Option Job := s.jobs.find? fun j => j.fields.jobId == id

/-- Change a job. -/
def modJob (s : State) (id : Nat) (f : Job → Job) : State :=
  { s with jobs := s.jobs.map fun j => if j.fields.jobId = id then f j else j }

/-- Send a control message on every held port of a job that is still up, apart from one. -/
def sendHeld (s : State) (j : Job) (except : Option Nat) (name : String) (fields : List Nat) : State :=
  (j.ports.map Prod.fst).foldl
    (fun s p =>
      if except = some p then s
      else match s.torus[p]? with
        | some tp => if 4 ≤ tp.state then sendCtl s p name fields else s
        | none => s) s

/-- The fields that follow LABEL in a STEP_ABORTED reply (R471). -/
def abortBody (coord cause step : Nat) : Bytes := le 4 coord ++ le 1 cause ++ zeros 3 ++ le 8 step

/-- End the step of a job on this device with STEP_ABORTED (R469, R471). -/
def abortStep (s : State) (id coord cause : Nat) : State :=
  match s.reqs.find? fun e => (e.2.job.map Prod.fst) == some id && !e.2.state.final with
  | none => s
  | some (n, r) =>
    let step := (r.job.map Prod.snd).getD 0
    endReq s n .domainReset St.stepAborted 0 (abortBody coord cause step)

/-- End the commands that wait on a job (JOB_OPEN, JOB_REJOIN). -/
def endJobCmds (s : State) (j : Job) (status detail : Nat) : State :=
  j.cmds.foldl (fun s c => replyLive s c.1 c.2 status detail []) s

/-- A job becomes HALTED: its step ends, its hop buffers are flushed, a rejoin in progress fails with 0x0D0B
(R469, R470, R472). -/
def haltJob (s : State) (id coord cause : Nat) : State :=
  match findJob s id with
  | none => s
  | some j =>
    match j.state with
    | .halted => s
    | .forming => s
    | .rejoining =>
      let s := endJobCmds s j St.wrongState 0x0D0B
      modJob s id fun j => { j with state := .halted, cmds := [], acks := [], fail := (coord, cause) }
    | _ =>
      let step := j.next
      let s := abortStep s id coord cause
      modJob (flushJob s id) id fun j => { j with state := .halted, aborted := step, fail := (coord, cause) }

/-- A failure of a job, laid to the device at a coordinate (R468): FENCE on every held port, then the halt (R469). -/
def failJobAs (s : State) (id coord cause : Nat) : State :=
  match findJob s id with
  | none => s
  | some j =>
    if j.state = .halted ∨ j.state = .forming then s
    else
      let s := sendHeld s j none "FENCE" [id, j.next, coord, cause]
      haltJob s id coord cause

/-- A failure of a job at this device (R468). -/
def failJob (s : State) (id cause : Nat) : State := failJobAs s id (myCoord s) cause

/-! ### The fence of a chase -/

/-- Give back granules that a CHASE_CHANGE was writing: their key slots are zeroised (R398, R424). -/
def dropJoining (s : State) (c : Nat) : State :=
  let js := (chase s c).joining
  let clear (isH : Bool) (m : TierMem) : TierMem :=
    m.forget isH fun g => js.any fun x => x.1 == (if isH then 1 else 2) && x.2.1 == g
  let s := { s with memH := clear true s.memH, memB := clear false s.memB }
  modChase s c fun ch => { ch with joining := [] }

/-- End a CHASE_CHANGE that has not reached its fence: no part of it applies (R398). -/
def endShare (s : State) (c : Nat) : State :=
  match (chase s c).newCfg with
  | none => s
  | some (_, cmd) => replyCmd (modChase (dropJoining s c) c fun ch => { ch with newCfg := none }) (some cmd) St.domainReset 0

/-- The command of an order that waits. -/
def Order.cmd : Order → Nat × Nat
  | .impose _ cmd => cmd
  | .change _ _ cmd => cmd
  | .scan _ _ _ cmd => cmd

/-- Whether an order stops admissions while it waits (R406). -/
def Order.stops : Order → Bool
  | .change .. => false
  | _ => true

/-- End the orders of a chase that wait for its activity (R52). -/
def endOrders (s : State) (c : Nat) : State :=
  (chase s c).orders.foldl (fun s o => replyCmd s (some o.cmd) St.domainReset 0)
    (modChase s c fun ch => { ch with orders := [] })

/-- The images of a chase with the given formes IN_SERVICE and locked by the load that makes them so; the others
leave their service and their locks (R50, R209). No form of load: `ids` empty. -/
def Chase.serve (ch : Chase) (ids : List Nat) : Chase :=
  { ch with images := ch.images.map fun i =>
      if ids.contains i.formeId then { i with state := .inService, locked := true }
      else { i with state := if i.state == .inService then .resident else i.state, locked := false } }

/-- Lock the images that a load is to read, and no other (R50). -/
def Chase.lock (ch : Chase) (ids : List Nat) : Chase :=
  { ch with images := ch.images.map fun i => { i with locked := ids.contains i.formeId } }

/-- End the activity of a chase without effect (R52, R222, R225, R398): its command completes with DOMAIN_RESET,
as do the orders that wait and a CHASE_CHANGE that has not reached its fence. No load reads an image any more (R50). -/
def endActivity (s : State) (c : Nat) : State :=
  let s := modChase (endShare (endOrders s c) c) c fun ch => ch.lock []
  match (chase s c).act with
  | .none => s
  | .impose _ _ _ cmd => replyCmd (modChase s c fun ch => { ch with act := .none }) cmd St.domainReset 0
  | .change _ _ _ _ _ cmd => replyCmd (modChase s c fun ch => { ch with act := .none }) cmd St.domainReset 0
  | .scan _ _ _ _ cmd => replyCmd (modChase s c fun ch => { ch with act := .none }) (some cmd) St.domainReset 0

/-- End the moves of a chase: the destination blocks are freed, the home stands (R258). -/
def endMoves (s : State) (c : Nat) : State :=
  (s.objs.filter fun o => o.chase == c && o.state == .moving).foldl
    (fun s o =>
      let cmd := o.move.map MoveOp.cmd
      let s := modObj s c o.objId fun o =>
        { o with state := if o.isMutable then .idle else .sealed, move := none }
      let s := match o.move with
        | some m =>
          let md := metaDie m.tier m.die m.blocks
          (fitMeta s c m.tier md).getD s
        | none => s
      let s := replyCmd s cmd St.domainReset 0
      wakeObj (o.waiters.length + 1) s c o.objId) s

/-- Assert the fence on a chase: its requests end with DOMAIN_RESET, or STEP_ABORTED for a job step, its moves and
its activity end, its fills are discarded, and its job fails (R52, R258, R468, R481). Commands to its forme store
and waiting object commands go on (DEDUCED, log 16). -/
def fenceChase (s : State) (c : Nat) : State :=
  let s := endActivity s c
  let s := modChase s c fun ch => { ch with fenced := true, fenceNs := s.now, injecting := [], array := [] }
  let s := match jobOfChase s c with | some j => failJob s j.fields.jobId 0 | none => s
  let s := (liveReqs s c).foldl (fun s e => endReq s e.1 .domainReset St.domainReset 0 []) s
  let s := (s.reqs.filter fun e => e.2.chase == c && e.2.state.final && e.2.flow.isNone).foldl
    (fun s e => releaseReq s e.1) s
  let s := endReads s c ((s.objs.filter fun o => o.chase == c).map Obj.objId) fun _ => true
  let s := endMoves s c
  { s with
    fills := s.fills.filter fun f => f.chase != c
    comps := s.comps.map fun k => { k with rows := k.rows.filter fun r => r.1 != c } }

/-! ### Domains -/

/-- Physical index (R480 class 1) of a place: die [11:10], page [9:7], column [6:3], row [2:0]. -/
def physIndex (die page col row : Nat) : Nat := die * 1024 + page * 128 + col * 8 + row

/-- Physical index of the place whose virtual coordinate is t when nothing is replaced. -/
def placeOf (t : Nat) : Nat := physIndex (t / 512) (t / 64 % 8) (t / 8 % 8) (t % 8)

/-- The page (8d + p) of a physical index. -/
def pageOfPhys (i : Nat) : Nat := i / 128

/-- What the SPARES block holds of a tile pair in its place: columns 0 to 7 serve their own coordinate, column 8 is
a spare (R549). -/
def TileSpare.initial (i : Nat) : TileSpare :=
  let col := i / 8 % 16
  { retired := false, pending := false, retirePending := false, bank := none, bankPending := none
    vcoord := if col = 8 then 0x7FF else i / 128 * 64 + col * 8 + i % 8
    paceNorm := 0, paceAcc := (0, 0), bankEvents := [], ceS := 0 }

/-- The spare record of a physical tile pair. -/
def spareOf (s : State) (i : Nat) : TileSpare := kgetD s.spares.tiles i (TileSpare.initial i)

/-- Change the spare record of a physical tile pair. -/
def modSpare (s : State) (i : Nat) (f : TileSpare → TileSpare) : State :=
  { s with spares := { s.spares with tiles := kset s.spares.tiles i (f (spareOf s i)) } }

/-- The physical tile pair that serves a virtual coordinate (R30). -/
def physOf (s : State) (t : Nat) : Nat :=
  match s.spares.tiles.find? fun e => e.2.vcoord == t && !e.2.retired with
  | some e => e.1
  | none => placeOf t

/-- The virtual coordinate that a physical tile pair serves. -/
def virtOf (s : State) (i : Nat) : Nat := (spareOf s i).vcoord

/-- Dies that traffic between two dies of a chase transits (R28). -/
def transitDies (ds : List Nat) : List Nat :=
  (if ds.contains 0 && ds.contains 3 then [1, 2] else []) ++ (if ds.contains 1 && ds.contains 2 then [0, 3] else [])

/-- Dies on which a page map has pages. -/
def diesOfMap (m : Nat) : List Nat := (List.range 4).filter fun d => nbits m (8 * d) 8 != 0

/-- Chase numbers in use. -/
def heldChases (s : State) : List Nat := (s.chases.filter fun e => e.2.held).map Prod.fst

/-- The chases that a fence of a domain also fences (R479). -/
def chasesOfDomain (s : State) (domain : Nat) : List Nat :=
  let i := domain % 4096
  match domain / 4096 with
  | 1 => (chaseOfTile s (virtOf s i)).toList
  | 2 => (chaseOfPage s i).toList
  | 3 => (heldChases s).filter fun c =>
      let ds := diesOfMap (chase s c).cfg.pageMap
      ds.contains i || (transitDies ds).contains i
  | 4 => if (chase s i).held then [i] else []
  | 7 => heldChases s
  | _ => []

/-- Virtual tile pairs of a domain of class 1 to 4, ascending. -/
def tilesOfDomain (s : State) (domain : Nat) : List Nat :=
  let i := domain % 4096
  match domain / 4096 with
  | 1 => if virtOf s i = 0x7FF then [] else [virtOf s i]
  | 2 => (List.range 64).map fun k => i * 64 + k
  | 3 => (List.range 512).map fun k => i * 512 + k
  | 4 => tilesOf (chase s i).cfg.pageMap
  | _ => []

/-- Whether domain `a` lies inside domain `b`, or is it (R485). -/
def inDomain (s : State) (a b : Nat) : Bool :=
  a == b || b / 4096 == 7 ||
  (match a / 4096, b / 4096 with
    | 1, 2 => pageOfPhys (a % 4096) == b % 4096
    | 1, 3 => a % 4096 / 1024 == b % 4096
    | 2, 3 => a % 4096 / 8 == b % 4096
    | 1, 4 => chaseOfTile s (virtOf s (a % 4096)) == some (b % 4096)
    | 4, 2 => ((pagesOf (chase s (a % 4096)).cfg.pageMap).all (· == b % 4096))
    | 4, 3 => ((pagesOf (chase s (a % 4096)).cfg.pageMap).all fun p => p / 8 == b % 4096)
    | _, _ => false)

/-- Counted resets of a domain within its window (R492). -/
def resetsInWindow (s : State) (domain : Nat) : Nat :=
  s.faults.counted.countP fun e => e.1 == domain && decide (s.now < e.2 + policy s 0x0302 * 1000000000 + 1)

/-- Count a reset of a domain (R492, R557): by class, by domain, and within the escalation window. -/
def countReset (s : State) (domain : Nat) : State :=
  { s with faults := { s.faults with
      counted := s.faults.counted ++ [(domain, s.now)]
      totals := s.faults.totals.modify (domain / 4096 - 1) (sat32 · 1)
      domTotals := kset s.faults.domTotals domain (Nat.min 65535 (kgetD s.faults.domTotals domain 0 + 1)) } }

/-- The set of formes that an unfinished re-imposition was loading, to be re-imposed after its fault (R485). -/
def reimposeIds (ch : Chase) : List Nat :=
  match ch.act with
  | .impose _ phase ids _ => if phase == .waiting then serviceIds ch else ids
  | .change .. => []
  | _ => serviceIds ch

/-- Fence a chase for a fault and mark its recovery (R479, R484, R485). -/
def fenceForFault (s : State) (c : Nat) : State :=
  let ids := reimposeIds (chase s c)
  let changing := match (chase s c).act with | .change .. => true | _ => false
  let s := fenceChase s c
  modChase s c fun ch => { ch with
    act := .impose .recovery .draining ids none
    heldDown := ch.heldDown || changing
    lastSet := serviceIds ch
    images := (if changing then ch.serve [] else ch).images }

/-- A failure of a job that is not a fence of its chase: a step that was running ends, and the chase's formes are
re-imposed once STEP_ABORTED has left (R470). -/
def jobFailure (s : State) (id coord cause : Nat) : State :=
  match findJob s id with
  | none => s
  | some j =>
    let s := failJobAs s id coord cause
    if j.state = .stepping ∧ (chase s j.fields.chase).fenced = false then fenceForFault s j.fields.chase else s

/-- A torus port goes DOWN with a cause (R445, R449, R454, R458): its keys are zeroised (R424), its replay buffer and
buffered units are gone, and a job that holds it fails with cause 2 (R468). -/
def portDown (s : State) (n cause : Nat) : State :=
  match s.torus[n]? with
  | none => s
  | some p =>
    let s := { s with torus := lset s.torus n { p.unlinked with
      state := 0, cause := cause, frames := [], tagFails := [], ctlOut := [] } }
    let s := dropRuns s n
    let s := { s with health := { s.health with synced := false, hops := 0, leader := 0 } }
    match p.job with
    | some id => jobFailure s id (myCoord s) 2
    | none => s

/-- The reset of a torus port: relay frames in its replay buffer are dropped and counted (R481). -/
def resetPort (s : State) (n : Nat) : State :=
  let k := ((s.torus[n]?).map fun p => p.replay.countP SentFrame.relay).getD 0
  portDown { s with health := { s.health with relayDrop := sat32 s.health.relayDrop k } } n 0

/-- Put the reset of a domain in order (R482, R485): a fault in a set already being reset is recorded as secondary;
a larger domain takes over the smaller resets inside it; else a new reset begins and its chases are fenced. -/
def beginReset (s : State) (domain code faultTile : Nat) : State :=
  match s.faults.resets.find? fun x => inDomain s domain x.domain with
  | some x =>
    { s with faults := { s.faults with resets := s.faults.resets.map fun y =>
        if y = x ∧ y.secondary.length < 8 then { y with secondary := y.secondary ++ [code] } else y } }
  | none =>
    let cs := chasesOfDomain s domain
    let s := if code = 0x0801 then s else countReset s domain
    let done := cs.filter fun c => match (chase s c).act with | .impose _ .loading _ _ => true | _ => false
    let esc := code != 0x0801 && decide (policy s 0x0301 ≤ resetsInWindow s domain)
    let op : ResetOp :=
      { domain := domain, code := code, secondary := [], tile := faultTile, ns := s.now, chases := cs, esc := esc
        captured := false, capNs := 0, heads := [], scrubbed := done, drained := false, line := false }
    let s := cs.foldl fenceForFault s
    let s := if domain / 4096 = 6 then resetPort s (domain % 4096) else s
    { s with faults := { s.faults with
        resets := (s.faults.resets.filter fun y => !inDomain s y.domain domain) ++ [op] } }

/-- A forme fault in a chase (R475 class forme): its counter rises; while the chase is fenced for any reason the
drop is only counted (R485); else the chase fabric is reset. `j` names the CHEV counter, none for a fault that has
none. -/
def formeFault (s : State) (c code faultTile : Nat) (j : Option Nat) : State :=
  let s := match j with | some j => chev s c j | none => s
  if (chase s c).fenced then s else beginReset s (4 * 4096 + c) code faultTile

end Sys2Proof.Machine
end

