-- ==== Sys2Proof/Machine/Prelude.lean ====
section
/-! DEFINITION. How the package controller takes a command (R44 to R47, R371, R373, R383, R393, R413, R438): the
descriptor's turn, the session, retransmissions, and the checks that every command passes before its own. -/

namespace Sys2Proof.Machine

/-- What the command reference says of a command (R384 to R390): its opcode, its Roles column, whether it is served
while OUT_OF_SERVICE, and the ordinary length of its reply body, which a violation receives in zeros. -/
structure CmdSpec where
  opcode : Nat
  roles : List Role
  oosOk : Bool
  zeroLen : Nat
  deriving DecidableEq, Repr

/-- The doorbell queue the PKC takes from next: round-robin, empty queues skipped (R47). -/
def nextQueue (s : State) : Option Nat :=
  ((List.range 6).map fun i => (s.doorPtr + i) % 6).find? fun q => !(s.doorbells.getD q []).isEmpty

/-- Whether a descriptor is that of a command: the same session, opcode and REQUEST_ID, and the same message from the
same packets (R45). -/
def Descriptor.isOf (d : Descriptor) (h : CmdHdr) (op : Nat) : Bool :=
  d.session == h.session && d.opcode == op && d.reqId == h.reqId && d.body == h.body && d.dscp == h.dscp &&
    d.firstNs == h.firstNs && d.src == h.src && d.entry == h.entry

/-- Take the command's descriptor from its doorbell. A command whose descriptor waits elsewhere than at the turn is
not taken (none). A command with no descriptor in any doorbell is one that has just been written to an empty queue
and is taken at once (DESIGN CHOICE, log 17). -/
def takeDesc (s : State) (h : CmdHdr) (op : Nat) : Option State :=
  if s.doorbells.any fun q => q.any fun d => d.isOf h op then
    match nextQueue s with
    | some q =>
      match s.doorbells.getD q [] with
      | d :: r => if d.isOf h op then some { s with doorbells := lset s.doorbells q r, doorPtr := (q + 1) % 6 } else none
      | [] => none
    | none => none
  else some s

/-- Reply to the command at hand. -/
def rep (s : State) (h : CmdHdr) (op status detail : Nat) (body : Bytes) : State :=
  emitReply s { mkReply h.ep h.session op h.reqId status detail body with dscp := h.dscp }

/-- Reply DONE with a body. -/
def done (s : State) (h : CmdHdr) (op : Nat) (body : Bytes) : State := rep s h op St.done 0 body

/-- Reply BUSY with RETRY_AFTER in µs (R329, R374). -/
def repBusy (s : State) (h : CmdHdr) (op status detail retry : Nat) (body : Bytes) : State :=
  emitReply s { mkReply h.ep h.session op h.reqId status detail body with retryAfter := retry, dscp := h.dscp }

/-- Reply BUSY with a detail for which no rule gives RETRY_AFTER: the value is free (log 3). -/
def repBusyFree (s : State) (h : CmdHdr) (op detail : Nat) : State :=
  let (n, s) := drawNat s
  repBusy s h op St.busy detail (n % 2 ^ 32) []

/-- Make a command live and reply ACCEPTED (R375). -/
def accept (s : State) (h : CmdHdr) (op c : Nat) (isRequest : Bool) (body : Bytes) : State :=
  let s := { s with live := s.live ++ [⟨h.session, h.reqId, op, h.ep, c, isRequest, none, h.dscp⟩] }
  rep s h op St.accepted 0 body

/-- Make a command live without a reply (SCORE, GENERATE, JOB_STEP; a PUT that waits). -/
def enlist (s : State) (h : CmdHdr) (op c : Nat) (isRequest : Bool) : State :=
  { s with live := s.live ++ [⟨h.session, h.reqId, op, h.ep, c, isRequest, none, h.dscp⟩] }

/-- The commands that send many chunks under one REQUEST_ID (R371). -/
def isChunked (op : Nat) : Bool := op == 0x0030 || op == 0x0052

/-- The commands that are requests (R297, R466), not counted among the 1,024 of R371. -/
def isRequestOp (op : Nat) : Bool := op == 0x0050 || op == 0x0051 || op == 0x0052 || op == 0x0061

/-- The final reply of a command that is kept, for 1 s, with the OFFSETs of its chunks (R371). -/
def keptFinal (s : State) (session op reqId : Nat) : Option Final :=
  s.finals.find? fun e => e.reply.session == session && e.reply.opcode == op && e.reply.reqId == reqId &&
    decide (s.now ≤ e.ns + 1000000000)

/-- What becomes of a command before its own checks: nothing, an answer that leaves the command as it is, a refusal
which is its final reply, or its own effect. -/
inductive Gate where
  | ignore
  | answer (s : State)
  | refuse (s : State) (r : Reply)
  | run (s : State) (se : Session)

/-- Whether a session may send a command at all (R366, R368, R373 check 2, R413). -/
def entitled (se : Session) (sp : CmdSpec) : Bool :=
  if sp.opcode = 0x0002 then !se.isOpen
  else se.isOpen && (!se.provisional || [0x0010, 0x0024, 0x0004, 0x0003].contains sp.opcode) && sp.roles.contains se.role

/-- The commands addressed to the pages of a chase, which its fence answers (R52): requests, SCAN_OUT and SCAN_IN. An
IMPOSE or CHANGE meets check 0x0701 instead (R207, R223; log 16). -/
def forPages (op : Nat) : Bool := isRequestOp op || op == 0x0036 || op == 0x0037

/-- Whether a fence answers a command of a tenant: its chase is in release (R393, R399), or it is fenced and the command
is for its pages (R52). A chase that stays fenced with no forme in service refuses by check 0x0802 (R484). -/
def fenceAnswers (s : State) (se : Session) (op : Nat) : Bool :=
  let ch := chase s se.chase
  se.role == .ten && se.isOpen && (ch.state == .releasing || (ch.fenced && !ch.heldDown && forPages op))

/-- The checks that every command passes before its own, in order: role (R373 check 2, a violation), the fence of its
chase (R52, R393), the device state (check 3), the form of its body (check 4), and, for a command that is not live
already, the limit of live commands (R371). -/
def commonChecks (s : State) (se : Session) (h : CmdHdr) (sp : CmdSpec) (isNew : Bool) : Gate :=
  let refuse (s : State) (st detail : Nat) (body : Bytes) : Gate :=
    .refuse s { mkReply h.ep h.session sp.opcode h.reqId st detail body with dscp := h.dscp }
  if !entitled se sp then refuse (violation s) St.done 0 (zeros sp.zeroLen)
  else if fenceAnswers s se sp.opcode then refuse s St.domainReset 0 []
  else if s.boot.state = 5 ∧ sp.oosOk = false then refuse s St.outOfService 0 []
  else
    match h.form with
    | .badLength => refuse s St.malformed 0x0A02 []
    | .reservedSet => refuse s St.malformed 0x0A03 []
    | .ok =>
      if isNew && !isRequestOp sp.opcode &&
          decide (1024 ≤ s.live.countP fun l => l.session == h.session && !l.isRequest) then
        let (n, s) := drawNat s
        .refuse s { mkReply h.ep h.session sp.opcode h.reqId St.busy 0x0A0D [] with
          retryAfter := n % 2 ^ 32, dscp := h.dscp }
      else .run s se

/-- What a command meets before its own checks: its turn (R47), its session, a retransmission or a conflict of its id
(R371), and the checks of every command. A chunk is judged as a retransmission by its OFFSET, in its own meaning. -/
def gate (s : State) (h : CmdHdr) (sp : CmdSpec) : Gate :=
  match takeDesc s h sp.opcode with
  | none => .ignore
  | some s =>
    match kget s.sessions h.session with
    | none => .answer s
    | some se =>
      match liveOf s h.session h.reqId with
      | some l =>
        if l.opcode = sp.opcode then
          if isChunked sp.opcode then commonChecks s se h sp false else .answer (resendReply s l.latest)
        else .answer (conflictReply s se (mkReply h.ep h.session sp.opcode h.reqId St.malformed 0x0A0A []))
      | none =>
        match keptFinal s h.session sp.opcode h.reqId with
        | some f => if isChunked sp.opcode then commonChecks s se h sp true else .answer (resendReply s (some f.reply))
        | none => commonChecks s se h sp true

/-- A refusal of a request as its final reply: the LABEL is echoed where the body has its form (R388). -/
def Reply.labelled (r : Reply) (label : Bytes) : Reply :=
  if r.status = St.domainReset ∨ r.status = St.outOfService then { r with body := label ++ r.body } else r

/-- The outcome of a request: what the common checks answer, with its LABEL, or the request's own effect. -/
def requestCmd (h : CmdHdr) (sp : CmdSpec) (label : Bytes) (run : State → Session → State) (s : State) :
    Host.Outcome State Fault Refusal :=
  .next (match gate s h sp with
    | .ignore => s
    | .answer s' => s'
    | .refuse s' r => emitReply s' (r.labelled label)
    | .run s' se => run s' se)

/-- The outcome of a host command: what the common checks answer, or the command's own effect. -/
def hostCmd (h : CmdHdr) (sp : CmdSpec) (run : State → Session → State) (s : State) :
    Host.Outcome State Fault Refusal := requestCmd h sp [] run s

/-! ### Chunks (R371, R389) -/

/-- Whether an entry of the held chunks belongs to a command. -/
def isHeldOf (session reqId : Nat) (x : Nat × Nat × Nat × Nat × Bytes) : Bool := x.1 == session && x.2.1 == reqId

/-- A chunk's OFFSET counts among those of its command's final reply, if the command has ended. -/
def markChunk (s : State) (h : CmdHdr) (op off : Nat) : State :=
  if (liveOf s h.session h.reqId).isSome then s
  else
    { s with finals := s.finals.map fun f =>
      if f.reply.session = h.session ∧ f.reply.opcode = op ∧ f.reply.reqId = h.reqId then
        { f with offsets := nset f.offsets off } else f }

/-- Refuse one chunk. A live command goes on. The refusal of an OFFSET 0 chunk ends its command, and the chunks held for
it are discarded with it (R389). -/
def refuseChunk (s : State) (se : Session) (h : CmdHdr) (op off : Nat) (r : Reply) : State :=
  if (liveOf s h.session h.reqId).isSome then conflictReply s se r
  else
    let s := if off = 0 then { s with heldChunks := s.heldChunks.filter fun x => !isHeldOf h.session h.reqId x } else s
    markChunk (emitReply s r) h op off

/-- The outcome of a command that sends chunks: what the common checks answer to this chunk, or its own effect. -/
def chunkCmd (h : CmdHdr) (sp : CmdSpec) (off : Nat) (label : Bytes) (run : State → Session → State) (s : State) :
    Host.Outcome State Fault Refusal :=
  .next (match gate s h sp with
    | .ignore => s
    | .answer s' => s'
    | .refuse s' r =>
      match kget s'.sessions h.session with
      | some se => refuseChunk s' se h sp.opcode off (r.labelled label)
      | none => s'
    | .run s' se => run s' se)

/-- What a chunk of a command that has ended meets, none when the command is still to be decided: a chunk that repeats an
OFFSET receives the final reply again (R371); after a cancel or a reset the others are answered NOT_FOUND (R333), after
DONE they overlap what was received (R389), and after a refusal they are discarded with it (log 96). -/
def endedChunk (s : State) (se : Session) (h : CmdHdr) (op off : Nat) : Option State :=
  match keptFinal s h.session op h.reqId with
  | none => none
  | some f =>
    let side (st : Nat) : State := conflictReply s se { mkReply h.ep h.session op h.reqId st 0 [] with dscp := h.dscp }
    if f.offsets.contains off then some (resendReply s (some f.reply))
    else if f.offsets.isEmpty || (op == 0x0052 && !f.offsets.contains 0) then none
    else if f.reply.status = St.cancelled ∨ f.reply.status = St.domainReset then some (side St.notFound)
    else if f.reply.status = St.done then some (side St.malformed)
    else some s

/-- Every role (R384 "all"). -/
def allRoles : List Role := [.own, .ten, .mgt, .obs, .vnd]

/-! ### Closing a session (R366, R369, R424) -/

/-- Drop the orders that wait which `gone` names. Admissions that only they had stopped resume (R406). -/
def Chase.dropOrders (ch : Chase) (gone : Order → Bool) : Chase :=
  if !ch.orders.any gone then ch
  else
    let left := ch.orders.filter fun o => !gone o
    { ch with
      orders := left
      stopped := match ch.act with
        | .none => ch.stopped
        | .change .. => left.any Order.stops
        | _ => ch.stopped }

/-- Close a session (R369): its live commands end as CANCEL ends them, without final replies: requests and waiting orders
end, loads and stages leave nothing, and PUTs, GETs and WINDOW_SETs that wait are dropped. A move in progress cannot be
cancelled (R258), and a cancel affects no running change or re-imposition (R335): these go on, and answer nobody. The
session's keys are zeroised, and its id is not used again for 10 s. -/
def closeSession (s : State) (id : Nat) : State :=
  let mine := s.reqs.filter fun e => e.2.session == id && !e.2.state.final && e.2.flow.isNone
  let s := { s with
    live := s.live.filter fun l => l.session != id
    finals := s.finals.filter fun e => e.reply.session != id
    heldChunks := s.heldChunks.filter fun x => x.1 != id
    reasm := s.reasm.filter fun x => x.session != id
    objWaits := s.objWaits.filter fun w => w.hdr.session != id
    objs := s.objs.map fun o =>
      { o with
        waiters := o.waiters.filter fun w => match w with | .cmd a _ => a != id | .step _ => true
        winWait := o.winWait.filter fun w => w.2.2.1 != id }
    stages := s.stages.filter fun x => x.session != id
    intake := if s.intake.notifyTo.map Prod.fst = some id then { s.intake with notifyTo := none } else s.intake }
  let s := mine.foldl (fun s e => endReq s e.1 .cancelled St.cancelled 0 []) s
  let s : State := { s with chases := s.chases.map fun e => (e.1, e.2.dropOrders fun o => o.cmd.1 == id) }
  { s with sessions := kdel s.sessions id, closedIds := kset s.closedIds id s.now }

/-- Close every session that a predicate names. -/
def closeWhere (s : State) (p : Session → Bool) : State :=
  ((s.sessions.filter fun e => p e.2).map Prod.fst).foldl closeSession s

end Sys2Proof.Machine
end

