-- ==== Sys2Proof/Machine/Keys.lean ====
section
/-! DEFINITION. The key hierarchy (R422 to R429) and the signatures the device makes. -/

namespace Sys2Proof.Machine

/-- The fuse row of the UDS: every bit is blown once it is destroyed (R417, R422). -/
def udsRow (s : State) : Bytes := if s.fuses.udsIntact then Config.uds else List.replicate 48 0xFF

/-- The device identity key (R423). -/
def dikPriv (s : State) : Bytes := hkdf 56 (udsRow s) [] (ascii "Z9 identity v1")

/-- The digest of the running firmware (R420). -/
def fwDigest (s : State) : Bytes := (s.boot.fw.map Firmware.digest).getD (zeros 48)

/-- The alias key of this firmware run (R423). -/
def aliasPriv (s : State) : Bytes := hkdf 56 (udsRow s) (fwDigest s) (ascii "Z9 alias v1")

/-- The device certificate (R423): DIK public key, SERIAL and the fused Vogomel signature. The DER encoding of
certificates is outside the rules (log 18). -/
def deviceCert (s : State) : Bytes := pubOf (dikPriv s) ++ le 16 s.fuses.serial ++ s.fuses.deviceSig

/-- The alias certificate (R423): the alias public key, FW_DIGEST, SVN and the device certificate under a signature of
the DIK. -/
def aliasCert (s : State) : Bytes :=
  let tbs := pubOf (aliasPriv s) ++ fwDigest s ++ le 1 ((s.boot.fw.map Firmware.svn).getD 0) ++ deviceCert s
  tbs ++ Config.sign (dikPriv s) (sha384 tbs)

/-- The DIK public key in an alias certificate. -/
def certDik (cert : Bytes) : Bytes := slice cert 146 97

/-- Whether an alias certificate chains through its device certificate to the Vogomel root (R434). -/
def certOk (s : State) (cert : Bytes) : Bool :=
  cert.length == 451 && ecdsaOk (be 97 s.fuses.rootPub) (sha384 (slice cert 146 113)) (slice cert 259 96) &&
    ecdsaOk (certDik cert) (sha384 (cert.take 355)) (cert.drop 355)

/-- A signature of the alias key over SHA-384 of a message. -/
def aliasSign (s : State) (msg : Bytes) : Bytes := Config.sign (aliasPriv s) (sha384 msg)

/-- The chase forme key (R423). -/
def formePriv (ch : Chase) : Bytes := hkdf 56 (ch.crk.getD []) [] (ascii "Z9 forme v1")

/-- The keys of a memory key slot (R423): 96 bytes. -/
def slotKeys (ch : Chase) (isH : Bool) (g gen : Nat) : Bytes :=
  hkdf 96 (ch.crk.getD []) [] (ascii "Z9 mem v1" ++ le 1 (if isH then 1 else 2) ++ le 4 g ++ le 8 gen)

/-- The pull key of a chase whose CHASE_CLAIM registered `pub` (R427). -/
def pullKeyOf (ch : Chase) (c : Nat) (pub : Bytes) : Bytes :=
  hkdf 32 (ecdh (formePriv ch) pub) (le 1 c ++ le 8 ch.createCount) (ascii "Z9 pull v1")

/-- The chase seed (R397): from the DIK, the chase number and the creation count. -/
def chaseSeed (s : State) (c count : Nat) : Nat :=
  Config.chaseSeed (dikPriv s) c count % 2 ^ 64

/-- The concordance key of a chase, as its two 64-bit halves (R309, R423). -/
def concKey (ch : Chase) : Nat × Nat :=
  let k := hkdf 16 (ch.crk.getD []) [] (ascii "Z9 conc v1")
  (field k 0 8, field k 8 8)

/-- The intake key of a chase (R379, R423). -/
def intakeKey (ch : Chase) : Nat × Nat :=
  let k := hkdf 16 (ch.crk.getD []) [] (ascii "Z9 intake v1")
  (field k 0 8, field k 8 8)

/-- The seed derived for a request with SEED = 0 (R318, R423). -/
def requestSeed (ch : Chase) (session reqId : Nat) : Nat :=
  ofLe (hkdf 8 (ch.crk.getD []) [] (ascii "Z9 seed v1" ++ be 4 session ++ be 4 reqId))

/-- The CAK of a logical port for a written value L (R428). -/
def cakOf (s : State) (ownerPub : Bytes) (n l : Nat) : Bytes :=
  hkdf 32 (ecdh (dikPriv s) ownerPub) (be 8 l) (ascii "Z9 cak v1" ++ le 1 n)

/-- OWNER_DIGEST: SHA-384 of OWNER_PUB, zero unless OWNED (R430). -/
def ownerDigest (s : State) : Bytes :=
  match s.fuses.lifecycle, s.fuses.ownerPub with
  | 2, some k => sha384 k
  | _, _ => zeros 48

end Sys2Proof.Machine
end

