-- ==== Sys2Proof/Machine/Mesh.lean ====
section
/-! DEFINITION. The fixed routes of the fabric (R28, R170, R172): the tile pairs, spines and gateway lanes that a token
passes from its tile pair to its destination or to the hub. -/

namespace Sys2Proof.Machine

/-- Mesh coordinates of a tile pair within its die (R170). -/
def meshOf (t : Nat) : Nat × Nat := (8 * (t / 64 % 4) + t / 8 % 8, 8 * (t / 64 % 8 / 4) + t % 8)

/-- The virtual tile pair of a die at mesh coordinates (R142, R170). -/
def tileAt (die gx gy : Nat) : Nat := die * 512 + (gx / 8 + 4 * (gy / 8)) * 64 + gx % 8 * 8 + gy % 8

/-- One stage of a route: a tile pair's place in the mesh, a lane of the gateway to a spine between two dies at an edge
position, or a lane of the gateway to the hub link. -/
inductive Hop where
  | place (tile : Nat)
  | spine (src dst pos lane : Nat)
  | hub (die pos lane : Nat)
  deriving DecidableEq, Repr

/-- Numbers from a towards b, both included. -/
def towards (a b : Nat) : List Nat :=
  if a ≤ b then List.range' a (b - a + 1) else (List.range' b (a - b + 1)).reverse

/-- A way along one row or column and on along the other: gx first, then gy (R170). -/
def meshWay (die : Nat) (a b : Nat × Nat) : List Hop :=
  ((towards a.1 b.1).map fun x => Hop.place (tileAt die x a.2)) ++
    ((towards a.2 b.2).drop 1).map fun y => Hop.place (tileAt die b.1 y)

/-- The edge column of a die that faces the die beside it, and the edge row that faces the other die row and the hub
die (R172). -/
def edgeX (die : Nat) : Nat := if die % 2 = 0 then 31 else 0
/-- See `edgeX`. -/
def edgeY (die : Nat) : Nat := if die / 2 = 0 then 15 else 0

/-- The route of a token for `port` of another tile pair, or of its own (R28, R170, R172): a change of die column takes
a column spine at the token's gy, on one of 4 lanes; a change of die row takes a row spine at its gx, or after a column
spine at the destination's gx, on one of 2 lanes. -/
def routeTo (src dst port : Nat) : List Hop :=
  let a := meshOf src
  let b := meshOf dst
  let d := src / 512
  let e := dst / 512
  if d % 2 = e % 2 then
    if d = e then meshWay d a b
    else meshWay d a (a.1, edgeY d) ++ [.spine d e a.1 (port % 2)] ++ meshWay e (a.1, edgeY e) b
  else if d / 2 = e / 2 then
    meshWay d a (edgeX d, a.2) ++ [.spine d e a.2 (port % 4)] ++ meshWay e (edgeX e, a.2) b
  else
    let m := d / 2 * 2 + e % 2
    meshWay d a (edgeX d, a.2) ++ [.spine d m a.2 (port % 4), .spine m e b.1 (port % 2)] ++ meshWay e (b.1, edgeY e) b

/-- The route of a token with REMOTE = 1 to the hub link of its die (R172, R184). -/
def routeToHub (src port : Nat) : List Hop :=
  let a := meshOf src
  let d := src / 512
  meshWay d a (a.1, edgeY d) ++ [.hub d a.1 (port % 2)]

end Sys2Proof.Machine
end

