-- ==== Sys2Proof/Machine/Power.lean ====
section
/-! DEFINITION. Pace bins, caps, the current limiter, the power hold, overdrive and the thermal limits (R341 to R346,
R507 to R531), and the commands and events that drive them. -/

namespace Sys2Proof.Machine

/-! ### Bins and caps -/

/-- Full-load input power by voltage index (R515). -/
def fl (vi : Nat) : Nat := [1902, 2262, 2693, 3200, 3721, 4286, 4904].getD vi 0

/-- Fused pace of a bin in ps (R342, R343). -/
def tauPs (s : State) (b : Nat) : Nat := s.fuses.tau.getD b 0

/-- Whether bin a is slower than bin b (R342). -/
def slower (s : State) (a b : Nat) : Bool := decide (tauPs s b < tauPs s a)

/-- The sustained cap: the lowest of 3,200 W and each role's non-zero CAP_W (R516). -/
def sustCap (s : State) : Nat := ([s.power.capOwn.cap, s.power.capMgt.cap].filter (· != 0)).foldl Nat.min 3200

/-- The alert cap: the lowest non-zero ALERT_CAP_W, or 2,000 W (R516). -/
def alertCap (s : State) : Nat :=
  match [s.power.capOwn.alert, s.power.capMgt.alert].filter (· != 0) with
  | [] => 2000
  | x :: r => r.foldl Nat.min x

/-- The effective cap (R516). -/
def effCap (s : State) : Nat :=
  if s.power.grant then 4200 else if s.power.alert then Nat.min (sustCap s) (alertCap s) else sustCap s

/-- The cap that SUST_BIN is chosen for: the alert cap in force is read as lowering the sustained cap, never as
raising it (DEDUCED, log 20). -/
def binCap (s : State) : Nat := if s.power.alert then Nat.min (sustCap s) (alertCap s) else sustCap s

/-- Voltage index of a measured core-rail voltage (R344); none below 0.60 V (R345). -/
def viOf (mv : Nat) : Option Nat := if mv < 600 then none else some (Nat.min 6 ((mv - 600) / 50))

/-- The largest of the first n voltage indices with a property, 0 when none has it. -/
def bestVi : Nat → (Nat → Bool) → Nat
  | 0, _ => 0
  | n + 1, p => if p n then n else bestVi n p

/-- PACE_PIN's limit on a voltage index (R436). -/
def pinned (s : State) (vi : Nat) : Nat := if policy s 0x0202 = 0 then vi else Nat.min vi ((policy s 0x0202 - 1) / 4)

/-- SUST_BIN as R517, R526 and R436 give it now. -/
def sustTarget (s : State) : Nat :=
  if s.thermal.floor then 3 else 4 * pinned s (bestVi 7 fun v => decide (fl v ≤ binCap s)) + s.thermal.ti

/-- The slower of two bins (R346); the second when their paces are equal. -/
def slowerBin (s : State) (a b : Nat) : Nat := if slower s a b then a else b

/-- Put CUR_BIN and SUST_BIN, and with them ADM_BIN (R346). SLOW_COUNT counts each time CUR_BIN becomes slower than
the bin that ADM_BIN would otherwise have (DEDUCED, log 21). -/
def setBins (s : State) (cur sust : Nat) : State :=
  let began := slower s cur sust && !slower s s.power.curBin s.power.sustBin
  { s with power := { s.power with
      curBin := cur
      sustBin := sust
      admBin := slowerBin s cur sust
      slowCount := if began then sat32 s.power.slowCount 1 else s.power.slowCount } }

/-- Bring SUST_BIN to its target: a slower one is written at once, a faster one waits for the rails (R346). -/
def updateSust (s : State) : State :=
  let t := sustTarget s
  if t = s.power.sustBin then { s with power := { s.power with sustNext := none } }
  else if slower s s.power.sustBin t then { s with power := { s.power with sustNext := some t } }
  else setBins { s with power := { s.power with sustNext := none } } s.power.curBin t

/-- The voltage index power management sets the rails to (R517): the largest at which the measured power, scaled by
FL from the index in force, meets the effective cap; never below SUST_BIN's, and at most 3 outside a grant. -/
def targetVi (s : State) : Nat :=
  let top := if s.power.grant then 7 else 4
  let v := bestVi top fun v => decide (s.thermal.pin * fl v ≤ effCap s * fl (s.power.curBin / 4))
  Nat.max (pinned s v) (s.power.sustBin / 4)

/-- Set the core rails (R510, R517, R520, R526); before the converters start there is nothing to set. -/
def retarget (s : State) : State :=
  if s.power.setMv = 0 then s
  else if s.thermal.floor then { s with power := { s.power with setMv := 610 } }
  else if s.power.limiter then { s with power := { s.power with setMv := Nat.min s.power.setMv (610 + 50 * targetVi s) } }
  else { s with power := { s.power with setMv := 610 + 50 * targetVi s } }

/-- LIMITER (R530): the limiter holds the rails below the target of power management, so not where they stand at that
target (DEDUCED, log 79). -/
def limiterHolds (s : State) : Bool :=
  s.power.limiter && !s.thermal.floor && decide (s.power.setMv < 610 + 50 * targetVi s)

/-- Enter POWER_HOLD (R521). -/
def enterHold (s : State) : State :=
  if s.power.hold then s
  else { s with power := { s.power with
    hold := true, throttle := 0, throttleNs := s.now, calmNs := none, capRose := false
    holdCount := sat32 s.power.holdCount 1 } }

/-- Leave POWER_HOLD (R521). -/
def leaveHold (s : State) : State :=
  { s with power := { s.power with hold := false, throttle := 0, calmNs := none, overNs := none, capRose := false } }

/-- What follows a change of the caps in force, from effective cap `old` (R517, R521, R522). -/
def capsChanged (old : Nat) (s : State) : State :=
  let s := updateSust s
  let new := effCap s
  let s :=
    if s.power.setMv ≠ 0 ∧ new < old ∧ new * fl (s.power.curBin / 4) < s.thermal.pin * fl 0 then enterHold s else s
  let s :=
    if s.power.hold ∧ old < new ∧ 2000 ≤ new then { s with power := { s.power with capRose := true } } else s
  retarget s

/-- The overdrive ledger in ns (R523): how long input power has exceeded 3,200 W within the last 20 s. -/
def ledgerNs (s : State) : Nat :=
  ((s.power.odSpans ++ (s.power.odFrom.map fun t => (t, s.now)).toList).map fun e =>
    e.2 - Nat.max e.1 (s.now - 20000000000)).sum

/-- The conditions of R523 without the thermal prediction. -/
def odAllowed (s : State) : Bool :=
  s.power.capOwn.od && s.power.capMgt.od && s.power.capOwn.cap == 0 && s.power.capMgt.cap == 0 &&
  decide (ledgerNs s < 2000000000) && !s.power.alert && !s.thermal.inputOor && !nbit s.thermal.senseOpen 0 && decide (s.thermal.tjMax < 85)

/-- End an overdrive grant that a condition of R523 no longer allows (R524); ADM_BIN does not change. -/
def endGrant (s : State) : State :=
  if s.power.grant && !odAllowed s then
    retarget { s with power := { s.power with grant := false }, thermal := { s.thermal with tjPred := 0 } }
  else s

/-! ### Power samples -/

/-- The lowest core-rail voltage as the rails report it, in mV: a rail with an open sense pair reports 30 mV below its
local sense (R344, R512). -/
def railMv (s : State) : Nat :=
  ((List.range 4).map fun d =>
    s.power.railsMv.getD d 0 - if nbit s.thermal.senseOpen (d + 1) then 30 else 0).foldl Nat.min 2047

/-- Whether the rails stand at 0.61 V (R521), within the tolerance of R510. -/
def atFloor (s : State) : Bool := s.power.setMv == 610 && decide (railMv s ≤ 618)

/-- Whether the current of a rail is above its limit, 25 A for each phase in service that has not failed (R511). -/
def railOver (s : State) (amps : List Nat) : Bool :=
  (s.spares.rails.zip amps).any fun e => decide (25 * (e.1.phases - e.1.failing) < e.2)

/-- Take a 1 µs average of input power: what has stayed above or below the cap since when (R520, R521), the spans above
3,200 W (R523), the end of a grant that these no longer allow (R524), and the second entry condition of R521. -/
def takeSample (watts : Nat) (s : State) : State :=
  let since (c : Bool) (o : Option Nat) : Option Nat := if c then some (o.getD s.now) else none
  let cap := effCap s
  let overSince := since (atFloor s && decide (cap < watts)) s.power.overNs
  let high := decide (3200 < watts)
  let s := endGrant { s with
    thermal := { s.thermal with pin := watts }
    power := { s.power with
      odSpans := (s.power.odSpans ++ (if high then none else s.power.odFrom.map fun t => (t, s.now)).toList).filter
        fun e => decide (s.now < e.2 + 20000000000)
      odFrom := since high s.power.odFrom
      overNs := overSince
      calmNs := since (decide (watts * 10 ≤ cap * 9)) s.power.calmNs
      limiterCalmNs := since (decide (watts * 100 ≤ cap * 97)) s.power.limiterCalmNs } }
  match overSince with
  | some t => if t + 2000 ≤ s.now then enterHold s else s
  | none => s

/-- POWER_CAP (R390, R516, R518, R522): each role changes only its own values. -/
def execPowerCap (h : CmdHdr) (cap alertCap overdrive : Nat) (s : State) : Host.Outcome State Fault Refusal :=
  hostCmd h ⟨0x0090, [.own, .mgt], true, 0⟩ (fun s se =>
    if 3200 < cap ∨ 3200 < alertCap ∨ 1 < overdrive then rep s h 0x0090 St.malformed 0 []
    else
      let old := effCap s
      let v : RoleCap := ⟨cap, alertCap, overdrive == 1⟩
      let s :=
        match se.role with
        | .own => { s with power := { s.power with capOwn := v } }
        | _ => { s with power := { s.power with capMgt := v } }
      done (capsChanged old (endGrant s)) h 0x0090 []) s

/-- PWR_ALERT_N is recognised (R519). -/
def execPwrAlertN (s : State) : Host.Outcome State Fault Refusal :=
  .next (
    let old := effCap s
    let s := { s with pins := { s.pins with pwrAlertN := false }, power := { s.power with alert := true } }
    capsChanged old (endGrant s))

/-- PWR_ALERT_N has been high for 10 ms: the alert cap is released (R519). -/
def execAlertRelease (s : State) : Host.Outcome State Fault Refusal :=
  .next (
    let old := effCap s
    capsChanged old { s with pins := { s.pins with pwrAlertN := true }, power := { s.power with alert := false } })

/-- The limiter takes a sample (R520, R511): above the cap or a rail's current limit it lowers the rails, 1 mV in the
100 ns of an update and to 0.61 V at most; otherwise power management sets the rails by the power measured (R517; log
79). The averages that each role reads come with it (R530, R411). -/
def execLimiter (p : PowerSample) (s : State) : Host.Outcome State Fault Refusal :=
  .next (
    let s := takeSample p.watts { s with thermal := { s.thermal with pinMgt := p.mgtAvg, pinOwn := p.ownAvg } }
    if s.power.setMv ≠ 0 ∧ (effCap s < p.watts ∨ railOver s p.amps = true) then
      { s with power := { s.power with
        limiter := true
        limiterCalmNs := none
        setMv := Nat.max 610 (s.power.setMv - 1) } }
    else retarget s)

/-- The limiter hands the rails back once the average has stayed at or below 97 % of the cap for 20 µs (R520). -/
def execLimiterHandback (watts : Nat) (s : State) : Host.Outcome State Fault Refusal :=
  .next (
    let s := takeSample watts s
    match s.power.limiter, s.power.limiterCalmNs with
    | true, some t =>
      if t + 20000 ≤ s.now then
        retarget { s with power := { s.power with limiter := false, limiterCalmNs := none } }
      else s
    | _, _ => s)

/-- A step of THROTTLE (R521): up from 0 at once and then every 2 µs above the cap at 0.61 V; down every 10 µs at or
below 90 % of it. -/
def execThrottleStep (watts : Nat) (s : State) : Host.Outcome State Fault Refusal :=
  .next (
    let s := takeSample watts s
    let set (n : Nat) : State := { s with power := { s.power with throttle := n, throttleNs := s.now } }
    if !s.power.hold then s
    else if atFloor s && decide (effCap s < watts) then
      if s.power.throttle = 0 then set 1
      else if s.power.throttleNs + 2000 ≤ s.now then set (Nat.min 7 (s.power.throttle + 1)) else s
    else
      match s.power.calmNs with
      | some t =>
        if 0 < s.power.throttle ∧ Nat.max t s.power.throttleNs + 10000 ≤ s.now then set (s.power.throttle - 1) else s
      | none => s)

/-- The hold ends (R521): the cap has risen to 2,000 W or more, or THROTTLE has been 0 and the average at or below
90 % of the cap for 1 ms. -/
def execHoldEnd (watts : Nat) (s : State) : Host.Outcome State Fault Refusal :=
  .next (
    let s := takeSample watts s
    let calm := match s.power.calmNs with
      | some t => s.power.throttle == 0 && decide (Nat.max t s.power.throttleNs + 1000000 ≤ s.now)
      | none => false
    if s.power.hold && decide (600 ≤ railMv s) && (s.power.capRose || calm) then leaveHold s else s)

/-- One °C in the units of `tjPredOf`. -/
def tjUnit : Int := 1000000 * 4294967296

/-- TJ_PRED (R523) from the hottest sensor, the input power and the ledger. -/
def tjPredOf (s : State) (watts : Nat) : Int :=
  let decay := Config.expDecay (2000000000 - ledgerNs s) (1000000 * s.fuses.tauTh)
  s.thermal.tjMax * tjUnit + (4200 - (watts : Int)) * s.fuses.rth * ((4294967296 - decay : Nat) : Int)

/-- Every 1 ms: the ledger, TJ_PRED, and the grant or its end (R523, R524). -/
def execOverdriveEval (watts : Nat) (s : State) : Host.Outcome State Fault Refusal :=
  .next (
    let s := takeSample watts s
    let old := effCap s
    let pred := tjPredOf s watts
    let ok := odAllowed s && decide (pred ≤ 85 * tjUnit) && s.power.setMv != 0
    capsChanged old { s with
      power := { s.power with ledger := ledgerNs s / 1000000, grant := ok }
      thermal := { s.thermal with tjPred := if ok then (pred / tjUnit).toNat else 0 } })

/-! ### Rails, temperature and clocks -/

/-- CUR_BIN as the lowest core-rail voltage and the temperature index give it (R344); below 0.60 V there is no bin, and
the hold begins (R345, R521). -/
def followRails (s : State) : State :=
  match viOf (railMv s) with
  | none => enterHold s
  | some vi => setBins s (4 * vi + s.thermal.ti) s.power.sustBin

/-- CUR_BIN follows a crossing (R344), with the voltages of the four core rails in mV. -/
def execCurBinUpdate (railsMv : List Nat) (s : State) : Host.Outcome State Fault Refusal :=
  .next (followRails { s with power := { s.power with railsMv := railsMv } })

/-- A faster SUST_BIN is written once the rails have settled (R346). -/
def execRailsSettled (railsMv : List Nat) (s : State) : Host.Outcome State Fault Refusal :=
  .next (
    let s := { s with power := { s.power with railsMv := railsMv } }
    match s.power.sustNext, viOf (railMv s) with
    | _, none => enterHold s
    | some b, some vi =>
      if b / 4 ≤ vi then setBins { s with power := { s.power with sustNext := none } } s.power.curBin b else s
    | none, some _ => s)

/-- Limit of a temperature index in °C (R340). -/
def tempLimit (ti : Nat) : Nat := [45, 65, 85, 105].getD ti 105

/-- The smallest temperature index whose limit is at least the hottest sensor plus 2 °C (R344): at 63 °C bin 13 still
holds (R572; log 68). -/
def tiOf (hot : Nat) : Nat :=
  if hot + 2 ≤ 45 then 0 else if hot + 2 ≤ 65 then 1 else if hot + 2 ≤ 85 then 2 else 3

/-- The hottest of the sensors and the die it lies on: 16 on each compute die, then 8 on the hub die (R525, R531). -/
def hottest (sensors : List Nat) : Nat × Nat :=
  (sensors.zipIdx.foldl (fun (a : Nat × Nat) x => if a.1 < x.1 then (x.1, Nat.min 4 (x.2 / 16)) else a) (0, 0))

/-- A sample of the junction sensors (R525, R526, R344). -/
def execTempSample (sensors : List Nat) (s : State) : Host.Outcome State Fault Refusal :=
  .next (
    let (hot, die) := hottest sensors
    let want := tiOf hot
    let s := { s with thermal := { s.thermal with
      tjMax := hot
      hotDie := die
      ti := Nat.max want s.thermal.ti
      tiFallNs := (List.range 3).map fun k =>
        if hot + 6 < tempLimit k then some (((s.thermal.tiFallNs[k]?).bind id).getD s.now) else none
      floor := s.thermal.floor || decide (105 ≤ hot)
      coolNs := if hot < 95 then some (s.thermal.coolNs.getD s.now) else none
      tripOwn := s.thermal.tripOwn || decide (115 ≤ hot) } }
    let s := if 115 ≤ hot then { s with pins := { s.pins with thermTripN := false } } else s
    retarget (updateSust (endGrant s)))

/-- The temperature index falls to the least one whose limit minus 6 °C the hottest sensor has stayed below for 1 ms
(R344). -/
def execTiFall (s : State) : Host.Outcome State Fault Refusal :=
  .next (
    let cool (k : Nat) : Bool := match (s.thermal.tiFallNs[k]?).bind id with
      | some t => decide (t + 1000000 ≤ s.now)
      | none => false
    match (List.range s.thermal.ti).find? cool with
    | some k => retarget (updateSust { s with thermal := { s.thermal with ti := k } })
    | none => s)

/-- The thermal floor ends after 10 ms below 95 °C (R526). -/
def execThermalFloorEnd (s : State) : Host.Outcome State Fault Refusal :=
  .next (match s.thermal.floor, s.thermal.coolNs with
    | true, some t =>
      if t + 10000000 ≤ s.now then retarget (updateSust { s with thermal := { s.thermal with floor := false } }) else s
    | _, _ => s)

/-- Remote sense against local sense, in mV (R512): a difference above 50 mV marks the pair open, until the next
start-up. A core rail then reports its voltage from local sense, and CUR_BIN falls accordingly. -/
def execSenseCheck (pair remoteMv localMv : Nat) (s : State) : Host.Outcome State Fault Refusal :=
  .next (
    if (remoteMv + 50 < localMv ∨ localMv + 50 < remoteMv) ∧ pair < 6 ∧ nbit s.thermal.senseOpen pair = false then
      let s := endGrant { s with thermal := { s.thermal with senseOpen := s.thermal.senseOpen + 2 ^ pair } }
      if 1 ≤ pair ∧ pair ≤ 4 ∧ s.power.setMv ≠ 0 then
        followRails { s with power := { s.power with railsMv := lset s.power.railsMv (pair - 1) localMv } }
      else s
    else s)

/-- VIN36 crosses 32.0 V or 40.0 V (R507); `vin` is in units of 10 mV. -/
def execInputOorChange (vin : Nat) (s : State) : Host.Outcome State Fault Refusal :=
  .next (endGrant { s with thermal := { s.thermal with vin := vin, inputOor := decide (vin < 3200 ∨ 4000 < vin) } })

/-- A reference clock is lost (R567): its PLL goes into holdover, except in AON. -/
def execRefclkLoss (clk : Nat) (s : State) : Host.Outcome State Fault Refusal :=
  .next { s with pins := { s.pins with
    refclk := lset s.pins.refclk clk false
    holdover := if s.boot.state = 0 then s.pins.holdover else lset s.pins.holdover clk true } }

/-- A reference clock returns (R567): its PLL relocks. -/
def execRefclkReturn (clk : Nat) (s : State) : Host.Outcome State Fault Refusal :=
  .next { s with pins := { s.pins with
    refclk := lset s.pins.refclk clk true, holdover := lset s.pins.holdover clk false } }

end Sys2Proof.Machine
end

