-- ==== Sys2Proof/Machine/Stop.lean ====
section
/-! DEFINITION. Stopping and restarting the device: zeroisation (R424), the stopped state (R505, R507, R527 to R529),
RESET_N and package resets (R490, R492, R533, R534, R570), and loss of input power (R534). -/

namespace Sys2Proof.Machine

/-- A tier whose key slots are zeroised: what it holds can no longer be decrypted, and the model keeps none of it. -/
def TierMem.zeroise (m : TierMem) : TierMem :=
  { m with slots := m.slots.map (fun e => (e.1, { e.2 with keys := none })), bytes := [], spoil := [] }

/-- Zeroise every key except the UDS, in every engine (R424, R58). -/
def zeroiseKeys (s : State) : State :=
  { s with
    sessions := s.sessions.map fun e => (e.1, { e.2 with keyHD := none, keyDH := none })
    chases := s.chases.map fun e => (e.1, { e.2 with crk := none, pullKey := none, seed := 0 })
    memH := s.memH.zeroise
    memB := s.memB.zeroise
    ports := s.ports.map fun p => { p with cak := none, sak := none, macsecUp := false }
    torus := s.torus.map fun p => { p with keyTx := none, keyRx := none, newTx := none, newRx := none }
    boot := { s.boot with aliasKey := false, patrolKey := none } }

/-- Fence every domain: every chase, and with it every job and request (R528, R533). -/
def fenceAll (s : State) : State := (heldChases s).foldl fenceChase s

/-- Drop every Ethernet and torus link (R490, R528). -/
def dropLinks (s : State) : State :=
  { s with
    ports := s.ports.map fun p => { p with linkUp := false }
    torus := s.torus.map fun p => { TorusPort.reset with cause := p.cause, counts := p.counts } }

/-- The stop that EPO_N, THERM_TRIP_N and the input monitors lead to (R529): every domain fenced, keys zeroised, no
pull, converters off, links down. The first cause recognised is kept; a stopped device stays as it is. -/
def stopDevice (cause : Option Nat) (s : State) : State :=
  if s.boot.state = 7 then s
  else
    let s := dropLinks (zeroiseKeys (fenceAll s))
    { s with
      power := { s.power with setMv := 0, railsMv := [0, 0, 0, 0] }
      faults := { s.faults with resets := [] }
      boot := { s.boot with state := 7, stopCause := cause.getD s.boot.stopCause } }

/-- Whether every key fuse that a slot has blown is 1 in a key (R416). -/
def OwnerSlot.fits (x : OwnerSlot) (pub : Bytes) : Bool :=
  x.key.zipIdx.all fun e => (e.1 &&& pub.getD e.2 0) == e.1

/-- The owner-key slot that a claim of a key takes (R416). -/
def slotFor (s : State) (pub : Bytes) : Option Nat :=
  match s.fuses.slots.findIdx? fun x => x.inUse && x.fits pub with
  | some i => some i
  | none => s.fuses.slots.findIdx? fun x => !x.inUse

/-- Key fuses of a claim that is interrupted before its state fuse (R416): some or all of the key's fuses are blown
in the claim's slot, which ones is a free value (log 3). -/
def interruptClaim (s : State) : State :=
  match s.boot.claim with
  | none => s
  | some (_, _, pub) =>
    match slotFor s pub with
    | none => s
    | some i =>
      let (r, s) := drawBytes s pub.length
      { s with fuses := { s.fuses with slots := lmod s.fuses.slots i fun x =>
        { x with key := (List.range pub.length).map fun k => x.key.getD k 0 ||| (pub.getD k 0 &&& r.getD k 0) } } }

/-- A start-up from AON (R532 to R534): fuses and the always-on domain are kept, and what has left the device has
left it; all else is as after State.reset. The timebase runs on (DESIGN CHOICE, log 22). -/
def startUp (s : State) : State :=
  let s := interruptClaim s
  { State.reset with
    pending := s.pending
    draws := s.draws
    now := s.now
    fuses := s.fuses
    boot := { Boot.reset with
      cfg := s.boot.cfg, source := (s.boot.cfg.map BootConfig.bootSource).getD 0, record := s.boot.record, pkgResets := s.boot.pkgResets, stopCause := s.boot.stopCause }
    pins := { s.pins with holdover := List.replicate 6 false }
    thermal := { Thermal.reset with vin := s.thermal.vin, inputOor := s.thermal.inputOor, tripOwn := s.thermal.tripOwn }
    ports := s.ports.map fun p => { HostPort.reset with mac := p.mac }
    memH := { TierMem.reset with repaired := s.memH.repaired }
    memB := { TierMem.reset with repaired := s.memB.repaired }
    out := s.out
    wire := s.wire
    sbOut := s.sbOut }

/-- Package resets within PKG_ESC_WINDOW (R492). -/
def pkgInWindow (s : State) : Nat :=
  s.boot.pkgResets.countP fun t => decide (s.now ≤ t + policy s 0x0304 * 60000000000)

/-- A package reset (R490): counted unless the owner asked for it, recorded, and followed by a start-up. -/
def packageReset (s : State) (code domain ns : Nat) : State :=
  let s := if code = 0x0801 then s else { s with boot := { s.boot with pkgResets := s.boot.pkgResets ++ [ns] } }
  let s := { s with boot := { s.boot with record := ⟨code, domain, pkgInWindow s, ns⟩ } }
  startUp (dropLinks (zeroiseKeys (fenceAll s)))

/-- PACKAGE_RESET (R490): the reset of the package domain that is in progress is carried out. -/
def execPackageReset (code domain : Nat) (s : State) : Host.Outcome State Fault Refusal :=
  .next (match s.faults.resets.find? fun r => r.domain / 4096 == 7 && r.domain == domain && r.code == code with
    | some r => packageReset s code domain r.ns
    | none => s)

/-- VIN36 rises through 30.0 V (R533, R507): a start-up begins at AON; the input lies below 32.0 V. -/
def execVinRise (s : State) : Host.Outcome State Fault Refusal :=
  .next (
    let s := startUp s
    { s with thermal := { s.thermal with vin := 3000, inputOor := true } })

/-- Input under-voltage (R505, R507). -/
def execVinUnder (s : State) : Host.Outcome State Fault Refusal :=
  .next (
    let s := stopDevice none s
    { s with boot := { s.boot with underVolt := true } })

/-- Input over-voltage: the input switch opens and the device stops (R507, R529). -/
def execVinOver (s : State) : Host.Outcome State Fault Refusal := .next (stopDevice (some 4) s)

/-- EPO_N is recognised (R528). -/
def execEpoN (s : State) : Host.Outcome State Fault Refusal :=
  .next (stopDevice (some 1) { s with pins := { s.pins with epoN := false } })

/-- EPO_N returns high (R570). -/
def execEpoNRelease (s : State) : Host.Outcome State Fault Refusal :=
  .next { s with pins := { s.pins with epoN := true } }

/-- THERM_TRIP_N has been held low for 0.5 µs, by the Z9 or by the tray (R527). -/
def execThermTripN (s : State) : Host.Outcome State Fault Refusal :=
  .next (stopDevice (some (if s.thermal.tripOwn then 2 else 3)) { s with pins := { s.pins with thermTripN := false } })

/-- THERM_TRIP_N is released: by the Z9 once every sensor reads below 90 °C (R527), or by the tray that had asserted
it (DESIGN CHOICE, log 25). -/
def execThermTripRelease (hottest : Nat) (s : State) : Host.Outcome State Fault Refusal :=
  .next (
    if s.thermal.tripOwn && decide (90 ≤ hottest) then s
    else { s with thermal := { s.thermal with tripOwn := false }, pins := { s.pins with thermTripN := true } })

/-- A RESET_N pulse (R533, R570): it leaves STOPPED only while EPO_N and THERM_TRIP_N are high, and has no effect
while EPO_N is low or the input is absent; from any other state it is a package reset with code RESET_N (R475). -/
def execResetN (s : State) : Host.Outcome State Fault Refusal :=
  .next (
    if s.boot.underVolt || !s.pins.epoN then s
    else if s.boot.state = 7 then if s.pins.thermTripN then startUp s else s
    else packageReset s 0x0704 0x7000 s.now)

/-- The always-on domain loses power (R534): only the fuses are left. -/
def execInputPowerLoss (s : State) : Host.Outcome State Fault Refusal :=
  .next (
    let s := interruptClaim s
    { State.reset with
      pending := s.pending
      draws := s.draws
      fuses := s.fuses
      pins := s.pins
      ports := s.ports.map fun p => { HostPort.reset with mac := p.mac }
      boot := { Boot.reset with state := 7, underVolt := true }
      out := s.out
      wire := s.wire
      sbOut := s.sbOut })

end Sys2Proof.Machine
end

