-- ==== Sys2Proof/Machine/Wear.lean ====
section
/-! DEFINITION. Spares and wear: retiring tile pairs and banks, bringing in spares (R133, R497 to R503, R541), the
wear monitor and the converter phases (R499, R502). -/

namespace Sys2Proof.Machine

/-- Physical indices of the spare tile pairs of a page: column 8, rows 0 to 3 (R497, R549). -/
def sortsOf (page : Nat) : List Nat := (List.range 4).map fun r => physIndex (page / 8) (page % 8) 8 r

/-- A spare tile pair of a page that is neither in service nor retired. -/
def freeSort (s : State) (page : Nat) : Option Nat :=
  (sortsOf page).find? fun i => (spareOf s i).vcoord == 0x7FF && !(spareOf s i).retired

/-- Take a domain out of service (R492, R493). -/
def outOfService (s : State) (domain : Nat) : State :=
  healthEvent { s with faults := { s.faults with oos := nset s.faults.oos domain } } 16

/-- Whether a page is out of service, by itself or with its die (R493). -/
def pageOos (s : State) (p : Nat) : Bool :=
  s.faults.oos.contains (2 * 4096 + p) || s.faults.oos.contains (3 * 4096 + p / 8)

/-- Whether a die is out of service. -/
def dieOos (s : State) (d : Nat) : Bool := s.faults.oos.contains (3 * 4096 + d)

/-- Carry out a retirement: the tile pair never returns, its fuse is blown, and a spare of its page takes over its
virtual coordinate (R30, R498, R541); with no spare left the page goes out of service (R503). -/
def applyRetire (s : State) (i : Nat) : State :=
  let v := (spareOf s i).vcoord
  let s := modSpare s i fun x =>
    { x with retired := true, pending := x.bankPending.isSome, retirePending := false, vcoord := 0x7FF }
  let s := healthEvent { s with fuses := { s.fuses with tilesRetired := nset s.fuses.tilesRetired i } } 8
  if v = 0x7FF then s
  else
    match freeSort s (pageOfPhys i) with
    | some k => healthEvent (modSpare s k fun x => { x with vcoord := v }) 4
    | none => outOfService s (2 * 4096 + pageOfPhys i)

/-- Decide the retirement of a tile pair (R498): it waits for the next scrub of its chase, or takes effect at once
when its page belongs to no chase (R497). -/
def retireTile (s : State) (i : Nat) : State :=
  if (spareOf s i).retired then s
  else if (chaseOfPage s (pageOfPhys i)).isNone then applyRetire s i
  else modSpare s i fun x => { x with pending := true, retirePending := true }

/-- Decide the retirement of an MT bank (R500): the second bank of a tile pair retires the tile pair (R498). -/
def retireBank (s : State) (i b : Nat) : State :=
  let x := spareOf s i
  if x.bank = some b ∨ x.bankPending = some b then s
  else if x.bank.isSome || x.bankPending.isSome then retireTile s i
  else modSpare s i fun x => { x with pending := true, bankPending := some b }

/-- Put a waiting bank mapping in force (R133, R541). -/
def applyBank (s : State) (i : Nat) : State :=
  match (spareOf s i).bankPending with
  | none => s
  | some b =>
    let s := modSpare s i fun x => { x with bank := some b, bankPending := none, pending := x.retirePending }
    healthEvent { s with fuses := { s.fuses with banksRetired := s.fuses.banksRetired ++ [(i, b)] } } 12

/-- What a scrub brings in for the tile pairs that serve the given virtual coordinates: waiting retirements with
their spares, then waiting bank mappings (R133, R213, R498). -/
def bringInSpares (s : State) (ts : List Nat) : State :=
  let is := ts.map (physOf s)
  let s := is.foldl (fun s i => if (spareOf s i).retirePending then applyRetire s i else s) s
  is.foldl applyBank s

/-- Record an event of logical bank `b` of an MT and retire its physical bank when R500 says so: 2 uncorrectable events,
or corrected errors in 64 distinct words, within 24 h. The events of a mapped bank are those of PB_16, whose retirement
is the second one of the MT (R133). -/
def bankEvent (s : State) (i b : Nat) (unc : Bool) (word : Nat) : State :=
  let day := 86400000000000
  let bank := if (spareOf s i).bank = some b then 16 else b
  let s := modSpare s i fun x =>
    { x with bankEvents := (x.bankEvents.filter fun e => decide (s.now < e.2.2.2 + day)) ++ [(bank, unc, word, s.now)] }
  let mine := (spareOf s i).bankEvents.filter fun e => e.1 == bank
  let bad := mine.countP fun e => e.2.1
  let words := (mine.filter fun e => !e.2.1).foldl (fun l e => nset l e.2.2.1) []
  if 2 ≤ bad ∨ 64 ≤ words.length then retireBank s i bank else s

/-- WEAR_SAMPLE (R499): the monitor's period, in thousandths of the tile pair's TAU_REF, normalised to bin 13 in
millionths and averaged over 1 s, of 1,000 samples; above 1.08 the tile pair is retired. What it reports above 1.04 is
PACE_NORM (R549). -/
def execWearSample (phys delay : Nat) (s : State) : Host.Outcome State Fault Refusal :=
  .next (
    let x := spareOf s phys
    let norm := delay * 1000 * tauPs s 13 / tauPs s s.power.curBin
    let sum := x.paceAcc.1 + norm
    if x.paceAcc.2 + 1 < 1000 then modSpare s phys fun x => { x with paceAcc := (sum, x.paceAcc.2 + 1) }
    else
      let s := modSpare s phys fun x => { x with paceAcc := (0, 0), paceNorm := Nat.min 2047 (sum / 1000000) }
      if 1080 * 1000000 < sum then retireTile s phys else s)

/-- The Vmin test of a bank of an MT has failed (R500, R501). A mapped bank is PB_16 (R133). -/
def vminFailed (s : State) (i b : Nat) : State := retireBank s i (if (spareOf s i).bank = some b then 16 else b)

/-- The Vmin test of a scrub: one bank of each MT of the chase, in rotation (R501). -/
def scrubVmin (s : State) (c : Nat) (fails : List Nat) : State :=
  let b := (chase s c).scrubs % 16
  let ts := (tilesOf (chase s c).cfg.pageMap).filter fails.contains
  ts.foldl (fun s t => vminFailed s (physOf s t) b) (modChase s c fun ch => { ch with scrubs := ch.scrubs + 1 })

/-- PHASE_RETIRE (R502): a phase reports the charge in A·s since its last report, and whether its current has differed from
its rail's mean by more than 20 % for 1 s. At its budget, or uneven, it is retired: a spare phase of the rail takes over,
or the phase stays in service when no spare is left (R511). -/
def execPhaseRetire (rail phase charge : Nat) (uneven : Bool) (s : State) : Host.Outcome State Fault Refusal :=
  .next (match s.spares.rails[rail]? with
    | none => s
    | some r =>
      let put (r : Rail) (s : State) : State := { s with spares := { s.spares with rails := lset s.spares.rails rail r } }
      let worn := kgetD r.em phase 0 + charge
      let r := { r with em := kset r.em phase worn }
      if r.phases + r.spares + r.retired ≤ phase then s
      else if r.lost.contains phase || !(uneven || decide (s.fuses.emBudget ≤ worn)) then put r s
      else if 0 < r.spares then
        healthEvent (put { r with spares := r.spares - 1, retired := r.retired + 1, lost := r.lost ++ [phase] } s) 4
      else put { r with failing := r.failing + 1, lost := r.lost ++ [phase] } s)

end Sys2Proof.Machine
end

