-- ==== Sys2Proof/Machine/Faults.lean ====
section
/-! DEFINITION. Faults and resets: detection, capture, pulls, reset lines and the return of a domain (R475 to R496). -/

namespace Sys2Proof.Machine

/-- The class of domain that a fault code resets (R475). -/
def classOfCode (code : Nat) : Option Nat :=
  match code / 256 with
  | 1 => if code % 256 ∈ List.range' 1 13 then some 4 else none
  | 2 => if code % 256 = 1 ∨ code % 256 = 2 then some 1 else none
  | 3 => if 1 ≤ code % 256 ∧ code % 256 ≤ 3 then some 2 else none
  | 4 => if 1 ≤ code % 256 ∧ code % 256 ≤ 4 then some 3 else none
  | 5 => if code % 256 = 1 then some 5 else none
  | 6 => if code % 256 = 1 then some 6 else none
  | 7 => if 1 ≤ code % 256 ∧ code % 256 ≤ 4 then some 7 else none
  | _ => none

/-- The CHEV counter of a forme fault, in the order of R556; none for a fault that has none. -/
def chevOf (code : Nat) : Option Nat :=
  if 0x0102 ≤ code ∧ code ≤ 0x010B then some (code - 0x0102) else none

/-- Record an event of a tile pair, by its physical index, and retire the pair when R498 says so: kind 0 a CONFIG_PARITY, of
which 2 within 24 h, kind 1 an uncorrectable error in a case register or accumulator, of which 4 do. -/
def tileEvent (s : State) (i kind : Nat) : State :=
  let day := 86400000000000
  let ev : List (Nat × Nat × Nat) := (s.faults.tileEvents.filter fun e => decide (s.now < e.2.2 + day)) ++ [(i, kind, s.now)]
  let s := { s with faults := { s.faults with tileEvents := ev } }
  if (if kind = 0 then 2 else 4) ≤ ev.countP (fun e => e.1 == i && e.2.1 == kind) then retireTile s i else s

/-- FAULT_DETECT (R475, R482, R485): a fault whose code belongs to its domain's class fences the domain and its
chases, joins a reset in progress, or takes it over. -/
def execFaultDetect (f : FaultInfo) (s : State) : Host.Outcome State Fault Refusal :=
  .next (
    if classOfCode f.code ≠ some (f.domain / 4096) then s
    else if f.domain / 4096 = 4 then formeFault s (f.domain % 4096) f.code f.tile (chevOf f.code)
    else
      let s := if f.code = 0x0202 then tileEvent s (f.domain % 4096) 0 else s
      beginReset s f.domain f.code f.tile)

/-! ### Capture and pulls -/

/-- READY and STALLED of a tile block (R488). -/
def readyMask (x : Tile) : Nat :=
  x.fus.foldl (fun m e => if e.2.store.any fun r => r.ready.isSome then m + 2 ^ e.1 else m) 0

/-- The units of a tile pair that are stalled, as a mask. Unit u of tile t has the key 32 t + u. -/
def stalledMask (ch : Chase) (t : Nat) : Nat :=
  ((List.range 32).filter fun u => ch.waiting.any fun w => w.1 == t * 32 + u).foldl (fun m u => m + 2 ^ u) 0

/-- A tile block of a pull (R488). -/
def tileBlock (s : State) (ch : Chase) (t : Nat) : Bytes :=
  let x := tile s t
  le 2 t ++ le 2 (physOf s t) ++ le 4 (readyMask x) ++ le 4 (stalledMask ch t) ++ zeros 52 ++
  memReadN x.mt 0 4096 ++
  (List.range 64).flatMap fun p =>
    match (portQ x p).toks with
    | q :: _ => le 8 (tokenHeader q.tok).toNat ++ le 8 q.tok.payload.toNat
    | [] => zeros 16

/-- The head of a pull (R488); NTILE and NSKIP are put when the pull is made. -/
def pullHead (s : State) (c : Nat) (op : ResetOp) : Bytes :=
  let ch := chase s c
  let forme := if op.tile = 0x7FF then 0 else ((formeOfTile ch op.tile).map Image.formeId).getD 0
  let imp := if op.tile = 0x7FF then 0 else (tile s op.tile).imp
  le 4 0x5A394654 ++ le 2 1 ++ le 2 op.code ++ le 8 forme ++ le 8 op.ns ++ le 2 op.domain ++ le 2 op.tile ++ le 1 imp ++
  le 1 op.secondary.length ++ zeros 2 ++ padTo 16 (op.secondary.flatMap (le 2)) ++ zeros 16 ++
  (List.range 8).flatMap (fun k => le 8 (ch.stall.getD k 0)) ++
  (List.range 10).flatMap (fun k => le 4 (ch.chev.getD k 0)) ++ zeros 88

/-- Change a reset in progress. -/
def modReset (s : State) (domain : Nat) (f : ResetOp → ResetOp) : State :=
  { s with faults := { s.faults with resets := s.faults.resets.map fun r => if r.domain = domain then f r else r } }

/-- The reset of a domain that is in progress. -/
def resetOf (s : State) (domain : Nat) : Option ResetOp := s.faults.resets.find? fun r => r.domain == domain

/-- Whether the network of a chase still drains under its fence (R212, R482). -/
def draining (s : State) (c : Nat) : Bool :=
  match (chase s c).act with
  | .impose _ .draining _ _ => true
  | _ => false

/-- CAPTURE_DONE (R482, R486): once the network of every fenced chase is empty, the tile pairs of the domain are
copied into the buffers of their pages; a page whose buffer has not drained is skipped. -/
def execCaptureDone (domain : Nat) (s : State) : Host.Outcome State Fault Refusal :=
  .next (match resetOf s domain with
    | none => s
    | some op =>
      if op.captured || decide (domain / 4096 = 0 ∨ 4 < domain / 4096) || op.chases.any (draining s) then s
      else
        let ts := (tilesOfDomain s domain).filter fun t =>
          match chaseOfTile s t with | some c => op.chases.contains c && !op.scrubbed.contains c | none => false
        let pages := (ts.map (· / 64)).foldl nset []
        let heads := op.chases.foldl (fun m c => kset m c (pullHead s c op)) ([] : KMap Bytes)
        let s := pages.foldl (fun s p =>
          if (kget s.faults.buffers p).isSome then s
          else
            let ch := chase s ((chaseOfPage s p).getD 0)
            let blocks := (ts.filter fun t => t / 64 == p).foldl
              (fun (m : KMap Bytes) t => kset m t (tileBlock s ch t)) []
            { s with faults := { s.faults with buffers := kset s.faults.buffers p (domain, blocks) } }) s
        modReset s domain fun r => { r with captured := true, capNs := s.now, heads := heads })

/-- CAUSE of a pull (R487). -/
def pullCause (op : ResetOp) : Nat :=
  if op.code = 0x0801 then 5
  else match op.domain / 4096 with | 4 => 1 | 1 => 2 | 2 => 3 | _ => 4

/-- Bytes of the pull area in use (R489). -/
def pullUse (s : State) : Nat := (s.faults.pulls.map fun p => p.bytes.length).foldl (· + ·) 0

/-- Free the oldest pulls of a chase, never its scan records, until n bytes fit or none is left (R489). -/
def freeOldPulls : Nat → State → Nat → Nat → State
  | 0, s, _, _ => s
  | fuel + 1, s, c, n =>
    if pullUse s + n ≤ 16777216 then s
    else
      match s.faults.pulls.find? fun p => p.chase == c && p.cause != 0 with
      | none => s
      | some p =>
        freeOldPulls fuel { s with faults := { s.faults with pulls := s.faults.pulls.erase p } } c n

/-- Put a record into the pull area: header, ciphertext under the chase's pull key, tag (R427). -/
def storePull (s : State) (c cause time : Nat) (content : Bytes) : State :=
  let id := s.faults.pullCount + 1
  let (nonce, s) := drawBytes s 12
  let head := le 4 0x5A39504C ++ le 2 1 ++ le 1 c ++ le 1 cause ++ le 4 id ++ zeros 4 ++ le 8 time ++ nonce ++ zeros 4 ++
    le 8 content.length
  let body := if content.isEmpty then zeros 16
    else gcmSeal ((chase s c).pullKey.getD []) nonce head content
  { s with faults := { s.faults with
      pullCount := id
      pulls := s.faults.pulls ++ [⟨id, c, cause, time, head ++ padTo (content.length + 16) body, content.length⟩] } }

/-- Make the pull of one chase from the captured blocks (R487 to R489). -/
def makePull (s : State) (op : ResetOp) (c : Nat) : State :=
  let ts := (tilesOfDomain s op.domain).filter fun t => chaseOfTile s t == some c
  let bufs := s.faults.buffers.filter fun e => e.2.1 == op.domain
  let blocks := bufs.flatMap fun e => e.2.2.filter fun b => chaseOfTile s b.1 == some c
  let s := freeOldPulls (s.faults.pulls.length + 1) s c (48 + 256 + 5184 * blocks.length + 16)
  let room := (16777216 - pullUse s - (48 + 256 + 16)) / 5184
  let kept := blocks.take room
  let head := kgetD op.heads c []
  let content := head.take 48 ++ le 4 kept.length ++ le 4 (ts.length - kept.length) ++ head.drop 56 ++
    kept.flatMap Prod.snd
  storePull s c (pullCause op) op.capNs content

/-- PULL_DRAIN_DONE (R487, R489): the captured buffers of a reset have drained into one pull for each CLAIMED chase
they hold, or into a record without content when no CLAIMED chase is among them. -/
def execPullDrainDone (domain : Nat) (s : State) : Host.Outcome State Fault Refusal :=
  .next (match resetOf s domain with
    | none => s
    | some op =>
      if !op.captured || op.drained then s
      else
        let cs := op.chases.filter fun c => (chase s c).state == .claimed && (kget op.heads c).isSome &&
          (tilesOfDomain s domain).any fun t => chaseOfTile s t == some c
        let s := if cs.isEmpty then storePull s 255 (pullCause op) op.capNs [] else cs.foldl (fun s c => makePull s op c) s
        let s := { s with faults := { s.faults with buffers := s.faults.buffers.filter fun e => e.2.1 != domain } }
        modReset s domain fun r => { r with drained := true })

/-! ### Reset lines and the return -/

/-- RESET_LINE_ASSERT (R51, R482, R483). A host port drops its link, a torus port begins to train. -/
def execResetLineAssert (domain : Nat) (s : State) : Host.Outcome State Fault Refusal :=
  .next (match resetOf s domain with
    | none => s
    | some op =>
      let ready := match domain / 4096 with
        | 1 => op.captured
        | 4 => op.captured
        | 2 => op.captured && op.drained
        | 3 => op.captured && op.drained
        | 5 => decide (op.ns + 200 ≤ s.now)
        | 6 => decide (op.ns + 200 ≤ s.now)
        | _ => false
      if op.line || !ready then s
      else
        let s := modReset s domain fun r => { r with line := true }
        let n := domain % 4096
        match domain / 4096 with
        | 5 => { s with ports := lmod s.ports n fun p => { p with linkUp := false, macsecUp := false, sak := none } }
        | 6 => modPort s n fun p => { p with state := if portUsable s n then 1 else 0 }
        | _ => s)

/-- Scrub the tile pairs of a chase: every tile pair unconfigured and clear, no token on its way (R141), and the
waiting spares and banks brought in. -/
def scrubChase (s : State) (c : Nat) : State :=
  let m := (chase s c).cfg.pageMap
  let s := { s with
    tiles := s.tiles.filter fun e => !nbit m (e.1 / 64)
    net := s.net.filter fun f => f.chase != c
    landings := s.landings.filter fun l => !nbit m (l.tile / 64)
    remoteDue := s.remoteDue.filter fun r => r.chase != c
    remoteUsed := s.remoteUsed.filter fun r => !nbit m (r.tile / 64)
    fills := s.fills.filter fun f => f.chase != c }
  let s := bringInSpares s (tilesOf m)
  modChase s c fun ch => { ch with waiting := [], tb := [], injecting := [], array := [] }

/-- Whether a stage of a route is in service: its page, or the dies on both sides of its spine (R493). -/
def hopServes (s : State) : Hop → Bool
  | .place t => !pageOos s (t / 64)
  | .spine a b _ _ => !dieOos s a && !dieOos s b
  | .hub d _ _ => !dieOos s d

/-- The routes of a forme's emit entries (R150, R170, R172). -/
def formeRoutes (b : FormeBody) : List (List Hop) :=
  b.tiles.flatMap fun t => t.2.emits.map fun e =>
    if e.2.dremote then routeToHub t.1 e.2.dport else routeTo t.1 e.2.dtile e.2.dport

/-- Whether a forme image may be imposed although domains are out of service (R493): none of its pages is out of
service, and none of its routes crosses a page or a die that is. -/
def formeAllowed (s : State) (b : FormeBody) : Bool :=
  (pagesOf b.pageMap).all (fun p => !pageOos s p) && (formeRoutes b).all fun r => r.all (hopServes s)

/-- Whether a TIER H or B descriptor names an object of the chase with the KIND its RW says (R256), lies within it, and
does not read an object homed in tier B through a window that is not there (R261; R207 check 0x0302). -/
def tensorInObject (s : State) (c : Nat) (d : TensorCfg) : Bool :=
  d.tier == 0 || d.tier == 3 ||
  match findObj s c d.objId with
  | some o =>
    let (lo, hi) := d.byteSpan
    decide (0 ≤ lo) && decide (hi < (o.size : Int)) && d.rw == o.isMutable &&
      !(d.tier == 1 && o.tier == 2 && o.window == 0)
  | none => false

/-- The checks that are repeated when a set of formes is imposed (R207, R214, R493): the status and detail of the
first that fails. An image that is there no longer is NOT_FOUND. -/
def imposeChecks (s : State) (c : Nat) (ids : List Nat) : Option (Nat × Nat) :=
  let ch := chase s c
  let bodies := ids.filterMap fun id => (imageOf ch id).map Image.body
  if bodies.length ≠ ids.length then some (St.notFound, 0)
  else if bodies.any fun b => b.pageMap &&& ch.cfg.pageMap != b.pageMap then some (St.malformed, 0x0301)
  else if bodies.any fun b => !b.tensors.all (tensorInObject s c) then some (St.malformed, 0x0302)
  else if bodies.any fun b => !formeAllowed s b then some (St.wrongState, 0x0E01)
  else none

/-- After its domain's reset a fenced chase goes on to the load of its re-imposition (R484), or stays fenced: by
R222, because its fabric is out of service, or because one of its formes may not be imposed (R493). -/
def resumeChase (s : State) (c : Nat) : State :=
  match (chase s c).act with
  | .impose .recovery _ ids cmd =>
    if s.faults.resets.any fun r => r.chases.contains c then s
    else
      let ch := chase s c
      if ch.heldDown || s.faults.oos.contains (4 * 4096 + c) || (imposeChecks s c ids).isSome then
        modChase s c fun ch => { ch.serve [] with act := .none, heldDown := true }
      else modChase s c fun ch => { ch.serve ids with act := .impose .recovery .loading ids cmd }
  | _ => s

/-- Key slots of a die's tier H granules reloaded from each chase's CRK (R481, R425). -/
def reloadDieKeys (s : State) (d : Nat) : State :=
  { s with memH := { s.memH with slots := s.memH.slots.map fun e =>
      if e.1 / 288 = d then (e.1, { e.2 with keys := some (slotKeys (chase s e.2.chase) true e.1 e.2.gen) }) else e } }

/-- Whether a key of `memKey` is of a channel of a die's tier H. -/
def dieKey (d k : Nat) : Bool := decide (k < memKey false 0) && (k - memKey true 0) / 128 == d

/-- DOMAIN_RESET_COMPLETE (R483, R484, R492): the reset ends. Tile pairs of the fenced chases are scrubbed and their
re-imposition loads; a host port comes back and sends what it held; a domain at its escalation limit stays out. -/
def execDomainResetComplete (domain : Nat) (s : State) : Host.Outcome State Fault Refusal :=
  .next (match resetOf s domain with
    | none => s
    | some op =>
      if !op.line then s
      else
        let n := domain % 4096
        let s := { s with faults := { s.faults with resets := s.faults.resets.filter fun r => r.domain != domain } }
        let s := if !op.esc then s
          else if domain / 4096 = 1 then healthEvent (retireTile s n) 16
          else outOfService s domain
        match domain / 4096 with
        | 5 =>
          let held := ((s.ports[n]?).map HostPort.held).getD []
          let s := { s with ports := lmod s.ports n fun p =>
            { p with held := [], linkUp := p.mode != 0 && !p.laneFault && !op.esc } }
          if op.esc then s else held.foldl depart s
        | 6 => if op.esc then { s with torus := lmod s.torus n fun p => { p with state := 0, cause := 12 } } else s
        | _ =>
          let s := if domain / 4096 = 3 then
              memResume (reloadDieKeys { s with comps := lmod s.comps n fun _ => ⟨0, []⟩ } n) (dieKey n)
            else s
          let s := op.chases.foldl scrubChase s
          op.chases.foldl resumeChase s)

/-! ### Watchdogs -/

/-- FIRING_WD (R476): a firing that has begun and waits for nothing has not completed within 2 µs; what its unit's
inputs wait for is no wait of the firing. -/
def execFiringWd (tile fu : Nat) (s : State) : Host.Outcome State Fault Refusal :=
  .next (match chaseOfTile s tile, (fuOf (Sys2Proof.Machine.tile s tile) fu).firing with
    | some c, some f =>
      if (chase s c).fenced || (chase s c).waiting.any (fun w => w.1 == tile * 32 + fu && (w.2.2 == 0 || w.2.2 == 6)) ||
          decide (s.now < f.beganNs + 2000)
      then s
      else beginReset s (4096 + physOf s tile) 0x0201 tile
    | _, _ => s)

/-- The limit of the forme progress watchdog in ns (R477). `beta` is the chase's β in MB/s. -/
def progressLimit (s : State) (r : Req) (b : FormeBody) (beta : Nat) : Nat :=
  16 * (ceilDiv ((b.depth + b.qslack) * tauPs s r.admBin) 1000 +
    (if b.bytesStreamed = 0 then 0 else ceilDiv (b.bytesStreamed * 1000) beta)) + 1000000 +
  (if b.routes.any fun w => nbit w 31 then policy s 0x0305 * 1000000 else 0)

/-- Whether a command of a chase, a stage or a decommission has not completed within twice its bound and 1 ms (R478): the
bounds of R225, R399 and R212 from the fence, of R210 from the moment a stage begins, and of R417. A re-imposition within
a domain reset has no bound of these. -/
def commandLate (s : State) (c : Nat) : Bool :=
  let ch := chase s c
  let late (since bound : Nat) : Bool := decide (since + 2 * bound + 1000000 ≤ s.now)
  (ch.fenced && !(s.faults.resets.any fun r => r.chases.contains c) && (match ch.act with
    | .scan _ _ (some t) _ _ => late t 25000
    | .impose .release _ _ _ => late ch.fenceNs 2600
    | .impose _ phase _ _ => phase != .waiting && late ch.fenceNs 4900
    | _ => false)) ||
  (s.stages.any fun x => x.begun.any fun t => late t (500000 + ceilDiv x.total 40)) ||
  (s.boot.decom.isSome && late s.boot.decomNs 51000000)

/-- COMMAND_WD (R478): a descriptor that has waited 10 ms in doorbell queue n (kind 0), a missed PKC heartbeat
(kind 1; log 26), or an overdue command with a completion bound (kind 2: of chase n, a stage, or the decommission). -/
def execCommandWd (kind n : Nat) (s : State) : Host.Outcome State Fault Refusal :=
  .next (
    let due : Bool := match kind with
      | 0 => match s.doorbells.getD n [] with
        | d :: _ => decide (d.writtenNs + 10000000 ≤ s.now)
        | [] => false
      | 1 => true
      | _ => commandLate s n
    if due then beginReset s 0x7000 0x0701 0x7FF else s)

end Sys2Proof.Machine
end

