-- ==== Sys2Proof/Machine/Net.lean ====
section
/-! DEFINITION. What the fabric's commands share: stalls (R287, R288), credits (R167), handles (R144, R145), tokens
on their way (R168), and galleys at rest (R272). -/

namespace Sys2Proof.Machine

/-! ### Stalls -/

/-- The key of a firing unit among what is stalled. -/
def unitKey (t u : Nat) : Nat := t * 32 + u
/-- The key of a galley's feeder or drain among what is stalled. -/
def galleyKey (t tid : Nat) : Nat := 65536 + t * 4096 + tid

/-- What waits in a tile pair waits no longer: its units and the galleys in it. -/
def unstallTile (s : State) (c t : Nat) : State :=
  modChase s c fun ch => { ch with
    waiting := ch.waiting.filter fun w =>
      if w.1 < 65536 then w.1 / 32 != t else decide (16777216 ≤ w.1) || (w.1 - 65536) / 4096 != t }

/-- Whether something of a chase is stalled on a cause: each unit is stalled on the first cause that blocks it (R288). -/
def stalledOn (ch : Chase) (cause : Nat) : Bool :=
  ch.waiting.any fun w => w.2.1 == cause && (ch.waiting.find? fun x => x.1 == w.1) == some w

/-- A forme fault at a tile, with its event counter (R475, R556). -/
def fabricFault (s : State) (c code t : Nat) : State := formeFault s c code t (chevOf code)

/-- The chase of a tile pair whose units may work: the chase is not fenced and the tile pair is not being preloaded
at a switch (R52, R219). -/
def liveTile (s : State) (t : Nat) : Option Nat :=
  match chaseOfTile s t with
  | some c => if (chase s c).fenced || (tile s t).preloading then none else some c
  | none => none

/-! ### Handles -/

/-- GRP and BASE of a CASE handle: number of registers and first register (R144). -/
def caseGroup (p : DWord) : Nat × Nat := (2 ^ nbits p.toNat 5 2, nbits p.toNat 0 5)
/-- ADDR of an MT handle. -/
def mtAddr (p : DWord) : Nat := nbits p.toNat 0 19
/-- Granules of an MT handle: NGRAN + 1. -/
def mtGran (p : DWord) : Nat := nbits p.toNat 19 14 + 1
/-- The payload of an MT handle (R144). -/
def mtHandle (addr gran : Nat) : DWord := BitVec.ofNat 64 (addr + (gran - 1) * 2 ^ 19)

/-- Whether a handle's reserved payload bits are zero and its extent stays within the registers or the MT (R146). -/
def handleOk (kind : Nat) (p : DWord) : Bool :=
  if kind = 2 then p.toNat / 128 == 0
  else if kind = 3 then p.toNat / 2 ^ 33 == 0 && decide (mtAddr p + 64 * mtGran p ≤ mtBytes)
  else true

/-- The granules that a handle refers to, read in place (R145): those of a register group row by row, or those of
the MT, with their spoil marks. -/
def handleGranules (x : Tile) (kind : Nat) (p : DWord) : List Granule :=
  if kind = 2 then
    let (n, b) := caseGroup p
    (List.range n).flatMap fun k => (List.range 16).map fun r =>
      ⟨slice (caseReg x (b + k)) (64 * r) 64, x.caseSpoil.contains (16 * (b + k) + r)⟩
  else if kind = 3 then (List.range (mtGran p)).map fun i => mtGranule x (mtAddr p + 64 * i)
  else []

/-! ### Matching (R153 to R163) -/

/-- The matching key of a tag (R155). -/
def matchKey (u : UnitCfg) (zw : Bool) (tag : Nat) : Nat := if zw then 0 else if u.tagx = 2 then tag / 2 ^ u.tagn else tag

/-- Whether an entry is ready: a token on every bound input, or on either of MERGE's (R154, R164). -/
def MatchEntry.complete (e : MatchEntry) (u : UnitCfg) : Bool :=
  if u.func = 4 then e.ins.any Option.isSome else (e.ins.take (u.nin + 1)).all Option.isSome

/-! ### Credits and tokens on their way -/

/-- Whether a flight carries a token for another device (REMOTE = 1). -/
def Flight.isRemote (f : Flight) : Bool := nbit f.header.toNat 37

/-- Whether a flight is a CREDIT token, which enters no queue (R185). -/
def Flight.isCredit (f : Flight) : Bool := nbits f.header.toNat 60 4 == 6

/-- Credits of a queue that are in use: tokens on their way and in the queue, landing slots not yet released, and
credits on their way back (R167, R169). -/
def creditsUsed (s : State) (t p : Nat) : Nat :=
  let q := portQ (tile s t) p
  s.net.countP (fun f => f.tile == t && f.port == p && !f.isRemote && !f.isCredit) + q.toks.countP (fun k => k.landing.isNone) +
    q.landBusy.length + q.returning

/-- The forme whose configuration a tile pair runs: in a running change the next forme once the tile pair has switched
(R219). -/
def formeFor (s : State) (c t : Nat) : Option Image :=
  let ch := chase s c
  match ch.act with
  | .change _ newId _ _ _ _ => if (tile s t).switched then imageOf ch newId else formeOfTile ch t
  | _ => formeOfTile ch t

/-- The queue entry of a port in the forme of its tile pair (R199). -/
def queueAt (s : State) (t p : Nat) : Option QueueCfg :=
  match chaseOfTile s t with
  | none => none
  | some c => (formeFor s c t).bind fun i => i.body.queues.find? fun q => q.tile == t && q.port == p

/-- Whether a sender finds a credit for a port (R167). A port without a queue entry gives no credit and needs none:
its tokens are discarded at ejection (R147). -/
def creditFree (s : State) (t p : Nat) : Bool :=
  match queueAt s t p with
  | some q => decide (creditsUsed s t p < q.depth)
  | none => true

/-- Send a token into the network (R168). -/
def pushFlight (s : State) (c : Nat) (src : Nat × Nat × Nat) (k : Token) (gs : List Granule)
    (galley : Option (Nat × Nat)) : State :=
  { s with net := s.net ++
    [{ src := src, chase := c, tile := k.tile, port := k.port, header := tokenHeader k, payload := k.payload
       granules := gs, galley := galley, fromRemote := none }] }

/-- Credits that the sender of a remote edge has left: the depth of the remote queue, a free value (R185; log 33),
less those in use. -/
def remoteUsed (s : State) (t fu route dt dp : Nat) : Nat :=
  ((s.remoteUsed.find? fun e => e.tile == t && e.fu == fu && e.route == route && e.dtile == dt && e.dport == dp).map
    RemoteEdge.used).getD 0

/-- Whether a sender finds a credit for a remote edge. -/
def remoteFree (s : State) (t fu route dt dp : Nat) : Bool :=
  decide (remoteUsed s t fu route dt dp < Config.remoteDepth t route (dt * 64 + dp))

/-- Take a credit of a remote edge. -/
def takeRemote (s : State) (t fu route dt dp : Nat) : State :=
  let is (e : RemoteEdge) : Bool := e.tile == t && e.fu == fu && e.route == route && e.dtile == dt && e.dport == dp
  if s.remoteUsed.any is then
    { s with remoteUsed := s.remoteUsed.map fun e => if is e then { e with used := e.used + 1 } else e }
  else { s with remoteUsed := s.remoteUsed ++ [⟨t, fu, route, dt, dp, 1⟩] }

/-- A credit of a consumed token falls due: to a sender on this device it goes back over the side-band, to one on
another device it waits for a CREDIT token (R167, R185). -/
def giveCredit (s : State) (c t p : Nat) (k : QTok) : State :=
  match k.remote with
  | none => modTile s t fun x => setPortQ x p { portQ x p with returning := (portQ x p).returning + 1 }
  | some d =>
    let is (r : RemoteCredit) : Bool := r.chase == c && (r.device, r.tile, r.fu) == d
    if s.remoteDue.any is then
      { s with remoteDue := s.remoteDue.map fun r => if is r then { r with due := r.due + 1 } else r }
    else { s with remoteDue := s.remoteDue ++ [⟨c, d.1, d.2.1, d.2.2, 1, s.now⟩] }

/-- Release the landing slot of a token, with its credit (R169). -/
def releaseLanding (s : State) (c t p : Nat) (k : QTok) : State :=
  match k.landing with
  | none => s
  | some j =>
    let s := modTile s t fun x => setPortQ x p { portQ x p with landBusy := (portQ x p).landBusy.erase j }
    giveCredit s c t p k

/-- The input port of a unit's input. -/
def UnitCfg.port (u : UnitCfg) (i : Nat) : Nat := u.ins.getD i 0

/-! ### Galleys -/

/-- A galley after scrub or switch: every slot EMPTY, HEAD and TAIL 0 (R272, R275). -/
def Galley.fresh (nslot : Nat) : Galley := { (default : Galley) with slots := List.replicate nslot .empty }

/-- The galleys of a tile pair in a forme. -/
def galleysAt (b : FormeBody) (t : Nat) : KMap Galley :=
  (b.tensors.filter fun d => d.gkind != 0 && d.stile == t).foldl
    (fun m d => kset m d.tid (Galley.fresh d.nslot)) []

/-- The outbound galley whose sink a port is. -/
def sinkAt (b : FormeBody) (t p : Nat) : Option TensorCfg :=
  (galleysOf b 2).find? fun d => d.stile == t && d.gport == p

/-- The inbound galley whose entry a port is. -/
def entryAt (b : FormeBody) (t p : Nat) : Option TensorCfg :=
  (galleysOf b 1).find? fun d => d.stile == t && d.gport == p

/-- A galley of a tile pair. -/
def galley (x : Tile) (tid : Nat) : Option Galley := kget x.galleys tid

/-- Change a galley of a tile pair. -/
def modGalley (s : State) (t tid : Nat) (f : Galley → Galley) : State :=
  modTile s t fun x => { x with galleys := kmod x.galleys tid f }

/-- Make a tile configuration active and write its preload (R195). -/
def activate (x : Tile) (b : FormeBody) (t : Nat) (cfg : TileCfg) : Tile :=
  mtWriteBytes { x with active := some cfg, galleys := galleysAt b t } cfg.preloadAddr (cfg.preload.take cfg.preloadLen)

end Sys2Proof.Machine
end

