-- ==== Sys2Proof/Machine/Imposition.lean ====
section
/-! DEFINITION. Re-imposition (R211 to R214, R296) and running change (R215 to R224), with the orders that wait for
each other (R223, R406). -/

namespace Sys2Proof.Machine

/-! ### Fences that an order asserts -/

/-- Assert the fence for an activity of the chase, which stays in progress with the orders behind it (R52, R212). -/
def fenceFor (s : State) (c : Nat) (act : Activity) : State :=
  let orders := (chase s c).orders
  let s := modChase (endShare s c) c fun ch => { ch with act := .none, orders := [] }
  modChase (fenceChase s c) c fun ch => { ch with act := act, orders := orders }

/-- An order whose wait for the command in progress has ended asserts its fence (R212, R225, R406), and the formes of a
re-imposition are IN_SERVICE and locked (R50, R209). A scan's fence ends nothing, as no request is left. -/
def assertWaiting (s : State) (c : Nat) : State :=
  let ch := chase s c
  if !(liveReqs s c).isEmpty then s
  else
    match ch.act with
    | .impose cause .waiting ids cmd =>
      modChase (fenceFor s c (.impose cause .draining ids cmd)) c fun ch => { ch.serve ids with heldDown := false }
    | .scan t out none rec cmd =>
      modChase (endShare s c) c fun ch => { ch with fenced := true, fenceNs := s.now, act := .scan t out (some s.now) rec cmd }
    | _ => s

/-- Start an accepted order on a chase with no activity. -/
def startOrder (s : State) (c : Nat) (o : Order) : State :=
  match o with
  | .impose ids cmd =>
    assertWaiting (modChase s c fun ch =>
      { ch.lock ids with stopped := true, act := .impose .tenant .waiting ids (some cmd) }) c
  | .change a b cmd =>
    match imageOf (chase s c) a, imageOf (chase s c) b with
    | some x, some y =>
      if x.state = .inService ∧ y.state = .resident then
        modChase s c fun ch =>
          { ch.lock [b] with
            act := .change a b false false [] (some cmd), changeCount := (ch.changeCount + 1) % 65536 }
      else replyCmd s (some cmd) St.wrongState 0
    | _, _ => replyCmd s (some cmd) St.notFound 0
  | .scan t out rec cmd =>
    assertWaiting (modChase s c fun ch => { ch with stopped := true, act := .scan t out none rec cmd }) c

/-- Start the orders that wait, in order, until one is in progress. -/
def nextOrders : Nat → State → Nat → State
  | 0, s, _ => s
  | fuel + 1, s, c =>
    match (chase s c).act, (chase s c).orders with
    | .none, o :: r => nextOrders fuel (startOrder (modChase s c fun ch => { ch with orders := r }) c o) c
    | _, _ => s

/-- An activity has ended: the next order starts (R223). -/
def orderEnded (s : State) (c : Nat) : State :=
  let s := modChase s c fun ch => { ch with act := .none, stopped := ch.orders.any Order.stops }
  nextOrders ((chase s c).orders.length + 1) s c

/-- Put an accepted order behind the activity in progress, or start it at once. -/
def placeOrder (s : State) (c : Nat) (o : Order) : State :=
  if (chase s c).busy then
    modChase s c fun ch => { ch with orders := ch.orders ++ [o], stopped := ch.stopped || o.stops }
  else startOrder s c o

/-- Whether a re-imposition or a running change of the chase is in progress or waits (R223, check 0x0701). -/
def imposing (ch : Chase) : Bool :=
  (match ch.act with | .impose .. => true | .change .. => true | _ => false) || ch.newCfg.isSome ||
  ch.orders.any fun o => match o with | .scan .. => false | _ => true

/-! ### IMPOSE and CHANGE -/

/-- A set of FORME_IDs in rising order. -/
def idSet (ids : List Nat) : List Nat := ids.foldl nset []

/-- Whether page maps are pairwise disjoint (R296). -/
def disjointMaps : List Nat → Bool
  | [] => true
  | m :: r => r.all (fun k => m &&& k == 0) && disjointMaps r

/-- Return a chase fabric to service: its escalation count starts afresh (R494). -/
def returnFabric (s : State) (c : Nat) : State :=
  let d := 4 * 4096 + c
  { s with faults := { s.faults with
      oos := s.faults.oos.filter (· != d), counted := s.faults.counted.filter fun e => e.1 != d } }

/-- IMPOSE (R211, R212, R296, R386, R406). -/
def execImpose (h : CmdHdr) (ids : List Nat) (s : State) : Host.Outcome State Fault Refusal :=
  hostCmd h ⟨0x0033, [.ten], false, 0⟩ (fun s se =>
    let c := se.chase
    let ch := chase s c
    let images := ids.filterMap (imageOf ch)
    let oosFabric := s.faults.oos.contains (4 * 4096 + c)
    if ids.length = 0 ∨ 8 < ids.length then rep s h 0x0033 St.malformed 0 []
    else if images.length ≠ ids.length ∨ images.any (fun i => i.state == .checking) then rep s h 0x0033 St.notFound 0 []
    else if !disjointMaps (images.map fun i => i.body.pageMap) then rep s h 0x0033 St.malformed 0 []
    else if imposing ch then rep s h 0x0033 St.wrongState 0x0701 []
    else if images.any fun i => !formeAllowed s i.body then rep s h 0x0033 St.wrongState 0x0E01 []
    else if oosFabric && idSet ids == idSet ch.lastSet then rep s h 0x0033 St.wrongState 0x0E04 []
    else
      let s := if oosFabric then returnFabric s c else s
      placeOrder (accept s h 0x0033 c false []) c (.impose ids (h.session, h.reqId))) s

/-- Check 0x0702 (R216). -/
def changeAllowed (a b : FormeBody) : Bool :=
  a.pageMap == b.pageMap && a.zw5 == b.zw5 && a.queues == b.queues && !a.cyclic && !b.cyclic

/-- CHANGE (R216, R220, R223, R386). -/
def execChange (h : CmdHdr) (oldId newId : Nat) (s : State) : Host.Outcome State Fault Refusal :=
  hostCmd h ⟨0x0034, [.ten], false, 0⟩ (fun s se =>
    let ch := chase s se.chase
    match imageOf ch oldId, imageOf ch newId with
    | some a, some b =>
      if imposing ch then rep s h 0x0034 St.wrongState 0x0701 []
      else if a.state ≠ .inService ∨ b.state ≠ .resident then rep s h 0x0034 St.wrongState 0 []
      else if !changeAllowed a.body b.body then rep s h 0x0034 St.wrongState 0x0702 []
      else placeOrder (accept s h 0x0034 se.chase false []) se.chase (.change oldId newId (h.session, h.reqId))
    | _, _ => rep s h 0x0034 St.notFound 0 []) s

/-! ### The course of a re-imposition -/

/-- Zeroise the key slots of granules that leave a chase: nothing decrypts their contents any more (R249, R398, R424). -/
def zeroiseLeaving (s : State) (c : Nat) : State :=
  let l := (chase s c).leaving
  modChase { s with
    memH := s.memH.forget true fun g => l.contains (1, g)
    memB := s.memB.forget false fun g => l.contains (2, g) } c fun ch => { ch with leaving := [] }

/-- Reload the key slots of every granule of a chase from its root key, each under its generation (R425). -/
def reloadKeys (s : State) (c : Nat) : State :=
  let ch := chase s c
  let load (isH : Bool) (m : TierMem) : TierMem :=
    { m with slots := m.slots.map fun e =>
      if e.2.chase = c then (e.1, { e.2 with keys := some (slotKeys ch isH e.1 e.2.gen) }) else e }
  { s with memH := load true s.memH, memB := load false s.memB }

/-- Remove a chase's keys from every engine (R399, R424). -/
def zeroiseChase (s : State) (c : Nat) : State :=
  let clear (isH : Bool) (m : TierMem) : TierMem :=
    m.forget isH fun g => match kget m.slots g with | some k => k.chase == c | none => false
  modChase { s with memH := clear true s.memH, memB := clear false s.memB } c fun ch =>
    { ch with crk := none, pullKey := none, seed := 0, leaving := [] }

/-- FENCE_DRAIN_DONE (R212, R398, R399, R425): the fence of a waiting order asserts if its wait is over; the network
holds nothing of the chase any more. Keys are replaced on a change of shares, and zeroised at a release. -/
def execFenceDrainDone (chase : Nat) (s : State) : Host.Outcome State Fault Refusal :=
  .next (
    let c := chase
    let s := assertWaiting s c
    match (Sys2Proof.Machine.chase s c).act with
    | .impose cause .draining ids cmd =>
      let m := (Sys2Proof.Machine.chase s c).cfg.pageMap
      let s := { s with
        net := s.net.filter fun f => f.chase != c
        landings := s.landings.filter fun l => !nbit m (l.tile / 64) }
      let s := zeroiseLeaving s c
      let s := match cause with
        | .share => reloadKeys s c
        | .release => zeroiseChase s c
        | _ => s
      let resetting := cause == .recovery && s.faults.resets.any fun r => r.chases.contains c
      modChase s c fun ch => { ch with act := .impose cause (if resetting then .resetting else .scrubbing) ids cmd }
    | _ => s)

/-- Free what a released chase still holds (R399). Its creation count stays (R397). -/
def freeChase (s : State) (c : Nat) : State :=
  let s := (s.objs.filter fun o => o.chase == c).foldl
    (fun s o => { s with objs := s.objs.filter fun x => !(x.chase == o.chase && x.objId == o.objId) }) s
  let s := closeWhere s fun se => se.role == .ten && se.chase == c
  let n := (chase s c).createCount
  { s with
    creds := s.creds.filter fun k => !(k.role == .ten && k.chase == c)
    objWaits := s.objWaits.filter fun w => w.obj.1 != c
    stages := s.stages.filter fun x => x.chase != c
    reqs := s.reqs.filter fun e => e.2.chase != c
    intake := if policy s 0x010F = c then { Intake.reset with nextReq := s.intake.nextReq } else s.intake
    doorbells := if policy s 0x010F = c then lset s.doorbells 5 [] else s.doorbells
    faults := { s.faults with pulls := s.faults.pulls.filter fun p => p.chase != c }
    chases := kset s.chases c { Chase.fresh with createCount := n } }

/-- SCRUB_DONE (R141, R212, R214, R399): the scrub is complete, with the tile pairs whose tested bank failed its Vmin test
(R501). A release ends here; a re-imposition repeats its
checks and goes on to the load, or leaves the chase fenced with no forme in service. -/
def execScrubDone (chase : Nat) (vminFail : List Nat) (s : State) : Host.Outcome State Fault Refusal :=
  .next (
    let c := chase
    match (Sys2Proof.Machine.chase s c).act with
    | .impose .release .scrubbing _ cmd =>
      let s := freeChase (scrubVmin (scrubChase s c) c vminFail) c
      replyCmd s cmd St.done 0
    | .impose .recovery .scrubbing _ _ => resumeChase (scrubVmin (scrubChase s c) c vminFail) c
    | .impose cause .scrubbing ids cmd =>
      let s := scrubVmin (scrubChase s c) c vminFail
      match imposeChecks s c ids with
      | some (st, detail) =>
        let s := modChase s c fun ch => { ch.serve [] with heldDown := true }
        orderEnded (replyCmd s cmd st detail) c
      | none => modChase s c fun ch => { ch.serve ids with act := .impose cause .loading ids cmd }
    | _ => s)

/-- Load the tile images of a forme into its tile pairs (R194, R195, R213). -/
def loadForme (s : State) (b : FormeBody) : State :=
  b.tiles.foldl (fun s e => setTile s e.1 (activate Tile.fresh b e.1 e.2)) s

/-- PAGE_LOAD_DONE (R212, R213): the formes are IN_SERVICE, the fence is released and admissions resume. -/
def execPageLoadDone (chase : Nat) (s : State) : Host.Outcome State Fault Refusal :=
  .next (
    let c := chase
    match (Sys2Proof.Machine.chase s c).act with
    | .impose _ .loading ids cmd =>
      let bodies := ids.filterMap fun id => (imageOf (Sys2Proof.Machine.chase s c) id).map Image.body
      let s := bodies.foldl loadForme s
      let s := modChase s c fun ch =>
        { ch.lock [] with
          fenced := false, heldDown := false, tb := [], injecting := [], array := [], lastServed := [] }
      orderEnded (replyCmd s cmd St.done 0) c
    | _ => s)

/-! ### The course of a running change -/

/-- Tile pairs that one of two formes has an image for. -/
def changeTiles (a b : FormeBody) : List Nat := ((a.tiles ++ b.tiles).map Prod.fst).foldl nset []

/-- Whether a tile pair has neither a configured unit nor an outbound galley in a forme (R219). -/
def passive (b : FormeBody) (x : Tile) (t : Nat) : Bool :=
  (match x.active with | some c => !c.units.any fun u => u.2.en | none => true) &&
  !(galleysOf b 2).any fun d => d.stile == t

/-- Switch a tile pair to its shadow configuration (R219): queues and stored data stay; units are at rest under the
new impression, and nothing of the tile pair waits for the change any more; the preload follows. -/
def switchTile (s : State) (b : FormeBody) (t imp : Nat) : State :=
  let s := match chaseOfTile s t with | some c => unstallTile s c t | none => s
  modTile s t fun x =>
    { x with
      active := x.shadow
      shadow := none
      imp := imp % 16
      preloading := match x.shadow with | some c => c.preloadLen != 0 | none => false
      switched := true
      fus := []
      galleys := galleysAt b t }

/-- The change ends when every tile pair of both formes has switched (R220): the next forme is IN_SERVICE, the former
RESIDENT. -/
def finishChange (s : State) (c : Nat) : State :=
  let ch := chase s c
  match ch.act with
  | .change oldId newId true _ _ cmd =>
    match imageOf ch oldId, imageOf ch newId with
    | some a, some b =>
      let ts := changeTiles a.body b.body
      if ts.all fun t => (tile s t).switched then
        let s := ts.foldl (fun s t => modTile s t fun x => { x with switched := false }) s
        let s := modChase s c fun ch =>
          { modImage (modImage ch oldId fun i => { i with state := .resident }) newId
              (fun i => { i with state := .inService, locked := false }) with
            tb := kdel ch.tb oldId, injecting := kdel ch.injecting oldId, array := kdel ch.array oldId }
        orderEnded (replyCmd s cmd St.done 0) c
      else s
    | _, _ => s
  | _ => s

/-- SHADOW_LOAD_DONE (R215, R219): the next forme's tile images stand in the shadow latches; tile pairs with neither a
configured unit nor an outbound galley switch at once. -/
def execShadowLoadDone (chase : Nat) (s : State) : Host.Outcome State Fault Refusal :=
  .next (
    let c := chase
    let ch := Sys2Proof.Machine.chase s c
    match ch.act with
    | .change oldId newId false _ _ cmd =>
      match imageOf ch oldId, imageOf ch newId with
      | some a, some b =>
        let ts := changeTiles a.body b.body
        let imp := ((a.body.tiles.head?).map fun e => (tile s e.1).imp + 1).getD 1
        let s := ts.foldl (fun s t => modTile s t fun x => { x with shadow := kget b.body.tiles t, switched := false }) s
        let s := modChase s c fun ch => { ch with act := .change oldId newId true false [] cmd }
        let s := (ts.filter fun t => passive a.body (tile s t) t).foldl (fun s t => switchTile s b.body t imp) s
        finishChange s c
      | _, _ => s
    | _ => s)

/-- Whether passes of a live request may still enter the array on a forme (R299, R332). -/
def Req.mayRunOn (r : Req) (id : Nat) : Bool :=
  match r.fall with
  | some (_, e) => e.formeId == id
  | none => r.forme == id || (r.draftPosn.isSome && r.entry.draftId == id)

/-- Whether the last pass admitted for a forme has entered the array (R217). -/
def passesEntered (s : State) (c id : Nat) : Bool :=
  (kget (chase s c).injecting id).isNone &&
  (liveReqs s c).all fun e =>
    !e.2.mayRunOn id ||
    (e.2.kind != .generate && match e.2.pass with | some p => p.begun | none => false)

/-- The LOCKUP token of a port (R217). -/
def lockupToken (imp changeId t p : Nat) (payload : Option DWord) : Token where
  kind := 4
  tag := 0
  imp := imp
  pred := true
  spoil := false
  remote := false
  route := 0
  tile := t
  port := p
  fmt := 0
  payload := payload.getD (BitVec.ofNat 64 (changeId + (imp + 1) % 16 * 65536))

/-- LOCKUP_INJECT (R217): one LOCKUP token into every ENTRY queue, each under a credit; none in a power hold (R521). -/
def execLockupInject (chase : Nat) (s : State) : Host.Outcome State Fault Refusal :=
  .next (
    let c := chase
    let ch := Sys2Proof.Machine.chase s c
    match ch.act with
    | .change oldId newId true false _ cmd =>
      match imageOf ch oldId with
      | some a =>
        let qs := entryQueues a.body
        if ch.fenced || s.power.hold || !passesEntered s c oldId || !(qs.all fun q => creditFree s q.tile q.port) then s
        else
          let s := qs.foldl (fun s q =>
            pushFlight s c (q.tile, 64, q.port)
              (lockupToken (tile s q.tile).imp ch.changeCount q.tile q.port none) [] none) s
          modChase s c fun ch => { ch with act := .change oldId newId true true [] cmd }
      | none => s
    | _ => s)

/-- The distinct destinations of a unit's emit entries, in emit-table order (R218); DROUTE names one only where
DREMOTE is 1 (R150). -/
def lockupDests (c : TileCfg) (u : UnitCfg) : List EmitCfg :=
  (emitsOf c u).foldl (fun l e =>
    if l.any fun d => d.dremote == e.dremote && (!e.dremote || d.droute == e.droute) && d.dtile == e.dtile &&
        d.dport == e.dport
    then l else l ++ [e]) []

/-- The timer of a running change starts again from zero (R222). -/
def restartChangeTimer (s : State) (c : Nat) : State :=
  modChase s c fun ch => { ch with act := match ch.act with
    | .change a b l i _ cmd => .change a b l i [] cmd
    | x => x }

/-- A unit that has taken a LOCKUP token from every bound input, and whose matching store is empty, passes the lock-up
once every destination has a credit: it emits one LOCKUP token to each (R218). It waits on WAIT_LINK for a remote
credit (R185), else on WAIT_CREDIT (R167). -/
def tryPass (s : State) (c t u : Nat) (cfg : TileCfg) (uc : UnitCfg) : State :=
  let x := tile s t
  let f := fuOf x u
  let dests := lockupDests cfg uc
  if f.passed || decide (f.lockups.length ≤ uc.nin) || !f.store.isEmpty || f.firing.isSome then s
  else if dests.any fun e => e.dremote && !remoteFree s t u e.droute e.dtile e.dport then
    stallOn s c (unitKey t u) 5 Wait.link
  else if dests.any fun e => !e.dremote && !creditFree s e.dtile e.dport then stallOn s c (unitKey t u) 5 Wait.credit
  else
    let s := dests.foldl (fun s e =>
      let k := { lockupToken x.imp 0 e.dtile e.dport (some f.lockPayload) with
        remote := e.dremote, route := if e.dremote then e.droute else 0 }
      let s := if e.dremote then takeRemote s t u e.droute e.dtile e.dport else s
      pushFlight s c (t, u, 0) k [] none) s
    let s := modTile s t fun x => setFu x u { fuOf x u with passed := true }
    restartChangeTimer (unstallOn s c (unitKey t u) 5) c

/-- LOCKUP_TAKE (R218): the unit takes the LOCKUP token at the head of an input's queue, or, when it has taken it
already, passes the lock-up as soon as it can. One of another impression is discarded as EPOCH_DROP (R221). -/
def execLockupTake (tile fu input : Nat) (s : State) : Host.Outcome State Fault Refusal :=
  .next (
    let x := Sys2Proof.Machine.tile s tile
    match liveTile s tile, x.active, unitCfg x fu with
    | some c, some cfg, some uc =>
      if uc.nin < input then s
      else
        let f := fuOf x fu
        let p := uc.port input
        if f.lockups.contains input then tryPass s c tile fu cfg uc
        else
          match (portQ x p).toks with
          | k :: r =>
            if k.tok.kind ≠ 4 then s
            else if k.tok.imp ≠ x.imp then
              let s := modTile s tile fun x => setPortQ x p { portQ x p with toks := r }
              fabricFault (giveCredit s c tile p k) c 0x010A tile
            else
              let s := modTile s tile fun x =>
                setFu (setPortQ x p { portQ x p with toks := r }) fu
                  { fuOf x fu with lockups := nset f.lockups input, lockPayload := k.tok.payload }
              tryPass (giveCredit s c tile p k) c tile fu cfg uc
          | [] => s
    | _, _, _ => s)

/-- Whether a tile pair may switch (R219): every configured unit has passed the lock-up, and the drain of every
outbound galley too (R282). -/
def mayswitch (b : FormeBody) (x : Tile) (t : Nat) : Bool :=
  (match x.active with
    | some c => c.units.all fun u => !u.2.en || (fuOf x u.1).passed
    | none => true) &&
  (galleysOf b 2).all fun d => d.stile != t ||
    match galley x d.tid with
    | some g => g.lockup && g.staged.isEmpty && g.full.isEmpty && g.rest.isEmpty
    | none => true

/-- TILE_SWITCH (R219). -/
def execTileSwitch (tile : Nat) (s : State) : Host.Outcome State Fault Refusal :=
  .next (
    match liveTile s tile with
    | none => s
    | some c =>
      let ch := chase s c
      let x := Sys2Proof.Machine.tile s tile
      match ch.act with
      | .change oldId newId true _ _ _ =>
        match imageOf ch oldId, imageOf ch newId with
        | some a, some b =>
          if x.switched || !(changeTiles a.body b.body).contains tile || !mayswitch a.body x tile then s
          else finishChange (switchTile s b.body tile (x.imp + 1)) c
        | _, _ => s
      | _ => s)

/-- PRELOAD_DONE (R219): the preload of a switched tile pair is written, and its queues resume. -/
def execPreloadDone (tile : Nat) (s : State) : Host.Outcome State Fault Refusal :=
  .next (
    let x := Sys2Proof.Machine.tile s tile
    match x.active with
    | some cfg =>
      if x.preloading then
        modTile s tile fun x =>
          { mtWriteBytes x cfg.preloadAddr (cfg.preload.take cfg.preloadLen) with preloading := false }
      else s
    | none => s)

/-- CHANGE_TIMEOUT (R222): the change has not ended within 16 × GUARD_LIMIT paces of the forme being replaced. -/
def execChangeTimeout (chase : Nat) (s : State) : Host.Outcome State Fault Refusal :=
  .next (
    let ch := Sys2Proof.Machine.chase s chase
    match ch.act with
    | .change oldId _ true true timer _ =>
      match imageOf ch oldId with
      | some a => if pacesReach timer (16 * a.body.guardLimit) then formeFault s chase 0x010D 0x7FF none else s
      | none => s
    | _ => s)

end Sys2Proof.Machine
end

