-- ==== Sys2Proof/Machine/Torus.lean ====
section
/-! DEFINITION. The torus: ports, discovery, frames, re-keying, the timebase, and multi-device jobs (R441 to R474). -/

namespace Sys2Proof.Machine

/-! ### Coordinates and routes -/

/-- Coordinate index (R453). -/
def coordIndex (x y z : Nat) : Nat := x + 64 * y + 4096 * z

/-- A coordinate index in the layout of COORD (R430). -/
def coordWord (i : Nat) : Nat := i % 64 + 256 * (i / 64 % 64) + 65536 * (i / 4096) + 2147483648

/-- This device's coordinate index; 0 before placement. -/
def myIndex (s : State) : Nat :=
  match s.boot.cfg with
  | some c => coordIndex c.placement.x c.placement.y c.placement.z
  | none => 0

/-- The neighbour's coordinate at a port (R441). -/
def neighbour (p : Placement) (n : Nat) : Nat × Nat × Nat :=
  match n with
  | 0 => ((p.x + 1) % p.nx, p.y, p.z)
  | 1 => ((p.x + p.nx - 1) % p.nx, p.y, p.z)
  | 2 => (p.x, (p.y + 1) % p.ny, p.z)
  | 3 => (p.x, (p.y + p.ny - 1) % p.ny, p.z)
  | 4 => (p.x, p.y, (p.z + 1) % p.nz)
  | _ => (p.x, p.y, (p.z + p.nz - 1) % p.nz)

/-- The neighbour's port at a port (R441). -/
def facing (n : Nat) : Nat := if n % 2 = 0 then n + 1 else n - 1

/-- Whether a coordinate lies in a block (R462). -/
def inBlock (p : Placement) (f : JobFields) (x y z : Nat) : Bool :=
  decide ((x + p.nx - f.ox % p.nx) % p.nx < f.ex ∧ (y + p.ny - f.oy % p.ny) % p.ny < f.ey ∧
    (z + p.nz - f.oz % p.nz) % p.nz < f.ez)

/-- Ports of this device that lead to a neighbour inside a block (R463). -/
def blockPorts (p : Placement) (f : JobFields) : List Nat :=
  (List.range 6).filter fun n =>
    let (x, y, z) := neighbour p n
    decide (1 < axisDim p n) && inBlock p f x y z

/-- The devices of a block by coordinate index (R462). -/
def blockDevices (p : Placement) (f : JobFields) : List Nat :=
  (List.range f.ex).flatMap fun i => (List.range f.ey).flatMap fun j => (List.range f.ez).map fun k =>
    coordIndex ((f.ox + i) % p.nx) ((f.oy + j) % p.ny) ((f.oz + k) % p.nz)

/-- The way along one axis of length n from a to b (R459): true for positive. On an axis that the region (from origin
o, extent e) spans it is the shorter way, positive when equal; else the way that stays inside. -/
def axisWay (n o e a b : Nat) : Bool :=
  if e = n then decide ((b + n - a) % n ≤ (a + n - b) % n)
  else decide ((a + n - o % n) % n ≤ (b + n - o % n) % n)

/-- The port by which traffic for a device leaves (R459): X, then Y, then Z; none when it has arrived. -/
def routePort (p : Placement) (f : JobFields) (dest : Nat) : Option Nat :=
  let x := dest % 64
  let y := dest / 64 % 64
  let z := dest / 4096
  if x ≠ p.x then some (if axisWay p.nx f.ox f.ex p.x x then 0 else 1)
  else if y ≠ p.y then some (if axisWay p.ny f.oy f.ey p.y y then 2 else 3)
  else if z ≠ p.z then some (if axisWay p.nz f.oz f.ez p.z z then 4 else 5)
  else none

/-- The whole torus as a region, for relay frames (R459). -/
def wholeTorus (p : Placement) : JobFields := ⟨0, 0, 0, 0, 0, p.nx, p.ny, p.nz⟩

/-! ### Training and discovery -/

/-- This end's part of a key exchange: a fresh nonce and ephemeral key pair (R429, R451, R455). -/
def drawExchange (s : State) (n : Nat) : Bytes × Bytes × State :=
  let (nonce, s) := drawBytes s 32
  let (eph, s) := drawBytes s 56
  (nonce, eph, modPort s n fun p => { p with disc := some (nonce, eph) })

/-- What the signature of a discovery message covers, packed in the order of R455 (the packing is the model's, log 66). -/
def discBytes (m : DiscoveryMsg) : Bytes :=
  [m.x, m.y, m.z, m.nx, m.ny, m.nz, m.port, m.lifecycle].flatMap (le 1) ++ m.ownerDigest ++ m.nonce ++ m.eph ++ m.certs

/-- This end's discovery message, with the public key of its ephemeral key (R455). -/
def ownDiscovery (s : State) (n : Nat) (nonce eph : Bytes) : DiscoveryMsg :=
  let q := (s.boot.cfg.map BootConfig.placement).getD default
  let m : DiscoveryMsg :=
    { x := q.x, y := q.y, z := q.z, nx := q.nx, ny := q.ny, nz := q.nz, port := n, lifecycle := s.fuses.lifecycle
      ownerDigest := ownerDigest s, nonce := nonce, eph := pubOf eph, certs := aliasCert s, sig := [] }
  { m with sig := aliasSign s (discBytes m) }

/-- Enter DISCOVERY and send the discovery message in clear (R455). -/
def startDiscovery (s : State) (n : Nat) : State :=
  let s := modPort s n fun p => { p.unlinked with state := 2 }
  let (nonce, eph, s) := drawExchange s n
  let m := ownDiscovery s n nonce eph
  sendCtl s n "DISCOVERY" [m.x, m.y, m.z, m.nx, m.ny, m.nz, m.port, m.lifecycle, ofLe m.ownerDigest, ofLe m.nonce,
    ofLe m.eph, ofLe m.certs, ofLe m.sig]

/-- TORUS_PORT_TRAINED (R445, R454, R456): a port in TRAINING, or a usable one that retrains after a DOWN, has picked 8
working lanes and enters DISCOVERY; with fewer it goes DOWN with cause 11. -/
def execTorusPortTrained (port : Nat) (failed : List Nat) (s : State) : Host.Outcome State Fault Refusal :=
  .next (match s.torus[port]? with
    | some p =>
      if p.state = 1 ∨ (p.state = 0 ∧ portUsable s port = true) then
        let picks := pickLanes s port failed
        let s := modPort s port fun p => { p with
          lanesFailed := failed, retraining := false, sparesUsed := picks.countP fun l => decide (8 ≤ l) }
        if picks.length < 8 then portDown s port 11 else startDiscovery s port
      else s
    | none => s)

/-- Every port that carries traffic runs discovery again; with `train`, CLOSED ports and usable ports that are DOWN
train again (R456). The jobs that hold them fail with a cause (R468). -/
def rediscover (s : State) (train : Bool) (cause : Nat) : State :=
  (List.range 6).foldl (fun s n =>
    match s.torus[n]? with
    | none => s
    | some p =>
      let s := match p.job with
        | some id => jobFailure s id (myCoord s) cause
        | none => s
      if train && !portUsable s n then modPort s n fun p => { p with state := 0 }
      else if 4 ≤ p.state then startDiscovery s n
      else if train && (p.state = 3 || p.state = 0) then modPort s n fun p => { p with state := 1 }
      else s) s

/-- The first failing check of R455 in its order, by its cause. -/
def discoveryCause (s : State) (pl : Placement) (n : Nat) (m : DiscoveryMsg) : Option Nat :=
  let expect := pl.expect.getD n []
  let bad (k : Nat) : Bool := k == 0 || k == 3
  if expect.all (· == 0) then some 1
  else if !certOk s m.certs then some 2
  else if !ecdsaOk (m.certs.take 97) (sha384 (discBytes m)) m.sig then some 9
  else if sha384 (certDik m.certs) ≠ expect then some 3
  else if (m.nx, m.ny, m.nz) ≠ (pl.nx, pl.ny, pl.nz) then some 6
  else if (m.x, m.y, m.z) ≠ neighbour pl n then some 4
  else if m.port ≠ facing n then some 5
  else if bad m.lifecycle || bad s.fuses.lifecycle then some 7
  else if m.lifecycle = 2 ∧ s.fuses.lifecycle = 2 ∧ m.ownerDigest ≠ ownerDigest s then some 8
  else none

/-- Link keys to and from a peer (R429): salt and info order the two ends by coordinate index. -/
def linkKeys (mine peer : Nat) (nonceMine noncePeer ephMine ephPeer : Bytes) : Bytes × Bytes :=
  let low := decide (mine < peer)
  let salt := if low then nonceMine ++ noncePeer else noncePeer ++ nonceMine
  let ids := if low then le 4 mine ++ le 4 peer else le 4 peer ++ le 4 mine
  let k := hkdf 64 (ecdh ephMine ephPeer) salt (ascii "Z9 link v1" ++ ids)
  if low then (slice k 0 32, slice k 32 32) else (slice k 32 32, slice k 0 32)

/-- DISCOVERY_MSG (R455): the port opens, relays or closes. -/
def execDiscoveryMsg (port : Nat) (m : DiscoveryMsg) (s : State) : Host.Outcome State Fault Refusal :=
  .next (match s.torus[port]?, s.boot.cfg with
    | some p, some cfg =>
      if p.state ≠ 2 then s
      else
        match discoveryCause s cfg.placement port m, p.disc with
        | some c, _ => modPort s port fun p => { p with state := 3, cause := c, disc := none }
        | none, none => s
        | none, some (nonce, eph) =>
          let keys := linkKeys (myIndex s) (coordIndex m.x m.y m.z) nonce m.nonce eph m.eph
          let st := if m.lifecycle = 2 ∧ s.fuses.lifecycle = 2 then 5 else 4
          modPort s port fun p => { p.unlinked with
            state := st, keyTx := some keys.1, keyRx := some keys.2, peerPub := some (m.certs.take 97)
            keyNs := s.now, upNs := s.now }
    | _, _ => s)

/-! ### Frames -/

/-- The current step of a job's units here: the step that runs (R466). -/
def runningStep (j : Job) : Option Nat := if j.state = .stepping then some j.next else none

/-- Bring a token of a job to the fabric of its chase over the hub link of a die, with REMOTE and ROUTE cleared and an
error of its HCRC kept (R146, R185, R467); tokens that reach a fenced chase are discarded and counted (R481). -/
def deliverUnit (s : State) (c : Nat) (src : Nat × Nat × Nat) (die : Nat) (u : DWord × DWord × List Granule) : State :=
  if (chase s c).fenced then chev s c 12
  else
    let t := tokenOf u.1 u.2.1
    let header := tokenHeader { t with remote := false, route := 0 } ^^^ (u.1 ^^^ tokenHeader t)
    { s with net := s.net ++
      [{ src := (die * 512, 0, 0), chase := c, tile := t.tile, port := t.port, header := header, payload := u.2.1
         granules := u.2.2, galley := none, fromRemote := some src }] }

/-- The virtual channel of a JOB unit on a port (R450), where it came by a port and channel, or began here: VC 1 on the
link between N − 1 and 0 of an axis that the job spans, and from there on along this axis. -/
def hopVc (p : Placement) (f : JobFields) (came : Option (Nat × Nat)) (n : Nat) : Nat :=
  let a := n / 2
  let edge := if n % 2 = 0 then axisDim p n - 1 else 0
  if [f.ex, f.ey, f.ez].getD a 0 = axisDim p n ∧ [p.x, p.y, p.z].getD a 0 = edge then 1
  else match came with
    | some (m, vc) => if m / 2 = a then vc else 0
    | none => 0

/-- Send a token with its granules towards a die of a device of a job, on the port and channel that its route takes
(R450, R459, R461); none while the port gives no credit or an earlier token waits for the channel. A frame carries units
of one token (DESIGN CHOICE, log 27). -/
def sendUnits (s : State) (j : Job) (dest die : Nat) (src : Nat × Nat) (u : DWord × DWord × List Granule) :
    Option State :=
  match s.boot.cfg with
  | none => none
  | some c =>
    match routePort c.placement j.fields dest with
    | none => none
    | some n =>
      match s.torus[n]? with
      | none => none
      | some p =>
        let vc := hopVc c.placement j.fields none n
        if p.state ≠ 5 ∨ p.job ≠ some j.fields.jobId ∨ p.credits.getD vc 0 = 0 ∨
            s.torusOut.any (fun r => r.port == n && r.vc == vc) = true then none
        else
          some (pump { s with torusOut := s.torusOut ++
            [⟨n, vc, j.fields.jobId, j.next % 2 ^ 32, j.epoch, none, 0,
              jobUnits dest die (myIndex s, src) u⟩] } n)

/-- A whole transfer for another device goes on by the port that its route takes; it is dropped as a violation where it
would leave the block or the port is not open for the job (R184, R461). -/
def forwardUnits (s : State) (port : Nat) (j : Job) (a : Arriving) : State :=
  let dropped := violation (freePlaces s port a.vc a.places)
  match s.boot.cfg with
  | none => dropped
  | some c =>
    match routePort c.placement j.fields (unitField a.units 16 4) with
    | none => dropped
    | some n =>
      if (s.torus[n]?).any fun p => p.state == 5 && p.job == some j.fields.jobId then
        pump { s with torusOut := s.torusOut ++
          [⟨n, hopVc c.placement j.fields (some (port, a.vc)) n, j.fields.jobId, a.step, a.epoch, some (port, a.vc),
            a.places, a.units⟩] } n
      else dropped

/-- Whether a unit of an epoch belongs to the job as it stands (R466, R470): none does while the job is HALTED, and
while it is REJOINING those of the epoch that begins. -/
def currentEpoch (j : Job) (epoch : Nat) : Bool :=
  match j.state with
  | .halted => false
  | .rejoining => epoch == (j.epoch + 1) % 256
  | _ => epoch == j.epoch

/-- A whole transfer has arrived: it goes on to its device, or is delivered in the step it belongs to, dropped when stale,
or held for a later step (R461, R466). -/
def takeTransfer (s : State) (port : Nat) (j : Job) (a : Arriving) : State :=
  if unitField a.units 16 4 ≠ myIndex s then forwardUnits s port j a
  else
    let c := j.fields.chase
    let src := (unitField a.units 20 4, unitField a.units 25 2, unitField a.units 27 1)
    let die := unitField a.units 24 1
    if runningStep j = some j.next ∧ a.step = j.next % 2 ^ 32 then
      deliverUnit (freePlaces s port a.vc a.places) c src die (tokenUnits a.units)
    else if j.state ≠ .rejoining ∧ a.step < j.next % 2 ^ 32 then chev (freePlaces s port a.vc a.places) c 12
    else modPort s port fun p => { p with buffer := p.buffer ++
      [⟨j.fields.jobId, a.step, a.epoch, src, die, tokenUnits a.units, a.vc, a.places⟩] }

/-- One JOB unit of an accepted frame takes a place of the receive buffer, and with the last unit of its transfer the
transfer is taken; a unit of another epoch is dropped and counted (R450, R466). -/
def takeUnit (s : State) (port : Nat) (j : Job) (h : FrameHead) (u : LinkUnit) : State :=
  if !currentEpoch j h.epoch then chev (freePlaces s port h.vc 1) j.fields.chase 12
  else
    match s.torus[port]? with
    | none => s
    | some p =>
      let a := (p.arriving.find? fun a => a.vc == h.vc).getD ⟨h.vc, h.step, h.epoch, 0, []⟩
      let a := { a with places := a.places + 1, units := a.units ++ [u] }
      let others := p.arriving.filter fun a => a.vc != h.vc
      if wholeUnits a.units then takeTransfer (modPort s port fun p => { p with arriving := others }) port j a
      else modPort s port fun p => { p with arriving := others ++ [a] }

/-- Places of a channel of a port's receive buffer that are taken. -/
def placesUsed (s : State) (port vc : Nat) : Nat :=
  match s.torus[port]? with
  | none => 0
  | some p =>
    ((p.buffer.filter fun b => b.vc == vc).map HeldUnit.places).sum +
      ((p.arriving.filter fun a => a.vc == vc).map Arriving.places).sum +
      ((s.torusOut.filter fun r => r.source == some (port, vc)).map TorusTok.places).sum

/-- A transfer longer than the receive buffer moves on before it is whole: where every place is taken, one that does not
wait for a later step gives its places back (R450, R466). -/
def relieve (s : State) (port : Nat) (j : Job) : State :=
  (List.range 2).foldl (fun s vc =>
    match (s.torus[port]?).bind fun p => p.arriving.find? fun a => a.vc == vc with
    | some a =>
      if 128 ≤ placesUsed s port vc ∧
          (unitField a.units 16 4 ≠ myIndex s ∨ (runningStep j).map (· % 2 ^ 32) = some a.step) then
        freePlaces (modPort s port fun p => { p with
          arriving := p.arriving.map fun x => if x = a then { a with places := 0 } else x }) port vc a.places
      else s
    | none => s) s

/-- The units of a frame with their side-band bits. -/
def splitUnits (data : Bytes) (side : List (Bool × Bool)) : List LinkUnit :=
  (List.range (data.length / 64)).map fun i =>
    let sb := side.getD i (false, false)
    ⟨slice data (64 * i) 64, sb.1, sb.2⟩

/-- The JOB units of an accepted frame; where no job holds the port they are dropped. -/
def takeUnits (s : State) (port : Nat) (h : FrameHead) (units : List LinkUnit) : State :=
  match (s.torus[port]?).bind fun p => if p.state = 5 then p.job.bind (findJob s) else none with
  | some j => relieve (units.foldl (fun s u => takeUnit s port j h u) s) port j
  | none => freePlaces s port h.vc units.length

/-- A bad frame (R449): a negative acknowledgement; sixteen tag failures within 1 s take the link DOWN. -/
def badFrame (s : State) (port : Nat) (p : TorusPort) : State :=
  let fails := (p.tagFails.filter fun t => decide (s.now < t + 1000000000)) ++ [s.now]
  let s := modPort s port fun p => { p with tagFails := fails, counts := bump p.counts 1 }
  if 16 ≤ fails.length then portDown s port 10 else sendCtl s port "NAK" [p.rxSeq + 1]

/-- The re-key boundary of the direction from the peer: the new key is in force and the old one zeroised (R424, R451). -/
def TorusPort.boundaryRx (p : TorusPort) : TorusPort := { p with
  keyRx := p.newRx, newRx := none, genRx := p.genRx + 1, rxSeq := 0, rekeying := p.newTx.isSome }

/-- The re-key boundary of the direction to the peer, once every earlier frame is acknowledged: the new key is in force,
the old one zeroised, and the first frame under it says so (R424, R451). -/
def boundaryTx (s : State) (port : Nat) : State :=
  modPort s port fun p =>
    if p.newTx.isSome ∧ p.acked = p.txSeq then
      { p with
        keyTx := p.newTx, newTx := none, genTx := p.genTx + 1, txSeq := 0, acked := 0, replay := [], keyNs := s.now
        rekeying := p.newRx.isSome }.emit 0 0 0 0 true [] []
    else p

/-- Take the acknowledgement and the credits of a frame's header (R446, R449, R450). -/
def TorusPort.accept (p : TorusPort) (h : FrameHead) : TorusPort :=
  let ack := if h.ack ≤ p.txSeq then h.ack else 0
  { p with
    rxSeq := h.seq
    acked := Nat.max p.acked ack
    replay := p.replay.filter fun x => decide (ack < x.seq)
    credits := lmod p.credits h.crVc fun k => Nat.min 128 (k + h.credits) }

/-- What follows an accepted frame: units that waited for its credits leave, a re-key whose frames it acknowledged
reaches its boundary, and IDLE frames acknowledge it, unless it was one itself, and announce the places freed
(R446, R447; log 66). -/
def answerFrame (s : State) (port type : Nat) : State :=
  let s := boundaryTx (pump s port) port
  announce (if type = 0 then s else modPort s port TorusPort.idle)

/-- LINK_FRAME (R446 to R451, R461, R466): none where the FEC fails. Frames are accepted in SEQ order only, each under
the key in force, the first under a new key with REKEY set. -/
def execLinkFrame (port : Nat) (frame : Option Bytes) (side : List (Bool × Bool)) (s : State) :
    Host.Outcome State Fault Refusal :=
  .next (match s.torus[port]? with
    | none => s
    | some p =>
      if p.state < 4 then s
      else
        match frame with
        | none => sendCtl s port "NAK" [p.rxSeq + 1]
        | some b =>
          let h := headOf b
          let q := if h.rekey = true ∧ p.newRx.isSome = true then p.boundaryRx else p
          match q.keyRx.bind fun k => openFrame k q.genRx b with
          | none => badFrame s port p
          | some data =>
            if h.seq ≠ q.rxSeq + 1 then sendCtl s port "NAK" [p.rxSeq + 1]
            else
              let s := modPort s port fun _ => q.accept h
              answerFrame (if h.type = 1 then takeUnits s port h (splitUnits data side) else s) port h.type)

/-- FRAME_NAK (R449): the frames from one SEQ onward are sent again. -/
def execFrameNak (port seq : Nat) (s : State) : Host.Outcome State Fault Refusal :=
  .next (match s.torus[port]? with
    | none => s
    | some p =>
      let again := (p.replay.filter fun f => decide (seq ≤ f.seq)).map fun f => (f.bytes, f.side)
      if p.state < 4 ∨ again = [] then s
      else modPort s port fun p => { p with frames := p.frames ++ again, counts := bump p.counts 0 })

/-- LANE_SPARE_RETRAIN (R445): a failing lane is replaced by a spare in a retrain, and what waited leaves; or the port
goes DOWN with cause 11. -/
def execLaneSpareRetrain (port lane : Nat) (ok : Bool) (s : State) : Host.Outcome State Fault Refusal :=
  .next (match s.torus[port]? with
    | none => s
    | some p =>
      let failed := nset p.lanesFailed lane
      let picks := pickLanes s port failed
      if p.state = 0 then s
      else if !ok || decide (picks.length < 8) then
        portDown (modPort s port fun p => { p with lanesFailed := failed, retraining := false }) port 11
      else
        let s := modPort s port fun p => { p with
          lanesFailed := failed, sparesUsed := picks.countP fun l => decide (8 ≤ l)
          retraining := false, counts := bump p.counts 2 }
        let s := announce (pump s port)
        if failed.length = p.lanesFailed.length then s else healthEvent s 4)

/-- Send this end's message of a re-key, signed by the alias key (R451). -/
def sendRekey (s : State) (port : Nat) : State :=
  let (nonce, eph, s) := drawExchange (modPort s port fun p => { p with rekeying := true }) port
  sendCtl s port "REKEY" [ofLe nonce, ofLe (pubOf eph), ofLe (aliasSign s (nonce ++ pubOf eph))]

/-- LINK_REKEY (R451): after 2^31 frames in either direction or 1 h. -/
def execLinkRekey (port : Nat) (s : State) : Host.Outcome State Fault Refusal :=
  .next (match s.torus[port]? with
    | none => s
    | some p =>
      if 4 ≤ p.state ∧ p.rekeying = false ∧
          (2147483648 ≤ p.txSeq ∨ 2147483648 ≤ p.rxSeq ∨ p.keyNs + 3600000000000 ≤ s.now) then
        sendRekey s port
      else s)

/-- REKEY_MSG (R429, R451): the peer's exchange message gives the new keys, if its signature verifies under the peer's
alias key; each takes effect at the boundary of its direction. -/
def execRekeyMsg (port : Nat) (nonce eph sig : Bytes) (s : State) : Host.Outcome State Fault Refusal :=
  .next (match s.torus[port]?, s.boot.cfg with
    | some p, some cfg =>
      if p.state < 4 ∨ p.peerPub.any (fun k => ecdsaOk k (sha384 (nonce ++ eph)) sig) = false then s
      else
        let s := if p.rekeying then s else sendRekey s port
        let (x, y, z) := neighbour cfg.placement port
        let s := modPort s port fun p => match p.disc with
          | some (n, e) =>
            let k := linkKeys (myIndex s) (coordIndex x y z) n nonce e eph
            { p with newTx := some k.1, newRx := some k.2, disc := none }
          | none => p
        boundaryTx s port
    | _, _ => s)

/-- LOSS_OF_SIGNAL (R468, R505): the port goes DOWN, and the job that holds it fails as by its neighbour there, with
cause 1. A port without signal has no working lanes: cause 11 (DEDUCED, log 29). -/
def execLossOfSignal (port : Nat) (s : State) : Host.Outcome State Fault Refusal :=
  .next (match s.torus[port]?, s.boot.cfg with
    | some p, some cfg =>
      if p.state = 0 then s
      else
        let (x, y, z) := neighbour cfg.placement port
        let s := modPort s port fun p => { p with state := 0 }
        let s := match p.job with
          | some id => jobFailure s id (coordWord (coordIndex x y z)) 1
          | none => s
        portDown s port 11
    | _, _ => s)

/-! ### Jobs -/

/-- A step of a job begins (R466): the tokens of the step that its ports hold reach the fabric, and their places are
free. -/
def beginStep (s : State) (id step : Nat) : State :=
  let mine (b : HeldUnit) : Bool := b.job == id && b.step == step % 2 ^ 32
  let held := s.torus.flatMap fun p => p.buffer.filter mine
  let s := modJob s id fun j => { j with state := .stepping }
  let s := { s with torus := s.torus.map fun p => { p with
    freed := p.freed.mapIdx fun vc k => k + ((p.buffer.filter fun b => mine b && b.vc == vc).map HeldUnit.places).sum
    buffer := p.buffer.filter fun b => !mine b } }
  match findJob s id with
  | none => s
  | some j =>
    let s := held.foldl (fun s b => deliverUnit s j.fields.chase b.src b.die b.body) s
    announce ((j.ports.map Prod.fst).foldl (fun s n => relieve s n j) s)

/-- Release the ports of a job and remove it (R464, R473). -/
def removeJob (s : State) (id : Nat) : State :=
  let s := flushJob s id
  { s with
    jobs := s.jobs.filter fun j => j.fields.jobId != id
    torus := s.torus.map fun p => { p with job := if p.job = some id then none else p.job } }

/-- The JOIN fields of a job (R464), as the torus carries them. -/
def joinFields (s : State) (j : Job) : List Nat :=
  let f := j.fields
  [f.jobId, f.ox, f.oy, f.oz, f.ex, f.ey, f.ez,
    ofLe (sha384 ((chase s f.chase).claimPub.getD [])), b2n (decide (j.state = .halted))]

/-- Whether a received JOIN agrees with a job in all its fields (R464). -/
def joinAgrees (s : State) (j : Job) (m : JoinMsg) : Bool :=
  let f := j.fields
  decide ((m.jobId, m.ox, m.oy, m.oz, m.ex, m.ey, m.ez) = (f.jobId, f.ox, f.oy, f.oz, f.ex, f.ey, f.ez)) &&
    m.tenantDigest == sha384 ((chase s f.chase).claimPub.getD [])

/-- Complete a FORMING job whose every port has agreed (R464, R465). -/
def finishJoin (s : State) (id : Nat) : State :=
  match findJob s id with
  | none => s
  | some j =>
    if j.state = .forming ∧ j.ports.all Prod.snd then
      let s := endJobCmds s j St.done 0
      modJob s id fun j => { j with state := if j.peerHalted then .halted else .ready, cmds := [] }
    else s

/-- What a JOIN received on a held port does to a FORMING job (R464). -/
def takeJoin (s : State) (id port : Nat) (m : JoinMsg) : State :=
  match findJob s id with
  | none => s
  | some j =>
    if joinAgrees s j m then
      finishJoin (modJob s id fun j => { j with
        ports := j.ports.map fun p => if p.1 = port then (port, true) else p
        peerHalted := j.peerHalted || m.halted }) id
    else removeJob (endJobCmds s j St.wrongState 0x0D05) id

/-- JOB_OPEN (R463, R464): the checks in their order; then the ports are held and JOIN leaves on each. A JOIN that a
port has received before counts. -/
def execJobOpen (h : CmdHdr) (f : JobFields) (s : State) : Host.Outcome State Fault Refusal :=
  hostCmd h ⟨0x0060, [.own], false, 0⟩ (fun s _ =>
    if f.ex = 0 ∨ f.ey = 0 ∨ f.ez = 0 then rep s h 0x0060 St.malformed 0 []
    else
      match s.boot.cfg with
      | none => rep s h 0x0060 St.wrongState 0x0D01 []
      | some cfg =>
        let p := cfg.placement
        let ports := blockPorts p f
        if p.nx < f.ex ∨ p.ny < f.ey ∨ p.nz < f.ez then rep s h 0x0060 St.malformed 0 []
        else if !inBlock p f p.x p.y p.z then rep s h 0x0060 St.wrongState 0x0D01 []
        else if (chase s f.chase).state ≠ .claimed ∨ (jobOfChase s f.chase).isSome then
          rep s h 0x0060 St.wrongState 0x0D02 []
        else if (findJob s f.jobId).isSome then rep s h 0x0060 St.wrongState 0x0D03 []
        else if ports.any fun n => ((s.torus[n]?).bind TorusPort.job).isSome then
          rep s h 0x0060 St.noResources 0x0D04 []
        else
          let j : Job :=
            { fields := f, state := .forming, next := 0, epoch := 0, ports := ports.map fun n => (n, false)
              peerHalted := false, openedNs := s.now, cmds := [(h.session, h.reqId)], aborted := 0, rejoinStep := 0
              rejoinFrom := none, acks := [], fail := (0, 0) }
          let s := accept s h 0x0060 f.chase false []
          let s := { s with jobs := s.jobs ++ [j] }
          let s := ports.foldl (fun s n => modPort s n fun q => { q with job := some f.jobId }) s
          let s := sendHeld s j none "JOIN" (joinFields s j)
          let s := ports.foldl (fun s n => match (s.torus[n]?).bind TorusPort.join with
            | some m => if m.jobId = f.jobId then takeJoin s f.jobId n m else s
            | none => s) s
          finishJoin s f.jobId) s

/-- JOIN_MSG (R464): a FORMING job compares it; a job that has formed answers with its own JOIN, so that a new member
learns of it. -/
def execJoinMsg (port : Nat) (m : JoinMsg) (s : State) : Host.Outcome State Fault Refusal :=
  .next (match s.torus[port]? with
    | none => s
    | some p =>
      if p.state < 4 then s
      else
        let s := modPort s port fun p => { p with join := some m }
        match p.job with
        | none => s
        | some id =>
          match findJob s id with
          | none => s
          | some j =>
            if j.state = .forming then takeJoin s id port m
            else if m.jobId = id then sendCtl s port "JOIN" (joinFields s j)
            else s)

/-- JOIN_TIMEOUT (R464): 10 s without agreement. -/
def execJoinTimeout (jobId : Nat) (s : State) : Host.Outcome State Fault Refusal :=
  .next (match findJob s jobId with
    | some j =>
      if j.state = .forming ∧ j.openedNs + 10000000000 ≤ s.now then
        removeJob (endJobCmds s j St.wrongState 0x0D06) jobId
      else s
    | none => s)

/-- FENCE_MSG (R469, R470): forwarded on the other held ports; the step ends and the job becomes HALTED, unless it is
HALTED or REJOINING already. -/
def execFenceMsg (port jobId step coord cause : Nat) (s : State) : Host.Outcome State Fault Refusal :=
  .next (match findJob s jobId with
    | none => s
    | some j =>
      let s := sendHeld s j (some port) "FENCE" [jobId, step, coord, cause]
      if j.state = .halted ∨ j.state = .rejoining ∨ j.state = .forming then s
      else
        let s := haltJob s jobId coord cause
        if j.state = .stepping ∧ (chase s j.fields.chase).fenced = false then fenceForFault s j.fields.chase else s)

/-- The failing condition of a rejoin at this device (R472), 0 when it passes. -/
def rejoinDetail (s : State) (j : Job) (step : Nat) : Nat :=
  let ch := chase s j.fields.chase
  let portsOpen := j.ports.all fun p => ((s.torus[p.1]?).map TorusPort.state) == some 5
  if j.state = .rejoining then (if j.rejoinStep = step then 0 else 0x0D0A)
  else if j.state ≠ .halted ∨ ch.fenced = true ∨ serviceIds ch = [] ∨ portsOpen = false then 0x0D09
  else if step < j.aborted then 0x0D0A
  else 0

/-- Drop the units of a job that wait in the hop buffers under another epoch, and count them in STALE_DROP (R466,
R470). -/
def dropHeld (s : State) (id epoch : Nat) : State :=
  let old (b : HeldUnit) : Bool := b.job == id && b.epoch != epoch
  let n := (s.torus.map fun p => p.buffer.countP old).sum
  let s := { s with torus := s.torus.map fun p => { p with
    freed := p.freed.mapIdx fun vc k => k + ((p.buffer.filter fun b => old b && b.vc == vc).map HeldUnit.places).sum
    buffer := p.buffer.filter fun b => !old b } }
  announce (match findJob s id with
  | some j => (List.range n).foldl (fun s _ => chev s j.fields.chase 12) s
  | none => s)

/-- The job resumes at a step, under a new epoch (R472); units of another epoch that it still holds are stale (R466). -/
def resumeJob (s : State) (id step epoch : Nat) : State :=
  modJob (dropHeld s id (epoch % 256)) id fun j => { j with
    state := .ready, next := step, epoch := epoch % 256, peerHalted := false }

/-- Whether the rejoin that this device began has its acknowledgements, and then its completion (R472). -/
def finishRejoin (s : State) (id : Nat) : State :=
  match findJob s id, s.boot.cfg with
  | some j, some cfg =>
    let others := (blockDevices cfg.placement j.fields).filter (· != myIndex s)
    if j.state = .rejoining ∧ j.rejoinFrom = none ∧ others.all (fun d => j.acks.contains d) then
      let s := endJobCmds s j St.done 0
      resumeJob (modJob s id fun j => { j with cmds := [], acks := [] }) id j.rejoinStep (j.epoch + 1)
    else s
  | _, _ => s

/-- JOB_REJOIN (R472). Two rejoins with the same STEP merge. -/
def execJobRejoin (h : CmdHdr) (jobId step : Nat) (s : State) : Host.Outcome State Fault Refusal :=
  hostCmd h ⟨0x0062, [.own, .ten], false, 0⟩ (fun s se =>
    match findJob s jobId with
    | none => rep s h 0x0062 St.notFound 0 []
    | some j =>
      if se.role = .ten ∧ se.chase ≠ j.fields.chase then rep s h 0x0062 St.notFound 0 []
      else
        let d := rejoinDetail s j step
        if d ≠ 0 then rep s h 0x0062 St.wrongState d []
        else
          let s := accept s h 0x0062 j.fields.chase false []
          if j.state = .rejoining then modJob s jobId fun j => { j with cmds := j.cmds ++ [(h.session, h.reqId)] }
          else
            let s := modJob s jobId fun j => { j with
              state := .rejoining, rejoinStep := step, rejoinFrom := none, acks := [], cmds := [(h.session, h.reqId)] }
            let s := sendHeld s j none "REJOIN" [jobId, step, (j.epoch + 1) % 256]
            finishRejoin s jobId) s

/-- REJOIN_MSG (R472): checked, forwarded and acknowledged; a device that passes resumes at once, and a FENCE from the
device that began the rejoin takes it back if another fails (DESIGN CHOICE, log 28). -/
def execRejoinMsg (port jobId step epoch : Nat) (s : State) : Host.Outcome State Fault Refusal :=
  .next (match findJob s jobId with
    | none => s
    | some j =>
      if j.state = .ready ∧ j.next = step ∧ j.epoch = epoch then s
      else if j.state = .rejoining ∧ j.rejoinStep = step ∧ j.rejoinFrom = none then s
      else
        let d := rejoinDetail s j step
        let s := sendHeld s j (some port) "REJOIN" [jobId, step, epoch]
        let s := sendCtl s port "REJOIN_ACK" [jobId, myIndex s, d]
        if d ≠ 0 then s
        else resumeJob (modJob s jobId fun j => { j with rejoinFrom := some port, rejoinStep := step }) jobId step epoch)

/-- REJOIN_ACK (R472): collected where the rejoin began, else forwarded towards it. A failing condition ends the
rejoin, and every device returns to HALTED. -/
def execRejoinAck (port jobId device detail : Nat) (s : State) : Host.Outcome State Fault Refusal :=
  .next (match findJob s jobId with
    | none => s
    | some j =>
      match j.rejoinFrom with
      | some p => if p = port then s else sendCtl s p "REJOIN_ACK" [jobId, device, detail]
      | none =>
        if j.state ≠ .rejoining then s
        else if detail ≠ 0 then
          let s := endJobCmds s j St.wrongState detail
          let s := modJob s jobId fun j => { j with state := .halted, cmds := [], acks := [] }
          sendHeld s j none "FENCE" [jobId, j.rejoinStep, myCoord s, 0]
        else finishRejoin (modJob s jobId fun j => { j with acks := nset j.acks device }) jobId)

/-- JOB_CLOSE (R473): a job that runs or is ready fails with cause 3; then its ports are released and it is removed. -/
def execJobClose (h : CmdHdr) (jobId : Nat) (s : State) : Host.Outcome State Fault Refusal :=
  hostCmd h ⟨0x0063, [.own], false, 0⟩ (fun s _ =>
    match findJob s jobId with
    | none => rep s h 0x0063 St.notFound 0 []
    | some j =>
      let s := if j.state = .forming then endJobCmds s j St.wrongState 0x0D06 else jobFailure s jobId (myCoord s) 3
      done (removeJob s jobId) h 0x0063 []) s

end Sys2Proof.Machine
end

