-- ==== Sys2Proof/Machine/Fabric.lean ====
section
/-! DEFINITION. The dataflow fabric: tokens at their ports, matching, firing, emission, credits, landing rings, bank
arbitration, long gutters and the registration guard (R142 to R186, R221, R229, R230). -/

namespace Sys2Proof.Machine

/-! ### Ejection (R145 to R147, R167 to R169) -/

/-- Entry k of a list taken out. -/
def dropAt {α : Type} (l : List α) (k : Nat) : List α := l.take k ++ l.drop (k + 1)

/-- ROUTE of a flight's header (R142). -/
def Flight.route (f : Flight) : Nat := nbits f.header.toNat 29 8

/-- Whether two flights keep their order: tokens of one unit to one port (R168), and tokens of one long gutter to one
port, on their way to it or come over it (R186). -/
def Flight.ordered (g f : Flight) : Bool :=
  g.tile == f.tile && g.port == f.port && g.chase == f.chase && g.isCredit == f.isCredit &&
  (if f.isRemote then g.isRemote && g.route == f.route
   else !g.isRemote && g.fromRemote.map Prod.fst == f.fromRemote.map Prod.fst &&
     (f.fromRemote.isSome || (g.src.1 == f.src.1 && g.src.2.1 == f.src.2.1)))

/-- Whether an earlier flight that keeps its order with this one is still on its way: it arrives first. -/
def behind (net : List Flight) (k : Nat) (f : Flight) : Bool := (net.take k).any fun g => g.ordered f

/-- Whether a port of an active tile pair is bound to an input of a configured unit (R147). -/
def portBound (x : Tile) (p : Nat) : Bool :=
  match x.active with
  | some c => c.units.any fun e => e.2.en && (e.2.ins.take (e.2.nin + 1)).contains p
  | none => false

/-- Whether a port takes tokens: bound to an input, or the sink of an outbound galley (R147, R268). -/
def portTakes (s : State) (c t p : Nat) : Bool :=
  (tile s t).active.isSome &&
  (portBound (tile s t) p || ((formeFor s c t).bind fun i => sinkAt i.body t p).isSome)

/-- Whether a kind code is reserved (R143). -/
def kindReserved (k : Nat) : Bool := k == 5 || decide (7 ≤ k)

/-- Whether a flight's handle lands in a ring: its data comes from another tile pair or device (R145, R169). -/
def Flight.lands (f : Flight) (k : Token) : Bool :=
  (k.kind == 2 || k.kind == 3) && f.galley.isNone && (f.src.1 != f.tile || f.fromRemote.isSome)

/-- Put a token that has passed its checks into the queue; a handle from elsewhere takes the next landing slot, where
its granules follow (R169). -/
def enqueue (s : State) (f : Flight) (k : Token) (depth : Nat) : State :=
  let lands := f.lands k
  let q := portQ (tile s f.tile) f.port
  let slot := q.nextLand % depth
  let tok : QTok :=
    { tok := { k with remote := false, route := 0 }
      landing := if lands then some slot else none
      landed := !lands || f.granules.isEmpty
      galley := f.galley.map Prod.fst
      gslot := (f.galley.map Prod.snd).getD 0
      remote := f.fromRemote }
  let q := { q with
    toks := q.toks ++ [tok]
    nextLand := if lands then (slot + 1) % depth else q.nextLand
    landBusy := if lands then q.landBusy ++ [slot] else q.landBusy }
  let s := modTile s f.tile fun x => setPortQ x f.port q
  if lands && !f.granules.isEmpty then { s with landings := s.landings ++ [⟨f.tile, f.port, slot, f.granules⟩] } else s

/-- TOKEN_EJECT (R146, R147, R167 to R169): the k-th token on its way reaches its port, with the bits `flip` of its
header inverted on the way. The checks run in this order: header CRC, kind and handle, port, landing slot, queue. A
CREDIT token enters no queue (R185, CREDIT_TOKEN). -/
def execTokenEject (k flip : Nat) (s : State) : Host.Outcome State Fault Refusal :=
  .next (match s.net[k]? with
    | none => s
    | some f =>
      let c := f.chase
      if (chase s c).fenced || f.isRemote || (f.isCredit && flip == 0) || behind s.net k f then s
      else
        let header := f.header ^^^ BitVec.ofNat 64 flip
        let tok := tokenOf header f.payload
        let s := { s with net := dropAt s.net k }
        let t := f.tile
        if !headerOk header then fabricFault s c 0x0102 t
        else if tok.kind = 6 then s
        else if kindReserved tok.kind || !handleOk tok.kind f.payload then fabricFault s c 0x0103 t
        else if !portTakes s c t f.port then fabricFault s c 0x0104 t
        else
          match queueAt s t f.port with
          | none => fabricFault s c 0x0104 t
          | some q =>
            if f.lands tok && decide (q.slotsz < f.granules.length) then fabricFault s c 0x0108 t
            else if decide (q.depth ≤ (portQ (tile s t) f.port).toks.length) then fabricFault s c 0x0107 t
            else enqueue s f tok q.depth)

/-- GRANULE_LAND (R145, R169): the k-th landing's granules stand in their slot, and the token becomes an MT handle to
it. -/
def execGranuleLand (k : Nat) (s : State) : Host.Outcome State Fault Refusal :=
  .next (match s.landings[k]? with
    | none => s
    | some l =>
      match chaseOfTile s l.tile, queueAt s l.tile l.port with
      | some c, some q =>
        if (chase s c).fenced then s
        else
          let a := q.region + 64 * q.depth + 64 * q.slotsz * l.slot
          let s := { s with landings := dropAt s.landings k }
          modTile s l.tile fun x =>
            let x := mtPutGranules x a l.granules
            let w := portQ x l.port
            let put (e : QTok) : QTok :=
              if e.landing = some l.slot ∧ e.landed = false then
                { e with landed := true, tok := { e.tok with kind := 3, payload := mtHandle a l.granules.length } }
              else e
            setPortQ x l.port { w with toks := w.toks.map put }
      | _, _ => s)

/-- CREDIT_RETURN (R167): one credit of a port has come back over the side-band. -/
def execCreditReturn (tile port : Nat) (s : State) : Host.Outcome State Fault Refusal :=
  .next (
    let q := portQ (Sys2Proof.Machine.tile s tile) port
    if q.returning = 0 then s else modTile s tile fun x => setPortQ x port { q with returning := q.returning - 1 })

/-! ### Matching (R152, R153, R155, R156, R163, R221) -/

/-- Whether the forme of a tile pair runs in ZW-5 mode (R162). -/
def isZw5 (s : State) (c t : Nat) : Bool := ((formeFor s c t).map fun i => i.body.zw5).getD false

/-- The tag that an entry stands for: its key, scaled back under CONTRACT. -/
def entryTag (u : UnitCfg) (key : Nat) : Nat := if u.tagx = 2 then key * 2 ^ u.tagn else key

/-- Circular distance of two tags (R156). -/
def tagDistance (a b : Nat) : Nat := Nat.min ((a + 65536 - b % 65536) % 65536) ((b + 65536 - a % 65536) % 65536)

/-- An empty entry for a key. -/
def MatchEntry.fresh (key : Nat) : MatchEntry := ⟨key, [none, none, none, none], 0, none⟩

/-- Put a token into an entry of a unit's matching store, allocating the entry when it is new; an entry that becomes
ready takes the next number (R154). -/
def joinEntry (f : FuState) (u : UnitCfg) (key input : Nat) (k : QTok) : FuState :=
  let e := (f.store.find? fun e => e.key == key).getD (MatchEntry.fresh key)
  let e := { e with ins := lset e.ins input (some k) }
  let now := e.ready.isNone && e.complete u
  let e := if now then { e with ready := some f.nextReady } else e
  { f with
    nextReady := if now then f.nextReady + 1 else f.nextReady
    store := if f.store.any fun x => x.key == key then f.store.map fun x => if x.key = key then e else x
      else f.store ++ [e] }

/-- What becomes of the token at the head of an input queue. -/
inductive Take where
  | join
  | wait (cause : Nat)
  | drop (code : Nat)
  deriving DecidableEq, Repr

/-- Entries of a matching store (R147); in ZW-5 mode one token per input (R163). -/
def storeSize : Nat := 64

/-- The decision of R152 to R156, R162, R163 and R221 on a token that has reached the head of an input's queue. A tag
outside the window is told before a full store: R156 checks every tag, R153 keeps a token only for want of an entry
(DESIGN CHOICE, log 83). -/
def takeDecision (x : Tile) (f : FuState) (u : UnitCfg) (zw : Bool) (input : Nat) (k : Token) : Take :=
  let key := matchKey u zw k.tag
  let here := f.store.find? fun e => e.key == key
  let held := here.bind fun e => (e.ins[input]?).join
  if f.lockups.contains input then .wait Wait.change
  else if k.imp ≠ x.imp then .drop 0x010A
  else if zw then
    if !k.pred then .drop 0x0103 else if held.isSome then .wait Wait.tag else .join
  else
    match held with
    | some e => if u.tagx = 2 ∧ e.tok.tag ≠ k.tag then .wait Wait.tag else .drop 0x0105
    | none =>
      if f.store.any fun e => decide (16384 ≤ tagDistance k.tag (entryTag u e.key)) then .drop 0x0106
      else if here.isNone && decide (storeSize ≤ f.store.length) then .wait Wait.tag
      else .join

/-- Whether the head token of an input needs a new entry of the matching store (R153). -/
def needsEntry (x : Tile) (f : FuState) (u : UnitCfg) (input : Nat) : Bool :=
  match (portQ x (u.port input)).toks with
  | k :: _ =>
    k.tok.kind != 4 && k.landed && !(f.lockups.contains input) && k.tok.imp == x.imp &&
    !(f.store.any fun e => e.key == matchKey u false k.tok.tag) &&
    !(f.store.any fun e => decide (16384 ≤ tagDistance k.tok.tag (entryTag u e.key)))
  | [] => false

/-- The inputs of a unit that wait for a free entry of its matching store: each has been kept waiting before (R153). -/
def storeWaiters (s : State) (c t fu : Nat) (u : UnitCfg) : List Nat :=
  let x := tile s t
  (List.range (u.nin + 1)).filter fun i =>
    ((chase s c).waiting.any fun w => w.1 == unitKey t fu && w.2.2 == i + 1) && needsEntry x (fuOf x fu) u i

/-- Whether the arbiter of a unit's matching store passes an input over: its token needs a new entry, and another input
that waits for one comes before it after the one granted last, in cyclic order (R181, R182). -/
def passedOver (s : State) (c t fu : Nat) (u : UnitCfg) (input : Nat) : Bool :=
  let x := tile s t
  let f := fuOf x fu
  let turn (i : Nat) : Nat := (i + 4 - (f.storePtr + 1) % 4) % 4
  needsEntry x f u input && (storeWaiters s c t fu u).any fun i => decide (turn i < turn input)

/-- TOKEN_TAKE (R153, R167, R182, R272): the head token of an input's queue goes into the matching store. Its credit
returns, or stays with its landing slot; a galley slot that its handle names becomes TAKEN. -/
def execTokenTake (tile fu input : Nat) (s : State) : Host.Outcome State Fault Refusal :=
  .next (
    let x := Sys2Proof.Machine.tile s tile
    match liveTile s tile, unitCfg x fu with
    | some c, some u =>
      let p := u.port input
      match (portQ x p).toks with
      | [] => s
      | k :: r =>
        if u.nin < input || k.tok.kind == 4 || !k.landed then s
        else
          let f := fuOf x fu
          match takeDecision x f u (isZw5 s c tile) input k.tok with
          | .wait cause => stallOn s c (unitKey tile fu) (input + 1) cause
          | .drop code =>
            let s := unstallOn s c (unitKey tile fu) (input + 1)
            fabricFault (modTile s tile fun x => setPortQ x p { portQ x p with toks := r }) c code tile
          | .join =>
            if !isZw5 s c tile && passedOver s c tile fu u input then
              stallOn s c (unitKey tile fu) (input + 1) Wait.tag
            else
            let new := !isZw5 s c tile && needsEntry x f u input
            let f := if new then { f with storePtr := input } else f
            let s := modTile s tile fun x =>
              setFu (setPortQ x p { portQ x p with toks := r }) fu
                (joinEntry f u (matchKey u (isZw5 s c tile) k.tok.tag) input k)
            let s := if k.landing.isNone then giveCredit s c tile p k else s
            let s := match k.galley with
              | some tid => modGalley s tile tid fun g => { g with slots := lset g.slots k.gslot .taken }
              | none => s
            unstallOn s c (unitKey tile fu) (input + 1)
    | _, _ => s)

/-! ### Emission (R155, R157 to R160, R164) -/

/-- A token before a unit gives it its own fields. -/
def protoToken (e : EmitCfg) (imp tag : Nat) : Token where
  kind := 0
  tag := tag
  imp := imp
  pred := true
  spoil := false
  remote := e.dremote
  route := if e.dremote then e.droute else 0
  tile := e.dtile
  port := e.dport
  fmt := 0
  payload := 0

/-- The tag of copy i of an emission (R155). -/
def emitTag (u : UnitCfg) (tag i : Nat) : Nat :=
  match u.tagx with
  | 1 => (tag * 2 ^ u.tagn + i) % 65536
  | 2 => tag / 2 ^ u.tagn
  | _ => tag

/-- The token of an input of a firing. -/
def Firing.tokOf (f : Firing) (i : Nat) : Token := ((f.ins.getD i none).map QTok.tok).getD default

/-- The token that a unit passes on from an input (R157): its KIND, FMT and payload word; a handle carries no SPOIL. -/
def passOn (b k : Token) : Token :=
  { b with kind := k.kind, fmt := k.fmt, payload := k.payload, spoil := k.spoil && k.kind != 2 && k.kind != 3 }

/-- What an OPS unit emits on an entry (R150, R157, R159). In ZW-5 mode too a masked EXTR's result goes out with PRED 0,
as R150 says, though R162 says that every token carries PRED 1 (DESIGN CHOICE, log 83). FMT of a CASE or MT handle is
put by `withFormat`. -/
def opsEmission (b : Token) (f : Firing) (e : EmitCfg) : Token :=
  let t : Token :=
    if e.src < 8 then
      match f.scalars[e.src]? with
      | some v => if v.live then { b with kind := 1, fmt := v.fmt, payload := v.payload, spoil := v.spoil }
          else { b with kind := 1, fmt := v.fmt, pred := false }
      | none => { b with kind := 1, pred := false }
    else if e.src < 12 then passOn b (f.tokOf (e.src - 8))
    else if e.src = 12 then { b with kind := 2, payload := BitVec.ofNat 64 e.srcarg }
    else if e.src = 13 then { b with kind := 3, payload := BitVec.ofNat 64 e.srcarg }
    else b
  if f.live then t else { t with pred := false, payload := 0, spoil := false }

/-- Whether the bounds of a generator meet the extent of an MT handle. -/
def genMeets (g : GenCfg) (p : DWord) : Bool :=
  decide (g.limitLo < mtAddr p + 64 * mtGran p) && decide (mtAddr p < g.limitHi)

/-- The format in which a slot produces the data of a CASE or MT handle, none when it produces none of it: it writes a
register of the group, or stores through a generator that meets the buffer (R142, R157). -/
def producedFmt (gens : KMap GenCfg) (e : EmitCfg) (w : Nat) : Option Nat :=
  let p := BitVec.ofNat 64 e.srcarg
  let isPmac := slotOpc w == 0x40
  let fmt := if isPmac then (PSlot.ofWord w).ofmt
    else if slotOpc w = 0x48 ∨ slotOpc w = 0x49 ∨ slotOpc w = 0x4A then (VSlot.ofWord w).fmt2 else (VSlot.ofWord w).fmt
  let stores : List Nat := if isPmac then (if (PSlot.ofWord w).wo && (PSlot.ofWord w).odst then [(PSlot.ofWord w).dst % 8] else [])
    else if slotOpc w = 0x03 then slotGens w else []
  let hit := if e.src = 12 then
      let (n, b) := caseGroup p
      (slotUse gens w).writes.any fun r => decide (b ≤ r ∧ r < b + n)
    else stores.any fun i => ((kget gens i).map fun g => genMeets g p).getD false
  if hit then some fmt else none

/-- FMT of a handle that an entry builds: the format of the last operation of the chain that produced its data (R142,
R157); where no operation of the chain did, a free value (log 83). -/
def handleFmt (cfg : TileCfg) (u : UnitCfg) (e : EmitCfg) : Nat :=
  (((chainOf cfg u).filterMap (producedFmt cfg.gens e)).getLast?).getD (Config.handleFmt e.srcarg % 16)

/-- A token with FMT put for a handle built from SRCARG. -/
def withFormat (x : Tile) (u : UnitCfg) (e : EmitCfg) (k : Token) : Token :=
  match x.active with
  | some cfg => if u.func = 0 ∧ (e.src = 12 ∨ e.src = 13) then { k with fmt := handleFmt cfg u e } else k
  | none => k

/-- Emission i of a firing on an entry: the token, or none where the unit's function emits nothing on that entry.
For LOOP, i counts its tokens. -/
def emission (u : UnitCfg) (imp : Nat) (f : Firing) (e : EmitCfg) (i : Nat) : Option Token :=
  let b := protoToken e imp (emitTag u f.tag i)
  let a := f.tokOf 0
  match u.func with
  | 1 =>
    let yes := a.payload != 0
    some { passOn b a with
      spoil := a.spoil
      pred := a.pred && (if e.arm = 1 then yes else if e.arm = 2 then !yes else true) }
  | 2 =>
    let cond := f.tokOf 2
    let k := if cond.payload = 0 then f.tokOf 1 else a
    some { passOn b k with pred := k.pred && cond.pred, spoil := k.spoil || cond.spoil }
  | 3 =>
    let yes := (f.tokOf 1).payload != 0
    if e.arm = 0 ∨ (e.arm = 1 ∧ yes) ∨ (e.arm = 2 ∧ !yes) then some (passOn b a) else none
  | 4 => some (passOn b (if (f.ins.getD 0 none).isSome then a else f.tokOf 1))
  | 5 => some { b with kind := 1, tag := i, fmt := F.int32, payload := BitVec.ofNat 64 i, spoil := a.spoil }
  | _ => some (opsEmission b f e)

/-- Copies of each entry that a firing emits: 2^n under EXPAND, LOOP's count for LOOP (R155, R164). -/
def copiesOf (u : UnitCfg) (f : Firing) : Nat :=
  if u.func = 5 then f.loopN else if u.tagx = 1 then 2 ^ u.tagn else 1

/-- Entry and copy of the j-th emission of a firing: the copies of one entry follow each other; LOOP emits a token on
every entry before its next token. -/
def emissionAt (u : UnitCfg) (f : Firing) (entries : List EmitCfg) (j : Nat) : Option (EmitCfg × Nat) :=
  if u.func = 5 then (entries[j % entries.length]?).map fun e => (e, j / entries.length)
  else let n := copiesOf u f
    (entries[j / n]?).map fun e => (e, j % n)

/-- The granules that go with a token to another tile pair (R145); a void token's handle carries none (R159). -/
def granulesFor (x : Tile) (t : Nat) (k : Token) : List Granule :=
  if k.pred && (k.remote || k.tile != t) then handleGranules x k.kind k.payload else []

/-- Whether the sender finds a credit for an entry, and the stall cause when it does not (R167, R185). -/
def entryCredit (s : State) (t fu : Nat) (e : EmitCfg) : Option Nat :=
  if e.dremote then if remoteFree s t fu e.droute e.dtile e.dport then none else some Wait.link
  else if creditFree s e.dtile e.dport then none else some Wait.credit

/-- Change the firing in progress of a unit. -/
def modFiring (s : State) (t u : Nat) (f : Firing → Firing) : State :=
  modTile s t fun x => setFu x u { fuOf x u with firing := (fuOf x u).firing.map f }

/-- Whether entry e sends the handle of input i to another tile pair, which reads it in place as it leaves (R145). -/
def EmitCfg.sends (e : EmitCfg) (t i : Nat) : Bool := e.src == 8 + i && (e.dremote || e.dtile != t)

/-- Whether an OPS firing has completed its last read of what input i's handle names: no slot still to run uses the
generator that it relocates, and no emission still to leave reads it (R145, R151, R169). -/
def readDone (cfg : TileCfg) (u : UnitCfg) (f : Firing) (t i : Nat) : Bool :=
  let es := emitsOf cfg u
  let left := if f.emits then (List.range (copiesOf u f * es.length)).drop f.emitted else []
  !(((chainOf cfg u).drop f.pc).any fun w => u.hen && u.hin == i && (slotGens w).contains u.hgen) &&
  !(left.any fun j => match emissionAt u f es j with | some (e, _) => e.sends t i | none => false)

/-- Release the landing slots that the firing in progress has read for the last time, with their credits (R169). -/
def releaseRead (s : State) (c t fu : Nat) (u : UnitCfg) : State :=
  match (tile s t).active, (fuOf (tile s t) fu).firing with
  | some cfg, some f =>
    f.ins.zipIdx.foldl (fun s e => match e.1 with
      | some k =>
        if k.landing.isSome && readDone cfg u f t e.2 then
          modFiring (releaseLanding s c t (u.port e.2) k) t fu fun f =>
            { f with ins := lset f.ins e.2 (some { k with landing := none }) }
        else s
      | none => s) s
  | _, _ => s

/-- Send emissions of the firing in progress from the next one up to number `stop`, while credits last; a missing
credit stalls the unit. Fuel bounds the number of emissions. -/
def sendUpTo : Nat → State → Nat → Nat → Nat → UnitCfg → List EmitCfg → Nat → State
  | 0, s, _, _, _, _, _, _ => s
  | fuel + 1, s, c, t, fu, u, es, stop =>
    match (fuOf (tile s t) fu).firing with
    | none => s
    | some f =>
      if stop ≤ f.emitted then s
      else
        match emissionAt u f es f.emitted with
        | none => s
        | some (e, i) =>
          match emission u (tile s t).imp f e i with
          | none => sendUpTo fuel (modFiring s t fu fun f => { f with emitted := f.emitted + 1 }) c t fu u es stop
          | some k =>
            match entryCredit s t fu e with
            | some cause => stall s c (unitKey t fu) cause
            | none =>
              let k := withFormat (tile s t) u e k
              let gs := granulesFor (tile s t) t k
              let s := if e.dremote then takeRemote s t fu e.droute e.dtile e.dport else s
              let s := pushFlight s c (t, fu, f.emitted) k gs none
              sendUpTo fuel (modFiring s t fu fun f => { f with emitted := f.emitted + 1 }) c t fu u es stop

/-- A firing ends: the landing slots it still holds are released with their credits, and the unit may fire again (R154,
R169). -/
def endFiring (s : State) (c t fu : Nat) (u : UnitCfg) (f : Firing) : State :=
  let s := modTile s t fun x => setFu x fu { fuOf x fu with firing := none }
  let s := f.ins.zipIdx.foldl (fun s e => match e.1 with
    | some k => releaseLanding s c t (u.port e.2) k
    | none => s) s
  unstall s c (unitKey t fu)

/-- Emissions of a firing in all. -/
def emissionCount (u : UnitCfg) (f : Firing) (es : List EmitCfg) : Nat := if f.emits then copiesOf u f * es.length else 0

/-- Emit what the firing in progress may emit now, up to number `stop`, and end the firing when all has left. -/
def emitSome (s : State) (c t fu : Nat) (u : UnitCfg) (stop : Nat) : State :=
  let x := tile s t
  match x.active, (fuOf x fu).firing with
  | some cfg, some f =>
    let es := emitsOf cfg u
    let all := emissionCount u f es
    let s := sendUpTo (Nat.min stop all + 1) (unstall s c (unitKey t fu)) c t fu u es (Nat.min stop all)
    let s := if u.func = 0 then releaseRead s c t fu u else s
    match (fuOf (tile s t) fu).firing with
    | some f => if all ≤ f.emitted then endFiring s c t fu u f else s
    | none => s
  | _, _ => s

/-- EMIT (R154, R157): the entries in table order, once the chain's last slot has completed; for a function without a
chain, what its firing could not send. -/
def execEmit (tile fu : Nat) (s : State) : Host.Outcome State Fault Refusal :=
  .next (
    let x := Sys2Proof.Machine.tile s tile
    match liveTile s tile, unitCfg x fu, (fuOf x fu).firing with
    | some c, some u, some f =>
      if u.func = 5 ∨ (u.func = 0 ∧ f.pc < u.slotCount) then s
      else emitSome s c tile fu u (copiesOf u f * 8)
    | _, _, _ => s)

/-! ### Firing (R151, R154, R155, R158 to R160, R163, R164) -/

/-- The oldest ready entry of a unit (R154). -/
def oldestReady (f : FuState) : Option MatchEntry :=
  (f.store.filter fun e => e.ready.isSome).foldl (fun (b : Option MatchEntry) e =>
    match b with
    | none => some e
    | some d => if e.ready.getD 0 < d.ready.getD 0 then some e else b) none

/-- The store once an entry has fired: the entry is freed, or under CONTRACT counts the firing (R155). -/
def storeAfter (f : FuState) (u : UnitCfg) (e : MatchEntry) : List MatchEntry :=
  if u.tagx = 2 ∧ e.count + 1 < 2 ^ u.tagn then
    f.store.map fun x => if x.key = e.key then { x with ins := [none, none, none, none], count := x.count + 1, ready := none } else x
  else f.store.filter fun x => x.key != e.key

/-- The firing of an entry. -/
def firingOf (s : State) (u : UnitCfg) (e : MatchEntry) : Firing where
  live := e.ins.all fun k => match k with | some k => k.tok.pred | none => true
  ins := e.ins
  tag := ((e.ins.getD 0 none).map fun k => k.tok.tag).getD 0
  pc := 0
  scalars := []
  emitted := 0
  emits := u.tagx != 2 || decide (2 ^ u.tagn ≤ e.count + 1)
  beganNs := s.now
  held := none
  loopN := (match e.ins.getD 0 none with | some k => k.tok.payload.toNat % 65536 | none => 0)

/-- The unit and its oldest ready entry, when the unit has the function `func` and nothing in progress. -/
def mayFire (s : State) (t fu func : Nat) : Option (Nat × UnitCfg × FuState × MatchEntry) :=
  let x := tile s t
  match liveTile s t, unitCfg x fu, oldestReady (fuOf x fu) with
  | some c, some u, some e =>
    if u.func = func ∧ (fuOf x fu).firing.isNone then some (c, u, fuOf x fu, e) else none
  | _, _, _ => none

/-- Begin the firing of an entry. -/
def beginFiring (s : State) (t fu : Nat) (u : UnitCfg) (f : FuState) (e : MatchEntry) : State :=
  modTile s t fun x => setFu x fu { f with store := storeAfter f u e, firing := some (firingOf s u e) }

/-! ### The register interlock (R104, R105, R114) -/

/-- The slot word that a firing in progress of a unit runs next, none when its chain is done. -/
def nextSlot (x : Tile) (fu : Nat) : Option Nat :=
  match x.active, unitCfg x fu, (fuOf x fu).firing with
  | some cfg, some u, some f =>
    if u.func = 0 ∧ f.pc < u.slotCount then some (kgetD cfg.slots (u.slotFirst + f.pc) 0).toNat else none
  | _, _, _ => none

/-- What a unit's slot needs, or holds. -/
def unitUse (x : Tile) (fu : Nat) : RegUse :=
  match x.active, nextSlot x fu with
  | some cfg, some w => slotUse cfg.gens w
  | _, _ => ⟨[], []⟩

/-- Whether a unit holds the registers of its slot. -/
def holdsRegs (x : Tile) (fu : Nat) : Bool := ((fuOf x fu).firing.bind Firing.held).isSome

/-- Whether every register that a unit's slot needs is free (R104). -/
def regsFree (x : Tile) (fu : Nat) : Bool :=
  !((List.range 32).any fun o => o != fu && holdsRegs x o && (unitUse x fu).clash (unitUse x o))

/-- One turn of the register arbiter for a unit: a slot that waits acquires all its registers in one step, or nothing,
and then it waits on WAIT_ARB (R104, R105). -/
def issueOne (s : State) (c t fu : Nat) : State :=
  let x := tile s t
  if (nextSlot x fu).isNone || holdsRegs x fu then s
  else if regsFree x fu then
    unstall (modTile s t fun x =>
      { setFu x fu { fuOf x fu with firing := (fuOf x fu).firing.map fun f => { f with held := some x.issued } } with
        regPtr := fu, issued := x.issued + 1 }) c (unitKey t fu)
  else stall s c (unitKey t fu) Wait.arb

/-- The register arbiter of a tile pair: every slot that waits, from the unit after the one granted last on (R105,
R182). -/
def issueRegs (s : State) (c t : Nat) : State :=
  ((List.range 32).map fun i => ((tile s t).regPtr + 1 + i) % 32).foldl (fun s fu => issueOne s c t fu) s

/-! ### Errors of registers and accumulators (R106, R117, R140) -/

/-- An error beyond correction that a live firing meets: a case register row is spoiled and holds what was read, an
accumulator set is spoiled in every element, a gather accumulator is spoiled. No fault and no flag (R106, R117, R140). -/
def regError (x : Tile) (e : RegError) : Tile :=
  match e with
  | .caseRow r row b =>
    let old := caseReg x (r % 32)
    let n := row % 16
    { setCase x (r % 32) (old.take (64 * n) ++ padTo 64 b ++ old.drop (64 * n + 64)) with
      caseSpoil := nset x.caseSpoil (16 * (r % 32) + n) }
  | .accSet a => { x with accs := kset x.accs (a % 2) ((accSet x (a % 2)).map fun k => { k with spoil := true }) }
  | .gatherAcc i => setGacc x (i % 32) { gacc x (i % 32) with spoil := true }

/-- FIRE (R104 to R106, R151, R154, R159): an OPS unit fires its oldest ready entry, and its first slot asks for its
registers. A live firing whose HIN token is no MT handle ends the step with a forme fault. `errs` are the errors beyond
correction that the chain's operands turn out to have. -/
def execFire (tile fu : Nat) (errs : List RegError) (s : State) : Host.Outcome State Fault Refusal :=
  .next (match mayFire s tile fu 0 with
    | none => s
    | some (c, u, f, e) =>
      let k := firingOf s u e
      let s := beginFiring s tile fu u f e
      let s := if k.live then
          errs.foldl (fun s _ => tileEvent s (physOf s tile) 1) (modTile s tile fun x => errs.foldl regError x)
        else s
      let s := releaseRead (issueRegs s c tile) c tile fu u
      if u.hen && k.live && (k.tokOf u.hin).kind != 3 then fabricFault s c 0x0103 tile else s)

/-- A function without a chain fires and emits in the same firing (R154). -/
def fireNow (s : State) (t fu func : Nat) : State :=
  match mayFire s t fu func with
  | none => s
  | some (c, u, f, e) => emitSome (beginFiring s t fu u f e) c t fu u 512

/-- BRANCH_FIRE (R158). -/
def execBranchFire (tile fu : Nat) (s : State) : Host.Outcome State Fault Refusal := .next (fireNow s tile fu 1)

/-- SELECT_FIRE (R160). -/
def execSelectFire (tile fu : Nat) (s : State) : Host.Outcome State Fault Refusal := .next (fireNow s tile fu 2)

/-- STEER_FIRE (R164). -/
def execSteerFire (tile fu : Nat) (s : State) : Host.Outcome State Fault Refusal := .next (fireNow s tile fu 3)

/-- MERGE_FIRE (R164, R182): one of the inputs that hold a token is picked, the next one after the last pick; the
other stays. -/
def execMergeFire (tile fu : Nat) (s : State) : Host.Outcome State Fault Refusal :=
  .next (match mayFire s tile fu 4 with
    | none => s
    | some (c, u, f, e) =>
      let has (i : Nat) : Bool := ((e.ins[i]?).join).isSome
      let i := if has ((f.mergePtr + 1) % 2) then (f.mergePtr + 1) % 2 else f.mergePtr % 2
      let one : MatchEntry := { e with ins := lset [none, none, none, none] i ((e.ins[i]?).join) }
      let rest := lset e.ins i none
      let store := if rest.any Option.isSome then
          f.store.map fun x => if x.key = e.key then { e with ins := rest, ready := some f.nextReady } else x
        else f.store.filter fun x => x.key != e.key
      let k := { firingOf s u one with tag := (((e.ins[i]?).join).map fun k => k.tok.tag).getD 0 }
      let s := modTile s tile fun x =>
        setFu x fu { f with store := store, nextReady := f.nextReady + 1, mergePtr := i, firing := some k }
      emitSome s c tile fu u 8)

/-- LOOP_FIRE (R154, R164): the count token is taken, and the first token emitted. -/
def execLoopFire (tile fu : Nat) (s : State) : Host.Outcome State Fault Refusal :=
  .next (match mayFire s tile fu 5 with
    | none => s
    | some (c, u, f, e) => emitSome (beginFiring s tile fu u f e) c tile fu u u.nemit)

/-- LOOP_EMIT (R154, R164): the next token, once the one before it has left. -/
def execLoopEmit (tile fu : Nat) (s : State) : Host.Outcome State Fault Refusal :=
  .next (
    let x := Sys2Proof.Machine.tile s tile
    match liveTile s tile, unitCfg x fu, (fuOf x fu).firing with
    | some c, some u, some f =>
      if u.func ≠ 5 then s else emitSome s c tile fu u (u.nemit * (f.emitted / Nat.max 1 u.nemit + 1))
    | _, _, _ => s)

/-! ### MT banks (R134, R229, R230) -/

/-- Whether a bank may grant a request: under a fence the configuration port's alone; otherwise every other, and the
configuration port's while it writes the preload of a switch (R134). -/
def BankReq.open (fenced switching : Bool) (r : BankReq) : Bool :=
  if r.user = .config then fenced || switching else !fenced

/-- The request that a bank grants next: the waiting requester that follows the one granted last, in cyclic order
(R134, R182). -/
def nextReq (ptr : Nat) (fenced switching : Bool) (reqs : List BankReq) : Option BankReq :=
  let rs := reqs.filter (BankReq.open fenced switching)
  let least (l : List BankReq) : Option BankReq := l.foldl (fun (b : Option BankReq) r =>
    match b with
    | none => some r
    | some d => if r.requester < d.requester then some r else b) none
  match least (rs.filter fun r => ptr < r.requester) with
  | some r => some r
  | none => least rs

/-- A correction of an MT word: the MT's own CE_S and the device's (R229, R252). -/
def countCeS (s : State) (t : Nat) : State :=
  modSpare (countErr s 0) (physOf s t) fun p => { p with ceS := p.ceS + 1 }

/-- The events of a bank read (R229, R230, R252, R500): a CE_S for every word with a single-bit error, one UE_S for a
granule until its spoil bit has been cleared. A granule with an uncorrectable error stands as read, and spoiled. -/
def bankReadEvents (s : State) (t a : Nat) (r : BankReq) : State :=
  let bank := a / 64 % 16
  let s := ((List.range 8).filter (nbit r.singleBit)).foldl
    (fun s w => bankEvent (countCeS s t) (physOf s t) bank false (r.row * 8 + w)) s
  if !r.uncorrectable then s
  else
    let was := mtSpoiled (tile s t) a
    let s := modTile s t fun x => { x with mt := memWriteN x.mt a (padTo 64 r.asRead), mtSpoil := nset x.mtSpoil (a / 64) }
    if was then s
    else
      let s := bankEvent (countErr s 3) (physOf s t) bank true (r.row * 8)
      match chaseOfTile s t with | some c => chev s c 14 | none => s

/-- A bank write: the strobed bytes; all 64 bytes of data that is not spoiled clear the spoil bit, spoiled data sets
it (R230). -/
def bankWrite (x : Tile) (a : Nat) (r : BankReq) : Tile :=
  let full := (r.strobe.take 64).length == 64 && (r.strobe.take 64).all id
  let mt := (List.range 64).foldl (fun m i => if r.strobe.getD i false then memWrite m (a + i) (r.data.getD i 0) else m) x.mt
  let spoil := if r.spoil && r.strobe.any id then nset x.mtSpoil (a / 64)
    else if full && !r.spoil then nput x.mtSpoil (a / 64) false else x.mtSpoil
  { x with mt := mt, mtSpoil := spoil }

/-- The stall key of the unit, feeder or drain that a bank request serves. -/
def bankKey (t : Nat) : BankUser → Option Nat
  | .unit fu => some (unitKey t fu)
  | .feeder tid => some (galleyKey t tid)
  | .drain tid => some (galleyKey t tid)
  | _ => none

/-- Requests that have to wait at a bank count WAIT_S_BANK for their units, feeders and drains; the one granted waits no
longer (R134, R287). -/
def bankWaits (s : State) (c t : Nat) (reqs : List BankReq) (r : BankReq) : State :=
  let s := (reqs.filter (· != r)).foldl (fun s q => match bankKey t q.user with
    | some k => stallOn s c k 6 Wait.bank
    | none => s) s
  match bankKey t r.user with | some k => unstallOn s c k 6 | none => s

/-- BANK_GRANT (R132, R134): one 64 B access of an MT bank. -/
def execBankGrant (tile bank : Nat) (reqs : List BankReq) (s : State) : Host.Outcome State Fault Refusal :=
  .next (
    let x := Sys2Proof.Machine.tile s tile
    let fenced := match chaseOfTile s tile with | some c => (chase s c).fenced | none => false
    match nextReq (kgetD x.bankPtr bank 0) fenced x.preloading reqs with
    | none => s
    | some r =>
      let a := (r.row % 512) * 1024 + (bank % 16) * 64
      let s := match chaseOfTile s tile with | some c => bankWaits s c tile reqs r | none => s
      let s := modTile s tile fun x => { x with bankPtr := kset x.bankPtr bank r.requester }
      if r.write then modTile s tile fun x => bankWrite x a r else bankReadEvents s tile a r)

/-! ### Long gutters (R184 to R186) -/

/-- The device that a route word names within a job's block, none when the entry is unused or lies outside the block
(R184, R201). -/
def routeDevice (s : State) (j : Job) (w : Nat) : Option Nat :=
  match s.boot.cfg with
  | none => none
  | some b =>
    let p := b.placement
    let dx := nbits w 25 6
    let dy := nbits w 19 6
    let dz := nbits w 14 5
    if nbit w 31 && decide (dx < j.fields.ex ∧ dy < j.fields.ey ∧ dz < j.fields.ez) then
      some (coordIndex ((j.fields.ox + dx) % p.nx) ((j.fields.oy + dy) % p.ny) ((j.fields.oz + dz) % p.nz))
    else none

/-- The die that a route word names on its device (R201, R467). -/
def routeDie (w : Nat) : Nat := nbits w 12 2

/-- The route word of a token's ROUTE, from a tile pair of a chase (R184). -/
def routeWord (s : State) (c t route : Nat) : Nat := ((formeFor s c t).map fun i => i.body.routes.getD route 0).getD 0

/-- The device that a token's ROUTE leads to, from a tile pair of a chase. -/
def gutterDevice (s : State) (c t route : Nat) : Option (Job × Nat) :=
  match jobOfChase s c with
  | some j => (routeDevice s j (routeWord s c t route)).map fun d => (j, d)
  | none => none

/-- LONG_GUTTER_ROUTE (R184, R185): the hub sends the token towards its device, or drops it as a violation; without a
hop credit or an open port it waits. -/
def execLongGutterRoute (k : Nat) (s : State) : Host.Outcome State Fault Refusal :=
  .next (match s.net[k]? with
    | none => s
    | some f =>
      if !f.isRemote || (chase s f.chase).fenced || behind s.net k f then s
      else
        let gone := { s with net := dropAt s.net k }
        match gutterDevice s f.chase f.src.1 f.route with
        | none => violation gone
        | some (j, d) =>
          let unit := (f.header, f.payload, f.granules)
          if d = myIndex s then deliverUnit gone f.chase (d, f.src.1, f.src.2.1) (routeDie (routeWord s f.chase f.src.1 f.route)) unit
          else
            match sendUnits gone j d (routeDie (routeWord s f.chase f.src.1 f.route)) (f.src.1, f.src.2.1) unit with
            | some s' => s'
            | none => s)

/-- Give credits back to the remote edges of a unit, in the order they were first used (DESIGN CHOICE, log 33). -/
def refundRemote (is : RemoteEdge → Bool) : List RemoteEdge → Nat → List RemoteEdge
  | [], _ => []
  | e :: r, n => if is e then { e with used := e.used - n } :: refundRemote is r (n - e.used) else e :: refundRemote is r n

/-- CREDIT_TOKEN (R185): a CREDIT token that has come over a long gutter restores credits. TILE and
PORT name the emit side of the unit that sent, PORT by its number (DEDUCED, log 33). -/
def execCreditToken (k : Nat) (s : State) : Host.Outcome State Fault Refusal :=
  .next (match s.net[k]? with
    | none => s
    | some f =>
      let tok := tokenOf f.header f.payload
      if f.isRemote || tok.kind != 6 || (chase s f.chase).fenced then s
      else
        let is (e : RemoteEdge) : Bool := e.tile == f.tile && e.fu == f.port && chaseOfTile s e.tile == some f.chase &&
          ((gutterDevice s f.chase e.tile e.route).map Prod.snd) == f.fromRemote.map Prod.fst
        { s with net := dropAt s.net k, remoteUsed := refundRemote is s.remoteUsed (f.payload.toNat % 65536) })

/-- The CREDIT token for credits due (R142, R185). -/
def creditTokenOf (r : RemoteCredit) : Token where
  kind := 6
  tag := 0
  imp := 0
  pred := true
  spoil := false
  remote := true
  route := 0
  tile := r.tile
  port := r.fu
  fmt := 0
  payload := BitVec.ofNat 64 (Nat.min 65535 r.due)

/-- REMOTE_CREDIT_FLUSH (R185): credits go back once 8 are due or 1 µs after the oldest fell due, over the torus, or
through the hub for an edge of this device. -/
def execRemoteCreditFlush (k : Nat) (s : State) : Host.Outcome State Fault Refusal :=
  .next (match s.remoteDue[k]? with
    | none => s
    | some r =>
      if (chase s r.chase).fenced || !(decide (8 ≤ r.due) || decide (r.oldestNs + 1000 ≤ s.now)) then s
      else
        match jobOfChase s r.chase with
        | none => s
        | some j =>
          let tok := creditTokenOf r
          let gone := { s with remoteDue := dropAt s.remoteDue k }
          let unit := (tokenHeader tok, tok.payload, [])
          if r.device = myIndex s then deliverUnit gone r.chase (r.device, 0, 0) (r.tile / 512) unit
          else
            match sendUnits gone j r.device (r.tile / 512) (0, 0) unit with
            | some s' => s'
            | none => s)

/-! ### Registration guard (R178 to R180) -/

/-- Whether an input of a unit has a full queue. -/
def queueFull (s : State) (t p : Nat) : Bool :=
  match queueAt s t p with
  | some q => decide (q.depth ≤ (portQ (tile s t) p).toks.length)
  | none => false

/-- The full and the empty input of a unit, when a join is misregistered (R178). -/
def misregistered (s : State) (t u : Nat) : Option (Nat × Nat) :=
  let x := tile s t
  match unitCfg x u with
  | none => none
  | some cfg =>
    let f := fuOf x u
    let ins := List.range (cfg.nin + 1)
    if decide (1 ≤ cfg.nin) && decide (storeSize ≤ f.store.length) && !(f.store.any fun e => e.ready.isSome) then
      match ins.find? fun i => queueFull s t (cfg.port i), ins.find? fun i => (portQ x (cfg.port i)).toks.isEmpty with
      | some a, some b => some (a, b)
      | _, _ => none
    else none

/-- GUARD_LIMIT of the forme of a tile pair, in paces (R179, R199). -/
def guardLimit (s : State) (c t : Nat) : Nat := ((formeFor s c t).map fun i => i.body.guardLimit).getD 0

/-- MISREG_EVENT (R180): the guard's timer has reached the limit; one event is recorded. -/
def execMisregEvent (tile fu : Nat) (s : State) : Host.Outcome State Fault Refusal :=
  .next (
    let x := Sys2Proof.Machine.tile s tile
    let f := fuOf x fu
    match liveTile s tile, misregistered s tile fu with
    | some c, some (a, b) =>
      if f.recorded || !pacesReach f.guard (guardLimit s c tile) then s
      else
        let low := (f.store.flatMap fun e => (e.ins.filterMap id).map fun k => k.tok.tag).foldl Nat.min 65535
        let s := modTile s tile fun x => setFu x fu { f with recorded := true }
        chev (modChase s c fun ch => { ch with misregs := ch.misregs ++ [⟨s.now, tile, fu, a, b, low⟩] }) c 9
    | _, _ => s)

/-- MISREG (R180): a misregistration that has lasted 16 times the limit ends the step with a forme fault. -/
def execMisreg (tile fu : Nat) (s : State) : Host.Outcome State Fault Refusal :=
  .next (
    match liveTile s tile, misregistered s tile fu with
    | some c, some _ =>
      if !pacesReach (fuOf (Sys2Proof.Machine.tile s tile) fu).guard (16 * guardLimit s c tile) then s
      else formeFault s c 0x010B tile none
    | _, _ => s)

end Sys2Proof.Machine
end

