-- ==== Sys2Proof/Machine/Passes.lean ====
section
/-! DEFINITION. Passes (R299 to R301, R323): what a request runs next, the pass record, the end of a pass's injection
(R271) and of its output (R281, R303, R313, R350). -/

namespace Sys2Proof.Machine

/-! ### What a request runs -/

/-- The serving entry of the forme that main passes run on: the fallback's once the monitor has switched (R332). -/
def Req.mainEntry (r : Req) : ServeFields := match r.fall with | some (_, e) => e | none => r.entry

/-- The forme that main passes run on. -/
def Req.mainForme (r : Req) : Nat := match r.fall with | some (_, e) => e.formeId | none => r.forme

/-- The pass position that main passes hold. -/
def Req.mainPosn (r : Req) : Nat := match r.fall with | some (p, _) => p | none => r.posn

/-- The parameters of a GENERATE. -/
def Req.params (r : Req) : GenParams := r.gen.getD default

/-- Prompt length. -/
def Req.lp (r : Req) : Nat := r.params.lp

/-- Prompt, committed tokens and the draft tokens of the round, in order of position. -/
def Req.sequence (r : Req) : List Nat := r.params.tokens ++ r.tokens.map Prod.fst ++ r.drafts.map Prod.fst

/-- Whether the request drafts (R322, R332). -/
def Req.drafting (r : Req) : Bool := r.draftPosn.isSome && r.fall.isNone

/-- Whether a pass runs on the draft forme. -/
def PassKind.isDraft : PassKind → Bool
  | .draft => true
  | .draftPrefill => true
  | _ => false

/-- PKIND of a pass record (R301). -/
def PassKind.code : PassKind → Nat
  | .prefill => 0
  | .draftPrefill => 0
  | .decode => 1
  | .draft => 2
  | .verify => 3
  | .score => 0

/-- The pass that a request runs next (R300, R323). The draft forme's prefill micro-batches come before the main
forme's (DESIGN CHOICE, log 37). -/
def nextPass (r : Req) : Pass :=
  match r.kind with
  | .generate =>
    let done := r.lp + r.tokens.length
    if r.state ≠ .decoding then
      if r.drafting ∧ r.draftFilled < r.lp then
        ⟨.draftPrefill, r.entry.draftId, 1, Nat.min r.entry.draftTokens (r.lp - r.draftFilled), r.draftFilled, false⟩
      else ⟨.prefill, r.mainForme, 1, Nat.min r.mainEntry.prefillTokens (r.lp - r.filled), r.filled, false⟩
    else if r.drafting ∧ 0 < r.k then
      if r.drafts.length < r.k then
        ⟨.draft, r.entry.draftId, 1, done + r.drafts.length - r.draftFilled, r.draftFilled, false⟩
      else ⟨.verify, r.mainForme, r.k + 1, r.k + 1, done - 1, false⟩
    else ⟨.decode, r.mainForme, 1, 1, done - 1, false⟩
  | _ => ⟨.score, r.mainForme, 0, 0, 0, false⟩

/-- Begin a round: the draft length is limited (R322). -/
def startRound (r : Req) : Req :=
  { r with
    k := if r.drafting then
        Nat.min (Nat.min r.k (r.params.maxTokens - r.tokens.length - 1))
          (r.entry.contextMax - (r.lp + r.tokens.length) - 1)
      else r.k
    drafts := [], accepted := 0, row := 0 }

/-- Make a request's next pass a ready pass (R408). -/
def readyNext (s : State) (n : Nat) : State :=
  modReq s n fun r => { r with pass := some (nextPass r), holds := [], holdsDone := false, readyNs := s.now }

/-- Whether a pass is followed by a micro-batch of the same prefill (R283, R299). -/
def moreBatches (r : Req) (p : Pass) : Bool :=
  (p.kind == .prefill || p.kind == .draftPrefill) && decide (p.pos + p.ntok < r.lp)

/-- The pass record of a GENERATE's pass (R301). SEQ is the request's number (DESIGN CHOICE, log 38). -/
def passRecord (n : Nat) (r : Req) (p : Pass) : Bytes :=
  let nf := ceilDiv (p.pos + p.ntok) 16
  let posn := if p.kind.isDraft then r.draftPosn.getD 0 else r.mainPosn
  let fs := if p.kind.isDraft then r.draftFolios else r.folios.map Prod.fst
  le 1 p.kind.code ++ le 1 p.nrow ++ le 2 p.ntok ++ le 4 p.pos ++ le 4 nf ++ le 4 (17 * posn) ++ le 8 n ++ zeros 8 ++
  ((r.sequence.drop p.pos).take p.ntok).flatMap (le 4) ++ (fs.take nf).flatMap (le 4)

/-- The request-input stream of a pass, as far as it has reached the hub, and its whole length (R269, R301). -/
def passInput (r : Req) (a : ArrayPass) : Bytes × Nat :=
  match r.kind with
  | .generate => (a.record, a.record.length)
  | _ => (inputBytes r, r.total)

/-! ### Bandwidth share (R349) -/

/-- Whether a descriptor reads tier B: its object's home directly, or a window that is smaller than the object or
not completely filled. -/
def readsTierB (s : State) (c : Nat) (d : TensorCfg) : Bool :=
  match findObj s c d.objId with
  | some o => o.tier == 2 && (d.tier == 2 ||
      (d.tier == 1 && (decide (o.window < o.size) ||
        decide ((o.win.filter fun w => w.2.1.isSome).length < ceilDiv o.size blockBytes))))
  | none => false

/-- Dies from whose tier H a descriptor streams. -/
def streamDies (s : State) (c : Nat) (d : TensorCfg) : List Nat :=
  match findObj s c d.objId with
  | some o => if o.tier = 1 then (if o.homeDie = 4 then o.blocks.map fun b => b / 512 / 288 else [o.homeDie])
      else if d.tier = 1 then [o.homeDie] else []
  | none => []

/-- Whether a descriptor is only written: an outbound galley's stream goes to it, and no inbound galley reads it. -/
def onlyWritten (b : FormeBody) (d : TensorCfg) : Bool :=
  (galleysOf b 2).any (fun g => g.gtid == d.tid) && !(galleysOf b 1).any fun g => g.gtid == d.tid

/-- β of a forme in MB/s: the smallest guaranteed share among its sources, the objects that it reads (R349). -/
def betaOf (s : State) (c : Nat) (b : FormeBody) : Nat :=
  let ts := b.tensors.filter fun d => d.tier != 0 && !onlyWritten b d
  let cfg := (chase s c).cfg
  if ts.any (readsTierB s c) then cfg.betaB
  else (((ts.flatMap (streamDies s c)).map fun d => cfg.betaH.getD d 0).min?).getD 0

/-! ### Concordance (R308 to R313) -/

/-- Eligible blocks of a prompt (R309). -/
def eligibleBlocks (lp : Nat) : Nat := (lp - 1) / 16

/-- Tokens of block j. -/
def blockTokens (r : Req) (j : Nat) : List Nat := (r.params.tokens.drop (16 * j)).take 16

/-- Node ids of a run of blocks (R309). -/
def nodeIds (key : Nat × Nat) (kv : Nat) : Nat → List (List Nat) → List Nat
  | _, [] => []
  | parent, b :: r =>
    let h := sipHash key (le 2 kv ++ le 8 parent ++ b.flatMap (le 4))
    let h := if h = 0 then 1 else h
    h :: nodeIds key kv h r

/-- The eligible blocks of a request with node id, parent id and tokens. -/
def promptBlocks (s : State) (r : Req) : List (Nat × Nat × List Nat) :=
  let bs := (List.range (eligibleBlocks r.lp)).map (blockTokens r)
  let ids := nodeIds (concKey (chase s r.chase)) r.entry.kvClass 0 bs
  (ids.zip (0 :: ids)).zip bs |>.map fun e => (e.1.1, e.1.2, e.2)

/-- Whether an entry matches a block of a request (R308, R311). -/
def ConcEntry.isFor (e : ConcEntry) (f : ServeFields) (b : Nat × Nat × List Nat) : Bool :=
  e.obj == f.concObj && e.pool == f.poolObj && e.kvClass == f.kvClass && e.node == b.1 && e.parent == b.2.1 &&
  e.tokens == b.2.2

/-- Whether an entry stands in the bucket of a node, where alone a walk looks for it (R310, R311). -/
def ConcEntry.inBucket (e : ConcEntry) (obj nb node : Nat) : Bool := e.obj == obj && e.bucket == node % nb

/-- Put one block of a request into the concordance, when its bucket has room and no entry matches (R313). -/
def insertBlock (s : State) (n j : Nat) (b : Nat × Nat × List Nat) : State :=
  match req s n with
  | none => s
  | some r =>
    let c := r.chase
    let f := r.entry
    let old := (chase s c).conc
    let nb := bucketsOf s c f.concObj
    let bucket := old.filter fun e => e.inBucket f.concObj nb b.1
    if bucket.any fun e => e.isFor f b then s
    else
      match (List.range 4).find? fun k => !bucket.any fun e => e.place == k with
      | none => chev s c 11
      | some k =>
        let folio := ((r.folios[j]?).map Prod.fst).getD 0
        let kin (x : ConcEntry) : Bool := x.obj == f.concObj && x.pool == f.poolObj && x.kvClass == f.kvClass
        let e : ConcEntry :=
          { obj := f.concObj, node := b.1, parent := b.2.1, folio := folio, refs := 1
            children := old.countP fun x => kin x && x.parent == b.1
            kvClass := f.kvClass, lastUse := s.now, tokens := b.2.2, pool := f.poolObj, bucket := b.1 % nb, place := k }
        let up (x : ConcEntry) : ConcEntry :=
          if kin x && x.node == b.2.1 then { x with children := x.children + 1 } else x
        let s := setConc s c (old.map up ++ [e])
        let s := modChase s c fun ch => { ch with folios := ch.folios.map fun x =>
          if x.1 = f.poolObj ∧ x.2.1 = folio then (x.1, x.2.1, 3) else x }
        modReq s n fun r => { r with folios := lmod r.folios j fun x => (x.1, true) }

/-- Put the blocks whose last position a main prefill pass wrote into the concordance (R313). -/
def insertBlocks (s : State) (n : Nat) (p : Pass) : State :=
  match req s n with
  | none => s
  | some r =>
    if r.entry.concObj = 0 then s
    else ((promptBlocks s r).zipIdx.filter fun e => decide (p.pos ≤ 16 * e.2 + 15 ∧ 16 * e.2 + 15 < p.pos + p.ntok)).foldl
      (fun s e => insertBlock s n e.2 e.1) s

/-! ### The end of a pass -/

/-- The logit tensor that a pass writes and the compositor reads (R302, R306). -/
def logitTensor (s : State) (r : Req) (draft : Bool) : Option TensorCfg :=
  let (f, tid) := if draft then (r.entry.draftId, r.entry.draftLogitTid) else (r.mainForme, r.mainEntry.logitTid)
  (imageOf (chase s r.chase) f).bind fun i => tensorOf i.body tid

/-- The compositor that draws a request's rows: that of the logit object's HOME_DIE (R315). -/
def compositorOf (s : State) (r : Req) (draft : Bool) : Nat :=
  (((logitTensor s r draft).bind fun t => findObj s r.chase t.objId).map Obj.homeDie).getD 0

/-- The key of a compositor among what is stalled. -/
def compKey (die : Nat) : Nat := 50331648 + die

/-- The chases whose rows wait at a compositor that has rows of others wait for it (R354); the others do not. -/
def compWaits (s : State) (die : Nat) : State :=
  let rows := ((s.comps[die]?).map Compositor.rows).getD []
  (s.chases.map Prod.fst).foldl (fun s c =>
    if rows.any (fun x => x.1 == c) && rows.any (fun x => x.1 != c) then stall s c (compKey die) Wait.arb
    else unstall s c (compKey die)) s

/-- The rows of a pass wait at their compositor (R302, R316). -/
def pushRows (s : State) (n : Nat) (r : Req) (p : Pass) : State :=
  let die := compositorOf s r p.kind.isDraft
  compWaits { s with comps := lmod s.comps die fun k =>
    { k with rows := k.rows ++ (List.range p.nrow).map fun i => (r.chase, n, i) } } die

/-- Release what the step of a pass holds and reads (R256, R257, R259). -/
def endStep (s : State) (c : Nat) (a : ArrayPass) : State :=
  let s := endReads s c a.reads (· == a.step)
  a.holds.foldl (fun s id => releaseHold s c a.req id) s

/-- A pass that has taken longer since its admission than (DEPTH + QSLACK) × τ(ADM_BIN), ADM_BIN being that of its
request's admission (R347), is counted (R350). -/
def countOverrun (s : State) (c f : Nat) (a : ArrayPass) : State :=
  match imageOf (chase s c) f with
  | some i =>
    let bin := ((req s a.req).map Req.admBin).getD s.power.admBin
    if (i.body.depth + i.body.qslack) * tauPs s bin < (s.now - a.startNs) * 1000 then chev s c 10 else s
  | none => s

/-- A pass's output is complete (R281): what follows for its request (R300, R303, R313, R333). -/
def completePass (s : State) (c f : Nat) (a : ArrayPass) : State :=
  let s := modChase s c fun ch => { ch with array := kmod ch.array f fun l => l.erase a }
  let s := countOverrun (endStep s c a) c f a
  match req s a.req with
  | none => s
  | some r =>
    if r.state.final then (if inArray s c a.req then s else releaseReq s a.req)
    else
      match a.pass.kind with
      | .score => endReq s a.req .done St.done 0 []
      | .prefill =>
        let s := insertBlocks s a.req a.pass
        if moreBatches r a.pass then s else pushRows s a.req r a.pass
      | .draftPrefill => if moreBatches r a.pass then s else readyNext s a.req
      | _ => pushRows s a.req r a.pass

/-- The outbound galley `tid` of a forme has completed its output for the oldest pass it had not completed (R281). -/
def outputDone (s : State) (c f tid : Nat) : State :=
  match (kgetD (chase s c).array f []).find? fun a => !a.outs.contains tid, imageOf (chase s c) f with
  | some a, some i =>
    let b := { a with outs := nset a.outs tid }
    let s := modChase s c fun ch => { ch with array := kmod ch.array f fun l => l.map fun x => if x = a then b else x }
    if (galleysOf i.body 2).all fun d => b.outs.contains d.tid then completePass s c f b else s
  | _, _ => s

/-! ### The end of a pass's injection (R271, R283) -/

/-- Every inbound galley of a forme has injected its last token of the pass: TB advances by the largest count of
tokens plus one, and a following micro-batch of the request becomes ready. -/
def endInjection (s : State) (c f : Nat) : State :=
  match imageOf (chase s c) f, kget (chase s c).injecting f with
  | some i, some n =>
    let ds := galleysOf i.body 1
    let gs := ds.filterMap fun d => galley (tile s d.stile) d.tid
    if gs.any fun g => !g.passDone then s
    else
      let k := (gs.map Galley.injected).foldl Nat.max 0
      let s := ds.foldl (fun s d => modGalley s d.stile d.tid fun g => { g with pass := none, passDone := false }) s
      let s := modChase s c fun ch =>
        { ch with injecting := kdel ch.injecting f, tb := kset ch.tb f ((kgetD ch.tb f 0 + k + 1) % 65536) }
      match req s n with
      | some r =>
        match r.pass with
        | some p => if p.begun && moreBatches r p && !r.state.final then readyNext s n else s
        | none => s
      | none => s
  | _, _ => s

end Sys2Proof.Machine
end

