-- ==== Sys2Proof/Machine/Shares.lean ====
section
/-! DEFINITION. What a chase may be granted: bandwidth and slot wheels (R238, R400, R401), routes (R395), compositors
(R404), granules (R396) and the ranges and totals of R394. -/

namespace Sys2Proof.Machine

/-- Assignable bandwidth of a die's tier H in MB/s (R238): 1,152,000 for each stack, 921,600 for one at 8.0 Gb/s. -/
def rateH (s : State) (d : Nat) : Nat :=
  ((List.range 4).map fun k => if nbit s.health.rate8 (4 * d + k) then 921600 else 1152000).foldl (· + ·) 0

/-- Assignable bandwidth of tier B in MB/s (R238). -/
def rateB (s : State) : Nat :=
  match s.health.ddrRate with | 2 => 655360 | 1 => 573440 | _ => 491520

/-- Slots of a share on a memory wheel (R400). -/
def wheelSlots (beta a : Nat) : Nat := if a = 0 then 0 else ceilDiv (4096 * beta) a

/-- Granules that tier B holds (R237). -/
def bCount (s : State) : Nat := if s.health.bInService then 4 * s.health.modGib else 0

/-- Whether the fields of CHASE_CREATE and CHASE_CHANGE lie in their ranges (R394). -/
def fieldsOk (s : State) (f : ChaseFields) : Bool :=
  decide (f.chase ≤ 31) && decide (f.bwMode ≤ 1) && decide (f.prioMax ≤ 7) && decide (f.compMap < 16) &&
  f.pageMap != 0 && decide (f.pageMap < 2 ^ 32) && f.hGran.all (fun n => decide (n ≤ 288)) && decide (f.bGran ≤ bCount s) &&
  (List.range 4).all (fun d => f.hGran.getD d 0 != 0 || f.betaH.getD d 0 == 0) && (f.bGran != 0 || f.betaB == 0) &&
  f.store.all (fun n => n % 64 == 0) && decide (1 ≤ f.reqLimit) && decide (f.reqLimit ≤ 65535)

/-- The layouts that a chase holds, or will hold at its fence (R398). -/
def layouts (ch : Chase) : List ChaseFields := ch.cfg :: (ch.newCfg.map Prod.fst).toList

/-- The layouts of every other chase, one list for each. -/
def otherLayouts (s : State) (c : Nat) : List (List ChaseFields) :=
  (s.chases.filter fun e => e.1 != c && e.2.held).map fun e => layouts e.2

/-- A total over the other chases, each at the greater of its layouts. -/
def othersTotal (s : State) (c : Nat) (v : ChaseFields → Nat) : Nat :=
  ((otherLayouts s c).map fun l => (l.map v).foldl Nat.max 0).foldl (· + ·) 0

/-- Pages that the other chases hold. -/
def othersPages (s : State) (c : Nat) : Nat :=
  ((otherLayouts s c).flatMap fun l => l.map ChaseFields.pageMap).foldl (· ||| ·) 0

/-- Whether every device total of R394 and R401 is met with a layout for chase c. -/
def totalsOk (s : State) (c : Nat) (f : ChaseFields) : Bool :=
  (f.pageMap &&& othersPages s c) == 0 &&
  (List.range 4).all (fun d =>
    decide (othersTotal s c (fun g => g.hGran.getD d 0) + f.hGran.getD d 0 ≤ 288) &&
    decide (othersTotal s c (fun g => wheelSlots (g.betaH.getD d 0) (rateH s d)) +
      wheelSlots (f.betaH.getD d 0) (rateH s d) ≤ 4096) &&
    decide (othersTotal s c (fun g => g.store.getD d 0) + f.store.getD d 0 ≤ 98304)) &&
  decide (othersTotal s c ChaseFields.bGran + f.bGran ≤ bCount s) &&
  decide (othersTotal s c (fun g => wheelSlots g.betaB (rateB s)) + wheelSlots f.betaB (rateB s) ≤ 4096) &&
  decide (othersTotal s c ChaseFields.reqLimit + f.reqLimit ≤ 65536)

/-- Whether compositors are shared only among GUARANTEED chases (R404). -/
def compsOk (s : State) (c : Nat) (f : ChaseFields) : Bool :=
  (otherLayouts s c).all fun l => l.all fun g => (f.compMap &&& g.compMap) == 0 || (f.bwMode == 1 && g.bwMode == 1)

/-! ### Routes (R395), page by page: a page of a die has column p mod 4 and row p ÷ 4 (R170) -/

/-- The numbers from a to b, in either order. -/
def between (a b : Nat) : List Nat := (List.range 8).filter fun k => (decide (a ≤ k) && decide (k ≤ b)) || (decide (b ≤ k) && decide (k ≤ a))

/-- Pages of a die that routes between its given pages, and from them to the die's gateways, pass through. -/
def crossedOnDie (d : Nat) (ps : List Nat) : List Nat :=
  let edgeCol := if d % 2 = 0 then 3 else 0
  let edgeRow := if d / 2 = 0 then 1 else 0
  ps.flatMap fun a =>
    let ca := a % 4
    let ra := a / 4
    (ps.flatMap fun b =>
      (between ca (b % 4)).map (fun k => ra * 4 + k) ++ (between ra (b / 4)).map fun r => r * 4 + b % 4) ++
    (between ca edgeCol).map (fun k => ra * 4 + k) ++ (between ra edgeRow).map fun r => r * 4 + ca

/-- The page map of all pages that routes of a chase with a page map pass through. -/
def crossedMap (m : Nat) : Nat :=
  ((List.range 4).flatMap fun d =>
    (crossedOnDie d ((pagesOf m).filterMap fun p => if p / 8 = d then some (p % 8) else none)).map fun p => 8 * d + p).foldl
    (fun a p => a ||| 2 ^ p) 0

/-- Whether no route of a chase passes through a page of another, with a new page map for chase c (R395). -/
def routesOk (s : State) (c m : Nat) : Bool :=
  let others := otherLayouts s c
  let held := othersPages s c
  (crossedMap m &&& held) == 0 &&
  others.all fun l => l.all fun g => (crossedMap g.pageMap &&& m) == 0

/-! ### Granules (R396) -/

/-- Granules of a tier that a chase holds, is given or gives back. -/
def granUsed (s : State) (isH : Bool) : List Nat :=
  let t := if isH then 1 else 2
  s.chases.flatMap fun e =>
    (if isH then e.2.granH else e.2.granB) ++
    ((e.2.creating ++ e.2.leaving ++ e.2.joining.map fun x => (x.1, x.2.1)).filter fun x => x.1 == t).map Prod.snd

/-- Free granules of tier H on a die, lowest first; none where the die's tier H is out of service (R504). -/
def freeGranH (s : State) (d : Nat) : List Nat :=
  let used := granUsed s true
  if nbit s.health.hOos d then [] else ((List.range 288).map (288 * d + ·)).filter fun g => !used.contains g

/-- Free granules of tier B, lowest first. -/
def freeGranB (s : State) : List Nat :=
  let used := granUsed s false
  (List.range (bCount s)).filter fun g => !used.contains g

/-- Granules of a chase in a tier (and on a die of tier H), rising, those still being written at its creation
included. -/
def granOf (ch : Chase) (isH : Bool) (d : Nat) : List Nat :=
  let mine := (if isH then ch.granH.filter fun g => g / 288 == d else ch.granB) ++
    ((ch.creating.filter fun x => x.1 == (if isH then 1 else 2) && (!isH || x.2 / 288 == d)).map Prod.snd)
  mine.foldl nset []

/-- Granules that a layout takes from a chase, the highest-numbered of each die or tier (R396). -/
def granBack (ch : Chase) (f : ChaseFields) : List (Nat × Nat) :=
  (List.range 4).flatMap (fun d => ((granOf ch true d).drop (f.hGran.getD d 0)).map (1, ·)) ++
  ((granOf ch false 0).drop f.bGran).map (2, ·)

/-- Granules that a layout gives a chase, the lowest-numbered free ones (R396); none when too few are free. -/
def granNew (s : State) (ch : Chase) (f : ChaseFields) : Option (List (Nat × Nat)) :=
  let one (t have' n : Nat) (free : List Nat) : Option (List (Nat × Nat)) :=
    if n - have' ≤ free.length then some ((free.take (n - have')).map (t, ·)) else none
  let parts := (List.range 4).map (fun d => one 1 (granOf ch true d).length (f.hGran.getD d 0) (freeGranH s d)) ++
    [one 2 (granOf ch false 0).length f.bGran (freeGranB s)]
  if parts.any Option.isNone then none else some ((parts.filterMap id).flatMap id)

/-- Whether a granule holds a block of an object, of a window or of metadata. -/
def granBusy (s : State) (g : Nat × Nat) : Bool :=
  let isH := g.1 == 1
  (usedBlocks s isH).any fun b => b / granBlocks isH == g.2

/-- Forme-store bytes of a chase on a die: images and the reservations of loads (R208, R386). -/
def storeUse (s : State) (c d : Nat) : Nat :=
  ((chase s c).images.map fun i => i.body.storeBytes.getD d 0).foldl (· + ·) 0

/-- Bytes of a chase's store that loads and stages in progress reserve, summed over the dies (R207 check 0x0103,
R386). -/
def storeReserved (s : State) (c : Nat) : Nat :=
  ((s.stages.filter fun x => x.chase == c).map Stage.total).foldl (· + ·) 0

/-- Bytes of a chase's store in use, summed over the dies. -/
def storeUseAll (s : State) (c : Nat) : Nat := ((List.range 4).map (storeUse s c)).foldl (· + ·) 0

/-- Bytes of store that a layout grants, summed over the dies. -/
def storeGrant (f : ChaseFields) : Nat := ((List.range 4).map fun d => f.store.getD d 0 * 1024).foldl (· + ·) 0

/-- Whether a layout grants a page that is out of service, or granules on a die that is, beyond what the chase has
(R493). -/
def grantsOos (s : State) (ch : Chase) (f : ChaseFields) : Bool :=
  (pagesOf f.pageMap).any (fun p => pageOos s p && !nbit ch.cfg.pageMap p) ||
  (List.range 4).any fun d => dieOos s d && decide ((granOf ch true d).length < f.hGran.getD d 0)

end Sys2Proof.Machine
end

