-- ==== Sys2Proof/Machine/Registers.lean ====
section
/-! DEFINITION. The management register space (R343, R439, R458, R495, R530, R531, R548 to R558) and the commands that
reach it: READ_REG, WRITE_REG, and WRITE_REG to RESET_REQ, RESET_READMIT and HEALTH_EVENTS. -/

namespace Sys2Proof.Machine

/-- A field of a register as one session reads it: the roles its Roles column lists, its lowest bit, and its value. -/
structure RegField where
  roles : List Role
  lo : Nat
  val : Nat
  deriving DecidableEq, Repr

/-- A mapped word: its fields. -/
abbrev RegWord := List RegField

/-- Role lists of the register tables. -/
def rOMV : List Role := [.own, .mgt, .vnd]
def rOM : List Role := [.own, .mgt]
def rOTMO : List Role := [.own, .ten, .mgt, .obs]
def rVOM : List Role := [.vnd, .own, .mgt]
def rO : List Role := [.own]

/-- Who reads: the session's role, and its chase for TEN*. -/
def Session.own (se : Session) (c : Nat) : List Role := if se.role = .ten ∧ se.chase = c then [.ten] else []

/-- OWN and the chase's own tenant. -/
def Session.star (se : Session) (c : Nat) : List Role := .own :: se.own c

/-- A word with one field of 32 bits. -/
def word32 (roles : List Role) (v : Nat) : RegWord := [⟨roles, 0, v % 2 ^ 32⟩]

/-- A reserved word: it reads as zero for every role, which is no violation (R550; DEDUCED, log 30). -/
def reservedWord : RegWord := [⟨allRoles, 0, 0⟩]

/-- The low or high word of a 64-bit value (R552). -/
def word64 (roles : List Role) (v : Nat) (hi : Bool) : RegWord := word32 roles (if hi then v / 2 ^ 32 else v)

/-- Whether a role reads event counts at 1 ms boundaries (R553). -/
def coarse (r : Role) : Bool := r == .own || r == .obs

/-- The timebase as the role's counts see it (R553). -/
def seenNs (s : State) (r : Role) : Nat := roundNs r s.now

/-- START_STATUS (R548). -/
def startStatus (s : State) : RegWord :=
  [⟨rVOM, 25, b2n s.boot.bootnetBad⟩, ⟨rVOM, 24, s.boot.bootSrc % 2⟩, ⟨rVOM, 16, s.boot.fwReject % 256⟩,
    ⟨rVOM, 8, s.boot.failCode % 256⟩, ⟨allRoles, 0, s.boot.state % 8⟩]

/-- Whether private JTAG instructions are open (R415, R418). -/
def debugOpen (s : State) : Bool := s.fuses.lifecycle == 0 || (s.fuses.lifecycle == 3 && !s.fuses.udsIntact)

/-- LC_STATUS (R439). -/
def lcStatus (s : State) : RegWord :=
  [⟨allRoles, 16, s.fuses.rollback % 256⟩, ⟨allRoles, 8, (s.boot.fw.map Firmware.svn).getD 0 % 256⟩,
    ⟨allRoles, 2, b2n (debugOpen s)⟩, ⟨allRoles, 0, s.fuses.lifecycle % 4⟩]

/-- ID and LIFECYCLE blocks. -/
def idWord (s : State) (a : Nat) : Option RegWord :=
  if a = 0 then some (word32 allRoles s.fuses.vendorNum)
  else if a = 4 then some [⟨allRoles, 16, 0x5A39⟩, ⟨allRoles, 8, s.fuses.stepping % 256⟩]
  else if a = 0x10 then some (startStatus s)
  else if 0x20 ≤ a ∧ a ≤ 0x2C then some (word32 allRoles (s.fuses.serial / 2 ^ (8 * (a - 0x20))))
  else if a = 0x1000 then some (lcStatus s)
  else if 0x1004 ≤ a ∧ a ≤ 0x100C then some reservedWord
  else if 0x1010 ≤ a ∧ a ≤ 0x103C then some (word32 allRoles (field (ownerDigest s) (a - 0x1010) 4))
  else none

/-- PACE block (R343): its values are live for every role; SLOW_NS is time-valued. -/
def paceWord (s : State) (r : Role) (o : Nat) : Option RegWord :=
  if o = 0 then some [⟨rOTMO, 16, s.power.sustBin % 32⟩, ⟨rOTMO, 8, s.power.admBin % 32⟩, ⟨rOTMO, 0, s.power.curBin % 32⟩]
  else if o = 4 then some (word32 rOM s.power.slowCount)
  else if o = 8 ∨ o = 12 then some (word64 rOM (roundNs r s.power.slowNs) (o == 12))
  else if o = 0x10 then some [⟨rOTMO, 0, 0x01B3⟩]
  else if 0x100 ≤ o ∧ o < 0x100 + 4 * 28 then some [⟨rOTMO, 0, tauPs s ((o - 0x100) / 4) % 65536⟩]
  else none

/-- Which cap is the effective one (R530 CAP_SRC). -/
def capSrc (s : State) : Nat :=
  if s.power.grant then 3
  else if s.power.alert ∧ alertCap s ≤ sustCap s then 2
  else if sustCap s < 3200 then 1 else 0

/-- A measured value: the management controller reads the 10 ms average i (R411). -/
def measured (s : State) (r : Role) (v i : Nat) : Nat := if r = .mgt then s.thermal.avg.getD i 0 else v

/-- POWER block (R530). -/
def powerWord (s : State) (r : Role) (o : Nat) : Option RegWord :=
  let p := s.power
  let t := s.thermal
  if o = 0 then some [⟨rOM, 25, p.throttle % 8⟩, ⟨rOM, 19, t.senseOpen % 64⟩, ⟨rOM, 16, s.boot.stopCause % 8⟩,
    ⟨rOM, 7, b2n t.inputOor⟩, ⟨rOM, 6, b2n t.floor⟩, ⟨rOM, 5, b2n (limiterHolds s)⟩, ⟨rOM, 4, b2n p.hold⟩, ⟨rOM, 3, b2n p.alert⟩,
    ⟨rOM, 2, b2n p.grant⟩, ⟨rOM, 0, capSrc s⟩]
  else if o = 4 then some [⟨rOM, 16, alertCap s % 65536⟩, ⟨rOM, 0, effCap s % 65536⟩]
  else if o = 8 then some [⟨rOM, 16, measured s r t.vin 0 % 65536⟩,
    ⟨rOM, 0, (if r = .mgt then t.pinMgt else t.pinOwn) % 65536⟩]
  else if o = 12 then some [⟨rOM, 0, p.ledger % 2048⟩]
  else if o = 0x10 then some (word32 rOM (if coarse r then s.snap.holdCount else p.holdCount))
  else if o = 0x14 ∨ o = 0x18 then some (word64 rOM (roundNs r p.holdNs) (o == 0x18))
  else none

/-- THERMAL block (R531). -/
def thermalWord (s : State) (r : Role) (o : Nat) : Option RegWord :=
  let t := s.thermal
  if o = 0 then some [⟨rOM, 24, t.hotDie % 8⟩, ⟨rOM, 16, measured s r t.tjMax 1 % 256⟩, ⟨rOM, 8, measured s r t.tjPred 2 % 256⟩]
  else if o = 4 then some [⟨rOM, 16, s.fuses.tauTh % 65536⟩, ⟨rOM, 0, s.fuses.rth % 65536⟩]
  else none

/-- HEALTH block (R439, R549). -/
def healthWord (s : State) (r : Role) (o : Nat) : Option RegWord :=
  let h := s.health
  if o = 0 then some [⟨rO, 0, h.evOwn % 32⟩]
  else if o = 4 then some [⟨[.mgt], 0, h.evMgt % 32⟩]
  else if o = 8 ∨ o = 12 ∨ o = 0x18 ∨ o = 0x1C then some reservedWord
  else if o = 0x10 then some (word32 rO s.snap.viol)
  else if o = 0x14 then some [⟨rOMV, 16, h.ddrLost % 65536⟩, ⟨rOMV, 0, h.hbmLost % 65536⟩]
  else if 0x20 ≤ o ∧ o < 0x58 then
    let k := (o - 0x20) / 8
    some (word64 (if k = 6 then rO else rOMV) ((if coarse r then s.snap.cnt else h.cnt).getD k 0) (o % 8 == 4))
  else none

/-- STALL block (R556): the session's own chase for TEN, the sum of stall times over every chase for OWN. -/
def stallWord (s : State) (se : Session) (o : Nat) : Option RegWord :=
  if o < 0x40 then
    let k := o / 8
    let v := match se.role with
      | .ten => (chase s se.chase).stall.getD k 0
      | r => roundNs r ((s.chases.map fun e => e.2.stall.getD k 0).foldl (· + ·) 0)
    some (word64 [.own, .ten] v (o % 8 == 4))
  else if o ≤ 0x94 then
    let j := (o - 0x40) / 4
    let ch := chase s se.chase
    some (word32 [.ten] (if j = 21 then ch.misregs.length else ch.chev.getD j 0))
  else none

/-- Counted resets of a domain within a window of w ns that ends at t (R492). -/
def resetsWithin (s : State) (domain w t : Nat) : Nat :=
  s.faults.counted.countP fun e => e.1 == domain && decide (e.2 ≤ t ∧ t < e.2 + w + 1)

/-- SPARES block (R549). -/
def sparesWord (s : State) (r : Role) (o : Nat) : Option RegWord :=
  let s : State := if coarse r then { s with
      spares := s.snap.spares, fuses := { s.fuses with tilesRetired := s.snap.retired.1, banksRetired := s.snap.retired.2 } }
    else s
  let x := s.spares
  if o = 0 then some [⟨rOMV, 20, s.fuses.banksRetired.length % 4096⟩, ⟨rOMV, 0, s.fuses.tilesRetired.length % 256⟩]
  else if 0x100 ≤ o ∧ o < 0x180 then
    let n := (sortsOf ((o - 0x100) / 4)).countP fun i => (spareOf s i).vcoord == 0x7FF && !(spareOf s i).retired
    some [⟨rOMV, 0, n⟩]
  else if 0x200 ≤ o ∧ o < 0x230 then
    (x.rails[(o - 0x200) / 4]?).map fun y => [⟨rOMV, 8, y.retired % 256⟩, ⟨rOMV, 0, y.spares % 256⟩]
  else if 0x300 ≤ o ∧ o < 0x340 then
    let n := (o - 0x300) / 4
    some [⟨rOMV, 16, x.hbmRows.getD n 0 % 65536⟩, ⟨rOMV, 8, x.hbmHard.getD n 0 % 256⟩, ⟨rOMV, 0, x.hbmLanes.getD n 0 % 256⟩]
  else if 0x340 ≤ o ∧ o < 0x380 then
    let n := (o - 0x340) / 4
    some [⟨rOMV, 20, x.ddrRows.getD n 0 % 4096⟩, ⟨rOMV, 0, x.ddrDev.getD n 0 % 2 ^ 20⟩]
  else if 0x1000 ≤ o ∧ o < 0x5000 then
    let i := (o - 0x1000) / 4
    let col := i / 8 % 16
    if 8 < col ∨ (col = 8 ∧ 4 ≤ i % 8) then none
    else
      let t := spareOf s i
      some [⟨rOMV, 31, b2n t.retired⟩, ⟨rOMV, 30, b2n t.pending⟩, ⟨rOMV, 29, b2n t.bank.isSome⟩, ⟨rOMV, 25, t.bank.getD 0 % 16⟩,
        ⟨rOMV, 14, t.vcoord % 2048⟩, ⟨rOMV, 3, Nat.min 2047 t.paceNorm⟩,
        ⟨rO, 0, Nat.min 7 (resetsWithin s (4096 + i) (policy s 0x0302 * 1000000000) (seenNs s r))⟩]
  else none

/-- PORTS block (R549). -/
def portsWord (s : State) (o : Nat) : Option RegWord :=
  if o < 0x10 then
    let n := o / 4
    (s.ports[n]?).map fun p => [⟨rOM, 15, b2n p.linkUp⟩, ⟨rOM, 14, b2n p.macsecUp⟩, ⟨rOM, 12, portMode s n % 4⟩,
      ⟨rOM, 11, b2n p.split⟩, ⟨rOM, 10, b2n p.split⟩, ⟨rOM, 9, b2n p.laneFault⟩]
  else if 0x80 ≤ o ∧ o < 0xA0 then
    (s.ports[(o - 0x80) / 8]?).map fun p => word64 rOM (p.mac % 2 ^ 48) (o % 8 == 4)
  else if 0x100 ≤ o ∧ o < 0x140 then
    some (word32 rO ((s.snap.drops.getD ((o - 0x100) / 16) []).getD (o % 16 / 4) 0))
  else if o = 0x200 then some [⟨rOM, 16, s.health.hOos % 16⟩, ⟨rOM, 0, s.health.rate8 % 65536⟩]
  else if o = 0x204 then some [⟨rOM, 31, b2n s.health.bInService⟩, ⟨rOM, 24, s.health.ddrCause % 16⟩,
    ⟨rOM, 16, s.health.ddrRate % 4⟩, ⟨rOM, 0, if s.health.bInService then s.health.modGib % 512 else 0⟩]
  else none

/-- TORUS block (R458, R549). -/
def torusWord (s : State) (r : Role) (o : Nat) : Option RegWord :=
  if o = 0 then
    some (match s.boot.cfg with
      | some c => let p := c.placement; [⟨rOM, 31, 1⟩, ⟨rOM, 16, p.z % 256⟩, ⟨rOM, 8, p.y % 256⟩, ⟨rOM, 0, p.x % 256⟩]
      | none => word32 rOM 0)
  else if o = 4 then
    some (match s.boot.cfg with
      | some c => let p := c.placement; [⟨rOM, 16, p.nz % 256⟩, ⟨rOM, 8, p.ny % 256⟩, ⟨rOM, 0, p.nx % 256⟩]
      | none => word32 rOM 0)
  else if 0x10 ≤ o ∧ o < 0x28 then
    let n := (o - 0x10) / 4
    let pl := s.boot.cfg.map BootConfig.placement
    (s.torus[n]?).map fun p => [⟨rOM, 20, Nat.min 4095 p.oneWay⟩, ⟨rO, 17, b2n p.job.isSome⟩,
      ⟨rOM, 16, b2n (pl.isSome && laneTotal s n == 10)⟩, ⟨rOM, 12, p.cause % 16⟩, ⟨rOM, 10, p.sparesUsed % 4⟩,
      ⟨rOM, 8, (pl.map fun q => q.reach.getD n 0).getD 0 % 4⟩, ⟨rOM, 0, p.state % 8⟩]
  else if o = 0x40 then some (word32 rO s.snap.relayDrop)
  else if 0x100 ≤ o ∧ o < 0x160 then
    let n := (o - 0x100) / 16
    let j := o % 16 / 4
    let cs := if coarse r then s.snap.torus.getD n [] else ((s.torus[n]?).map TorusPort.counts).getD []
    some (if j = 3 then reservedWord else word32 rOM (cs.getD j 0))
  else none

/-- A RESET_CNT word (R557): TOTAL and IN_WINDOW of a domain, for the roles given. -/
def resetCnt (s : State) (r : Role) (roles : List Role) (domain window : Nat) : RegWord :=
  let totals := if coarse r then s.snap.domTotals else s.faults.domTotals
  [⟨roles, 16, kgetD totals domain 0 % 65536⟩, ⟨roles, 0, Nat.min 31 (resetsWithin s domain window (seenNs s r))⟩]

/-- The package fault record as 64 bytes, its time rounded for the reader (R557). -/
def recordBytes (s : State) (r : Role) : Bytes :=
  let x := s.boot.record
  le 2 x.code ++ le 2 x.domain ++ le 1 x.resets ++ zeros 3 ++ le 8 (roundNs r x.time) ++ zeros 48

/-- Out-of-service bits of n domains of a class (R495). -/
def oosBits (s : State) (cls n : Nat) : Nat :=
  (List.range n).foldl (fun m i => if s.faults.oos.contains (cls * 4096 + i) then m + 2 ^ i else m) 0

/-- RESET block (R495, R557). The write-only registers read as zero (R20). -/
def resetWord (s : State) (se : Session) (o : Nat) : Option RegWord :=
  let r := se.role
  let win := policy s 0x0302 * 1000000000
  if o = 0 ∨ o = 4 then some (word32 rO 0)
  else if o = 8 then some (word32 rOM (oosBits s 2 32))
  else if o = 12 then some [⟨rOM, 16, oosBits s 6 6⟩, ⟨rOM, 8, oosBits s 5 4⟩, ⟨rOM, 0, oosBits s 3 4⟩]
  else if o = 0x10 then some (word32 rO (oosBits s 4 32))
  else if o = 0x20 then some reservedWord
  else if 0x24 ≤ o ∧ o < 0x40 then
    some (word32 rOM ((if coarse r then s.snap.totals else s.faults.totals).getD ((o - 0x24) / 4) 0))
  else if 0x100 ≤ o ∧ o < 0x140 then some (word32 rOM (field (recordBytes s r) (o - 0x100) 4))
  else if 0x200 ≤ o ∧ o < 0x280 then some (resetCnt s r rO (2 * 4096 + (o - 0x200) / 4) win)
  else if 0x280 ≤ o ∧ o < 0x290 then some (resetCnt s r rO (3 * 4096 + (o - 0x280) / 4) win)
  else if 0x300 ≤ o ∧ o < 0x380 then
    let c := (o - 0x300) / 4
    some (resetCnt s r (se.star c) (4 * 4096 + c) win)
  else if 0x380 ≤ o ∧ o < 0x390 then some (resetCnt s r rO (5 * 4096 + (o - 0x380) / 4) win)
  else if 0x3A0 ≤ o ∧ o < 0x3B8 then some (resetCnt s r rO (6 * 4096 + (o - 0x3A0) / 4) win)
  else if o = 0x3C0 then
    let t := seenNs s r
    let n := s.boot.pkgResets.countP fun x => decide (x ≤ t ∧ t ≤ x + policy s 0x0304 * 60000000000)
    let totals := if coarse r then s.snap.domTotals else s.faults.domTotals
    some [⟨rO, 16, kgetD totals 0x7000 0 % 65536⟩, ⟨rO, 0, Nat.min 31 n⟩]
  else none

/-- Tier H blocks and tier B blocks of 2 MiB a chase uses, windows and metadata included (R254, R262). -/
def blocksInUse (s : State) (c : Nat) : Nat × Nat :=
  let mine := s.objs.filter fun o => o.chase == c
  let of (t : Nat) : Nat :=
    (mine.map fun o => (if o.tier = t then o.blocks.length else 0) + ((o.oldHomes.map fun h => (if h.tier = t then h.blocks.length else 0) + (if t = 1 then h.win.length else 0)).foldl (· + ·) 0) +
      (match o.move with | some m => if m.tier = t then m.blocks.length else 0 | none => 0) +
      (if t = 1 then o.win.length else 0)).foldl (· + ·) 0 + (chase s c).metaBlks.countP fun x => x.1 == t
  (of 1, of 2)

/-- Forme-store KiB of a chase over all dies (R558). -/
def storeKib (s : State) (c : Nat) : Nat :=
  ceilDiv (((List.range 4).map (storeUse s c)).foldl (· + ·) 0 +
    ((s.stages.filter fun x => x.chase == c).map Stage.total).foldl (· + ·) 0) 1024

/-- Live requests of a chase (R298, R303). -/
def liveCount (s : State) (c : Nat) : Nat := s.reqs.countP fun e => e.2.chase == c && !e.2.state.final

/-- The count values of a chase that the owner and observers read as sampled each 1 ms (R409, R553): live, admitted,
refused, the ten refusal counts, and the borrowed slots of five wheels. -/
def chaseCounts (s : State) (c : Nat) : List Nat :=
  let ch := chase s c
  [liveCount s c, ch.admitted, ch.refused] ++ (List.range 10).map (fun k => ch.refusedK.getD k 0) ++
    (List.range 5).map fun w => ch.borrow.getD w 0

/-- Code of a chase state (R393). -/
def ChaseState.code : ChaseState → Nat
  | .free => 0 | .unclaimed => 1 | .claimed => 2 | .releasing => 3

/-- A chase's entry of the CHASE block (R558). -/
def chaseEntry (s : State) (se : Session) (c o : Nat) : RegWord :=
  let ch := chase s c
  let f := ch.cfg
  let rs := se.star c
  let cnt := if coarse se.role then kgetD s.snap.chases c [] else chaseCounts s c
  let blk := blocksInUse s c
  if o = 0 then [⟨rs, 16, f.compMap % 16⟩, ⟨rs, 8, f.prioMax % 8⟩, ⟨rs, 4, f.bwMode % 2⟩, ⟨rs, 0, ch.state.code⟩]
  else if o = 4 then word32 rs f.pageMap
  else if o = 8 then [⟨rs, 16, f.hGran.getD 1 0 % 512⟩, ⟨rs, 0, f.hGran.getD 0 0 % 512⟩]
  else if o = 12 then [⟨rs, 16, f.hGran.getD 3 0 % 512⟩, ⟨rs, 0, f.hGran.getD 2 0 % 512⟩]
  else if o = 0x10 then [⟨rs, 0, f.bGran % 2048⟩]
  else if o < 0x24 then word32 rs (f.betaH.getD ((o - 0x14) / 4) 0)
  else if o = 0x24 then word32 rs f.betaB
  else if o < 0x38 then
    let d := (o - 0x28) / 4
    [⟨rs, 0, wheelSlots (f.betaH.getD d 0) (rateH s d) % 8192⟩]
  else if o = 0x38 then [⟨rs, 0, wheelSlots f.betaB (rateB s) % 8192⟩]
  else if o = 0x3C then [⟨rs, 0, f.reqLimit % 65536⟩]
  else if o = 0x40 then [⟨rs, 0, cnt.getD 0 0 % 131072⟩]
  else if o = 0x44 then [⟨rs, 0, blk.1 % 2 ^ 20⟩]
  else if o = 0x48 then [⟨rs, 0, blk.2 % 2 ^ 22⟩]
  else if o = 0x4C then [⟨rs, 0, storeKib s c % 2 ^ 19⟩]
  else if o < 0x58 then word32 rs (cnt.getD (1 + (o - 0x50) / 4) 0)
  else if o < 0x80 then word32 rs (cnt.getD (3 + (o - 0x58) / 4) 0)
  else if o < 0xA8 then word64 rs (cnt.getD (13 + (o - 0x80) / 8) 0) (o % 8 == 4)
  else [⟨rs, 0, 0⟩]

/-- Blocks of tiers H and B and KiB of store in use over all chases (R409, R558). -/
def usedTotals (s : State) : List Nat :=
  let total (f : Nat → Nat) : Nat := ((s.chases.map Prod.fst).map f).foldl (· + ·) 0
  [total fun c => (blocksInUse s c).1, total fun c => (blocksInUse s c).2, total (storeKib s)]

/-- Device totals (R409, R558), as they stood at the latest 1 ms boundary (R54, R553): blocks, store, live, admitted and
refused requests over all chases. -/
def chaseTotal (s : State) (j : Nat) : Nat :=
  if j < 3 then s.snap.use.getD j 0
  else ((s.chases.map Prod.fst).map fun c => (kgetD s.snap.chases c []).getD (j - 3) 0).foldl (· + ·) 0

/-- CHASE block (R558). -/
def chaseWord (s : State) (se : Session) (o : Nat) : Option RegWord :=
  if o < 0x2000 then some (chaseEntry s se (o / 256) (o % 256))
  else if o = 0x2000 then some [⟨[.ten], 5, 1⟩, ⟨[.ten], 0, se.chase % 32⟩]
  else if o < 0x2010 then some reservedWord
  else if o ≤ 0x2024 then some (word32 [.own, .obs] (chaseTotal s ((o - 0x2010) / 4)))
  else none

/-- TIMEBASE block (R549). -/
def timeWord (s : State) (r : Role) (o : Nat) : Option RegWord :=
  if o = 0 ∨ o = 4 then some (word64 allRoles (roundNs r s.now) (o == 4))
  else if o = 8 then some [⟨rOM, 31, b2n s.health.synced⟩, ⟨rOM, 24, s.health.hops % 128⟩, ⟨rOM, 0, s.health.leader % 2 ^ 17⟩]
  else none

/-- The word at an address as a session reads it, none when it is unmapped (R549, R550). -/
def regWord (s : State) (se : Session) (a : Nat) : Option RegWord :=
  let o := a % 65536
  match a / 65536 with
  | 0 => idWord s a
  | 1 => paceWord s se.role o
  | 2 => powerWord s se.role o
  | 3 => thermalWord s se.role o
  | 4 => healthWord s se.role o
  | 5 => stallWord s se o
  | 6 => sparesWord s se.role o
  | 7 => portsWord s o
  | 8 => torusWord s se.role o
  | 9 => resetWord s se o
  | 10 => chaseWord s se o
  | 11 => timeWord s se.role o
  | _ => none

/-- The value of a word for a role: fields whose Roles exclude it read as zero (R551). -/
def regValue (w : RegWord) (r : Role) : Nat :=
  (w.map fun f => if f.roles.contains r then f.val * 2 ^ f.lo else 0).foldl (· + ·) 0

/-- Whether no field of a word lists a role, which makes the access a violation (R551). -/
def regHidden (w : RegWord) (r : Role) : Bool := w.all fun f => !f.roles.contains r

/-- READ_REG (R390, R549 to R553). One violation is counted for each word the role may not see (DEDUCED, log 30). -/
def execReadReg (h : CmdHdr) (addr count : Nat) (s : State) : Host.Outcome State Fault Refusal :=
  hostCmd h ⟨0x0070, allRoles, true, 4 * count⟩ (fun s se =>
    if addr % 4 ≠ 0 ∨ count = 0 then rep s h 0x0070 St.malformed 0 []
    else if 64 < count then rep s h 0x0070 St.tooLarge 0x0A04 []
    else
      let ws := (List.range count).map fun i => regWord s se (addr + 4 * i)
      if ws.any Option.isNone then rep s h 0x0070 St.notFound 0 []
      else
        let ws := ws.filterMap id
        let body := ws.flatMap fun w => le 4 (regValue w se.role)
        let n := ws.countP fun w => regHidden w se.role
        done ((List.range n).foldl (fun s _ => violation s) s) h 0x0070 body) s

/-! ### Writes -/

/-- Whether the owner may ask for the reset of a domain (R495): classes 2, 3, 5, 6 and 7 only, and a domain that
exists. -/
def resettable (domain : Nat) : Bool :=
  let i := domain % 4096
  match domain / 4096 with
  | 2 => decide (i < 32)
  | 3 => decide (i < 4)
  | 5 => decide (i < 4)
  | 6 => decide (i < 6)
  | 7 => i == 0
  | _ => false

/-- A write of DOMAIN to RESET_REQ (R495). -/
def resetRequest (s : State) (domain : Nat) : State :=
  if resettable domain then beginReset s domain 0x0801 0x7FF else s

/-- A write of DOMAIN to RESET_READMIT (R494): an out-of-service domain returns and its count starts afresh. A chase
fabric stays fenced until its tenant imposes; a host port retrains; a torus port trains (DEDUCED, log 31). -/
def readmitDomain (s : State) (domain : Nat) : State :=
  if !s.faults.oos.contains domain then s
  else
    let s := { s with faults := { s.faults with
      oos := s.faults.oos.filter (· != domain), counted := s.faults.counted.filter fun e => e.1 != domain } }
    let n := domain % 4096
    match domain / 4096 with
    | 5 => { s with ports := lmod s.ports n fun p => { p with retraining := true } }
    | 6 => modPort s n fun p => { p with state := if portUsable s n then 1 else 0, cause := 0 }
    | _ => s

/-- WRITE_REG to one register (R20, R21, R551, R555): W1C and write-only registers take effect, every other write is
ignored; a word that the role may not see makes it a violation. -/
def regWrite (s : State) (se : Session) (h : CmdHdr) (addr : Nat) (value : Word) : State :=
  if addr % 4 ≠ 0 then rep s h 0x0071 St.malformed 0 []
  else
    match regWord s se addr with
    | none => rep s h 0x0071 St.notFound 0 []
    | some w =>
      if regHidden w se.role then done (violation s) h 0x0071 []
      else
        let v := value.toNat
        let s :=
          if addr = 0x00040000 then
            { s with health := { s.health with evOwn := s.health.evOwn - (s.health.evOwn &&& (v % 32)) } }
          else if addr = 0x00040004 then
            { s with health := { s.health with evMgt := s.health.evMgt - (s.health.evMgt &&& (v % 32)) } }
          else if addr = 0x00090000 then resetRequest s (v % 65536)
          else if addr = 0x00090004 then readmitDomain s (v % 65536)
          else s
        done s h 0x0071 []

/-- What the reference says of WRITE_REG (R390). -/
def writeSpec : CmdSpec := ⟨0x0071, allRoles, false, 0⟩

/-- WRITE_REG (R390). -/
def execWriteReg (h : CmdHdr) (addr : Nat) (value : Word) (s : State) : Host.Outcome State Fault Refusal :=
  hostCmd h writeSpec (fun s se => regWrite s se h addr value) s

/-- A WRITE_REG to RESET_REQ (R495); at another address it is no such event (log 1). -/
def execResetReq (h : CmdHdr) (addr : Nat) (value : Word) (s : State) : Host.Outcome State Fault Refusal :=
  if addr = 0x00090000 then hostCmd h writeSpec (fun s se => regWrite s se h addr value) s else .next s

/-- A WRITE_REG to RESET_READMIT (R494, R495); at another address it is no such event (log 1). -/
def execResetReadmit (h : CmdHdr) (addr : Nat) (value : Word) (s : State) : Host.Outcome State Fault Refusal :=
  if addr = 0x00090004 then hostCmd h writeSpec (fun s se => regWrite s se h addr value) s else .next s

/-- A WRITE_REG to HEALTH_EVENTS_OWN or HEALTH_EVENTS_MGT (R549, R555); at another address it is no such event
(log 1). -/
def execHealthEventsClear (h : CmdHdr) (addr : Nat) (value : Word) (s : State) : Host.Outcome State Fault Refusal :=
  if addr = 0x00040000 ∨ addr = 0x00040004 then hostCmd h writeSpec (fun s se => regWrite s se h addr value) s
  else .next s

end Sys2Proof.Machine
end

