-- ==== Sys2Proof/Machine/Sessions.lean ====
section
/-! DEFINITION. Sessions and credentials: HELLO, PROVE, CLOSE, PING, SESSION_INFO, POLICY_GET, CRED_SET, CHASE_CLAIM,
RELAY_SET, and the session timers (R366 to R369, R376, R384, R412 to R414). -/

namespace Sys2Proof.Machine

/-- The role a HELLO code names (R384). -/
def Role.ofCode : Nat → Option Role
  | 1 => some .own
  | 2 => some .ten
  | 3 => some .mgt
  | 4 => some .obs
  | 5 => some .vnd
  | _ => none

/-- The first of n, n + 1, ... (modulo 2^32, zero skipped) that is no session id in use and none closed within 10 s
(R366, R367). -/
def freshId (s : State) : Nat → Nat → Nat
  | 0, n => n
  | fuel + 1, n =>
    let busy := n == 0 || (kget s.sessions n).isSome ||
      (match kget s.closedIds n with | some t => decide (s.now < t + 10000000000) | none => false)
    if busy then freshId s fuel ((n + 1) % 2 ^ 32) else n

/-- A reply to HELLO, in clear and with no prefix (R367, R369, R374). It goes to the source of the HELLO (R360, R377). -/
def clearReply (s : State) (h : CmdHdr) (session status detail : Nat) (body : Bytes) : State :=
  let r := { mkReply h.ep session 0x0001 h.reqId status detail body with dscp := h.dscp }
  if h.entry.isNone && !portServes s h.ep 1 then s
  else
    (r.packets none 0 (parts (maxPayload s) body.length body)).foldl (fun s u => sendUdp s h.ep h.src h.entry h.dscp u)
      { s with out := s.out ++ [r] }

/-- The body of HELLO (R384). -/
def helloBody (role chase credId : Nat) (nonce eph : Bytes) : Bytes :=
  le 1 role ++ le 1 chase ++ zeros 6 ++ le 8 credId ++ nonce ++ eph ++ zeros 7

/-- What CRED_SIG signs: the digest of "Z9 askest prove" and TH (R368). -/
def proveDigest (se : Session) : Bytes := sha384 (ascii "Z9 askest prove" ++ se.th)

/-- Whether the CRED_SIG that a provisional session keeps verifies under a key (R413). -/
def keptSigOk (se : Session) (pub : Bytes) : Bool :=
  match se.keptSig with
  | some sig => ecdsaOk pub (proveDigest se) sig
  | none => false

/-- The PENDING session that a HELLO makes, with both session keys (R367), from the device's nonce and ephemeral key. -/
def newSession (h : CmdHdr) (id : Nat) (r : Role) (role chase credId : Nat) (nonce eph nonceD ephPriv : Bytes)
    (now : Nat) : Session :=
  let ephD := pubOf ephPriv
  let th := sha384 (helloBody role chase credId nonce eph ++ nonceD ++ ephD ++ be 4 id)
  let ks := hkdf 64 (ecdh ephPriv eph) (nonce ++ nonceD) (ascii "Z9 askest v1" ++ be 4 id ++ th)
  { isOpen := false, role := r, chase := chase, credId := credId, provisional := credId == 0
    keptSig := none, th := th, keyHD := some (slice ks 0 32), keyDH := some (slice ks 32 32)
    helloNs := now, lastNs := now, rxHigh := 0, rxSeen := [], txSeq := 1, ep := h.ep
    src := h.src, relayEntry := h.entry }

/-- HELLO (R367, R369): a PENDING session with a fresh id, the device's nonce and ephemeral key, DEV_SIG over the
transcript, and both session keys loaded. -/
def execHello (h : CmdHdr) (role chase credId : Nat) (nonce eph : Bytes) (s : State) :
    Host.Outcome State Fault Refusal :=
  .next (
    match takeDesc s h 0x0001 with
    | none => s
    | some s =>
      if s.boot.state ≠ 4 ∧ s.boot.state ≠ 5 then s
      else
        match h.form, Role.ofCode role with
        | .badLength, _ => clearReply s h 0 St.malformed 0x0A02 []
        | .reservedSet, _ => clearReply s h 0 St.malformed 0x0A03 []
        | .ok, none => clearReply s h 0 St.malformed 0 []
        | .ok, some r =>
          if !p384Valid eph || (r != .ten && chase != 255) then clearReply s h 0 St.malformed 0 []
          else if 4096 ≤ s.sessions.countP (fun e => e.2.isOpen) then clearReply s h 0 St.noResources 0 []
          else if 256 ≤ s.sessions.countP (fun e => !e.2.isOpen) then clearReply s h 0 St.busy 0 []
          else
            let (n, s) := drawNat s
            let id := freshId s (s.sessions.length + s.closedIds.length + 2) (n % 2 ^ 32)
            let (nonceD, s) := drawBytes s 32
            let (ephPriv, s) := drawBytes s 56
            let cert := aliasCert s
            let se := newSession h id r role chase credId nonce eph nonceD ephPriv s.now
            let s := { s with sessions := kset s.sessions id se }
            clearReply s h id St.done 0
              (nonceD ++ pubOf ephPriv ++ zeros 1 ++ le 2 cert.length ++ zeros 4 ++ aliasSign s se.th ++ cert))

/-- Whether the lifecycle state admits a role (R414). -/
def roleAdmitted (s : State) (r : Role) (credId : Nat) : Bool :=
  match s.fuses.lifecycle, r with
  | 0, .vnd => true
  | 1, .vnd => true
  | 1, .own => credId == 0
  | 1, .mgt => true
  | 2, .vnd => policy s 0x0203 == 1
  | 2, _ => true
  | 3, .vnd => true
  | 3, .mgt => true
  | _, _ => false

/-- The key a credential names, none when there is no such credential (R412). -/
def credKey (s : State) (r : Role) (chase credId : Nat) : Option Bytes :=
  match r with
  | .vnd => if 1 ≤ credId ∧ credId ≤ 4 ∧ !s.fuses.vndRevoked.contains credId then some (Config.vndKey credId) else none
  | .own => if credId = 1 then s.fuses.ownerPub else none
  | .mgt => match s.boot.cfg with
    | some b => (b.mgtCreds.find? fun e => e.1 == credId).map Prod.snd
    | none => none
  | _ => (s.creds.find? fun e => e.role == r && e.chase == chase && e.credId == credId).map Cred.pub

/-- PROVE (R368, R413, R414): the session becomes OPEN, or VERIFY_FAILED closes it. CRED_ID 0 opens it provisionally
and keeps the signature. -/
def execProve (h : CmdHdr) (sig : Bytes) (s : State) : Host.Outcome State Fault Refusal :=
  hostCmd h ⟨0x0002, allRoles, true, 0⟩ (fun s se =>
    let ok := roleAdmitted s se.role se.credId &&
      (se.credId == 0 || (match credKey s se.role se.chase se.credId with
        | some pub => ecdsaOk pub (proveDigest se) sig
        | none => false))
    if !ok then closeSession (rep s h 0x0002 St.verifyFailed 0 []) h.session
    else if 4096 ≤ s.sessions.countP (fun e => e.2.isOpen) then
      closeSession (rep s h 0x0002 St.noResources 0 []) h.session
    else
      let s := { s with sessions := kmod s.sessions h.session fun se =>
        { se with isOpen := true, keptSig := if se.credId = 0 then some sig else none, lastNs := s.now } }
      done s h 0x0002 []) s

/-- CLOSE (R369). -/
def execClose (h : CmdHdr) (s : State) : Host.Outcome State Fault Refusal :=
  hostCmd h ⟨0x0003, allRoles, true, 0⟩ (fun s _ => closeSession (done s h 0x0003 []) h.session) s

/-- PING (R384): the data comes back; more than 64 bytes are a wrong body length. -/
def execPing (h : CmdHdr) (data : Bytes) (s : State) : Host.Outcome State Fault Refusal :=
  hostCmd h ⟨0x0004, allRoles, true, data.length⟩ (fun s _ =>
    if 64 < data.length then rep s h 0x0004 St.malformed 0x0A02 [] else done s h 0x0004 data) s

/-- SESSION_INFO (R384): LIVE counts this command as well, live until its own final reply (R371; log 46). -/
def execSessionInfo (h : CmdHdr) (s : State) : Host.Outcome State Fault Refusal :=
  hostCmd h ⟨0x0005, allRoles, true, 16⟩ (fun s se =>
    let live := (s.live.countP fun l => l.session == h.session) + 1
    done s h 0x0005 (le 1 se.role.code ++ le 1 se.chase ++ zeros 2 ++ le 4 (maxPayload s) ++
      le 4 (policy s 0x0106) ++ le 4 live)) s

/-- The value of a policy as it was last set, also while it waits to take effect (R385; log 80). -/
def policySaid (s : State) (id : Nat) : Nat :=
  match s.policyDue.reverse.find? fun e => e.1 == id with
  | some e => e.2.1
  | none => policy s id

/-- POLICY_GET (R384): the named values, key values as zero; NOT_FOUND for an unknown id. -/
def execPolicyGet (h : CmdHdr) (ids : List Nat) (s : State) : Host.Outcome State Fault Refusal :=
  hostCmd h ⟨0x0012, [.own], true, 16 * ids.length⟩ (fun s _ =>
    if ids.any fun id => (policyDefault id).isNone then rep s h 0x0012 St.notFound 0 []
    else
      let one (id : Nat) : Bytes :=
        le 2 id ++ zeros 6 ++ le 8 (if 0x010B ≤ id ∧ id ≤ 0x010E then 0 else policySaid s id)
      done s h 0x0012 (ids.flatMap one)) s

/-- CRED_SET (R384, R412, R438): OWN sets OBS credentials, TEN those of its own chase. -/
def execCredSet (h : CmdHdr) (op role chase credId : Nat) (pub : Bytes) (s : State) :
    Host.Outcome State Fault Refusal :=
  hostCmd h ⟨0x0013, [.own, .ten], false, 0⟩ (fun s se =>
    let target : Option (Role × Nat) :=
      match se.role, role with
      | .own, 4 => some (.obs, 255)
      | .ten, 2 => if chase = se.chase then some (.ten, chase) else none
      | _, _ => none
    match target with
    | none => done (violation s) h 0x0013 []
    | some (r, c) =>
      let isIt (e : Cred) : Bool := e.role == r && e.chase == c && e.credId == credId
      if 1 < op ∨ credId = 0 then rep s h 0x0013 St.malformed 0 []
      else if op = 0 then
        if s.creds.any isIt then
          done { s with creds := s.creds.map fun e => if isIt e then { e with pub := pub } else e } h 0x0013 []
        else if 64 ≤ s.creds.countP (fun e => e.role == r && e.chase == c) then
          rep s h 0x0013 St.noResources 0 []
        else done { s with creds := s.creds ++ [⟨r, c, credId, pub⟩] } h 0x0013 []
      else if s.creds.any isIt then
        let s := done { s with creds := s.creds.filter fun e => !isIt e } h 0x0013 []
        closeWhere s fun x => x.role == r && x.chase == c && x.credId == credId && !x.provisional
      else rep s h 0x0013 St.notFound 0 []) s

/-- CHASE_CLAIM (R384, R393, R413): the kept signature verifies under the key, which becomes CRED_ID 1 of the chase
and fixes its pull key (R427). -/
def execChaseClaim (h : CmdHdr) (pub : Bytes) (s : State) : Host.Outcome State Fault Refusal :=
  hostCmd h ⟨0x0024, [.ten], false, 0⟩ (fun s se =>
    let ch := chase s se.chase
    if !se.provisional then done (violation s) h 0x0024 []
    else if ch.state ≠ .unclaimed then rep s h 0x0024 St.wrongState 0 []
    else if !keptSigOk se pub then closeSession (rep s h 0x0024 St.verifyFailed 0 []) h.session
    else
      let s := modChase s se.chase fun ch =>
        { ch with state := .claimed, claimPub := some pub, pullKey := some (pullKeyOf ch se.chase pub) }
      let s := { s with
        creds := s.creds ++ [⟨.ten, se.chase, 1, pub⟩]
        sessions := kmod s.sessions h.session fun x => { x with provisional := false, credId := 1, keptSig := none } }
      done s h 0x0024 []) s

/-- RELAY_SET (R376): the whole set is replaced; an entry outside the torus, or of this device, is MALFORMED. -/
def execRelaySet (h : CmdHdr) (entries : List RelayEntry) (s : State) : Host.Outcome State Fault Refusal :=
  hostCmd h ⟨0x0016, [.own], false, 0⟩ (fun s _ =>
    let ok (e : RelayEntry) : Bool :=
      match s.boot.cfg with
      | some b =>
        let p := b.placement
        decide (e.x < p.nx ∧ e.y < p.ny ∧ e.z < p.nz ∧ ¬(e.x = p.x ∧ e.y = p.y ∧ e.z = p.z))
      | none => false
    if 512 < entries.length then rep s h 0x0016 St.tooLarge 0x0A04 []
    else if entries.all ok then done { s with relaySet := entries } h 0x0016 []
    else rep s h 0x0016 St.malformed 0 []) s

/-- A PENDING session that has lived 100 ms without PROVE closes (R366). -/
def execSessionPendingTimeout (session : Nat) (s : State) : Host.Outcome State Fault Refusal :=
  .next (match kget s.sessions session with
    | some se => if !se.isOpen && decide (se.helloNs + 100000000 ≤ s.now) then closeSession s session else s
    | none => s)

/-- An OPEN session with no live command closes after SESSION_IDLE without an authenticated packet (R369). -/
def execSessionIdleTimeout (session : Nat) (s : State) : Host.Outcome State Fault Refusal :=
  .next (match kget s.sessions session with
    | some se =>
      if se.isOpen && decide (se.lastNs + policy s 0x0106 * 1000000000 ≤ s.now) &&
          !(s.live.any fun l => l.session == session) then closeSession s session else s
    | none => s)

end Sys2Proof.Machine
end

