-- ==== Sys2Proof/Machine/Ports.lean ====
section
/-! DEFINITION. The host ports: policies, packets, reassembly, address resolution, MACsec key agreement and the relay
over the torus (R357 to R365, R370 to R377, R385, R513). -/

namespace Sys2Proof.Machine

/-! ### Policies (R385, R436, R491) -/

/-- Whether a policy admits a value. -/
def policyOk (id v : Nat) : Bool :=
  match id with
  | 0x0101 => decide (1 ≤ v ∧ v ≤ 65535)
  | 0x0102 => decide (1280 ≤ v ∧ v ≤ 9000)
  | 0x0103 => decide (v < 2 ^ 32)
  | 0x0104 => decide (v < 2 ^ 64)
  | 0x0105 => decide (v < 2 ^ 64)
  | 0x0106 => decide (1 ≤ v ∧ v ≤ 3600)
  | 0x0107 => decide (10 ≤ v ∧ v ≤ 60000)
  | 0x0108 => decide (v < 1024) && (List.range 4).all fun n => nbits v (2 * n) 2 != 3
  | 0x0109 => decide (v < 2 ^ 48)
  | 0x010A => decide (v < 2 ^ 32) && nbits v 4 4 == 0
  | 0x010B => decide (v < 2 ^ 64)
  | 0x010C => decide (v < 2 ^ 64)
  | 0x010D => decide (v < 2 ^ 64)
  | 0x010E => decide (v < 2 ^ 64)
  | 0x010F => decide (v ≤ 31 ∨ v = 255)
  | 0x0201 => decide (v ≤ 1)
  | 0x0202 => decide (v ≤ 28)
  | 0x0203 => decide (v ≤ 1)
  | 0x0301 => decide (2 ≤ v ∧ v ≤ 16)
  | 0x0302 => decide (1 ≤ v ∧ v ≤ 3600)
  | 0x0303 => decide (2 ≤ v ∧ v ≤ 8)
  | 0x0304 => decide (1 ≤ v ∧ v ≤ 1440)
  | 0x0305 => decide (1 ≤ v ∧ v ≤ 10000)
  | _ => false

/-- Put a policy value in force. -/
def putPolicy (s : State) (id v : Nat) : State :=
  { s with policies := if policyDefault id = some v then kdel s.policies id else kset s.policies id v }

/-- The split and the modes of one physical port in a PORT_MODE value. -/
def heModes (v he : Nat) : Nat × Nat := (nbits v (8 + he) 1, nbits v (4 * he) 4)

/-- A new PORT_MODE takes the links of each affected physical port down while they retrain (R359). -/
def setPortMode (s : State) (v : Nat) : State :=
  let old := policy s 0x0108
  let changed (n : Nat) : Bool := heModes v (n / 2) != heModes old (n / 2)
  let s := putPolicy s 0x0108 v
  { s with ports := s.ports.mapIdx fun n p => if changed n then { p with linkUp := false, retraining := true } else p }

/-- Set or remove the CAK of a logical port (R428); without a CAK there is no MKA and no SAK. -/
def setCak (s : State) (n l : Nat) : State :=
  { s with ports := lmod s.ports n fun p =>
    if l = 0 then { p with cak := none, sak := none, macsecUp := false }
    else { p with cak := some (cakOf s (s.fuses.ownerPub.getD []) n l) } }

/-- Apply one policy of a POLICY_SET. The port, the addresses and IP_MTU wait 10 ms (R385); a change of PACE_PIN
changes SUST_BIN (R436); another intake chase leaves the intake unconfigured (R379; DEDUCED, log 32). -/
def applyPolicy (s : State) (id v : Nat) : State :=
  if id ≤ 0x0105 then
    { s with policyDue := s.policyDue ++ [(id, v, s.now)] }
  else if id = 0x0108 then setPortMode s v
  else if 0x010B ≤ id ∧ id ≤ 0x010E then setCak s (id - 0x010B) v
  else if id = 0x010F then
    if v = policy s 0x010F then s
    else
      let s := putPolicy s id v
      { s with
        intake := { Intake.reset with notifyTo := s.intake.notifyTo, nextReq := s.intake.nextReq }
        doorbells := lset s.doorbells 5 [] }
  else if id = 0x0202 then retarget (updateSust (putPolicy s id v))
  else putPolicy s id v

/-- POLICY_SET (R384): every value is applied, or none when one is invalid. -/
def execPolicySet (h : CmdHdr) (entries : List (Nat × Nat)) (s : State) : Host.Outcome State Fault Refusal :=
  hostCmd h ⟨0x0011, [.own], false, 0⟩ (fun s _ =>
    if entries.all fun e => policyOk e.1 e.2 then done (entries.foldl (fun s e => applyPolicy s e.1 e.2) s) h 0x0011 []
    else rep s h 0x0011 St.malformed 0 []) s

/-- POLICY_TAKE_EFFECT (R385): 10 ms after its DONE a port, address or MTU value takes effect. -/
def execPolicyTakeEffect (id : Nat) (s : State) : Host.Outcome State Fault Refusal :=
  .next (match s.policyDue.find? fun e => e.1 == id && decide (e.2.2 + 10000000 ≤ s.now) with
    | some e => putPolicy { s with policyDue := s.policyDue.filter fun x => x != e } id e.2.1
    | none => s)

/-- PORT_RETRAIN (R359): a physical port has retrained; its split and modes are those of PORT_MODE. Without training,
or with a faulty lane, a logical port acts as DISABLED (R513). -/
def execPortRetrain (he : Nat) (trained : Bool) (s : State) : Host.Outcome State Fault Refusal :=
  .next (
    let v := policy s 0x0108
    let split := nbit v (8 + he)
    { s with ports := s.ports.mapIdx fun n p =>
        if n / 2 = he ∧ p.retraining then
          let mode := nbits v (2 * n) 2
          let present := n % 2 == 0 || split
          { p with
            retraining := false, split := split, mode := mode
            linkUp := trained && present && mode != 0 && !p.laneFault && !portOos s n }
        else p })

/-- Count a drop of a logical port: 0 by R360, 1 by R365, 2 by R361, 3 messages by R370. The relay has no counters. -/
def countDrop (s : State) (ep j : Nat) : State :=
  { s with ports := lmod s.ports ep fun p => { p with drops := bump p.drops j } }

/-! ### Frames at an ASKEST port (R358, R360, R361) -/

/-- A frame under the SAK of a port: with a valid SecTAG and ICV, and a packet number within the replay window of the
policy. -/
def macsecIn (s : State) (ep : Nat) (p : HostPort) (k : Sak) (e : Eth) : Option (State × Eth) :=
  (unsecure k (Nat.max 1 (p.rxPn - nbits (policy s 0x010A) 8 16)) e).map fun x =>
    ({ s with ports := lset s.ports ep { p with rxPn := Nat.max p.rxPn (x.1 + 1) } }, x.2)

/-- A frame that an ASKEST port takes: Ethernet II with an FCS that agrees (R358); on a port with MACsec enabled, one that
verifies (R361); and with the tag that the port's VLAN policy requires (R360). Any other is dropped and counted. -/
def takeFrame (s : State) (ep : Nat) (frame : Bytes) : State × Option Eth :=
  let vlan (s : State) (e : Eth) : State × Option Eth :=
    let want := nbits (policy s 0x0109) (12 * ep) 12
    if (if want = 0 then e.tag.isNone else e.tag.isSome && e.vid == want) then (s, some e) else (countDrop s ep 0, none)
  match frameIn frame, s.ports[ep]? with
  | some e, some p =>
    if macsecOn s ep then
      match p.sak.bind fun k => macsecIn s ep p k e with
      | some (s, e) => vlan s e
      | none => (countDrop s ep 2, none)
    else vlan s e
  | _, _ => (countDrop s ep 0, none)

/-! ### Addresses (R360, R376) -/

/-- The entry of the relay set that holds an address. -/
def relayOf (s : State) (v6 : Bool) (a : Nat) : Option RelayEntry :=
  s.relaySet.find? fun e => a != 0 && (if v6 then e.ipv6 else e.ipv4) == a

/-- Whether the device answers address resolution for an address: its own, or one of its relay set (R360, R376). -/
def answersFor (s : State) (v6 : Bool) (ip : Nat) : Bool := ownAddr s v6 == some ip || (relayOf s v6 ip).isSome

/-- Answer an address resolution for an address with a frame (R360). -/
def resolve (s : State) (ep ip dst kind : Nat) (body : Bytes) : State :=
  let s := { s with ports := lmod s.ports ep fun p => { p with answers := p.answers ++ [ip] } }
  sendEth s ep dst kind body

/-- The MAC address of a logical port. -/
def portMac (s : State) (ep : Nat) : Nat := ((s.ports[ep]?).map HostPort.mac).getD 0

/-- Whether the mask ROM runs the boot link on a logical port: HE_0 in AWAIT_FW with BOOT_SOURCE 1 (R539). -/
def bootLink (s : State) (ep : Nat) : Bool := ep == 0 && s.boot.state == 1 && s.boot.source == 1

/-- A frame that the mask ROM takes on the boot link: no MACsec, no VLAN (R539). -/
def bootFrame (frame : Bytes) : Option Eth := (frameIn frame).filter fun e => e.tag.isNone

/-- BOOT_ADDR of a family (R536). -/
def bootAddr (s : State) (v6 : Bool) : Option Nat :=
  s.boot.cfg.bind fun c => if c.bootV6 = v6 then some c.bootAddr else none

/-- Send a frame on the boot link. -/
def sendBoot (s : State) (dst kind : Nat) (body : Bytes) : State :=
  { s with wire := s.wire ++ [(0, frameOut (be 6 dst ++ be 6 (portMac s 0) ++ etherData 0 kind body))] }

/-- ARP_REQUEST (R360; RFC 826): answered for an own or a relayed address. Any other ARP is dropped and counted. On the
boot link the mask ROM answers for BOOT_ADDR only (R539). -/
def execArpRequest (ep : Nat) (frame : Bytes) (s : State) : Host.Outcome State Fault Refusal :=
  .next (
    if bootLink s ep then
      match (bootFrame frame).bind arpOf with
      | some (mac, sender, ip) =>
        if bootAddr s false = some ip then sendBoot s mac 0x0806 (arpReply (portMac s 0) ip mac sender) else s
      | none => s
    else if !portServes s ep 1 then s
    else
      match takeFrame s ep frame with
      | (s, none) => s
      | (s, some e) =>
        match arpOf e with
        | some (mac, sender, ip) =>
          if answersFor s false ip then resolve s ep ip mac 0x0806 (arpReply (portMac s ep) ip mac sender)
          else countDrop s ep 0
        | none => countDrop s ep 0)

/-- NEIGHBOR_SOLICITATION (R360; RFC 4861): answered for an own or a relayed address. Any other ICMPv6 is dropped and
counted. On the boot link the mask ROM answers for BOOT_ADDR only (R539). -/
def execNeighborSolicitation (ep : Nat) (frame : Bytes) (s : State) : Host.Outcome State Fault Refusal :=
  .next (
    if bootLink s ep then
      match bootFrame frame with
      | some e =>
        match solicitOf e with
        | some (sender, ip) =>
          if bootAddr s true = some ip then sendBoot s e.src 0x86DD (advertisement (portMac s 0) ip sender) else s
        | none => s
      | none => s
    else if !portServes s ep 1 then s
    else
      match takeFrame s ep frame with
      | (s, none) => s
      | (s, some e) =>
        match solicitOf e with
        | some (sender, ip) =>
          if answersFor s true ip then resolve s ep ip e.src 0x86DD (advertisement (portMac s ep) ip sender)
          else countDrop s ep 0
        | none => countDrop s ep 0)

/-- MKA_FRAME (R361): key agreement on an ASKEST port that has a CAK. The key server is the one with the lower priority
value, then the lower SCI (IEEE 802.1X; log 97): it gives the SAK, here a free value where the device is the server. The
SAK is loaded, and the packet numbers begin anew. -/
def execMkaFrame (ep peerPrio peerSci : Nat) (peerSak : Option Sak) (s : State) : Host.Outcome State Fault Refusal :=
  .next (match s.ports[ep]? with
    | some p =>
      if !(portServes s ep 1 && macsecOn s ep && p.cak.isSome) then s
      else
        let put (s : State) (k : Sak) : State :=
          { s with ports := lset s.ports ep { p with sak := some k, macsecUp := true, rxPn := 1, txPn := 1 } }
        let mine := nbits (policy s 0x010A) 24 8
        if mine < peerPrio ∨ (mine = peerPrio ∧ p.mac * 65536 + 1 < peerSci) then
          let (key, s) := drawBytes s 32
          let (salt, s) := drawBytes s 12
          put s ⟨key, salt, (((p.sak.map Sak.an).getD 3) + 1) % 4, peerSci, 2, 1⟩
        else match peerSak with
          | some k => put s k
          | none => s
    | none => s)

/-- LANE_SHORT (R513, R445, R244): the driver of the lane is disabled and the lane has lost lock. A torus port (kind 0)
retrains, the logical ports on an Ethernet port (kind 1) retrain, a memory channel (kinds 2 and 3) pauses for a
retrain. -/
def execLaneShort (kind port lane : Nat) (s : State) : Host.Outcome State Fault Refusal :=
  .next (match kind with
    | 0 => { s with torus := lmod s.torus port fun p =>
        { p with retraining := true, lanesFailed := nset p.lanesFailed lane } }
    | 1 =>
      { s with ports := s.ports.mapIdx fun n p =>
          if n / 2 = port ∧ (p.split = false ∨ n % 2 = lane / 4) then { p with linkUp := false, retraining := true } else p }
    | 2 => { s with memH := { s.memH with
      retraining := nset s.memH.retraining port, shorted := s.memH.shorted ++ [(port, lane)] } }
    | 3 => { s with memB := { s.memB with
      retraining := nset s.memB.retraining port, shorted := s.memB.shorted ++ [(port, lane)] } }
    | _ => s)

/-! ### Packets (R360 to R365) -/

/-- Whether the session's replay window accepts a SEQUENCE (R365): one above the highest accepted, or one within 1,024
below it that has not been accepted. Packets are numbered from 1. -/
def seqOk (se : Session) (q : Nat) : Bool :=
  decide (0 < q) && (decide (se.rxHigh < q) || (decide (se.rxHigh ≤ q + 1024) && !se.rxSeen.contains q))

/-- The window after a SEQUENCE has been accepted. -/
def seqTake (se : Session) (q : Nat) : Session :=
  let high := Nat.max se.rxHigh q
  { se with rxHigh := high, rxSeen := (se.rxSeen ++ [q]).filter fun x => decide (high ≤ x + 1024) }

/-- Bytes of the input budget that sessions satisfying p take (R370, R389): messages under reassembly, messages whose
descriptors wait, chunks held, and request input that no galley has taken. -/
def inputUse (s : State) (p : Nat → Bool) : Nat :=
  ((s.reasm.filter fun x => p x.session).map fun x => (x.parts.map fun e => e.2.length).foldl (· + ·) 0).foldl (· + ·) 0 +
  ((s.doorbells.flatMap id).map fun d => if p d.session then d.body.length else 0).foldl (· + ·) 0 +
  ((s.heldChunks.filter fun x => p x.1).map fun x => x.2.2.2.2.length).foldl (· + ·) 0 +
  ((s.reqs.filter fun e => p e.2.session && !e.2.state.final).map fun e =>
    (e.2.input.map fun c => c.2.length).foldl (· + ·) 0 - e.2.taken).foldl (· + ·) 0

/-- Whether an input of n bytes would exceed the session's or the device's budget (R370). -/
def overBudget (s : State) (session n : Nat) : Bool :=
  decide (8388608 < inputUse s (· == session) + n ∨ 33554432 < inputUse s (fun _ => true) + n)

/-- Opcodes that the command reference defines (R384 to R390). -/
def knownOpcodes : List Nat :=
  [0x01, 0x02, 0x03, 0x04, 0x05] ++ List.range' 0x10 8 ++ List.range' 0x20 5 ++ List.range' 0x30 11 ++ List.range' 0x40 8 ++
    List.range' 0x50 5 ++ List.range' 0x60 4 ++ [0x70, 0x71, 0x80, 0x90, 0xA0]

/-- A reply of the datapath to a message (R46, R370, R373): it ends no command that is live under the REQUEST_ID. -/
def portReply (s : State) (ep session opcode reqId status detail retry : Nat) : State :=
  let r := { mkReply ep session opcode reqId status detail [] with retryAfter := retry }
  match liveOf s session reqId, kget s.sessions session with
  | some _, some se => conflictReply s se r
  | _, _ => emitReply s r

/-- A complete message (R46, R371, R373 check 1): a retransmission re-sends the latest reply, an id that is live under
another opcode conflicts, an unknown opcode and a full doorbell are answered, and every other message becomes a
descriptor. -/
def complete (s : State) (ep : Nat) (x : Reasm) (body : Bytes) : State :=
  let waits := (s.doorbells.flatMap id).any fun d =>
    d.session == x.session && d.opcode == x.opcode && d.reqId == x.reqId && !isChunked x.opcode
  match liveOf s x.session x.reqId, keptFinal s x.session x.opcode x.reqId, kget s.sessions x.session with
  | some l, _, some se =>
    if l.opcode ≠ x.opcode then conflictReply s se (mkReply ep x.session x.opcode x.reqId St.malformed 0x0A0A [])
    else if isChunked x.opcode then push s ep x body
    else resendReply s l.latest
  | none, some f, _ => if isChunked x.opcode then push s ep x body else resendReply s (some f.reply)
  | _, _, _ =>
    if waits then s
    else if !knownOpcodes.contains x.opcode then portReply s ep x.session x.opcode x.reqId St.malformed 0x0A01 0
    else push s ep x body
where
  /-- Write the descriptor, or answer BUSY when the queue is full. -/
  push (s : State) (ep : Nat) (x : Reasm) (body : Bytes) : State :=
    if 1024 ≤ (s.doorbells.getD ep []).length then portReply s ep x.session x.opcode x.reqId St.busy 0x0A06 10
    else
      { s with doorbells := lmod s.doorbells ep fun q => q ++
        [{ session := x.session, opcode := x.opcode, reqId := x.reqId, dscp := x.dscp, src := x.src, entry := x.entry
           firstNs := x.firstNs, writtenNs := s.now, body := body }] }

/-- Put a packet with its opened payload into its message (R370). -/
def reassemble (s : State) (ep : Nat) (entry : Option (Nat × Nat)) (k : Packet) : State :=
  let same (x : Reasm) : Bool := x.session == k.session && x.opcode == k.opcode && x.reqId == k.reqId
  let old := s.reasm.find? same
  if old.isNone && overBudget s k.session k.payload.length then
    let (n, s) := drawNat s
    portReply s ep k.session k.opcode k.reqId St.busy 0x0A07 (n % 2 ^ 32)
  else
    let x : Reasm := old.getD
      { session := k.session, opcode := k.opcode, reqId := k.reqId, ep := ep, firstNs := k.ns, dscp := k.dscp
        src := k.src, entry := entry, parts := [], last := none }
    let x := { x with
      parts := kset x.parts k.frag k.payload, last := if nbit k.flags 14 then x.last else some k.frag }
    let s := { s with reasm := s.reasm.filter fun y => !same y }
    let len : Nat := (x.parts.map fun e => e.2.length).foldl (· + ·) 0
    if 4194304 < len then
      portReply (countDrop s ep 3) ep k.session k.opcode k.reqId St.tooLarge 0x0A04 0
    else
      match x.last with
      | some n =>
        if (List.range (n + 1)).all fun i => (kget x.parts i).isSome then
          complete s ep x ((List.range (n + 1)).flatMap fun i => kgetD x.parts i [])
        else { s with reasm := s.reasm ++ [x] }
      | none => { s with reasm := s.reasm ++ [x] }

/-- The payload of a packet that the session's key opens: GCM with the header as additional data (R365). -/
def openPayload (se : Session) (k : Packet) : Option Bytes :=
  match se.keyHD with
  | some key => gcmOpen key (askestNonce k.session k.seq) k.header k.payload
  | none => none

/-- An Askest packet at the port it is for: an EP_n (0 to 3) or the torus relay (4) (R362 to R365). A packet that
authenticates moves the session's reply address to its source (R369). -/
def receive (s : State) (ep : Nat) (entry : Option (Nat × Nat)) (k : Packet) : State :=
  if k.payload.length ≠ k.length + 16 ∨ maxPayload s < k.length then s
  else if k.flags % 16384 ≠ 0 ∨ nbit k.flags 15 then s
  else if k.magic ≠ 0x5A39 ∨ k.version ≠ 1 then countDrop s ep 1
  else if k.session = 0 then
    if k.opcode = 0x0001 ∧ k.seq = 0 then reassemble s ep entry { k with payload := k.payload.take k.length }
    else countDrop s ep 1
  else
    match kget s.sessions k.session with
    | none => countDrop s ep 1
    | some se =>
      match openPayload se k with
      | none => countDrop s ep 1
      | some data =>
        if !seqOk se k.seq then countDrop s ep 1
        else
          let se := { seqTake se k.seq with lastNs := s.now, ep := ep, src := k.src, relayEntry := entry }
          reassemble { s with sessions := kset s.sessions k.session se } ep entry { k with payload := data }

/-! ### The relay (R376, R377) -/

/-- What a relay frame carries, in the model's encoding (R376; log 66): the entry device with its port, the target, the MAC
address of the sender, the IP family, the first-byte stamp and the packet. -/
def relayBytes (f : RelayFrame) : Bytes :=
  le 4 f.entry ++ le 1 f.entryPort ++ le 4 f.target ++ le 6 f.mac ++ le 1 (b2n f.v6) ++ le 8 f.ns ++ le 4 f.packet.length ++
    f.packet

/-- A relay frame leaves towards a device (R459, R461); with a closed link on its way it is dropped and counted. -/
def sendRelay (s : State) (target : Nat) (f : RelayFrame) : State :=
  let dropped := { s with health := { s.health with relayDrop := sat32 s.health.relayDrop 1 } }
  match s.boot.cfg with
  | none => dropped
  | some c =>
    match routePort c.placement (wholeTorus c.placement) target with
    | none => dropped
    | some n =>
      match s.torus[n]? with
      | none => dropped
      | some p =>
        if p.state < 4 then dropped
        else { modPort s n (fun p => p.sendMessage 2 (relayBytes f)) with relayOut := s.relayOut ++ [(target, f)] }

/-- ASKEST_PACKET (R360 to R365, R370, R376): a frame at an ASKEST port. An IP packet with a UDP datagram to ASKEST_PORT is
received if it is for this device, and wrapped and sent across the torus if it is for an address of the relay set; every
other is dropped and counted. Before READY, packets are dropped without reply (R533). -/
def execAskestPacket (ep : Nat) (frame : Bytes) (ns : Nat) (s : State) : Host.Outcome State Fault Refusal :=
  .next (
    if (s.boot.state ≠ 4 ∧ s.boot.state ≠ 5) ∨ portServes s ep 1 = false then s
    else
      match takeFrame s ep frame with
      | (s, none) => s
      | (s, some e) =>
        let v6 := e.kind == 0x86DD
        match (if e.kind = 0x0800 ∨ v6 then datagramOf v6 e.body else none) with
        | none => countDrop s ep 0
        | some d =>
          if d.dstPort ≠ policy s 0x0101 then countDrop s ep 0
          else if ownAddr s v6 = some d.dst then
            match packetOf d e.src ns with
            | some k => receive s ep none k
            | none => s
          else
            match relayOf s v6 d.dst with
            | some r =>
              let target := coordIndex r.x r.y r.z
              sendRelay s target ⟨myIndex s, ep, target, e.src, v6, e.body, ns⟩
            | none => countDrop s ep 0)

/-- RELAY_FRAME (R376, R377): forwarded, or received on the torus relay doorbell at its target. -/
def execRelayFrame (port : Nat) (f : RelayFrame) (s : State) : Host.Outcome State Fault Refusal :=
  .next (match s.torus[port]? with
    | none => s
    | some p =>
      if p.state < 4 then s
      else if f.target ≠ myIndex s then sendRelay s f.target f
      else if s.boot.state ≠ 4 ∧ s.boot.state ≠ 5 then s
      else
        match (datagramOf f.v6 f.packet).bind fun d => packetOf d f.mac f.ns with
        | some k => receive s 4 (some (f.entry, f.entryPort)) k
        | none => s)

/-- RELAY_REPLY (R377): a packet of a reply goes from the device that answers to the entry device, over devices between
them, and leaves there by the port that the request arrived on, with the answering device's address as source. -/
def execRelayReply (f : RelayFrame) (s : State) : Host.Outcome State Fault Refusal :=
  .next (
    if s.relayWire.contains f then
      let s := { s with relayWire := s.relayWire.erase f }
      sendRelay s f.entry { f with target := myIndex s }
    else if f.entry = myIndex s then
      if portServes s f.entryPort 1 && s.relaySet.any fun e => coordIndex e.x e.y e.z == f.target then
        let s := { s with ports := lmod s.ports f.entryPort fun p => { p with relayed := p.relayed ++ [(f.target, f.packet)] } }
        sendEth s f.entryPort f.mac (ipKind f.v6) f.packet
      else s
    else sendRelay s f.entry f)

/-- REASSEMBLY_TIMEOUT (R370): a message incomplete 10 ms after its first packet is discarded. -/
def execReassemblyTimeout (session opcode reqId : Nat) (s : State) : Host.Outcome State Fault Refusal :=
  .next (match s.reasm.find? fun x => x.session == session && x.opcode == opcode && x.reqId == reqId with
    | some x =>
      if x.firstNs + 10000000 ≤ s.now then
        let s := { s with reasm := s.reasm.filter fun y => y != x }
        portReply (countDrop s x.ep 3) x.ep session opcode reqId St.malformed 0x0A05 0
      else s
    | none => s)

/-- HELD_CHUNK_TIMEOUT (R389): no OFFSET 0 chunk came within FILE_IDLE of the first held chunk. -/
def execHeldChunkTimeout (session reqId : Nat) (s : State) : Host.Outcome State Fault Refusal :=
  .next (
    match s.heldChunks.find? (isHeldOf session reqId) with
    | some x =>
      if x.2.2.1 + policy s 0x0107 * 1000000 ≤ s.now then
        portReply { s with heldChunks := s.heldChunks.filter fun y => !isHeldOf session reqId y } 0 session 0x0052 reqId St.cancelled 0x0A09 0
      else s
    | none => s)

end Sys2Proof.Machine
end

