-- ==== Sys2Proof/Machine/Vector.lean ====
section
/-! DEFINITION. The operation slots of the vector engine (R108, R109, R118 to R131): each runs as the next slot of the
chain of a unit's firing in progress (R154). -/

namespace Sys2Proof.Machine

/-! ### The slot at hand -/

/-- What an operation slot runs with: chase, tile pair, unit and its configuration, the tile's configuration, the
firing, the operation index (R109) and the slot word. -/
structure SlotCtx where
  c : Nat
  t : Nat
  fu : Nat
  cfg : TileCfg
  u : UnitCfg
  f : Firing
  idx : Nat
  word : Nat

/-- The slot that a unit's firing in progress runs next, when its opcode is `opc` and it holds its registers (R104). -/
def slotAt (s : State) (t fu opc : Nat) : Option SlotCtx :=
  let x := tile s t
  match liveTile s t, x.active, unitCfg x fu, (fuOf x fu).firing with
  | some c, some cfg, some u, some f =>
    let idx := u.slotFirst + f.pc
    let w := (kgetD cfg.slots idx 0).toNat
    if u.func = 0 ∧ f.pc < u.slotCount ∧ f.held.isSome ∧ slotOpc w = opc then some ⟨c, t, fu, cfg, u, f, idx, w⟩ else none
  | _, _, _, _ => none

/-- Add a scalar result to the firing in progress (R150). -/
def pushScalar (s : State) (k : SlotCtx) (v : Scalar) : State :=
  modFiring s k.t k.fu fun f => { f with scalars := f.scalars ++ [v] }

/-- Format of the scalar that a slot produces: FMT of EXTR, INT32 of MPOP and FSUM (R119, R157). -/
def scalarFmt (w : Nat) : Nat := if slotOpc w = 0x09 then nbits w 52 4 else F.int32

/-- The slot at hand is done: its registers are released, the chain goes on to its next slot, landing slots read for the
last time are released, and the register arbiter serves what waits (R104, R105, R154, R169). -/
def slotDone (s : State) (c t fu : Nat) (u : UnitCfg) : State :=
  let s := modFiring s t fu fun f => { f with pc := f.pc + 1, held := none, beganNs := s.now }
  issueRegs (releaseRead (unstallOn s c (unitKey t fu) 6) c t fu u) c t

/-- Run the slot: a live firing has the operation's effect, a void one only the void scalar that its slot produces
(R159); either way the chain goes on to its next slot. -/
def runSlot (s : State) (t fu opc : Nat) (op : State → SlotCtx → State) : State :=
  match slotAt s t fu opc with
  | none => s
  | some k =>
    let s := if k.f.live then op s k
      else if producesScalar (slotOpc k.word) then pushScalar s k ⟨0, scalarFmt k.word, false, false⟩ else s
    slotDone s k.c t fu k.u

/-- The vector slot at hand. -/
def SlotCtx.v (k : SlotCtx) : VSlot := VSlot.ofWord k.word

/-- The random number of element i, for stochastic rounding (R92). -/
def slotRandom (s : State) (k : SlotCtx) (rnd i : Nat) : Nat :=
  if rnd = 2 then srRandom (chase s k.c).seed k.idx k.t (tile s k.t).imp k.f.tag i else 0

/-! ### Elementwise operations -/

/-- Lists of operands turned into one list of operands for each position. -/
def columns : Nat → List (List Elt) → List (List Elt)
  | 0, _ => []
  | n + 1, ls => (ls.map fun l => l.headD (0, false)) :: columns n (ls.map List.tail)

/-- Results of an elementwise operation: at an active position its value, spoiled when an operand there is (R289), and
its flags; at a masked position nothing (R129). -/
def mapElts (active : Nat → Bool) (op : Nat → List Nat → Nat × Flags) : Nat → List (List Elt) →
    List (Option Elt × Nat × Flags)
  | _, [] => []
  | j, es :: r =>
    (if active j then
      let (v, fl) := op j (es.map Prod.fst)
      (some (v, es.any Prod.snd), j, fl)
    else (none, j, Fl.none)) :: mapElts active op (j + 1) r

/-- An elementwise operation in the governing view `gov`: sources by format and register, destination format; it
writes the group DST and ORs its flags into the flag slots (R130). -/
def elementwise (s : State) (k : SlotCtx) (gov dst : Nat) (srcs : List (Nat × Nat))
    (op : Nat → List Nat → Nat × Flags) : State :=
  modTile s k.t fun x =>
    let n := viewLen gov
    let rs := mapElts (activeAt x k.v gov) op 0 (columns n (srcs.map fun e => readView x gov e.1 e.2))
    orFlags (writeView x gov dst k.v.dst (rs.map Prod.fst)) (rs.map Prod.snd)

/-- One operand in the slot's FMT. -/
def unary (s : State) (k : SlotCtx) (op : Nat → Nat → Nat × Flags) : State :=
  let f := k.v.fmt
  elementwise s k f f [(f, k.v.srca)] fun j l => op (slotRandom s k k.v.rnd j) (l.getD 0 0)

/-- Two operands in the slot's FMT. -/
def binary (s : State) (k : SlotCtx) (op : Nat → Nat → Nat → Nat × Flags) : State :=
  let f := k.v.fmt
  elementwise s k f f [(f, k.v.srca), (f, k.v.srcb)] fun j l =>
    op (slotRandom s k k.v.rnd j) (l.getD 0 0) (l.getD 1 0)

/-- A bitwise operation of two elements. -/
def bitwise (s : State) (k : SlotCtx) (op : Nat → Nat → Nat) : State := binary s k fun _ a b => (op a b, Fl.none)

/-- The rounding mode of the slot. -/
def SlotCtx.rnd (k : SlotCtx) : Rnd := Rnd.ofCode k.v.rnd

/-- MOV (R119). -/
def execMov (tile fu : Nat) (s : State) : Host.Outcome State Fault Refusal :=
  .next (runSlot s tile fu 0x01 fun s k => unary s k fun _ a => (a, Fl.none))

/-- ADD (R119). -/
def execAdd (tile fu : Nat) (s : State) : Host.Outcome State Fault Refusal :=
  .next (runSlot s tile fu 0x20 fun s k => binary s k fun u a b => elemAdd k.v.fmt k.rnd u a b)

/-- SUB (R119). -/
def execSub (tile fu : Nat) (s : State) : Host.Outcome State Fault Refusal :=
  .next (runSlot s tile fu 0x21 fun s k => binary s k fun u a b => elemSub k.v.fmt k.rnd u a b)

/-- MUL (R119). -/
def execMul (tile fu : Nat) (s : State) : Host.Outcome State Fault Refusal :=
  .next (runSlot s tile fu 0x22 fun s k => binary s k fun u a b => elemMul k.v.fmt k.rnd u a b)

/-- FMA (R119). -/
def execFma (tile fu : Nat) (s : State) : Host.Outcome State Fault Refusal :=
  .next (runSlot s tile fu 0x23 fun s k =>
    let f := k.v.fmt
    elementwise s k f f [(f, k.v.srca), (f, k.v.srcb), (f, k.v.srcc)] fun j l =>
      elemFma f k.rnd (slotRandom s k k.v.rnd j) (l.getD 0 0) (l.getD 1 0) (l.getD 2 0))

/-- DIV (R119). -/
def execDiv (tile fu : Nat) (s : State) : Host.Outcome State Fault Refusal :=
  .next (runSlot s tile fu 0x25 fun s k => binary s k fun u a b => elemDiv k.v.fmt k.rnd u a b)

/-- SQRT (R119). -/
def execSqrt (tile fu : Nat) (s : State) : Host.Outcome State Fault Refusal :=
  .next (runSlot s tile fu 0x26 fun s k => unary s k fun u a => elemSqrt k.v.fmt k.rnd u a)

/-- MIN (R119, R120). -/
def execMin (tile fu : Nat) (s : State) : Host.Outcome State Fault Refusal :=
  .next (runSlot s tile fu 0x27 fun s k => binary s k fun _ a b => elemMinMax false k.v.fmt a b)

/-- MAX (R119, R120). -/
def execMax (tile fu : Nat) (s : State) : Host.Outcome State Fault Refusal :=
  .next (runSlot s tile fu 0x28 fun s k => binary s k fun _ a b => elemMinMax true k.v.fmt a b)

/-- ABS (R119). -/
def execAbs (tile fu : Nat) (s : State) : Host.Outcome State Fault Refusal :=
  .next (runSlot s tile fu 0x29 fun s k => unary s k fun _ a => elemAbs k.v.fmt a)

/-- NEG (R119). -/
def execNeg (tile fu : Nat) (s : State) : Host.Outcome State Fault Refusal :=
  .next (runSlot s tile fu 0x2A fun s k => unary s k fun _ a => elemNeg k.v.fmt a)

/-- AND (R119). -/
def execAnd (tile fu : Nat) (s : State) : Host.Outcome State Fault Refusal :=
  .next (runSlot s tile fu 0x2B fun s k => bitwise s k fun a b => Nat.land a b)

/-- OR (R119). -/
def execOr (tile fu : Nat) (s : State) : Host.Outcome State Fault Refusal :=
  .next (runSlot s tile fu 0x2C fun s k => bitwise s k fun a b => Nat.lor a b)

/-- XOR (R119). -/
def execXor (tile fu : Nat) (s : State) : Host.Outcome State Fault Refusal :=
  .next (runSlot s tile fu 0x2D fun s k => bitwise s k fun a b => Nat.xor a b)

/-- NOT (R119). -/
def execNot (tile fu : Nat) (s : State) : Host.Outcome State Fault Refusal :=
  .next (runSlot s tile fu 0x2E fun s k => unary s k fun _ a =>
    (2 ^ fmtBits k.v.fmt - 1 - maskFmt k.v.fmt a, Fl.none))

/-- A shift: its count is IMM[4:0] when SRCB is 0, else the element of b (R119, R120). -/
def shift (s : State) (k : SlotCtx) (op : Nat → Nat → Nat → Nat) : State :=
  if k.v.srcb = 0 then unary s k fun _ a => (op k.v.fmt (k.v.imm % 32) a, Fl.none)
  else binary s k fun _ a b => (op k.v.fmt (maskFmt k.v.fmt b) a, Fl.none)

/-- SHL (R119, R120). -/
def execShl (tile fu : Nat) (s : State) : Host.Outcome State Fault Refusal :=
  .next (runSlot s tile fu 0x2F fun s k => shift s k elemShl)

/-- SHR (R119, R120). -/
def execShr (tile fu : Nat) (s : State) : Host.Outcome State Fault Refusal :=
  .next (runSlot s tile fu 0x30 fun s k => shift s k elemShr)

/-- A transcendental function by its opcode (R122, R123). -/
def transcSlot (s : State) (k : SlotCtx) (opc : Nat) : State :=
  unary s k fun u a => elemTransc opc k.v.fmt k.rnd u a

/-- EXP (R122, R123). -/
def execExp (tile fu : Nat) (s : State) : Host.Outcome State Fault Refusal :=
  .next (runSlot s tile fu 0x31 fun s k => transcSlot s k 0x31)

/-- LOG (R122, R123). -/
def execLog (tile fu : Nat) (s : State) : Host.Outcome State Fault Refusal :=
  .next (runSlot s tile fu 0x32 fun s k => transcSlot s k 0x32)

/-- RSQRT (R122, R123). -/
def execRsqrt (tile fu : Nat) (s : State) : Host.Outcome State Fault Refusal :=
  .next (runSlot s tile fu 0x33 fun s k => transcSlot s k 0x33)

/-- TANH (R122, R123). -/
def execTanh (tile fu : Nat) (s : State) : Host.Outcome State Fault Refusal :=
  .next (runSlot s tile fu 0x34 fun s k => transcSlot s k 0x34)

/-- ERF (R122, R123). -/
def execErf (tile fu : Nat) (s : State) : Host.Outcome State Fault Refusal :=
  .next (runSlot s tile fu 0x35 fun s k => transcSlot s k 0x35)

/-- VMUL (R74). -/
def execVmul (tile fu : Nat) (s : State) : Host.Outcome State Fault Refusal :=
  .next (runSlot s tile fu 0x50 fun s k => binary s k fun _ a b => elemVmul a b)

/-- VDIV (R74). -/
def execVdiv (tile fu : Nat) (s : State) : Host.Outcome State Fault Refusal :=
  .next (runSlot s tile fu 0x51 fun s k => binary s k fun _ a b => elemVdiv a b)

/-- CVT (R96, R103): the source is read as FMT2; the narrower view governs (R108). -/
def execCvt (tile fu : Nat) (s : State) : Host.Outcome State Fault Refusal :=
  .next (runSlot s tile fu 0x3A fun s k =>
    let v := k.v
    let gov := if viewBits v.fmt2 < viewBits v.fmt then v.fmt2 else v.fmt
    elementwise s k gov v.fmt [(v.fmt2, v.srca)] fun j l =>
      cvt v.fmt2 v.fmt k.rnd (slotRandom s k v.rnd j) (l.getD 0 0))

/-- SEL (R109, R119, R289): the selector mask is named by SRCC[2:0]; a mark on either operand marks the result. -/
def execSel (tile fu : Nat) (s : State) : Host.Outcome State Fault Refusal :=
  .next (runSlot s tile fu 0x39 fun s k =>
    modTile s k.t fun x =>
      let v := k.v
      let sel := maskReg x (v.srcc % 8)
      let a := regElts x v.fmt v.srca
      let b := regElts x v.fmt v.srcb
      putElts x v.fmt v.dst (((a.zip b).zipIdx).map fun e =>
        if activeAt x v v.fmt e.2 then some ((if sel.getLsbD (maskIdx v.fmt e.2) then e.1.1.1 else e.1.2.1), e.1.1.2 || e.1.2.2) else none))

/-- CMP (R119, R121): mask bit j for each governed position; a masked position keeps its bit, an unused bit becomes
zero (R108, R131). -/
def execCmp (tile fu : Nat) (s : State) : Host.Outcome State Fault Refusal :=
  .next (runSlot s tile fu 0x38 fun s k =>
    modTile s k.t fun x =>
      let v := k.v
      let old := maskReg x (v.dst % 8)
      let n := ((columns (viewLen v.fmt) [regElts x v.fmt v.srca, regElts x v.fmt v.srcb]).zipIdx).foldl
        (fun (m : Nat) e =>
          let bit := if activeAt x v v.fmt e.2 then
              elemCmp v.fmt (v.imm % 8) ((e.1.getD 0 (0, false)).1) ((e.1.getD 1 (0, false)).1)
            else old.getLsbD e.2
          if bit then m + 2 ^ e.2 else m) 0
      setMask x (v.dst % 8) (BitVec.ofNat 1024 n))

/-! ### Moves within a register (R119, R120) -/

/-- A result each of whose elements comes from another position of the source register; `from'` gives the source
position of row r and column c. -/
def permute (s : State) (k : SlotCtx) (src : Nat → Nat → Nat × Nat) : State :=
  modTile s k.t fun x =>
    let v := k.v
    let w := viewCols v.fmt
    let a := regElts x v.fmt v.srca
    putElts x v.fmt v.dst ((List.range (16 * w)).map fun j =>
      if activeAt x v v.fmt j then
        let (r, c) := src (j / w) (j % w)
        some (a.getD (r * w + c) (0, false))
      else none)

/-- BCR: every row is row IMM[4:0] of a. -/
def execBcr (tile fu : Nat) (s : State) : Host.Outcome State Fault Refusal :=
  .next (runSlot s tile fu 0x06 fun s k => permute s k fun _ c => (k.v.imm % 32, c))

/-- BCC: every column is column IMM[4:0] of a. -/
def execBcc (tile fu : Nat) (s : State) : Host.Outcome State Fault Refusal :=
  .next (runSlot s tile fu 0x07 fun s k => permute s k fun r _ => (r, k.v.imm % 32))

/-- ROTR: rotation within rows by IMM[4:0]. -/
def execRotr (tile fu : Nat) (s : State) : Host.Outcome State Fault Refusal :=
  .next (runSlot s tile fu 0x10 fun s k =>
    let w := viewCols k.v.fmt
    permute s k fun r c => (r, (c + w - k.v.imm % 32 % w) % w))

/-- ROTC: rotation within columns by IMM[3:0]. -/
def execRotc (tile fu : Nat) (s : State) : Host.Outcome State Fault Refusal :=
  .next (runSlot s tile fu 0x11 fun s k => permute s k fun r c => ((r + 16 - k.v.imm % 16) % 16, c))

/-- TRANS: the transpose, of each 16 × 16 half in the 16-bit view. -/
def execTrans (tile fu : Nat) (s : State) : Host.Outcome State Fault Refusal :=
  .next (runSlot s tile fu 0x12 fun s k => permute s k fun r c => (c % 16, r + 16 * (c / 16)))

/-- BFLY: exchange with the position at distance 2^IMM[2:0] along the axis IMM[8]. -/
def execBfly (tile fu : Nat) (s : State) : Host.Outcome State Fault Refusal :=
  .next (runSlot s tile fu 0x13 fun s k =>
    let d := 2 ^ (k.v.imm % 8)
    permute s k fun r c => if nbit k.v.imm 8 then (Nat.xor r d, c) else (r, Nat.xor c d))

/-! ### Scalars (R119, R120, R129) -/

/-- The token on the input that SRCB[1:0] names. -/
def SlotCtx.scalarIn (k : SlotCtx) : Token := k.f.tokOf (k.v.srcb % 4)

/-- Use the scalar of an input; a token that is no SCALAR ends the step with a forme fault (R120). -/
def withScalar (s : State) (k : SlotCtx) (op : Elt → State) : State :=
  let w := k.scalarIn
  if w.kind ≠ 1 then fabricFault s k.c 0x0103 k.t
  else op (w.payload.toNat % 2 ^ fmtBits k.v.fmt, w.spoil)

/-- BCS: every element is the scalar. -/
def execBcs (tile fu : Nat) (s : State) : Host.Outcome State Fault Refusal :=
  .next (runSlot s tile fu 0x08 fun s k => withScalar s k fun e =>
    modTile s k.t fun x =>
      putElts x k.v.fmt k.v.dst ((List.range (viewLen k.v.fmt)).map fun j =>
        if activeAt x k.v k.v.fmt j then some e else none))

/-- The position that IMM names: row [15:8], column [7:0]. -/
def SlotCtx.immPos (k : SlotCtx) : Nat := (k.v.imm / 256) * viewCols k.v.fmt + k.v.imm % 256

/-- EXTR: the element as a scalar result, void when its position is masked. -/
def execExtr (tile fu : Nat) (s : State) : Host.Outcome State Fault Refusal :=
  .next (runSlot s tile fu 0x09 fun s k =>
    let x := Sys2Proof.Machine.tile s k.t
    if activeAt x k.v k.v.fmt k.immPos then
      let e := (regElts x k.v.fmt k.v.srca).getD k.immPos (0, false)
      pushScalar s k ⟨BitVec.ofNat 64 e.1, k.v.fmt, e.2, true⟩
    else pushScalar s k ⟨0, k.v.fmt, false, false⟩)

/-- INS: one element from the scalar. -/
def execIns (tile fu : Nat) (s : State) : Host.Outcome State Fault Refusal :=
  .next (runSlot s tile fu 0x0A fun s k => withScalar s k fun e =>
    modTile s k.t fun x =>
      if activeAt x k.v k.v.fmt k.immPos then
        putElts x k.v.fmt k.v.dst ((List.range (viewLen k.v.fmt)).map fun j => if j = k.immPos then some e else none)
      else x)

/-! ### Masks and flags (R119, R120, R130) -/

/-- A mask operation on all 1,024 bits; with MEN = 1 a bit whose governing bit is 0 keeps its value. -/
def maskOp (s : State) (k : SlotCtx) (op : BitVec 1024 → BitVec 1024 → BitVec 1024) : State :=
  modTile s k.t fun x =>
    let v := k.v
    let r := op (maskReg x (v.srca % 8)) (maskReg x (v.srcb % 8))
    let gov := if v.men then maskReg x v.msel else BitVec.allOnes 1024
    setMask x (v.dst % 8) ((r &&& gov) ||| (maskReg x (v.dst % 8) &&& ~~~gov))

/-- MAND (R120). -/
def execMand (tile fu : Nat) (s : State) : Host.Outcome State Fault Refusal :=
  .next (runSlot s tile fu 0x3C fun s k => maskOp s k fun a b => a &&& b)

/-- MOR (R120). -/
def execMor (tile fu : Nat) (s : State) : Host.Outcome State Fault Refusal :=
  .next (runSlot s tile fu 0x3D fun s k => maskOp s k fun a b => a ||| b)

/-- MXOR (R120). -/
def execMxor (tile fu : Nat) (s : State) : Host.Outcome State Fault Refusal :=
  .next (runSlot s tile fu 0x3E fun s k => maskOp s k fun a b => a ^^^ b)

/-- MNOT (R120). -/
def execMnot (tile fu : Nat) (s : State) : Host.Outcome State Fault Refusal :=
  .next (runSlot s tile fu 0x3F fun s k => maskOp s k fun a _ => ~~~a)

/-- MPOP (R120): the bits of the mask that the FMT view uses and that are not masked. -/
def execMpop (tile fu : Nat) (s : State) : Host.Outcome State Fault Refusal :=
  .next (runSlot s tile fu 0x3B fun s k =>
    let x := Sys2Proof.Machine.tile s k.t
    let v := k.v
    let m := maskReg x (v.srca % 8)
    let n := (List.range (maskBits v.fmt)).countP fun j => m.getLsbD j && (!v.men || (maskReg x v.msel).getLsbD j)
    pushScalar s k ⟨BitVec.ofNat 64 n, F.int32, false, true⟩)

/-- FRD (R119): flag IMM[2:0] of the flag slots as mask bits [511:0], whatever MEN (DESIGN CHOICE, log 87). -/
def execFrd (tile fu : Nat) (s : State) : Host.Outcome State Fault Refusal :=
  .next (runSlot s tile fu 0x58 fun s k =>
    modTile s k.t fun x =>
      let n := ((x.flags.take 512).zipIdx).foldl (fun (m : Nat) e => if Flags.bit e.1 (k.v.imm % 8) then m + 2 ^ e.2 else m) 0
      setMask x (k.v.dst % 8) (BitVec.ofNat 1024 n))

/-- FPRD (R119): flag IMM[2:0] of accumulator set IMM[8] as the masks M_DST and M_(DST + 1), whatever MEN (DESIGN
CHOICE, log 87). -/
def execFprd (tile fu : Nat) (s : State) : Host.Outcome State Fault Refusal :=
  .next (runSlot s tile fu 0x59 fun s k =>
    modTile s k.t fun x =>
      let n := ((accSet x (b2n (nbit k.v.imm 8))).zipIdx).foldl
        (fun (m : Nat) e => if Flags.bit e.1.flags (k.v.imm % 8) then m + 2 ^ e.2 else m) 0
      setMask (setMask x (k.v.dst % 8) (BitVec.ofNat 1024 n)) ((k.v.dst + 1) % 8) (BitVec.ofNat 1024 (n / 2 ^ 1024)))

/-- FSUM (R119): flag IMM[2:0] of the tile flag summary as an INT32 scalar, 0 or 1 (DEDUCED, log 35). -/
def execFsum (tile fu : Nat) (s : State) : Host.Outcome State Fault Refusal :=
  .next (runSlot s tile fu 0x5A fun s k =>
    pushScalar s k ⟨BitVec.ofNat 64 (b2n (Flags.bit (Sys2Proof.Machine.tile s k.t).summary (k.v.imm % 8))), F.int32, false, true⟩)

/-- FCLR (R119, R130). -/
def execFclr (tile fu : Nat) (s : State) : Host.Outcome State Fault Refusal :=
  .next (runSlot s tile fu 0x5B fun s k => modTile s k.t fun x => { x with flags := [], summary := 0 })

/-! ### Loads and stores (R120, R129, R131, R136 to R139, R151) -/

/-- A generator as the firing uses it: relocated by the handle on HIN when HEN names it (R151). -/
def SlotCtx.gen (k : SlotCtx) (i : Nat) : Gen :=
  let g := kgetD k.cfg.gens i default
  if k.u.hen ∧ k.u.hgen = i then
    let w := k.f.tokOf k.u.hin
    ⟨g, mtAddr w.payload, some (mtAddr w.payload + 64 * mtGran w.payload)⟩
  else ⟨g, 0, none⟩

/-- End the step when an access fell outside the bounds; outside the MT it is a violation besides (R139, R438). -/
def addressFault (s : State) (k : SlotCtx) (fx : AccFx) : State :=
  let s := violations s fx.outside
  if fx.fault then formeFault s k.c 0x0101 k.t none else s

/-- LD (R120): the walk's positions go to the elements in order. -/
def execLd (tile fu : Nat) (s : State) : Host.Outcome State Fault Refusal :=
  .next (runSlot s tile fu 0x02 fun s k =>
    let x := Sys2Proof.Machine.tile s k.t
    let v := k.v
    let g := k.gen (v.imm % 8)
    let rs := (List.range (Nat.min g.len (viewLen v.fmt))).map fun p =>
      if activeAt x v v.fmt p then let r := g.read x p; (some r.1, r.2) else (none, AccFx.ok)
    let s := modTile s k.t fun x => putElts x v.fmt v.dst (rs.map Prod.fst)
    addressFault s k (rs.foldl (fun a r => a.or r.2) AccFx.ok))

/-- Bits of granule g among the bits [b, b + w). -/
def overlapBits (b w g : Nat) : Nat := Nat.min (b + w) (512 * g + 512) - Nat.max b (512 * g)

/-- Clear the spoil bits of the granules all of whose bytes one operation has rewritten with data that is not spoiled
(R230). `ws` are the writes: bit address, width and spoil mark. -/
def clearCovered (x : Tile) (ws : List (Nat × Nat × Bool)) : Tile :=
  let gs : List Nat := ws.foldl (fun l e => nset l (e.1 / 512)) []
  let starts : List Nat := ws.foldl (fun l e => nset l e.1) []
  let w := (ws.head?.map fun e => e.2.1).getD 0
  let clean := gs.filter fun g =>
    decide (512 ≤ starts.foldl (fun (n : Nat) b => n + overlapBits b w g) 0) &&
    !(ws.any fun e => e.2.2 && decide (0 < overlapBits e.1 w g))
  { x with mtSpoil := x.mtSpoil.filter fun g => !clean.contains g }

/-- Write elements through a generator, from walk position 0 on; none is a masked position (R131). -/
def storeElts (x : Tile) (g : Gen) (es : List (Option Elt)) : Tile × AccFx :=
  let r := (es.zipIdx).foldl (fun (a : Tile × AccFx × List (Nat × Nat × Bool)) e =>
    match e.1 with
    | none => a
    | some v =>
      let w := g.write a.1 e.2 v
      let put := match g.access a.1 e.2 with
        | .at addr _ sh => a.2.2 ++ [(8 * addr + sh, fmtBits g.cfg.format, v.2 || indexSpoiled x g.cfg e.2)]
        | _ => a.2.2
      (w.1, a.2.1.or w.2, put)) (x, AccFx.ok, [])
  (clearCovered r.1 r.2.2, r.2.1)

/-- ST (R120): the elements go to the walk's positions in order. -/
def execSt (tile fu : Nat) (s : State) : Host.Outcome State Fault Refusal :=
  .next (runSlot s tile fu 0x03 fun s k =>
    let x := Sys2Proof.Machine.tile s k.t
    let v := k.v
    let g := k.gen (v.imm % 8)
    let es := ((regElts x v.fmt v.srca).take g.len).zipIdx.map fun e =>
      if activeAt x v v.fmt e.2 then some e.1 else none
    let r := storeElts x g es
    addressFault (setTile s k.t r.1) k r.2)

/-! ### Reductions (R124 to R128) -/

/-- Whether the forme of a tile pair reduces by GATHER (R124). -/
def gathers (s : State) (k : SlotCtx) : Bool := ((formeFor s k.c k.t).map fun i => i.body.gather).getD false

/-- A reduction: RSUM, RMAX or RMIN. -/
inductive RedOp where
  | sum | max | min
  deriving DecidableEq, Repr

/-- Result positions of an axis: 16 rows, the view's columns, or one (R125). -/
def redCount (axis fmt : Nat) : Nat := match axis with | 0 => 16 | 1 => viewCols fmt | _ => 1

/-- The result position of source position j. -/
def redPos (axis fmt j : Nat) : Nat := match axis with | 0 => j / viewCols fmt | 1 => j % viewCols fmt | _ => 0

/-- The destination position of result i, in the FMT2 view (R125). -/
def redDst (axis fmt2 i : Nat) : Nat := if axis = 0 then i * viewCols fmt2 else i

/-- The element picked by RMAX or RMIN: NaN wins, minus zero lies below plus zero (R120, R128). -/
def pickFV (isMax : Bool) (a b : FV) : FV :=
  match a.compare b with
  | none => .nan
  | some .lt => if isMax then b else a
  | some .gt => if isMax then a else b
  | some .eq => if a.isNeg != isMax then a else b

/-- One step of a shuffle reduction (R126): floating-point sums round to FP32, integers sum exactly. -/
def redStep (op : RedOp) (isInt : Bool) (a b : FV × Bool × Flags) : FV × Bool × Flags :=
  let sp := a.2.1 || b.2.1
  let fl := a.2.2.join b.2.2
  match op with
  | .sum =>
    let (t, f1) := a.1.add b.1
    if isInt then (t, sp, fl)
    else
      let (r, f2) := finishF fFP32 .rne 0 (t, f1)
      (fFP32.decode r, sp, fl.join (f1.join f2))
  | .max => (pickFV true a.1 b.1, sp, fl)
  | .min => (pickFV false a.1 b.1, sp, fl)

/-- Combine where an excluded position takes no part (R128). -/
def redOpt (op : RedOp) (isInt : Bool) : Option (FV × Bool × Flags) → Option (FV × Bool × Flags) →
    Option (FV × Bool × Flags)
  | none, b => b
  | a, none => a
  | some a, some b => some (redStep op isInt a b)

/-- The fixed tree of R126: p steps, each of which folds the upper half onto the lower. -/
def redTree (op : RedOp) (isInt : Bool) : Nat → List (Option (FV × Bool × Flags)) → Option (FV × Bool × Flags)
  | 0, l => l.headD none
  | p + 1, l =>
    let h := l.length / 2
    redTree op isInt p (List.zipWith (redOpt op isInt) (l.take h) (l.drop h))

/-- The value of a result that no position enters (R128). -/
def redEmpty (op : RedOp) (fmt : Nat) : FV :=
  match op, intRange fmt with
  | .sum, _ => .fin false 0 0
  | .max, some (lo, _) => FV.ofInt lo
  | .max, none => .inf true
  | .min, some (_, hi) => FV.ofInt hi
  | .min, none => .inf false

/-- Conversion of an exact reduced integer to FMT2 (R69, R96, R126). -/
def cvtReducedInt (src dst : Nat) (rnd : Rnd) (u : Nat) (v : FV) : Nat × Flags :=
  let i : Int := match v with | .fin neg m e => (if neg then -1 else 1) * (m * 2 ^ e.toNat : Nat) | _ => 0
  match intRange dst with
  | some (lo, hi) => finishI dst lo hi i
  | none =>
    if dst = F.e8m0 then (Config.cvtUnlisted src (ofSigned 64 i) % 256, Fl.none)
    else if dst ≤ 2 then cvtFlt dst rnd u v
    else
      let (x, fl) := fFP32.ofFV rnd u v
      let (y, fl2) := cvtFlt dst rnd u (fFP32.decode x)
      (y, fl.join fl2)

/-- The number of halvings of a list of n = 2^p elements. -/
def log2of (n : Nat) : Nat := Nat.log2 n

/-- The source elements of a reduction in order: none for an excluded one. -/
def redSource (x : Tile) (v : VSlot) : List (Option Elt) :=
  (regElts x v.fmt v.srca).zipIdx.map fun e => if activeAt x v v.fmt e.2 then some e.1 else none

/-- Write the results of a reduction: values, spoil marks and flags at the result positions (R125, R128). -/
def redWrite (x : Tile) (v : VSlot) (axis : Nat) (rs : List (Elt × Flags)) : Tile :=
  let at' (j : Nat) : Option Elt := ((rs.zipIdx).find? fun e => redDst axis v.fmt2 e.2 == j).map fun e => e.1.1
  let x := putElts x v.fmt2 v.dst ((List.range (viewLen v.fmt2)).map at')
  orFlags x ((rs.zipIdx).map fun e => (redDst axis v.fmt2 e.2, e.1.2))

/-- A reduction by the lane network (R126). Element i of R92 is the i-th result (DEDUCED, log 87). -/
def reduceShuffle (s : State) (k : SlotCtx) (op : RedOp) : State :=
  let v := k.v
  let axis := v.imm % 4
  let isInt := (intRange v.fmt).isSome
  modTile s k.t fun x =>
    let src := (redSource x v).zipIdx
    let rs := (List.range (redCount axis v.fmt)).map fun i =>
      let mine := (src.filter fun e => redPos axis v.fmt e.2 == i).map fun e =>
        e.1.map fun a => (decode v.fmt a.1, a.2, Fl.none)
      let (val, sp, fl) := (redTree op isInt (log2of mine.length) mine).getD (redEmpty op v.fmt, false, Fl.none)
      let u := slotRandom s k v.rnd i
      let (r, fl2) := if isInt then cvtReducedInt v.fmt v.fmt2 k.rnd u val else cvtFlt v.fmt2 k.rnd u val
      ((r, sp), fl.join fl2)
    redWrite x v axis rs

/-- The elements of a list in the order that a number names: any order, for some number. -/
def inOrder {α : Type} : Nat → Nat → List α → List α
  | 0, _, l => l
  | fuel + 1, n, l =>
    match l[n % l.length]? with
    | none => l
    | some a => a :: inOrder fuel (n / l.length) (dropAt l (n % l.length))

/-- Take one element into a gather accumulator (R127): a sum rounds at 41 bits, a maximum or minimum selects. -/
def gatherOne (op : RedOp) (fresh : Bool) (w : BitVec 51) (v : FV) : BitVec 51 × Flags :=
  match op with
  | .sum => wAdd w v
  | .max => if fresh then ((wOfFV v).1, Fl.none) else ((wOfFV (pickFV true (wDecode w) v)).1, Fl.none)
  | .min => if fresh then ((wOfFV v).1, Fl.none) else ((wOfFV (pickFV false (wDecode w) v)).1, Fl.none)

/-- A reduction by the gathering unit (R127): the elements arrive in an order that is not fixed (R98), a free value
(log 3). CHAIN starts from the accumulators, HOLD leaves the results there; either way the flags of the additions are
raised at the result positions (log 35). An integer sum out of the range of an integer FMT2 raises NV alone, and the
accumulators keep the results without HOLD too (DESIGN CHOICE, log 85, log 87). -/
def reduceGather (s : State) (k : SlotCtx) (op : RedOp) : State :=
  let v := k.v
  let axis := v.imm % 4
  let chain := nbit v.imm 3
  let hold := nbit v.imm 4
  let (n, s) := drawNat s
  modTile s k.t fun x =>
    let src := ((redSource x v).zipIdx.filterMap fun e => e.1.map fun a => (redPos axis v.fmt e.2, decode v.fmt a.1, a.2))
    let src := inOrder src.length n src
    let start := (List.range (redCount axis v.fmt)).map fun i =>
      if chain then (some ((gacc x i).val, (gacc x i).spoil), Fl.none) else ((none : Option (BitVec 51 × Bool)), Fl.none)
    let accs := src.foldl (fun (l : List (Option (BitVec 51 × Bool) × Flags)) e =>
      l.modify e.1 fun a =>
        let w := a.1.getD (0, false)
        let (r, fl) := gatherOne op a.1.isNone w.1 e.2.1
        (some (r, w.2 || e.2.2), a.2.join fl)) start
    let held := accs.map fun a => (a.1.getD ((wOfFV (redEmpty op v.fmt)).1, false), a.2)
    let x := (held.zipIdx).foldl (fun x e => setGacc x e.2 ⟨e.1.1.1, 0, e.1.1.2⟩) x
    if hold then orFlags x ((held.zipIdx).map fun e => (redDst axis v.fmt2 e.2, e.1.2))
    else
      redWrite x v axis ((held.zipIdx).map fun e =>
        let (r, fl) := cvtFlt v.fmt2 k.rnd (slotRandom s k v.rnd e.2) (wDecode e.1.1.1)
        ((r, e.1.1.2), e.1.2.join fl))

/-- A reduction by the method that the forme selects (R124). -/
def reduce (s : State) (k : SlotCtx) (op : RedOp) : State :=
  if gathers s k then reduceGather s k op else reduceShuffle s k op

/-- RSUM (R125 to R128). -/
def execRsum (tile fu : Nat) (s : State) : Host.Outcome State Fault Refusal :=
  .next (runSlot s tile fu 0x48 fun s k => reduce s k .sum)

/-- RMAX (R125 to R128). -/
def execRmax (tile fu : Nat) (s : State) : Host.Outcome State Fault Refusal :=
  .next (runSlot s tile fu 0x49 fun s k => reduce s k .max)

/-- RMIN (R125 to R128). -/
def execRmin (tile fu : Nat) (s : State) : Host.Outcome State Fault Refusal :=
  .next (runSlot s tile fu 0x4A fun s k => reduce s k .min)

/-- GADD (R119, R127): the scalar is added to gather accumulator IMM[4:0]; its flags go to that flag slot (log 35). -/
def execGadd (tile fu : Nat) (s : State) : Host.Outcome State Fault Refusal :=
  .next (runSlot s tile fu 0x4B fun s k => withScalar s k fun e =>
    modTile s k.t fun x =>
      let i := k.v.imm % 32
      let a := gacc x i
      let (r, fl) := wAdd a.val (decode k.v.fmt e.1)
      orFlag (setGacc x i ⟨r, 0, a.spoil || e.2⟩) i fl)

end Sys2Proof.Machine
end

