-- ==== Sys2Proof/Machine/Galley.lean ====
section
/-! DEFINITION. Galleys, feeders, drains and the slip path (R266 to R291). -/

namespace Sys2Proof.Machine

/-! ### Streams of a tensor (R269, R281) -/

/-- Bytes of n elements of a tensor, packed by R70. -/
def TensorCfg.packedLen (t : TensorCfg) (n : Nat) : Nat :=
  match fmtBits t.format with
  | 4 => ceilDiv n 2
  | 6 => 3 * ceilDiv n 4
  | w => n * (w / 8)

/-- Bytes of a tensor's elements in walk order. -/
def TensorCfg.streamLen (t : TensorCfg) : Nat := t.packedLen t.count

/-- Whether a descriptor reads its object through the window (R261). -/
def throughWindow (t : TensorCfg) (o : Obj) : Bool := t.tier == 1 && o.tier == 2 && !o.isMutable

/-- Where a byte of an object is read: tier, physical address; none while its window block is not filled (R261,
R263). The source of a finished move fills no window block any more: its home is read instead (R259). -/
def objPlace (t : TensorCfg) (o : Obj) (off : Nat) : Option (Bool × Nat) :=
  if throughWindow t o then
    match o.win.find? fun w => w.2.1 == some (off / blockBytes) with
    | some w => some (true, w.1 * blockBytes + off % blockBytes)
    | none => if o.window = 0 then some (o.isH, objPA o off) else none
  else some (o.isH, objPA o off)

/-- A byte of a tier with its granule's spoil mark (R241). -/
def tierByte (s : State) (p : Bool × Nat) : Nat × Bool :=
  let m := tier s p.1
  if isLost m p.1 p.2 then (0, true) else ((memRead m.bytes p.2).toNat, m.spoil.any (· == p.2 / 64))

/-- Element p of a tensor as it is read, with its spoil mark. -/
def srcElt (s : State) (t : TensorCfg) (o : Obj) (p : Nat) : Nat × Bool :=
  let (a, b, sh) := elemAddr t.format t.offset (t.elemOffset p)
  let bytes := (List.range (b - a + 1).toNat).map fun i => match objPlace t o (a.toNat + i) with
    | some q => tierByte s q
    | none => (0, false)
  (nbits (bytes.foldr (fun e v => e.1 + 256 * v) 0) sh (fmtBits t.format), bytes.any Prod.snd)

/-- Byte k of a tensor's stream; zero beyond its end. -/
def streamByte (s : State) (t : TensorCfg) (o : Obj) (k : Nat) : Byte × Bool :=
  let w := fmtBits t.format
  let p0 := 8 * k / w
  let es := ((List.range ((8 * k + 7) / w - p0 + 1)).map (p0 + ·)).map fun p =>
    if p < t.count then srcElt s t o p else (0, false)
  let v := es.foldr (fun e v => e.1 + 2 ^ w * v) 0
  (BitVec.ofNat 8 (v / 2 ^ (8 * k - p0 * w)), es.any Prod.snd)

/-- Object bytes that the elements of stream bytes [off, off + n) occupy. -/
def streamSpan (t : TensorCfg) (off n : Nat) : List Nat :=
  let w := fmtBits t.format
  ((List.range (ceilDiv (8 * (off + n)) w - 8 * off / w)).map (8 * off / w + ·)).filter (· < t.count) |>.flatMap fun p =>
    let (a, b, _) := elemAddr t.format t.offset (t.elemOffset p)
    (List.range (b - a + 1).toNat).map (a.toNat + ·)

/-- Cut a run of marked bytes into granules, the last one completed with zeros. -/
def toGranules : Nat → List (Byte × Bool) → List Granule
  | 0, _ => []
  | n + 1, l => ⟨padTo 64 ((l.take 64).map Prod.fst), (l.take 64).any Prod.snd⟩ :: toGranules n (l.drop 64)

/-! ### Inbound galleys: feeders (R269 to R279) -/

/-- The feeder engine of a tile pair's inbound galleys: FE_0 for columns 0 to 3, FE_1 for 4 to 7 (R276). -/
def feederOf (t : Nat) : Nat := 2 * (t / 64) + (if t / 8 % 8 < 4 then 0 else 1)

/-- Chunks of a stream (R269). -/
def chunkCount (d : TensorCfg) (len : Nat) : Nat := ceilDiv len (d.slotg * 64)

/-- An inbound galley whose pass injects: chase, forme, descriptor, galley and the pass (R271). -/
structure InGalley where
  c : Nat
  forme : Image
  d : TensorCfg
  g : Galley
  n : Nat
  a : ArrayPass

/-- The galley of a tile pair that a feeder or the slip path may serve now: its chase is not fenced and no power hold
lasts (R275, R521). -/
def inGalley (s : State) (t tid : Nat) : Option InGalley :=
  if s.power.hold then none
  else
    match liveTile s t, galley (tile s t) tid with
    | some c, some g =>
      match formeFor s c t with
      | some i =>
        match (galleysOf i.body 1).find? fun d => d.stile == t && d.tid == tid, g.pass with
        | some d, some n =>
          match (kgetD (chase s c).array i.formeId []).getLast? with
          | some a => if a.req = n ∧ g.passDone = false then some ⟨c, i, d, g, n, a⟩ else none
          | none => none
        | _, _ => none
      | none => none
    | _, _ => none

/-- Length of the galley's stream and the bytes of it available at the source. -/
def InGalley.stream (k : InGalley) (s : State) : Nat × Nat :=
  if k.d.gtid = 0xFFF then
    match req s k.n with
    | some r => let i := passInput r k.a; (i.2, i.1.length)
    | none => (0, 0)
  else
    match tensorOf k.forme.body k.d.gtid with
    | some t => (t.streamLen, t.streamLen)
    | none => (0, 0)

/-- Whether the galley's input goes by the slip path (R285). -/
def InGalley.slips (k : InGalley) (s : State) : Bool :=
  k.d.gtid == 0xFFF && decide ((k.stream s).1 ≤ 256 ∧ (k.stream s).1 ≤ k.d.slotg * 64)

/-- Bytes of chunk j. -/
def InGalley.chunkLen (k : InGalley) (s : State) (j : Nat) : Nat :=
  Nat.min (k.d.slotg * 64) ((k.stream s).1 - j * (k.d.slotg * 64))

/-- Whether the next chunk is available and the slot at HEAD is EMPTY (R272, R276). -/
def InGalley.fillable (k : InGalley) (s : State) : Bool :=
  !k.slips s && decide (k.g.chunk < chunkCount k.d (k.stream s).1) &&
  decide (k.g.chunk * (k.d.slotg * 64) + k.chunkLen s k.g.chunk ≤ (k.stream s).2) &&
  k.g.slots[k.g.head]? == some .empty

/-- The galleys that a feeder may serve now, by key 4096 × tile + TID. -/
def feederGalleys (s : State) (f : Nat) : List Nat :=
  s.tiles.flatMap fun e =>
    if feederOf e.1 = f then
      (e.2.galleys.filter fun g => match inGalley s e.1 g.1 with | some k => k.fillable s | none => false).map
        fun g => 4096 * e.1 + g.1
    else []

/-- The next of a rising list of keys in cyclic order after a pointer. -/
def nextCyclic (ptr : Nat) (l : List Nat) : Option Nat :=
  match l.find? (ptr < ·) with
  | some k => some k
  | none => l.head?

/-- Mark the window blocks that a read touches as read last (R262). -/
def touchWindow (s : State) (c id : Nat) (offs : List Nat) : State :=
  let touch (w : Nat × Option Nat × Nat) : Nat × Option Nat × Nat :=
    if offs.any (fun x => w.2.1 == some (x / blockBytes)) then (w.1, w.2.1, s.now) else w
  modObj s c id fun o => { o with win := o.win.map touch }

/-- Granules of a chunk of the request input, as hub SRAM gives it (R475). -/
def inputGranules (b : Bytes) (off n : Nat) (errs : List (Nat × Nat)) : List Granule :=
  toGranules (ceilDiv n 64) (hubRead (((b.drop off).take n).map fun x => (x, false)) errs)

/-- WINDOW_END that a FILE_SUBMIT may be granted now: 4 MiB beyond what the galley has taken, within the input
budgets (R284, R370, R389). -/
def windowFor (s : State) (r : Req) : Nat :=
  let held : Nat := (r.input.map fun c => c.2.length).foldl (fun a b => a + b) (0 : Nat) - r.taken
  let free := Nat.min (8388608 - inputUse s (· == r.session)) (33554432 - inputUse s (fun _ => true))
  Nat.max r.windowEnd (Nat.min (r.taken + 4194304) (r.taken + held + free))

/-- Grant a FILE_SUBMIT its window: an ACCEPTED each time WINDOW_END rises by 1 MiB (R389). -/
def grantWindow (s : State) (n : Nat) : State :=
  match req s n with
  | some r =>
    let w := windowFor s r
    if r.kind = .file ∧ !r.state.final ∧ r.windowEnd + 1048576 ≤ w then
      replyLive (modReq s n fun q => { q with windowEnd := w }) r.session r.reqId St.accepted 0 (le 8 w)
    else s
  | none => s

/-- The slot at HEAD is FILLING, and HEAD and the stream advance (R272). -/
def takeHead (g : Galley) : Galley :=
  { g with slots := lset g.slots g.head .filling, head := (g.head + 1) % g.slots.length, chunk := g.chunk + 1 }

/-- Stall of a feeder whose source is late: a block that its window lacks, or a channel, bank or die that does not serve
(R244, R245, R263, R287, R481). -/
def sourceStall (s : State) (t : TensorCfg) (o : Obj) (offs : List Nat) : Option Nat :=
  let ps := offs.map (objPlace t o)
  if ps.any Option.isNone then some Wait.tierB
  else (ps.filterMap id).findSome? fun q => (accessStall s q.1 q.2).map Prod.snd

/-- Read chunk bytes [off, off + n) of a tensor from its object, as the step of the pass sees it: the reads are noted in
the window, spoiled granules that they deliver are counted, and so are granules of lost channels (R244, R252, R262). -/
def readChunk (s : State) (k : InGalley) (t : TensorCfg) (o : Obj) (off n : Nat) : State × List Granule :=
  let offs := streamSpan t off n
  let bytes := (List.range n).map fun i => streamByte s t o (off + i)
  let grans := offs.foldl (fun l x => nset l (x / 64)) ([] : List Nat)
  let spoiled := grans.filter fun g => offs.any fun x => x / 64 == g && match objPlace t o x with
    | some q => (tierByte s q).2
    | none => false
  let s := if spoiled.isEmpty then s else countSpoiled s k.c spoiled.length
  let s := countLost s (grans.filterMap fun g => objPlace t o (64 * g))
  (touchWindow s k.c o.objId offs, toGranules (ceilDiv n 64) bytes)

/-- The tensor that a galley streams from tier H or B, and its object as the step of the pass sees it. -/
def InGalley.source (k : InGalley) (s : State) : Option (TensorCfg × Obj) :=
  (tensorOf k.forme.body k.d.gtid).bind fun t => (findObj s k.c t.objId).map fun o => (t, o.seenBy k.a.step)

/-- The granules of chunk j of a galley's tensor, or the cause for which its source is late (R265). -/
def InGalley.fetch (k : InGalley) (s : State) (j : Nat) : Except Nat (State × List Granule) :=
  let off := j * (k.d.slotg * 64)
  let n := k.chunkLen s j
  match k.source s with
  | none => .ok (s, [])
  | some (t, o) =>
    match sourceStall s t o (streamSpan t off n) with
    | some cause => .error cause
    | none => .ok (readChunk s k t o off n)

/-- FILL_START (R272, R276, R277): the feeder starts the fill of its next galley in turn. A fill whose source is late
takes its position and waits there. -/
def execFillStart (feeder tile tid : Nat) (errs : List (Nat × Nat)) (s : State) : Host.Outcome State Fault Refusal :=
  .next (
    match inGalley s tile tid with
    | none =>
      match liveTile s tile with
      | some c => match (chase s c).act with
        | .change _ _ _ true _ _ => if (Sys2Proof.Machine.tile s tile).switched then s else stall s c (galleyKey tile tid) Wait.change
        | _ => s
      | none => s
    | some k =>
      let ready := feederGalleys s feeder
      if feederOf tile ≠ feeder ∨ 16 ≤ s.fills.countP (fun f => f.feeder == feeder) ∨
          nextCyclic (kgetD s.feederPtr feeder 0) ready ≠ some (4096 * tile + tid) then s
      else
        let j := k.g.chunk
        let off := j * (k.d.slotg * 64)
        let n := k.chunkLen s j
        let start (s : State) (gs : Option (List Granule)) : State :=
          let s := modGalley s tile tid takeHead
          let s := { s with
            fills := s.fills ++ [⟨feeder, k.c, tile, tid, k.g.head, j, gs⟩]
            feederPtr := kset s.feederPtr feeder (4096 * tile + tid) }
          if gs.isSome then unstall s k.c (galleyKey tile tid) else s
        if k.d.gtid = 0xFFF then
          match req s k.n with
          | none => s
          | some r =>
            let s := start s (some (inputGranules (passInput r k.a).1 off n errs))
            grantWindow (modReq s k.n fun q => { q with taken := Nat.max q.taken (off + n) }) k.n
        else
          if (k.source s).isNone then s
          else
            match k.fetch s j with
            | .error cause => stall (start s none) k.c (galleyKey tile tid) cause
            | .ok (s, gs) => start s (some gs))

/-! ### Windows (R262, R263) -/

/-- The window block that a fill takes: an empty one, or the one whose last read lies furthest in the past (R262). -/
def fillSlot (w : List (Nat × Option Nat × Nat)) : Option Nat :=
  match w.find? fun e => e.2.1.isNone with
  | some e => some e.1
  | none =>
    let least := ((w.map fun e => e.2.2).min?).getD 0
    (w.find? fun e => e.2.2 == least).map Prod.fst

/-- Blocks of an object in the order in which the formes of its chase in service stream it through the window: their
inbound galleys by TID, each stream from its first byte (R262, R269); where none does, rising (log 92). -/
def streamOrder (s : State) (o : Obj) : List Nat :=
  let l := (chase s o.chase).images.flatMap fun i =>
    if i.state ≠ .inService then []
    else (galleysOf i.body 1).flatMap fun d =>
      match tensorOf i.body d.gtid with
      | some t => if t.tier = 1 ∧ t.objId = o.objId then (streamSpan t 0 t.streamLen).map (· / blockBytes) else []
      | none => []
  let l := l.foldl (fun (a : List Nat) b => if a.contains b then a else a ++ [b]) []
  if l.isEmpty then List.range o.blocks.length else l

/-- The block that the window's feeder fills next: the first after the last one filled, in the order of the stream, that
the window lacks (R262). -/
def nextFill (s : State) (o : Obj) : Option Nat :=
  let l := streamOrder s o
  let k := match o.lastFill with | some b => l.idxOf b + 1 | none => 0
  (l.drop k ++ l.take k).find? fun b => !o.win.any fun e => e.2.1 == some b

/-- Whether a feeder waits for a block that the window lacks (R263). -/
def fillWanted (s : State) (o : Obj) (block : Nat) : Bool :=
  s.fills.any fun f => f.chase == o.chase && f.granules.isNone &&
    match inGalley s f.tile f.tid with
    | some k => match tensorOf k.forme.body k.d.gtid with
      | some t => t.objId == o.objId && (streamSpan t (f.chunk * (k.d.slotg * 64)) (k.chunkLen s f.chunk)).any
          fun x => x / blockBytes == block
      | none => false
    | none => false

/-- Whether a feeder is filling the window of an object (R257): a forme in service reads through it, and it has an empty
block for one that it lacks. -/
def windowFilling (s : State) (o : Obj) : Bool :=
  readThroughWindow s o.chase o.objId && o.win.any (fun e => e.2.1.isNone) && (nextFill s o).isSome

/-! ### Handles and tokens -/

/-- A token that a feeder or the slip path injects into the galley's entry queue (R270). -/
def InGalley.token (k : InGalley) (s : State) (kind fmt tag : Nat) (payload : DWord) : Token where
  kind := kind
  tag := (kgetD (chase s k.c).tb k.forme.formeId 0 + tag) % 65536
  imp := (tile s k.d.stile).imp
  pred := true
  spoil := false
  remote := false
  route := 0
  tile := k.d.stile
  port := k.d.gport
  fmt := fmt
  payload := payload

/-- Inject a token into the entry queue. -/
def injectToken (s : State) (k : InGalley) (tok : Token) (slot : Option (Nat × Nat)) : State :=
  let s := pushFlight s k.c (k.d.stile, 64, k.d.gport) tok [] slot
  modGalley s k.d.stile k.d.tid fun g => { g with injected := g.injected + 1 }

/-- The galley has injected its last token of the pass (R271). -/
def galleyDone (s : State) (k : InGalley) : State :=
  endInjection (modGalley s k.d.stile k.d.tid fun g => { g with passDone := true }) k.c k.forme.formeId

/-- Whether the entry queue has a credit; without one the feeder stalls (R167, R287). -/
def entryCreditOr (s : State) (k : InGalley) (go : State → State) : State :=
  if creditFree s k.d.stile k.d.gport then go (unstall s k.c (galleyKey k.d.stile k.d.tid))
  else stall s k.c (galleyKey k.d.stile k.d.tid) Wait.credit

/-- Put a chunk into its slot and inject its handle (R270, R272). -/
def injectChunk (s : State) (k : InGalley) (slot j : Nat) (gs : List Granule) : State :=
  let a := k.d.slotAddr slot
  let s := modTile s k.d.stile fun x => mtPutGranules x a gs
  let s := modGalley s k.d.stile k.d.tid fun g => { g with slots := lset g.slots slot .ready, inject := g.inject + 1 }
  injectToken s k (k.token s 3 k.d.format j (mtHandle a gs.length)) (some (k.d.tid, slot))

/-- Inject the end token, with the bytes of the last chunk (R270). -/
def injectEnd (s : State) (k : InGalley) (len : Nat) : State :=
  let c := chunkCount k.d len
  let last := if len = 0 then 0 else len - (c - 1) * (k.d.slotg * 64)
  galleyDone (injectToken s k (k.token s 1 F.int32 c (BitVec.ofNat 64 last)) none) k

/-- FILL_COMPLETE (R270, R273): the k-th fill in flight is written, and its handle injected in the order of chunks,
each token under a credit; the end token follows the last chunk of the request input. A fill whose source is late goes on
waiting (R265). -/
def execFillComplete (k : Nat) (s : State) : Host.Outcome State Fault Refusal :=
  .next (match s.fills[k]? with
    | none => s
    | some f =>
      match inGalley s f.tile f.tid with
      | none => s
      | some g =>
        let read : Except Nat (State × List Granule) :=
          match f.granules with | some gs => .ok (s, gs) | none => g.fetch s f.chunk
        match read with
        | .error cause => stall s g.c (galleyKey f.tile f.tid) cause
        | .ok (s, gs) =>
        let s := { s with fills := s.fills.set k { f with granules := some gs } }
        let f := { f with granules := some gs }
        let len := (g.stream s).1
        let last := decide (f.chunk + 1 = chunkCount g.d len)
        let drop (s : State) : State := { s with fills := s.fills.erase f }
        if f.chunk = g.g.inject then
          entryCreditOr s g fun s =>
            let s := injectChunk s g f.slot f.chunk gs
            if !last then drop s
            else if g.d.gtid ≠ 0xFFF then galleyDone (drop s) g
            else entryCreditOr s g fun s => injectEnd (drop s) g len
        else if f.chunk + 1 = g.g.inject ∧ last then entryCreditOr s g fun s => injectEnd (drop s) g len
        else s)

/-- SLIP_IN (R285, R286): a short request input goes into the slot at HEAD, and its handle and end token follow. -/
def execSlipIn (tile tid : Nat) (errs : List (Nat × Nat)) (s : State) : Host.Outcome State Fault Refusal :=
  .next (match inGalley s tile tid with
    | none => s
    | some k =>
      let (len, have') := k.stream s
      if !k.slips s || decide (have' < len) then s
      else
        match req s k.n with
        | none => s
        | some r =>
          if len = 0 ∨ k.g.inject = 1 then entryCreditOr s k fun s => injectEnd s k len
          else if k.g.slots[k.g.head]? ≠ some .empty then s
          else
            entryCreditOr s k fun s =>
              let gs := inputGranules (passInput r k.a).1 0 len errs
              let s := modReq s k.n fun q => { q with taken := Nat.max q.taken len }
              let s := injectChunk (modGalley s tile tid takeHead) k k.g.head 0 gs
              entryCreditOr s k fun s => injectEnd s k len)

/-- Whether a token of a tile pair still names a galley slot: in its queues, stores or firings (R272). -/
def slotNamed (x : Tile) (tid slot : Nat) : Bool :=
  let is (k : QTok) : Bool := k.galley == some tid && k.gslot == slot
  let isO (k : Option QTok) : Bool := match k with | some k => is k | none => false
  x.queues.any (fun q => q.2.toks.any is) ||
  x.fus.any fun f => f.2.store.any (fun e => e.ins.any isO) || (match f.2.firing with | some g => g.ins.any isO | none => false)

/-- TAIL advances past every RELEASED slot, which becomes EMPTY (R272). -/
def advanceTail : Nat → Galley → Galley
  | 0, g => g
  | n + 1, g =>
    if g.slots[g.tail]? = some .released then
      advanceTail n { g with slots := lset g.slots g.tail .empty, tail := (g.tail + 1) % g.slots.length }
    else g

/-- SLOT_RELEASE (R272): the firing that consumed the slot's handle has completed. -/
def execSlotRelease (tile tid slot : Nat) (s : State) : Host.Outcome State Fault Refusal :=
  .next (
    let x := Sys2Proof.Machine.tile s tile
    match liveTile s tile, galley x tid with
    | some _, some g =>
      if g.slots[slot]? ≠ some .taken ∨ slotNamed x tid slot then s
      else modGalley s tile tid fun g => advanceTail g.slots.length { g with slots := lset g.slots slot .released }
    | _, _ => s)

/-! ### Outbound galleys: drains (R280 to R282) -/

/-- An outbound galley: chase, forme, descriptor, galley, and the pass whose output it collects (R281). -/
structure OutGalley where
  c : Nat
  forme : Image
  d : TensorCfg
  g : Galley
  a : Option ArrayPass
  /-- passes in the array whose output on the galley is not complete -/
  left : Nat
  /-- elements of the tensor that the pass writes: the first, and how many -/
  part : Nat × Nat

/-- The elements of a tensor that a pass writes: all of it, or, of a logit or mask tensor of its serving entry, the NROW
rows from row 17 × its position (R301, R306; log 93). -/
def outPart (s : State) (i : Image) (d : TensorCfg) (a : Option ArrayPass) : Nat × Nat :=
  match tensorOf i.body d.gtid with
  | none => (0, 0)
  | some t =>
    match a.bind fun a => (req s a.req).map fun r => (a.pass, r) with
    | some (p, r) =>
      let e := if p.kind.isDraft then r.entry else r.mainEntry
      let own := if p.kind.isDraft then d.gtid == e.draftLogitTid else d.gtid == e.logitTid || d.gtid == e.maskTid
      let posn := if p.kind.isDraft then r.draftPosn.getD 0 else r.mainPosn
      if r.kind = .generate ∧ own then (17 * posn * t.ext.getD 0 0, p.nrow * t.ext.getD 0 0) else (0, t.count)
    | none => (0, t.count)

/-- The outbound galley of a tile pair. -/
def outGalley (s : State) (t tid : Nat) : Option OutGalley :=
  match liveTile s t, galley (tile s t) tid with
  | some c, some g =>
    match formeFor s c t with
    | some i =>
      ((galleysOf i.body 2).find? fun d => d.stile == t && d.tid == tid).map fun d =>
        let l := (kgetD (chase s c).array i.formeId []).filter fun a => !a.outs.contains tid
        ⟨c, i, d, g, l.head?, l.length, outPart s i d l.head?⟩
    | none => none
  | _, _ => none

/-- Bytes of a pass's output, and its bits before the last byte or group is completed (R281). -/
def OutGalley.size (k : OutGalley) : Nat × Nat :=
  if k.d.gtid = 0xFFF then (k.d.outlen, 8 * k.d.outlen)
  else match tensorOf k.forme.body k.d.gtid with
    | some t => (t.packedLen k.part.2, k.part.2 * fmtBits t.format)
    | none => (0, 0)

/-- Whether the output goes by the slip path, without staging slots (R285, R286). -/
def OutGalley.slips (k : OutGalley) : Bool :=
  k.d.gtid == 0xFFF && decide (k.d.outlen ≤ 256 ∧ k.d.outlen ≤ k.d.slotg * 64)

/-- Bytes of a staging slot, and how many slots there are; the slip path has no ring (R285). -/
def OutGalley.ring (k : OutGalley) : Nat × Nat := if k.slips then (512, 64) else (k.d.slotg * 64, k.d.nslot)

/-- Bytes of the token taken last move into the staging slots that are free: a full one waits to be written (R281). -/
def stageRest (ring : Nat × Nat) : Nat → Galley → Galley
  | 0, g => g
  | fuel + 1, g =>
    if g.rest.isEmpty || decide (ring.2 ≤ g.full.length) then g
    else
      let slot := ring.1
      let n := slot - g.staged.length
      let part := g.rest.take n
      let all := g.staged ++ part
      let g := { g with appended := g.appended + part.length, rest := g.rest.drop n }
      let g := if all.length = slot then
          { g with full := g.full ++ [(g.appended - slot, all)], staged := [], head := (g.head + 1) % Nat.max 1 g.slots.length }
        else { g with staged := all }
      stageRest ring fuel g

/-- Append bytes to the output. -/
def stageBytes (ring : Nat × Nat) (g : Galley) (b : List (Byte × Bool)) : Galley :=
  stageRest ring (g.rest.length + b.length + 1) { g with rest := g.rest ++ b }

/-- Complete an incomplete byte or group with zero elements and append it (R280). -/
def flushPack (ring : Nat × Nat) (g : Galley) : Galley :=
  if g.pack.isEmpty then { g with packW := 0 }
  else
    let n := if g.packW = 4 then 2 else 4
    let v := ((g.pack.map Prod.fst) ++ List.replicate (n - g.pack.length) 0).foldr (fun e v => e + 2 ^ g.packW * v) 0
    let sp := g.pack.any Prod.snd
    let b := (le (n * g.packW / 8) v).map fun x => (x, sp)
    stageBytes ring { g with packW := 0, pack := [] } b

/-- Append one 4- or 6-bit element, packed with its neighbours of the same width (R280). -/
def packElt (ring : Nat × Nat) (w : Nat) (g : Galley) (e : Nat × Bool) : Galley :=
  let g := if g.packW ≠ w then { flushPack ring g with packW := w } else g
  let g := { g with pack := g.pack ++ [e] }
  if g.pack.length = (if w = 4 then 2 else 4) then { flushPack ring g with packW := w } else g

/-- Granules as marked bytes. -/
def granuleBytes (gs : List Granule) : List (Byte × Bool) := gs.flatMap fun g => (padTo 64 g.data).map fun b => (b, g.spoil)

/-- What a token appends (R280): an element of a packed width, or bytes. -/
def appendToken (s : State) (t : Nat) (ring : Nat × Nat) (g : Galley) (k : Token) : Galley :=
  if !k.pred || k.kind == 0 then g
  else if k.kind = 1 then
    let w := fmtBits k.fmt
    let v := maskFmt k.fmt k.payload.toNat
    if w = 4 ∨ w = 6 then packElt ring w g (v, k.spoil)
    else stageBytes ring (flushPack ring g) ((le (w / 8) v).map fun b => (b, k.spoil))
  else stageBytes ring (flushPack ring g) (granuleBytes (handleGranules (tile s t) k.kind k.payload))

/-- Bits of the pass's output that the tokens taken so far have given. -/
def Galley.given (g : Galley) : Nat := 8 * (g.appended + g.rest.length) + g.packW * g.pack.length

/-- Whether the tokens taken give bytes beyond the output's end, or elements beyond its last one (R281). -/
def Galley.overfull (g : Galley) (size : Nat × Nat) : Bool :=
  decide (size.1 < g.appended + g.rest.length) || !g.pack.isEmpty && decide (size.2 < g.given)

/-- A galley's output so far has reached its end: an incomplete byte or group is completed, and what is staged becomes
the last slot. Bytes of the completion beyond the end are not part of the output. -/
def closeOutput (ring size : Nat × Nat) (slips : Bool) (g : Galley) : Galley :=
  if g.given < size.2 then g
  else
    let g := flushPack ring g
    if !g.rest.isEmpty then g
    else
      let g := { g with appended := Nat.min size.1 g.appended }
      if slips || g.staged.isEmpty then g
      else
        let start := (g.appended - 1) / ring.1 * ring.1
        { g with full := g.full ++ [(start, g.staged.take (g.appended - start))], staged := []
                 head := (g.head + 1) % Nat.max 1 g.slots.length }

/-- Whether a galley's output for the pass at hand is whole, so that the drain takes nothing more for it: every bit of
its elements has been appended. -/
def outputWhole (bits : Nat) (g : Galley) : Bool := decide (bits ≤ 8 * g.appended) && g.pack.isEmpty && g.rest.isEmpty

/-- What is staged lies in the ring's slots in the MT (R267, R281): the slots that wait to be written from TAIL on, and
the one at HEAD. -/
def stageInMt (d : TensorCfg) (g : Galley) (x : Tile) : Tile :=
  let n := Nat.max 1 g.slots.length
  let put (x : Tile) (slot : Nat) (b : List (Byte × Bool)) : Tile :=
    ((toGranules (ceilDiv b.length 64) b).zipIdx).foldl (fun x e =>
      mtPut x (d.slotAddr slot + 64 * e.2) (e.1.data.take (b.length - 64 * e.2)) e.1.spoil) x
  put ((g.full.zipIdx).foldl (fun x e => put x ((g.tail + e.2) % n) e.1.2) x) g.head g.staged

/-- The drain takes a LOCKUP token (R282): an output still incomplete ends the step; one that is whole and only
waits to be written is not. -/
def drainLockup (s : State) (k : OutGalley) (r : List QTok) (q : QTok) : State :=
  let t := k.d.stile
  let p := k.d.gport
  let s := modTile s t fun x => setPortQ x p { portQ x p with toks := r }
  let s := giveCredit s k.c t p q
  let s := modGalley s t k.d.tid fun g => { g with lockup := true }
  let incomplete := decide (1 < k.left) || (k.left == 1 && !outputWhole k.size.2 k.g)
  if incomplete then fabricFault s k.c 0x0109 t else if k.a.isNone then restartChangeTimer s k.c else s

/-- DRAIN_TAKE (R280 to R282): the drain takes the next token of its port. -/
def execDrainTake (tile tid : Nat) (s : State) : Host.Outcome State Fault Refusal :=
  .next (match outGalley s tile tid with
    | none => s
    | some k =>
      let p := k.d.gport
      match (portQ (Sys2Proof.Machine.tile s tile) p).toks with
      | [] => s
      | q :: r =>
        if k.g.lockup || !q.landed then s
        else if q.tok.kind = 4 then drainLockup s k r q
        else if k.a.isNone || outputWhole k.size.2 k.g then s
        else if !k.g.rest.isEmpty || decide (k.ring.2 ≤ k.g.full.length) then stall s k.c (galleyKey tile tid) Wait.credit
        else
          let g := appendToken s tile k.ring k.g q.tok
          let s := modTile s tile fun x => setPortQ x p { portQ x p with toks := r }
          let s := if q.landing.isSome then releaseLanding s k.c tile p q else giveCredit s k.c tile p q
          let s := unstall s k.c (galleyKey tile tid)
          if g.overfull k.size then fabricFault s k.c 0x0109 tile
          else
            let s := if k.slips then s else modTile s tile (stageInMt k.d g)
            modGalley s tile tid fun _ => closeOutput k.ring k.size k.slips g)

/-- The bits that stream bytes [off, off + |b|) of a pass's output put into a tensor's object, the output covering
elements from `part.1` on: bit address, width, value and mark. -/
def elemWrites (t : TensorCfg) (part : Nat × Nat) (off : Nat) (b : List (Byte × Bool)) : List (Nat × Nat × Nat × Bool) :=
  let w := fmtBits t.format
  let v := ofLe (b.map Prod.fst)
  ((List.range (ceilDiv (8 * (off + b.length)) w - 8 * off / w)).map (8 * off / w + ·)).filter
      (fun p => decide (p < part.2 ∧ part.1 + p < t.count)) |>.map fun p =>
    let lo := Nat.max (p * w) (8 * off)
    let hi := Nat.min ((p + 1) * w) (8 * (off + b.length))
    let (a, _, sh) := elemAddr t.format t.offset (t.elemOffset (part.1 + p))
    (8 * a.toNat + sh + (lo - p * w), hi - lo, nbits v (lo - 8 * off) (hi - lo),
      ((b.drop (lo / 8 - off)).take ((hi - 1) / 8 - lo / 8 + 1)).any Prod.snd)

/-- Put one run of bits into a map of bytes that starts from the object's contents. -/
def putBits (s : State) (o : Obj) (m : KMap Nat) (e : Nat × Nat × Nat × Bool) : KMap Nat :=
  let first := e.1 / 8
  let n := (e.1 + e.2.1 - 1) / 8 - first + 1
  let old := ofLe ((List.range n).map fun i => BitVec.ofNat 8 (kgetD m (first + i) (tierByte s (o.isH, objPA o (first + i))).1))
  let sh := e.1 - 8 * first
  let v := old - nbits old sh e.2.1 * 2 ^ sh + e.2.2.1 * 2 ^ sh
  (List.range n).foldl (fun m i => kset m (first + i) (v / 256 ^ i % 256)) m

/-- The granules of an object, by offset ÷ 64, that runs of bits touch. -/
def writeGrans (ws : List (Nat × Nat × Nat × Bool)) : List Nat :=
  ws.foldl (fun l e => nset (nset l (e.1 / 512)) ((e.1 + e.2.1 - 1) / 512)) []

/-- Write output bytes to a tensor's elements (R281, R242): a granule all of whose bits are written takes the mark of
the data, another keeps its own beside it. -/
def writeTensor (s : State) (t : TensorCfg) (o : Obj) (part : Nat × Nat) (off : Nat) (b : List (Byte × Bool)) : State :=
  let ws := elemWrites t part off b
  let m := ws.foldl (putBits s o) ([] : KMap Nat)
  let grans := (m.map fun e => e.1 / 64).foldl nset []
  let s := grans.foldl (fun s g =>
    let mine := ws.filter fun e => decide (0 < overlapBits e.1 e.2.1 g)
    let spoiled := mine.any fun e => e.2.2.2
    let bytes := m.filter fun e => e.1 / 64 == g
    let whole := decide (512 ≤ mine.foldl (fun (n : Nat) e => n + overlapBits e.1 e.2.1 g) 0)
    setTier s o.isH (if whole && bytes.length == 64 then
        granulePut (tier s o.isH) o.isH (objPA o (64 * g)) (bytes.map fun e => BitVec.ofNat 8 e.2) spoiled
      else bytes.foldl (fun tm e => granulePut tm o.isH (objPA o e.1) [BitVec.ofNat 8 e.2] spoiled) (tier s o.isH))) s
  countLost s (grans.map fun g => (o.isH, objPA o (64 * g)))

/-- A galley with nothing of a pass's output. -/
def Galley.nextOutput (g : Galley) : Galley :=
  { g with appended := 0, staged := [], packW := 0, pack := [], rest := [], full := [] }

/-- The galley's output of a pass has been written; a drain whose ring is empty after a LOCKUP token has passed the
lock-up (R222, R281, R282). -/
def outputWritten (s : State) (k : OutGalley) : State :=
  let s := modGalley s k.d.stile k.d.tid Galley.nextOutput
  let s := if k.g.lockup then restartChangeTimer s k.c else s
  outputDone s k.c k.forme.formeId k.d.tid

/-- Put output bytes into a request's reply buffer; a request that has ended discards them (R281, R290, R333). -/
def toReply (s : State) (n : Nat) (b : List (Byte × Bool)) : State :=
  modReq s n fun r => if r.state.final then r else
    { r with reply := r.reply ++ b.map Prod.fst, spoiled := r.spoiled || b.any Prod.snd }

/-- Whether a request has ended, so that the output of its passes is discarded (R333). -/
def reqEnded (s : State) (n : Nat) : Bool := match req s n with | some r => r.state.final | none => true

/-- Where a drain writes a slot: the tensor and its object; none when the output goes to a reply buffer or is
discarded (R281, R333). -/
def OutGalley.target (k : OutGalley) (s : State) (a : ArrayPass) : Option (TensorCfg × Obj) :=
  if k.d.gtid = 0xFFF || reqEnded s a.req then none
  else (tensorOf k.forme.body k.d.gtid).bind fun t => (findObj s k.c t.objId).map fun o => (t, o)

/-- The oldest staging slot has been written and is free; bytes that waited for one go on (R281). -/
def slotWritten (k : OutGalley) (g : Galley) : Galley :=
  let g := { g with full := g.full.tail, tail := (g.tail + 1) % Nat.max 1 g.slots.length }
  closeOutput k.ring k.size k.slips (stageRest k.ring (g.rest.length + 1) g)

/-- DRAIN_WRITE (R281, R290): the oldest full or final staging slot goes to its tensor or its reply buffer; with the
last one the galley's output for the pass is complete. A write to memory that does not serve waits (R265). -/
def execDrainWrite (tile tid : Nat) (errs : List (Nat × Nat)) (s : State) : Host.Outcome State Fault Refusal :=
  .next (match outGalley s tile tid with
    | none => s
    | some k =>
      match k.g.full, k.a with
      | (off, b) :: _, some a =>
        let late := (k.target s a).bind fun x =>
          (writeGrans (elemWrites x.1 k.part off b)).findSome? fun g => accessStall s x.2.isH (objPA x.2 (64 * g))
        match late with
        | some w => stall s k.c (galleyKey tile tid) w.2
        | none =>
          let s := if k.d.gtid = 0xFFF then toReply s a.req (hubRead b errs)
            else match k.target s a with
              | some (t, o) => writeTensor s t o k.part off b
              | none => s
          let g := slotWritten k k.g
          let s := modGalley s tile tid fun _ => g
          let s := modTile (unstall s k.c (galleyKey tile tid)) tile (stageInMt k.d g)
          if g.full.isEmpty && outputWhole k.size.2 g then outputWritten s k else s
      | _, _ => s)

/-- SLIP_OUT (R286): OUTLEN bytes are there, and the reply goes to hub SRAM without a staging slot. -/
def execSlipOut (tile tid : Nat) (errs : List (Nat × Nat)) (s : State) : Host.Outcome State Fault Refusal :=
  .next (match outGalley s tile tid with
    | none => s
    | some k =>
      match k.a with
      | some a =>
        if k.slips && outputWhole k.size.2 k.g then
          let s := toReply s a.req (hubRead (k.g.staged.take k.d.outlen) errs)
          outputWritten s k
        else s
      | none => s)

end Sys2Proof.Machine
end

