-- ==== Sys2Proof/Machine/Admission.lean ====
section
/-! DEFINITION. The imprimatur (R327 to R332, R355, R356): the latency bound, the reservations of pass positions and
folios, and the decision on a request. -/

namespace Sys2Proof.Machine

/-! ### The latency bound (R328, R347 to R351, R355) -/

/-- The line rate of a logical port in Gb/s (R357). -/
def lineRate (s : State) (ep : Nat) : Nat :=
  match s.ports[ep]? with
  | some p => if p.split then 400 else 800
  | none => 0

/-- Bytes of overhead of one packet on a port (R348). -/
def packetOverhead (s : State) (ep : Nat) : Nat := if macsecOn s ep then 170 else 138

/-- Wire time in ps of a message of n bytes (R348); what leaves by no port of this device has none (log 41). -/
def wirePs (s : State) (ep n : Nat) : Nat :=
  if lineRate s ep = 0 then 0
  else ceilDiv ((n + packetOverhead s ep * ceilDiv n (maxPayload s)) * 8000) (lineRate s ep)

/-- What stands for a term without bound: a share of zero. -/
def unboundedPs : Nat := 2 ^ 80

/-- The streaming term of p passes in ps: P × BYTES_STREAMED ÷ β (R347, R349). -/
def streamPs (s : State) (c p : Nat) (b : FormeBody) : Nat :=
  if b.bytesStreamed * p = 0 ∨ !b.tensors.any (fun d => d.tier != 0) then 0
  else if betaOf s c b = 0 then unboundedPs
  else ceilDiv (p * b.bytesStreamed * 1000000) (betaOf s c b)

/-- Pace and streaming terms in ps of p passes of a forme. -/
def passesPs (s : State) (c p : Nat) (b : FormeBody) : Nat :=
  p * (b.depth + b.qslack) * tauPs s s.power.admBin + streamPs s c p b

/-- The image content of a forme of a chase. -/
def bodyOf (s : State) (c f : Nat) : FormeBody := ((imageOf (chase s c) f).map Image.body).getD default

/-- OUTLEN of a forme's reply galley (R266). -/
def replyLen (b : FormeBody) : Nat :=
  (((galleysOf b 2).find? fun d => d.gtid == 0xFFF).map TensorCfg.outlen).getD 0

/-- T_out in ps: the final reply with its prefix and LABEL, and OUTLEN bytes or MAX_TOKENS tokens (R348, R355). -/
def outPs (s : State) (r : Req) : Nat :=
  wirePs s r.ep (16 + r.label.length +
    match r.kind with
    | .generate => 8 + 4 * r.params.maxTokens
    | _ => replyLen (bodyOf s r.chase r.mainForme))

/-- T_ring in ps (R351, R279) of a request whose input streams through its forme's request-input galley. t_hold is a
free value (log 39). -/
def ringPs (s : State) (r : Req) : Nat :=
  let b := bodyOf s r.chase r.mainForme
  match r.kind, (galleysOf b 1).find? fun d => d.gtid == 0xFFF with
  | .generate, _ => 0
  | _, none => 0
  | _, some d =>
    let slot := d.slotg * 64
    let chunks := ceilDiv r.total slot
    let tau := tauPs s s.power.admBin
    let k := (galleysOf b 1).countP fun x => feederOf x.stile == feederOf d.stile
    let src := if lineRate s r.ep = 0 then 0
      else ceilDiv (slot * (maxPayload s + packetOverhead s r.ep) * 8000) (lineRate s r.ep * maxPayload s)
    let hold := Config.tHold b.formeId
    let cycle := 150000 + ceilDiv (d.slotg * tau) 4 + 6 * tau + hold
    let period := [ceilDiv (k * d.slotg * tau) 4, hold, ceilDiv cycle d.nslot].foldl Nat.max src
    (chunks - 1) * (period - src)

/-- P_walk (R328): the walk's bound in passes of the main forme. -/
def walkPasses (e : ServeFields) (b : FormeBody) (lp : Nat) : Nat :=
  if e.concObj = 0 then 0
  else ceilDiv (1000000 + 300000 * ceilDiv (eligibleBlocks lp) 32) ((b.depth + b.qslack) * 435)

/-- Pace and streaming terms of a request at admission (R328). -/
def admissionPs (s : State) (r : Req) : Nat :=
  let b := bodyOf s r.chase r.forme
  match r.kind with
  | .generate =>
    let e := r.entry
    let p := ceilDiv r.lp e.prefillTokens + walkPasses e b r.lp + r.params.maxTokens - 1
    passesPs s r.chase p b +
      (if r.draftPosn.isSome then
        passesPs s r.chase (ceilDiv r.lp e.draftTokens + 2 * (r.params.maxTokens - 1) + 2 * e.kInit)
          (bodyOf s r.chase e.draftId)
      else 0)
  | _ => passesPs s r.chase 1 b

/-- Pace and streaming terms that remain (R331), with T_out. -/
def remainingPs (s : State) (r : Req) : Nat :=
  let b := bodyOf s r.chase r.mainForme
  outPs s r +
  match r.kind with
  | .generate =>
    let left := r.params.maxTokens - r.tokens.length
    passesPs s r.chase (ceilDiv (r.lp - r.filled) r.mainEntry.prefillTokens + left) b +
      (if r.drafting then
        passesPs s r.chase (ceilDiv (r.lp - r.draftFilled) r.entry.draftTokens + 2 * r.k + 2 * left)
          (bodyOf s r.chase r.entry.draftId)
      else 0)
  | _ => passesPs s r.chase 1 b

/-- The completion that the deadline monitor predicts, in ps from the arrival (R331). -/
def predictedPs (s : State) (r : Req) : Nat := (s.now - r.firstNs) * 1000 + remainingPs s r

/-- RETRY_AFTER in µs: the least remaining bound among the holders, at least 10 (R329). -/
def retryAfter (s : State) (holders : List Req) : Nat :=
  Nat.max 10 (ceilDiv (((holders.map (remainingPs s)).min?).getD 0) 1000000)

/-! ### Reservations (R299, R305, R307, R314) -/

/-- Requests that hold a pass position of a forme, each with the position. -/
def positionsUsed (s : State) (c f : Nat) : List (Req × Nat) :=
  (s.reqs.filter fun e => e.2.chase == c && holdsPosition s e.1 e.2).flatMap fun e =>
    let r := e.2
    (if r.forme = f ∧ (r.kind = .generate ∨ r.fall.isNone) then [(r, r.posn)] else []) ++
    (match r.draftPosn with
      | some p => if r.entry.draftId = f then [(r, p)] else []
      | none => []) ++
    (match r.fall with
      | some (p, e) => if e.formeId = f then [(r, p)] else []
      | none => [])

/-- The lowest free pass position of a forme, none when PASS_LIMIT positions or more are in use (R295, R299). -/
def freePosn (s : State) (c f limit : Nat) : Option Nat :=
  let used := (positionsUsed s c f).map Prod.snd
  if limit ≤ used.length then none else (List.range limit).find? fun p => !used.contains p

/-- The memory of a chase that reservations work on: concordance entries and folio states. -/
structure FolioMem where
  conc : List ConcEntry
  folios : List (Nat × Nat × Nat)

/-- Folios of a pool that are not FREE. -/
def FolioMem.used (m : FolioMem) (pool : Nat) : List Nat := (m.folios.filter fun x => x.1 == pool).map fun x => x.2.1

/-- The evictable entry of a pool with the lowest LAST_USE (R314). -/
def FolioMem.victim (m : FolioMem) (pool : Nat) : Option ConcEntry :=
  let es := m.conc.filter fun e => e.pool == pool && e.refs == 0 && e.children == 0
  let least := ((es.map ConcEntry.lastUse).min?).getD 0
  es.find? fun e => e.lastUse == least

/-- Evict an entry: it is emptied, its folio freed and its parent's CHILDREN lowered (R314). -/
def FolioMem.evict (m : FolioMem) (v : ConcEntry) : FolioMem where
  conc := (m.conc.filter (· != v)).map fun e =>
    if e.obj = v.obj ∧ e.pool = v.pool ∧ e.kvClass = v.kvClass ∧ e.node = v.parent
    then { e with children := e.children - 1 } else e
  folios := m.folios.filter fun x => !(x.1 == v.pool && x.2.1 == v.folio)

/-- Evict until n folios of a pool of `total` are FREE; none when all evictable entries do not suffice (R314). -/
def FolioMem.room : Nat → FolioMem → Nat → Nat → Nat → Option FolioMem
  | fuel, m, pool, total, n =>
    if n + (m.used pool).length ≤ total then some m
    else
      match fuel, m.victim pool with
      | f + 1, some v => FolioMem.room f (m.evict v) pool total n
      | _, _ => none

/-- Reserve n folios of a pool, the lowest-numbered FREE ones: they become RESERVED (R305, R307). -/
def FolioMem.reserve (m : FolioMem) (pool total n : Nat) : Option (List Nat × FolioMem) :=
  (m.room m.conc.length pool total n).map fun m =>
    let used := m.used pool
    let fs := ((List.range (n + used.length)).filter fun k => !used.contains k).take n
    (fs, { m with folios := m.folios ++ fs.map fun k => (pool, k, 1) })

/-- Folios of a pool (R305). -/
def folioCount (s : State) (c pool bytes : Nat) : Nat := ((findObj s c pool).map fun o => o.size / bytes).getD 0

/-- The folios of a GENERATE in the main pool and, with drafting, in the draft pool (R307). -/
def reserveFolios (s : State) (r : Req) : Option (List Nat × List Nat × FolioMem) :=
  let ch := chase s r.chase
  let e := r.entry
  let n := ceilDiv (r.lp + r.params.maxTokens) 16
  match FolioMem.reserve ⟨ch.conc, ch.folios⟩ e.poolObj (folioCount s r.chase e.poolObj e.folioBytes) n with
  | none => none
  | some (fs, m) =>
    if r.draftPosn.isSome then
      (m.reserve e.draftPool (folioCount s r.chase e.draftPool e.draftFolioBytes) n).map fun x => (fs, x.1, x.2)
    else some (fs, [], m)

/-! ### The checks (R327) -/

/-- Whether the parameters of a GENERATE lie in range (R318, check 0x0803), the FP32 ones by their bit patterns. -/
def genInRange (p : GenParams) : Bool :=
  let t := p.temp.toNat
  let tp := p.topP.toNat
  let mp := p.minP.toNat
  let rp := p.repPenalty.toNat
  decide (1 ≤ p.lp) && (decide (t < 0x7F800000) || t == 0x80000000) && decide (p.topK ≤ 1024) &&
  decide (0 < tp ∧ tp ≤ 0x3F800000) && (decide (mp < 0x3F800000) || mp == 0x80000000) &&
  decide (0x3F800000 ≤ rp ∧ rp ≤ 0x7F800000) && decide (p.repWindow ≤ 1024) &&
  decide (1 ≤ p.tokenBatch ∧ p.tokenBatch ≤ 64) && decide (p.spec ≤ 1)

/-- Whether a forme takes requests: IN_SERVICE, or the new forme of a running change; the old one of a change takes
none (R220, R296). -/
def takesRequests (ch : Chase) (i : Image) : Bool :=
  match ch.act with
  | .change oldId newId .. => i.formeId == newId || (i.state == .inService && i.formeId != oldId)
  | _ => i.state == .inService

/-- Check 0x0802: the forme serves the kind of request, and the chase is not fenced nor its admissions stopped
(R212, R406). -/
def servesKind (ch : Chase) (r : Req) : Bool :=
  !ch.fenced && !ch.stopped &&
  match imageOf ch r.forme with
  | some i => takesRequests ch i && i.body.cls == (match r.kind with | .generate => 1 | _ => 0)
  | none => false

/-- Check 0x0804 (R327). -/
def sizeOk (r : Req) (b : FormeBody) : Bool :=
  match r.kind with
  | .generate =>
    let m := r.params.maxTokens
    decide (1 ≤ m ∧ m ≤ b.maxOutput ∧ r.lp + m ≤ r.entry.contextMax)
  | _ => decide (r.total ≤ b.maxInput)

/-- Other chases that share a compositor (R316, R404). -/
def sharers (s : State) (c k : Nat) : Nat := s.chases.countP fun x => x.1 != c && x.2.held && nbit x.2.cfg.compMap k

/-- Check 0x0805 (R327). -/
def sharersOk (s : State) (r : Req) : Bool :=
  match r.kind with
  | .generate =>
    decide (sharers s r.chase (compositorOf s r false) ≤ r.entry.compSharers) &&
    (r.draftPosn.isNone || decide (sharers s r.chase (compositorOf s r true) ≤ r.entry.compSharers))
  | _ => true

/-- What the imprimatur decides. -/
inductive Verdict where
  | refused (status detail retry : Nat)
  | admitted (s : State) (n : Nat)

/-- Live requests of the device. -/
def liveAll (s : State) : List Req := (s.reqs.map Prod.snd).filter fun r => !r.state.final

/-- Take a request in with its reservations (R327, R303, R318, R322): its first pass is ready, but for one that walks
the concordance first. -/
def takeIn (s : State) (r : Req) (fs dfs : List Nat) (m : FolioMem) : State × Nat :=
  let n := s.nextReq + 1
  let ch := chase s r.chase
  let walks := r.kind == .generate && r.entry.concObj != 0
  let r := { r with
    state := match r.kind with
      | .score => .running
      | .file => .receiving
      | .generate => if walks then .walking else .prefill
    reserved := fs
    draftFolios := dfs
    k := Nat.min r.entry.kInit r.entry.kMax
    seed := if r.params.seed = 0 then requestSeed ch r.session r.reqId else r.params.seed
    admBin := s.power.admBin
    chunkNs := s.now }
  let s := setConc s r.chase m.conc
  let s := modChase s r.chase fun ch => { ch with folios := m.folios, admitted := sat32 ch.admitted 1 }
  let s := { s with nextReq := n, reqs := kset s.reqs n r }
  (if walks then s else readyNext s n, n)

/-- Requests that hold folios of a pool, those that have ended and still run in the array among them (R307, R329). -/
def folioHolders (s : State) (c pool : Nat) : List Req :=
  ((s.reqs.map Prod.snd).filter fun q => q.chase == c && q.kind == .generate &&
    ((q.entry.poolObj == pool && (!q.folios.isEmpty || !q.reserved.isEmpty)) ||
      (q.entry.draftPool == pool && !q.draftFolios.isEmpty)))

/-- The pool whose folios do not suffice for a GENERATE: its main pool, or its draft pool when the main one does. -/
def shortPool (s : State) (r : Req) : Nat :=
  if (reserveFolios s { r with draftPosn := none }).isNone then r.entry.poolObj else r.entry.draftPool

/-- Time that the input of a request still takes to arrive: the chunks of a FILE_SUBMIT beyond its first, at the
declared total (R328, R347; log 94). -/
def aheadPs (s : State) (r : Req) : Nat := if r.ahead = 0 then 0 else wirePs s r.ep r.ahead

/-- The imprimatur's checks 0x0805 to 0x0809 on a request with its serving entry (R327). -/
def imprimaturFrom (s : State) (r : Req) : Verdict :=
  let c := r.chase
  let e := r.entry
  let drafts := r.draftPosn.isSome
  let mine := (liveAll s).filter fun q => q.chase == c
  if !sharersOk s r then .refused St.noResources 0x0805 0
  else if 65536 ≤ (liveAll s).length then .refused St.busy 0x0806 (retryAfter s (liveAll s))
  else if (chase s c).cfg.reqLimit ≤ mine.length then .refused St.busy 0x0806 (retryAfter s mine)
  else
    match freePosn s c r.forme e.passLimit, (if drafts then freePosn s c e.draftId e.draftPassLimit else some 0) with
    | none, _ => .refused St.busy 0x0807 (retryAfter s ((positionsUsed s c r.forme).map Prod.fst))
    | _, none => .refused St.busy 0x0807 (retryAfter s ((positionsUsed s c e.draftId).map Prod.fst))
    | some p, some dp =>
      let r := { r with posn := p, draftPosn := if drafts then some dp else none }
      let ch := chase s c
      match (match r.kind with | .generate => reserveFolios s r | _ => some ([], [], ⟨ch.conc, ch.folios⟩)) with
      | none =>
        .refused St.busy 0x0808 (retryAfter s (folioHolders s c (shortPool s r)))
      | some (fs, dfs, m) =>
        let bound := (s.now - r.firstNs) * 1000 + aheadPs s r + 2000000 + admissionPs s r + ringPs s r + outPs s r
        if r.deadline ≠ 0 ∧ r.deadline * 1000 < bound then .refused St.busy 0x0809 0
        else
          let (s, n) := takeIn s { r with bound := bound } fs dfs m
          .admitted s n

/-- The imprimatur (R327): its checks in order. -/
def imprimatur (s : State) (r : Req) : Verdict :=
  let ch := chase s r.chase
  match ch.serving.find? fun e => e.formeId == r.forme with
  | none => .refused St.notFound 0x0801 0
  | some e =>
    let drafts := r.kind == .generate && e.draftId != 0 && r.params.spec == 1 && inService ch e.draftId
    let r := { r with entry := e, draftPosn := if drafts then some 0 else none }
    if !servesKind ch r then .refused St.wrongState 0x0802 0
    else if r.kind == .generate && !genInRange r.params then .refused St.malformed 0x0803 0
    else if !sizeOk r (bodyOf s r.chase r.forme) then .refused St.tooLarge 0x0804 0
    else imprimaturFrom s r

/-- Count a refused request: k is the detail's place in R327, 9 for POWER_HOLD (CH_REFUSED_k). -/
def countRefused (s : State) (c k : Nat) : State :=
  modChase s c fun ch =>
    { ch with
      refused := sat32 ch.refused 1
      refusedK := bump ch.refusedK k }

end Sys2Proof.Machine
end

