-- ==== Sys2Proof/Machine/Serving.lean ====
section
/-! DEFINITION. The request commands (R388 to R390): SERVE_SET (R293 to R295), SCORE, GENERATE, FILE_SUBMIT, CANCEL,
RESEND and JOB_STEP, and the idle limit of chunked commands. -/

namespace Sys2Proof.Machine

/-! ### SERVE_SET -/

/-- A MUTABLE object of the chase homed in tier H on one die (R294). -/
def servable (o : Obj) : Bool := o.isMutable && o.tier == 1 && decide (o.homeDie ≤ 3)

/-- Whether a tensor has at least 17 rows of n elements for each of p pass positions (R294, R306). -/
def rowsOk (t : TensorCfg) (n p : Nat) : Bool :=
  t.tier == 1 && t.ext.getD 0 0 == n && decide (17 * p * n ≤ t.count)

/-- Whether a logit tensor fits (R293). -/
def logitOk (t : TensorCfg) (v p : Nat) : Bool :=
  rowsOk t v p && t.rw && (t.format == F.fp32 || t.format == F.bf16)

/-- Whether a mask tensor fits (R293). -/
def maskOk (t : TensorCfg) (v p : Nat) : Bool := rowsOk t (ceilDiv v 8) p && t.format == F.uint8

/-- Whether the bytes of a pass record of the largest pass fit the forme's input (R294). -/
def recordFits (m ctx : Nat) (b : FormeBody) : Bool := decide (32 + 4 * m + 4 * ceilDiv ctx 16 ≤ b.maxInput)

/-- Whether a forme has an outbound galley with a GTID (R294, R281). -/
def completesBy (b : FormeBody) (gtid : Nat) : Bool := (galleysOf b 2).any fun d => d.gtid == gtid

/-- Whether the G fields are zero (R293). -/
def plainEntry (e : ServeFields) : Bool :=
  e.vocab == 0 && e.logitTid == 0 && e.maskTid == 0 && e.prefillTokens == 0 && e.kvClass == 0 && e.contextMax == 0 &&
  e.folioBytes == 0 && e.poolObj == 0 && e.concObj == 0 && e.eos.all (· == 0) && e.draftId == 0 && e.draftPool == 0 &&
  e.draftFolioBytes == 0 && e.draftPassLimit == 0 && e.draftTokens == 0 && e.draftLogitTid == 0 && e.kInit == 0 &&
  e.kMax == 0 && e.probeGap == 0 && e.compSharers == 0

/-- Whether every field of a serving entry keeps to its width (R293, R387). -/
def fieldWidths (e : ServeFields) : Bool :=
  [(e.passLimit, 12), (e.missPolicy, 2), (e.vocab, 20), (e.logitTid, 12), (e.maskTid, 12), (e.prefillTokens, 16),
    (e.contextMax, 24), (e.kvClass, 16), (e.draftPassLimit, 12), (e.draftTokens, 16), (e.draftLogitTid, 12), (e.kInit, 5),
    (e.kMax, 5), (e.probeGap, 8), (e.compSharers, 5)].all fun x => decide (x.1 < 2 ^ x.2)

/-- Whether a pool's folio size is allowed (R293). -/
def folioSizeOk (n : Nat) : Bool := decide (0 < n) && n % 4096 == 0

/-- Ranges of the G fields of a generative main forme (R293). -/
def mainEntryOk (e : ServeFields) : Bool :=
  decide (2 ≤ e.vocab ∧ e.vocab ≤ 262144) && decide (e.logitTid < 4096 ∧ e.maskTid < 4096) &&
  decide (17 ≤ e.prefillTokens ∧ e.prefillTokens ≤ 65535) && decide (1 ≤ e.contextMax ∧ e.contextMax < 16777216) &&
  folioSizeOk e.folioBytes && decide (e.kInit ≤ e.kMax ∧ e.kMax ≤ 16) && decide (1 ≤ e.probeGap ∧ e.probeGap ≤ 255) &&
  decide (e.compSharers ≤ 31)

/-- Ranges of the draft forme's fields (R293). -/
def draftEntryOk (e : ServeFields) : Bool :=
  decide (1 ≤ e.draftPassLimit ∧ e.draftPassLimit ≤ 1024) && decide (17 ≤ e.draftTokens ∧ e.draftTokens ≤ 65535) &&
  folioSizeOk e.draftFolioBytes && decide (e.draftLogitTid < 4096)

/-- The objects a serving entry of a main forme names (R294): pools, the concordance, and those of its tensors. -/
def entryObjs (e : ServeFields) (ts : List TensorCfg) : List Nat :=
  [e.poolObj] ++ (if e.concObj = 0 then [] else [e.concObj]) ++ (if e.draftId = 0 then [] else [e.draftPool]) ++
  ts.map TensorCfg.objId

/-- The tensors a serving entry names: logits, masks, and the draft forme's logits; none where one does not exist. -/
def entryTensors (e : ServeFields) (b d : FormeBody) : Option (List TensorCfg) :=
  match tensorOf b e.logitTid, (if e.maskTid = 0xFFF then some [] else (tensorOf b e.maskTid).map fun t => [t]),
      (if e.draftId = 0 then some [] else (tensorOf d e.draftLogitTid).map fun t => [t]) with
  | some l, some m, some x => some ([l] ++ m ++ x)
  | _, _, _ => none

/-- Whether the tensors of a main entry fit their formes (R293, R294). -/
def entryTensorsOk (e : ServeFields) (b d : FormeBody) : Bool :=
  (match tensorOf b e.logitTid with | some t => logitOk t e.vocab e.passLimit | none => false) &&
  (e.maskTid == 0xFFF || match tensorOf b e.maskTid with | some t => maskOk t e.vocab e.passLimit | none => false) &&
  (e.draftId == 0 || match tensorOf d e.draftLogitTid with | some t => logitOk t e.vocab e.draftPassLimit | none => false)

/-- Whether n is a power of two. -/
def isPow2 (n : Nat) : Bool := (List.range 42).any fun k => n == 2 ^ k

/-- The checks of a generative main entry (R294, R310, R404): the status of the first that fails. -/
def mainEntryRefusal (s : State) (c : Nat) (e : ServeFields) (b : FormeBody) : Option Nat :=
  let draft := if e.draftId = 0 then some default else (imageOf (chase s c) e.draftId).map Image.body
  match draft with
  | none => some St.notFound
  | some d =>
    if !mainEntryOk e || (e.draftId != 0 && (!draftEntryOk e || d.cls != 2)) then some St.malformed
    else
      match entryTensors e b d with
      | none => some St.malformed
      | some ts =>
        let objs := (entryObjs e ts).map (findObj s c)
        if objs.any Option.isNone then some St.notFound
        else if (entryObjs e ts).any (intakeHolds s c) then some St.wrongState
        else if !objs.all (fun o => (o.map servable).getD false) then some St.malformed
        else if !entryTensorsOk e b d then some St.malformed
        else if !recordFits e.prefillTokens e.contextMax b || (e.draftId != 0 && !recordFits e.draftTokens e.contextMax d) then
          some St.malformed
        else if folioCount s c e.poolObj e.folioBytes * 16 < e.contextMax ||
            (e.draftId != 0 && decide (folioCount s c e.draftPool e.draftFolioBytes * 16 < e.contextMax)) then
          some St.malformed
        else if e.concObj != 0 && !isPow2 (bucketsOf s c e.concObj) then some St.malformed
        else if !completesBy b e.logitTid || (e.draftId != 0 && !completesBy d e.draftLogitTid) then some St.malformed
        else if (ts.filter fun t => t.format != F.uint8).any fun t =>
            !nbit (chase s c).cfg.compMap (((findObj s c t.objId).map Obj.homeDie).getD 0) then some St.noResources
        else none

/-- The check of a main forme's fallback (R294). -/
def fallbackRefusal (s : State) (c : Nat) (e : ServeFields) (b : FormeBody) : Option Nat :=
  if b.fallbackId = 0 then none
  else
    match (chase s c).serving.find? (fun x => x.formeId == b.fallbackId), imageOf (chase s c) b.fallbackId with
    | some f, some i =>
      if i.body.cls ≠ b.cls then some St.malformed
      else if b.cls = 1 ∧ (f.kvClass ≠ e.kvClass ∨ f.poolObj ≠ e.poolObj ∨ f.folioBytes ≠ e.folioBytes) then
        some St.malformed
      else none
    | _, _ => some St.notFound

/-- The checks of SERVE_SET (R292 to R294): the status of the first that fails. -/
def serveRefusal (s : State) (c : Nat) (e : ServeFields) : Option Nat :=
  let ch := chase s c
  match (imageOf ch e.formeId).filter fun i => i.state != .checking with
  | none => some St.notFound
  | some i =>
    let b := i.body
    if 1 < b.cls ∨ e.passLimit = 0 ∨ 1024 < e.passLimit ∨ 2 < e.missPolicy then some St.malformed
    else
      match (if b.cls = 1 then mainEntryRefusal s c e b
        else if plainEntry e && completesBy b 0xFFF then none else some St.malformed) with
      | some st => some st
      | none =>
        match fallbackRefusal s c e b with
        | some st => some st
        | none =>
          let others := (ch.serving.map ServeFields.formeId ++ ch.cleared).filter (· != e.formeId)
          if 256 ≤ others.length then some St.noResources else none

/-- SERVE_SET (R292 to R295, R387): OP 0 sets the entry of a forme, OP 1 clears it. Live requests keep their copies. -/
def execServeSet (h : CmdHdr) (op : Nat) (e : ServeFields) (s : State) : Host.Outcome State Fault Refusal :=
  hostCmd h ⟨0x0035, [.ten], false, 0⟩ (fun s se =>
    let c := se.chase
    let has := (chase s c).serving.any fun x => x.formeId == e.formeId
    let without (l : List ServeFields) : List ServeFields := l.filter fun x => x.formeId != e.formeId
    match op with
    | 0 =>
      if !fieldWidths e then rep s h 0x0035 St.malformed 0 []
      else
      match serveRefusal s c e with
      | some st => rep s h 0x0035 st 0 []
      | none =>
        done (modChase s c fun ch =>
          { ch with serving := without ch.serving ++ [e], cleared := ch.cleared.filter (· != e.formeId) }) h 0x0035 []
    | 1 =>
      if !has then rep s h 0x0035 St.notFound 0 []
      else
        done (freeCleared (modChase s c fun ch =>
          { ch with serving := without ch.serving, cleared := ch.cleared ++ [e.formeId] }) c) h 0x0035 []
    | _ => rep s h 0x0035 St.malformed 0 []) s

/-! ### Admission of a command -/

/-- A request as a command asks for it. -/
def newReq (h : CmdHdr) (op c prio : Nat) (kind : ReqKind) (f deadline : Nat) (label : Bytes) : Req :=
  { (default : Req) with
    session := h.session, reqId := h.reqId, opcode := op, ep := h.ep, chase := c, kind := kind, forme := f,
    deadline := deadline, firstNs := h.firstNs, prio := prio, label := label }

/-- The priority of a request (R407). -/
def priority (s : State) (c : Nat) (h : CmdHdr) : Nat := Nat.min (h.dscp / 8) (chase s c).cfg.prioMax

/-- Refuse a request while POWER_HOLD lasts (R383, R521). -/
def refuseHold (s : State) (h : CmdHdr) (op c : Nat) (body : Bytes) : State :=
  repBusy (countRefused s c 9) h op St.powerHold 0 (if s.power.throttle = 0 then 1000 else 10000) body

/-- Ask the imprimatur for admission: a refusal is answered and counted; an admitted request is live. -/
def ask (s : State) (h : CmdHdr) (op : Nat) (r : Req) (body : Bytes) (go : State → Nat → State) : State :=
  match imprimatur s r with
  | .refused st d retry => repBusy (countRefused s r.chase (d - 0x0801)) h op st d retry body
  | .admitted s n => go (enlist s h op r.chase true) n

/-- SCORE (R297, R327, R388). -/
def execScore (h : CmdHdr) (formeId deadline : Nat) (label input : Bytes) (s : State) : Host.Outcome State Fault Refusal :=
  requestCmd h ⟨0x0050, [.ten], false, label.length⟩ label (fun s se =>
    let c := se.chase
    if s.power.hold then refuseHold s h 0x0050 c label
    else
      let r := { newReq h 0x0050 c (priority s c h) .score formeId deadline label with
        total := input.length, input := [(0, input)] }
      ask s h 0x0050 r label fun s _ => s) s

/-- GENERATE (R297, R300, R318, R327, R388). -/
def execGenerate (h : CmdHdr) (p : GenParams) (s : State) : Host.Outcome State Fault Refusal :=
  requestCmd h ⟨0x0051, [.ten], false, p.label.length + 8⟩ (p.label ++ tokenBody 1 []) (fun s se =>
    let c := se.chase
    let body := p.label ++ tokenBody 1 []
    if p.tokens.length ≠ p.lp then rep s h 0x0051 St.malformed 0x0A02 body
    else if s.power.hold then refuseHold s h 0x0051 c body
    else
      let r := { newReq h 0x0051 c (priority s c h) .generate p.formeId p.deadline p.label with gen := some p }
      ask s h 0x0051 r body fun s _ => s) s

/-- JOB_STEP (R466, R471): the step of a READY job, admitted like a SCORE. With its admission the step
begins. -/
def execJobStep (h : CmdHdr) (jobId step formeId deadline : Nat) (label input : Bytes) (s : State) :
    Host.Outcome State Fault Refusal :=
  requestCmd h ⟨0x0061, [.ten], false, label.length⟩ label (fun s se =>
    let c := se.chase
    if s.power.hold then refuseHold s h 0x0061 c label
    else
      match (findJob s jobId).filter fun j => j.fields.chase == c with
      | none => rep s h 0x0061 St.notFound 0 label
      | some j =>
        if j.state = .halted then
          rep s h 0x0061 St.stepAborted 0x0D08 (label ++ abortBody j.fail.1 j.fail.2 j.aborted)
        else if j.state ≠ .ready ∨ step ≠ j.next then rep s h 0x0061 St.wrongState 0x0D07 label
        else
          let r := { newReq h 0x0061 c (priority s c h) .score formeId deadline label with
            total := input.length, input := [(0, input)], job := some (jobId, step) }
          ask s h 0x0061 r label fun s _ => beginStep s jobId step) s

/-! ### FILE_SUBMIT (R389) -/

/-- Answer a chunk without ending the command that its REQUEST_ID names. -/
def answerChunk (s : State) (se : Session) (h : CmdHdr) (status detail retry : Nat) (body : Bytes) : State :=
  conflictReply s se { mkReply h.ep h.session 0x0052 h.reqId status detail body with retryAfter := retry }

/-- Whether two byte ranges, given by offset and length, have a byte in common. -/
def overlap (a n b m : Nat) : Bool := decide (a < b + m ∧ b < a + n)

/-- Take a chunk into a request's input; when every byte is there, RECEIVING ends (R303). -/
def putChunk (s : State) (n off : Nat) (data : Bytes) : State :=
  modReq s n fun r =>
    let input := kset r.input off data
    let got : Nat := (input.map fun e => e.2.length).foldl (· + ·) 0
    { r with
      input := input, chunkNs := s.now
      state := if r.state = .receiving ∧ got = r.total then .running else r.state }

/-- A chunk of a request that is live (R389). -/
def laterChunk (s : State) (se : Session) (h : CmdHdr) (n off : Nat) (data : Bytes) : State :=
  match req s n with
  | none => s
  | some r =>
    if (kget r.input off).isSome then resendReply s ((liveOf s h.session h.reqId).bind LiveCmd.latest)
    else if r.total < off + data.length ∨ r.input.any (fun e => overlap off data.length e.1 e.2.length) then
      answerChunk s se h St.malformed 0 0 []
    else if r.windowEnd < off + data.length then answerChunk s se h St.busy 0x0A08 10 (le 8 r.windowEnd)
    else
      let s := putChunk s n off data
      match req s n with
      | some r =>
        let w := windowFor s r
        replyLive (modReq s n fun q => { q with windowEnd := w }) h.session h.reqId St.accepted 0 (le 8 w)
      | none => s

/-- The chunks held for a REQUEST_ID count as received when its OFFSET 0 chunk is admitted; one that does not fit is
discarded with MALFORMED (R389). -/
def takeHeld (s : State) (se : Session) (h : CmdHdr) (n : Nat) : List (Nat × Nat × Nat × Nat × Bytes) → State
  | [] => s
  | x :: rest =>
    let off := x.2.2.2.1
    let data := x.2.2.2.2
    let s := match req s n with
      | some r =>
        if r.total < off + data.length ∨ r.input.any (fun e => overlap off data.length e.1 e.2.length) then
          answerChunk s se h St.malformed 0 0 []
        else putChunk s n off data
      | none => s
    takeHeld s se h n rest

/-- The first chunk (R389): admission is decided on it. -/
def firstChunk (s : State) (se : Session) (h : CmdHdr) (f deadline total : Nat) (label data : Bytes) : State :=
  let c := se.chase
  let held := s.heldChunks.filter (isHeldOf h.session h.reqId)
  let s := { s with heldChunks := s.heldChunks.filter fun x => !isHeldOf h.session h.reqId x }
  if s.power.hold then refuseHold s h 0x0052 c label
  else if total < data.length then rep s h 0x0052 St.malformed 0 label
  else
    let r := { newReq h 0x0052 c (priority s c h) .file f deadline label with
      total := total, ahead := total - data.length }
    ask s h 0x0052 r label fun s n =>
      let s := takeHeld (putChunk s n 0 data) se h n held
      match req s n with
      | some r =>
        let w := windowFor s r
        replyLive (modReq s n fun q => { q with windowEnd := w }) h.session h.reqId St.accepted 0 (le 8 w)
      | none => s

/-- A chunk with a non-zero OFFSET that comes before the OFFSET 0 chunk is held, up to the first 4 MiB (R389). -/
def earlyChunk (s : State) (se : Session) (h : CmdHdr) (off : Nat) (data : Bytes) : State :=
  if 4194304 < off + data.length then answerChunk s se h St.busy 0x0A08 10 (le 8 4194304)
  else if s.heldChunks.any fun x => x.1 == h.session && x.2.1 == h.reqId && x.2.2.2.1 == off then s
  else { s with heldChunks := s.heldChunks ++ [(h.session, h.reqId, s.now, off, data)] }

/-- The live request of a session with a REQUEST_ID. -/
def liveReq (s : State) (session reqId : Nat) : Option (Nat × Req) :=
  s.reqs.find? fun e => e.2.session == session && e.2.reqId == reqId && e.2.flow.isNone && !e.2.state.final

/-- FILE_SUBMIT (R297, R327, R389): one chunk. -/
def execFileSubmit (h : CmdHdr) (formeId deadline total offset : Nat) (label data : Bytes) (s : State) :
    Host.Outcome State Fault Refusal :=
  chunkCmd h ⟨0x0052, [.ten], false, label.length⟩ offset label (fun s se =>
    match liveReq s h.session h.reqId with
    | some (n, _) => laterChunk s se h n offset data
    | none =>
      match endedChunk s se h 0x0052 offset with
      | some s => s
      | none =>
        if offset = 0 then markChunk (firstChunk s se h formeId deadline total label data) h 0x0052 0
        else earlyChunk s se h offset data) s

/-- FILE_IDLE_TIMEOUT (R389, R386): a FILE_SUBMIT in RECEIVING, or a FORME_LOAD that waits for chunks, has had none
for FILE_IDLE. -/
def execFileIdleTimeout (session reqId : Nat) (s : State) : Host.Outcome State Fault Refusal :=
  .next (
    let idle (ns : Nat) : Bool := decide (ns + policy s 0x0107 * 1000000 ≤ s.now)
    match liveReq s session reqId with
    | some (n, r) =>
      if r.state = .receiving ∧ idle r.chunkNs then endReq s n .cancelled St.cancelled 0x0A09 [] else s
    | none =>
      let mine (x : Stage) : Bool := x.session == session && x.reqId == reqId && !x.ready
      match s.stages.find? mine with
      | some x =>
        if idle x.lastNs then
          let s := replyLive s session reqId St.cancelled 0x0A09 []
          { s with stages := s.stages.filter fun y => !mine y }
        else s
      | none => s)

/-! ### CANCEL and RESEND -/

/-- CANCEL (R333 to R335). -/
def execCancel (h : CmdHdr) (target : Nat) (s : State) : Host.Outcome State Fault Refusal :=
  hostCmd h ⟨0x0053, [.ten], false, 0⟩ (fun s _ =>
    match liveReq s h.session target with
    | some (n, _) => done (endReq s n .cancelled St.cancelled 0 []) h 0x0053 []
    | none => rep s h 0x0053 St.notFound 0 []) s

/-- Send committed tokens again under a REQUEST_ID, from index `first` (counted from 1), in PARTIAL replies of at
most 64 tokens. Fuel bounds their number. -/
def resendTokens : Nat → State → CmdHdr → Nat → Bool → Nat → List Nat → State
  | 0, s, _, _, _, _, _ => s
  | fuel + 1, s, h, target, spoiled, first, toks =>
    if toks.isEmpty then s
    else
      let s := emitReply s { mkReply h.ep h.session 0x0051 target St.partialOut 0 (tokenBody first (toks.take 64)) with
        flags := b2n spoiled }
      resendTokens fuel s h target spoiled (first + 64) (toks.drop 64)

/-- RESEND (R389): while the target is live, and for 1 s after its final reply. -/
def execResend (h : CmdHdr) (target fromTok : Nat) (s : State) : Host.Outcome State Fault Refusal :=
  hostCmd h ⟨0x0054, [.ten], false, 0⟩ (fun s _ =>
    let first := Nat.max 1 fromTok
    let go (toks : List Nat) (spoiled : Bool) : State :=
      done (resendTokens toks.length s h target spoiled first (toks.drop (first - 1))) h 0x0054 []
    match (liveReq s h.session target).filter fun e => e.2.kind == .generate with
    | some (_, r) => go (r.tokens.map Prod.fst) r.spoiled
    | none =>
      match s.logs.find? fun l => l.session == h.session && l.reqId == target && decide (s.now ≤ l.endNs + 1000000000) with
      | some l => go l.tokens l.spoiled
      | none => rep s h 0x0054 St.notFound 0 []) s

end Sys2Proof.Machine
end

