-- ==== Sys2Proof/Machine/Intake.lean ====
section
/-! DEFINITION. The flow intake (R378 to R382): flow records, their completion, the internal SCOREs and the notices. -/

namespace Sys2Proof.Machine

/-! ### Records (R380) -/

/-- Whether n is a power of two. -/
def nrecOk (n : Nat) : Bool := (List.range 27).any fun k => n == 2 ^ k

/-- Fixed part of a list of 16-bit entries. -/
def halfwords (n : Nat) (l : List Nat) : Bytes := padTo (2 * n) (l.flatMap (le 2))

/-- KFLAGS. -/
def FlowRec.kflags (r : FlowRec) : Nat :=
  b2n r.key.v6 + 2 * b2n r.key.vxlan + 4 * b2n r.key.geneve + 8 * b2n r.key.vlanTag + 16 * b2n r.truncated

/-- The 256 bytes of a record; addresses stand in network order. -/
def FlowRec.bytes (r : FlowRec) (idx : Nat) : Bytes :=
  le 8 r.flowId ++ le 1 r.state ++ le 1 r.cause ++ le 1 r.key.proto ++ le 1 r.kflags ++ le 2 r.key.vlan ++ zeros 2 ++
  le 4 r.key.vni ++ le 2 r.key.srcPort ++ le 2 r.key.dstPort ++ be 16 r.key.srcAddr ++ be 16 r.key.dstAddr ++
  le 8 r.firstNs ++ le 8 r.lastNs ++ le 4 r.pktsFwd ++ le 4 r.pktsRev ++ le 4 r.bytesFwd ++ le 4 r.bytesRev ++
  le 1 r.sizes.length ++ le 1 r.tcpFwd ++ le 1 r.tcpRev ++ zeros 1 ++ le 2 r.capFwd.length ++ le 2 r.capRev.length ++
  halfwords 32 r.sizes ++ halfwords 32 r.gaps ++ le 8 idx ++ padTo 16 r.result ++ zeros 8

/-- The payload slot of a record. -/
def FlowRec.payload (r : FlowRec) (capture : Nat) : Bytes := padTo capture r.capFwd ++ padTo capture r.capRev

/-- The record that 256 bytes and a payload slot hold. -/
def recOfBytes (b slot : Bytes) (capture : Nat) : FlowRec :=
  let n := Nat.min 32 (field b 88 1)
  let k := field b 11 1
  { flowId := field b 0 8
    state := field b 8 1
    cause := field b 9 1
    key :=
      { v6 := nbit k 0, vxlan := nbit k 1, geneve := nbit k 2, vlanTag := nbit k 3
        vlan := field b 12 2 % 4096, vni := field b 16 4 % 16777216, proto := field b 10 1
        srcAddr := ofLe (slice b 24 16).reverse, dstAddr := ofLe (slice b 40 16).reverse
        srcPort := field b 20 2, dstPort := field b 22 2, ipLen := 0, tcpFlags := 0, payload := [] }
    firstNs := field b 56 8
    lastNs := field b 64 8
    pktsFwd := field b 72 4
    pktsRev := field b 76 4
    bytesFwd := field b 80 4
    bytesRev := field b 84 4
    tcpFwd := field b 89 1
    tcpRev := field b 90 1
    sizes := (List.range n).map fun i => field b (96 + 2 * i) 2
    gaps := (List.range n).map fun i => field b (160 + 2 * i) 2
    capFwd := slice slot 0 (Nat.min capture (field b 92 2))
    capRev := slice slot capture (Nat.min capture (field b 94 2))
    truncated := nbit k 4
    result := slice b 232 16
    retryAt := none
    req := 0 }

/-- The intake's chase and configuration while it is enabled. -/
def intakeOn (s : State) : Option (Nat × IntakeCfg) :=
  match s.intake.cfg with
  | some k => if k.enable = 1 then some (policy s 0x010F, k) else none
  | none => none

/-- Put a record, and write it and its payload slot to the intake's objects (R379, R380). -/
def putRec (s : State) (c : Nat) (k : IntakeCfg) (idx : Nat) (r : FlowRec) : State :=
  let clean (b : Bytes) : List (Byte × Bool) := b.map fun x => (x, false)
  let s := match findObj s c k.tableObj with
    | some o => objWrite s o (256 * idx) (clean (r.bytes idx))
    | none => s
  let s := match findObj s c k.payloadObj with
    | some o => objWrite s o (2 * k.capture * idx) (clean (r.payload k.capture))
    | none => s
  { s with intake := { s.intake with recs := if r.state = 0 then kdel s.intake.recs idx else kset s.intake.recs idx r } }

/-! ### The intake doorbell (R382) -/

/-- Records whose SCORE waits move into the intake's doorbell queue, in order, while it has room. A descriptor there
names its record. -/
def fillIntake (s : State) : State :=
  let q := s.doorbells.getD 5 []
  let n := 1024 - q.length
  let d (idx : Nat) : Descriptor :=
    { session := 0, opcode := 0x0050, reqId := idx, dscp := 0, src := default, entry := none, firstNs := s.now
      writtenNs := s.now, body := [] }
  { s with
    doorbells := lset s.doorbells 5 (q ++ (s.intake.ready.take n).map d)
    intake := { s.intake with ready := s.intake.ready.drop n } }

/-- A record's SCORE takes its place behind those that wait. -/
def queueScore (s : State) (idx : Nat) : State :=
  fillIntake { s with intake := { s.intake with ready := s.intake.ready ++ [idx] } }

/-- The record whose SCORE the PKC takes: the first of the intake's doorbell queue, at that queue's turn (R47). -/
def takeIntake (s : State) : Option (Nat × State) :=
  if nextQueue s = some 5 then
    match s.doorbells.getD 5 [] with
    | d :: r => some (d.reqId, { s with doorbells := lset s.doorbells 5 r, doorPtr := 0 })
    | [] => none
  else none

/-! ### INTAKE_SET -/

/-- The records that a table and payload area hold (R379, R380), those that are FREE left out. -/
def readRecs (s : State) (t p : Obj) (k : IntakeCfg) : KMap FlowRec :=
  ((List.range k.nrec).map fun i =>
    (i, recOfBytes (objRead s t (256 * i) 256).1 (objRead s p (2 * k.capture * i) (2 * k.capture)).1 k.capture)).filter
      fun e => e.2.state != 0

/-- INTAKE_SET (R379, R382, R384): the subscription of the INTAKE_SET before it ends with DONE. COMPLETE records whose
SCORE waited keep their order; others that the table holds follow by index (log 98). -/
def execIntakeSet (h : CmdHdr) (cfg : IntakeCfg) (s : State) : Host.Outcome State Fault Refusal :=
  hostCmd h ⟨0x0017, [.ten], false, 0⟩ (fun s se =>
    let c := se.chase
    if c ≠ policy s 0x010F then rep s h 0x0017 St.wrongState 0 []
    else if !nrecOk cfg.nrec || decide (1024 < cfg.capture) || cfg.capture % 64 != 0 || decide (1 < cfg.notify) ||
        decide (1 < cfg.enable) then rep s h 0x0017 St.malformed 0 []
    else
      match findObj s c cfg.tableObj, findObj s c cfg.payloadObj with
      | some t, some p =>
        if !(t.isMutable && t.isH && p.isMutable && p.isH) then rep s h 0x0017 St.malformed 0 []
        else if t.size < 256 * cfg.nrec ∨ p.size < 2 * cfg.capture * cfg.nrec then rep s h 0x0017 St.noResources 0 []
        else
          let old := s.intake
          let same : Bool := match old.cfg with
            | some k => k.tableObj == cfg.tableObj && k.nrec == cfg.nrec && k.capture == cfg.capture
            | none => false
          let recs := (readRecs s t p cfg).map fun e =>
            match kget old.recs e.1 with
            | some r => if same then (e.1, { e.2 with retryAt := r.retryAt, req := r.req }) else e
            | none => e
          let s := replyCmd s old.notifyTo St.done 0
          let open' := (recs.filter fun e => e.2.state == 2 && e.2.req == 0 && e.2.retryAt.isNone).map Prod.fst
          let before := ((s.doorbells.getD 5 []).map Descriptor.reqId ++ old.ready).filter open'.contains
          let s := { s with
            doorbells := lset s.doorbells 5 []
            intake := { old with
              cfg := some cfg
              recs := recs
              ready := before ++ open'.filter fun i => !before.contains i
              notifyTo := if cfg.notify = 1 then some (h.session, h.reqId) else none
              unreported := [] } }
          let s := fillIntake s
          if cfg.notify = 1 then enlist s h 0x0017 c false else done s h 0x0017 []
      | _, _ => rep s h 0x0017 St.notFound 0 []) s

/-! ### Frames (R378, R379, R381) -/

/-- An endpoint of a frame. -/
def endpoint (addr port : Nat) : Nat := addr * 65536 + port

/-- The flow key (R379). -/
def flowKey (f : IntakeFrame) : List Nat :=
  let a := endpoint f.srcAddr f.srcPort
  let b := endpoint f.dstAddr f.dstPort
  [f.vlan, f.vni, b2n f.v6, f.proto, Nat.min a b, Nat.max a b]

/-- The key's hash under the intake key of the chase (R379). The order of the key's bytes is not given (DESIGN CHOICE,
log 42). -/
def flowHash (s : State) (c : Nat) (f : IntakeFrame) : Nat :=
  match flowKey f with
  | [vlan, vni, v6, proto, a, b] =>
    sipHash (intakeKey (chase s c)) (le 2 vlan ++ le 4 vni ++ le 1 v6 ++ le 1 proto ++ le 18 a ++ le 18 b)
  | _ => 0

/-- Record indices of a bucket of 8 (R379). -/
def bucketRecs (nrec hash : Nat) : List Nat :=
  let n := Nat.min 8 nrec
  (List.range n).map fun i => hash % (nrec / n) * n + i

/-- A saturating count of w bits. -/
def satAdd (w a b : Nat) : Nat := Nat.min (a + b) (2 ^ w - 1)

/-- A gap in ns as [15:11] e and [10:0] m, rounded down (R380). -/
def gapCode (ns : Nat) : Nat :=
  match (List.range 32).find? fun e => ns / 2 ^ e < 2048 with
  | some e => e * 2048 + ns / 2 ^ e
  | none => 31 * 2048 + 2047

/-- Count a packet in its flow's record: counters and LAST_NS (R380, R381). -/
def countPacket (r : FlowRec) (fwd : Bool) (now len : Nat) : FlowRec :=
  if fwd then { r with lastNs := now, pktsFwd := satAdd 32 r.pktsFwd 1, bytesFwd := satAdd 32 r.bytesFwd len }
  else { r with lastNs := now, pktsRev := satAdd 32 r.pktsRev 1, bytesRev := satAdd 32 r.bytesRev len }

/-- What a packet adds to an OPEN record beside the counters (R380). -/
def addPacket (r : FlowRec) (fwd : Bool) (now capture : Nat) (f : IntakeFrame) : FlowRec :=
  let size := (if fwd then 0 else 32768) + Nat.min f.ipLen 32767
  let gap := if r.sizes.isEmpty then 0 else gapCode (now - r.lastNs)
  let old := if fwd then r.capFwd else r.capRev
  let cap := (old ++ f.payload).take capture
  let r := { r with
    sizes := r.sizes ++ [size], gaps := r.gaps ++ [gap]
    truncated := r.truncated || decide (capture < old.length + f.payload.length) }
  let r := if fwd then { r with capFwd := cap, tcpFwd := r.tcpFwd ||| f.tcpFlags }
    else { r with capRev := cap, tcpRev := r.tcpRev ||| f.tcpFlags }
  countPacket r fwd now f.ipLen

/-- The cause with which a packet completes its flow, none while it stays OPEN (R381): the 32nd packet, or a TCP close. -/
def completion (r : FlowRec) (f : IntakeFrame) : Option Nat :=
  if r.sizes.length = 32 then some 0
  else if f.proto = 6 ∧ (nbit f.tcpFlags 2 = true ∨ (nbit r.tcpFwd 0 = true ∧ nbit r.tcpRev 0 = true)) then some 1
  else none

/-- Make a record COMPLETE with a cause; its SCORE waits its turn (R381, R382). -/
def completeRec (s : State) (c : Nat) (k : IntakeCfg) (idx : Nat) (r : FlowRec) (cause : Nat) : State :=
  queueScore (putRec s c k idx { r with state := 2, cause := cause }) idx

/-- A fresh OPEN record (R379, R380). -/
def openRec (hash now : Nat) (f : IntakeFrame) : FlowRec :=
  { (default : FlowRec) with
    flowId := hash, state := 1, key := { f with ipLen := 0, tcpFlags := 0, payload := [] }, firstNs := now
    lastNs := now, result := zeros 16 }

/-- Take a packet into an OPEN record. -/
def takePacket (s : State) (c : Nat) (k : IntakeCfg) (idx : Nat) (r : FlowRec) (fwd : Bool) (f : IntakeFrame) : State :=
  let r := addPacket r fwd s.now k.capture f
  match completion r f with
  | some cause => completeRec s c k idx r cause
  | none => putRec s c k idx r

/-- The chase to which INTAKE_SKIP and INTAKE_FULL count: that of the intake, while it exists (R378, R379). -/
def countIntake (s : State) (k : Nat) : State := if policy s 0x010F < 32 then chev s (policy s 0x010F) k else s

/-- The UDP ports of VXLAN and GENEVE: those of the INTAKE_SET in force, or the defaults (R378). -/
def tunnelPorts (s : State) : Nat × Nat :=
  match s.intake.cfg with
  | some k => (k.vxlanPort, k.genevePort)
  | none => (4789, 6081)

/-- INTAKE_FRAME (R378, R379, R381): a frame on a port in INTAKE mode. What is not recorded counts in INTAKE_SKIP, also
while no intake is enabled. -/
def execIntakeFrame (ep : Nat) (frame : Bytes) (s : State) : Host.Outcome State Fault Refusal :=
  .next (
    if !portServes s ep 2 then s
    else
    match intakeOf (tunnelPorts s).1 (tunnelPorts s).2 frame, intakeOn s with
    | none, _ => countIntake s 18
    | some _, none => s
    | some f, some (c, k) =>
        let hash := flowHash s c f
        let idxs := bucketRecs k.nrec hash
        let mine (i : Nat) : Bool := match kget s.intake.recs i with
          | some r => flowKey r.key == flowKey f
          | none => false
        match idxs.find? mine with
        | some i =>
          match kget s.intake.recs i with
          | some r =>
            let fwd := endpoint r.key.srcAddr r.key.srcPort == endpoint f.srcAddr f.srcPort
            if r.state = 1 then takePacket s c k i r fwd f else putRec s c k i (countPacket r fwd s.now f.ipLen)
          | none => s
        | none =>
          let free (i : Nat) : Bool := match kget s.intake.recs i with
            | some r => r.state == 3 || r.state == 4
            | none => true
          match idxs.find? free with
          | some i => takePacket s c k i (openRec hash s.now f) true f
          | none => chev s c 19)

/-- FLOW_IDLE_EXPIRY (R381): IDLE_MS without a packet. -/
def execFlowIdleExpiry (idx : Nat) (s : State) : Host.Outcome State Fault Refusal :=
  .next (match intakeOn s, kget s.intake.recs idx with
    | some (c, k), some r =>
      if r.state = 1 ∧ r.lastNs + k.idleMs * 1000000 ≤ s.now then completeRec s c k idx r 2 else s
    | _, _ => s)

/-- FLOW_ACTIVE_EXPIRY (R381): ACTIVE_MS since FIRST_NS. -/
def execFlowActiveExpiry (idx : Nat) (s : State) : Host.Outcome State Fault Refusal :=
  .next (match intakeOn s, kget s.intake.recs idx with
    | some (c, k), some r =>
      if r.state = 1 ∧ r.firstNs + k.activeMs * 1000000 ≤ s.now then completeRec s c k idx r 3 else s
    | _, _ => s)

/-! ### Internal SCOREs (R382) -/

/-- Change a record's handling without changing its bytes. -/
def modRec (s : State) (idx : Nat) (f : FlowRec → FlowRec) : State :=
  { s with intake := { s.intake with recs := kmod s.intake.recs idx f } }

/-- Ask for the internal SCORE of a COMPLETE record. A refused one is retried after its RETRY_AFTER, or after 100 µs
when that is 0. -/
def scoreRec (s : State) (c : Nat) (k : IntakeCfg) (idx : Nat) (r : FlowRec) : State :=
  let n := s.intake.nextReq + 1
  let input := r.bytes idx ++ r.payload k.capture
  let q : Req :=
    { (default : Req) with
      session := 0, reqId := n, opcode := 0x0050, ep := 5, chase := c, kind := .score, forme := k.formeId
      deadline := k.deadline, firstNs := s.now, prio := (chase s c).cfg.prioMax, flow := some idx
      total := input.length, input := [(0, input)] }
  let s := { s with intake := { s.intake with nextReq := n } }
  let later (s : State) (us : Nat) : State :=
    modRec s idx fun r => { r with retryAt := some (s.now + (if us = 0 then 100 else us) * 1000) }
  if s.power.hold then later (countRefused s c 9) (if s.power.throttle = 0 then 1000 else 10000)
  else
    match imprimatur s q with
    | .refused _ d retry => later (countRefused s c (d - 0x0801)) retry
    | .admitted s m => modRec s idx fun r => { r with retryAt := none, req := m }

/-- INTAKE_SCORE (R47, R382): the PKC takes the first SCORE of the intake doorbell at its turn. The place it leaves goes
to the next record. -/
def execIntakeScore (s : State) : Host.Outcome State Fault Refusal :=
  .next (match takeIntake s with
    | none => s
    | some (idx, s) =>
      let s := fillIntake s
      match intakeOn s, kget s.intake.recs idx with
      | some (c, k), some r => if r.state = 2 ∧ r.req = 0 then scoreRec s c k idx r else s
      | _, _ => s)

/-- INTAKE_RETRY (R382): a refused SCORE is tried again through the doorbell; each retry counts in INTAKE_DEFER. -/
def execIntakeRetry (idx : Nat) (s : State) : Host.Outcome State Fault Refusal :=
  .next (match intakeOn s, kget s.intake.recs idx with
    | some (c, _), some r =>
      match r.retryAt with
      | some t =>
        if r.state = 2 ∧ t ≤ s.now then queueScore (modRec (chev s c 20) idx fun r => { r with retryAt := none }) idx else s
      | none => s
    | _, _ => s)

/-- An entry of a notice (R382). -/
def noticeEntry (idx flags : Nat) (r : FlowRec) : Bytes :=
  le 8 r.flowId ++ le 4 idx ++ le 1 r.state ++ le 1 flags ++ zeros 2 ++ padTo 16 r.result

/-- INTAKE_RESULT (R382): the internal SCORE of a record has ended: DONE writes RESULT and makes the record SCORED,
another status makes it FAILED. -/
def execIntakeResult (idx : Nat) (s : State) : Host.Outcome State Fault Refusal :=
  .next (match intakeOn s, kget s.intake.recs idx with
    | some (c, k), some r =>
      match req s r.req with
      | some q =>
        if r.state ≠ 2 ∨ !q.state.final ∨ inArray s q.chase r.req then s
        else
          let ok := q.state == .done
          let r' := { r with
            state := if ok then 3 else 4
            result := if ok then padTo 16 (if q.stop = 0 then q.reply else []) else r.result
            req := 0 }
          let flags := reqFlags s q (decide (q.state = .done)) true
          let s := putRec { s with reqs := kdel s.reqs r.req } c k idx r'
          if s.intake.notifyTo.isSome then
            { s with intake := { s.intake with
              unreported := s.intake.unreported ++ [(s.now, noticeEntry idx flags r')]
              unreportedNs := if s.intake.unreported.isEmpty then s.now else s.intake.unreportedNs } }
          else s
      | none => s
    | _, _ => s)

/-- INTAKE_NOTIFY (R382): a PARTIAL reply for 32 finished records, or 100 µs after the first one unreported. -/
def execIntakeNotify (s : State) : Host.Outcome State Fault Refusal :=
  .next (match s.intake.notifyTo with
    | some (session, reqId) =>
      let l := s.intake.unreported
      if l.isEmpty || (decide (l.length < 32) && decide (s.now < s.intake.unreportedNs + 100000)) then s
      else
        let s := replyLive s session reqId St.partialOut 0 ((l.take 32).flatMap Prod.snd)
        { s with intake := { s.intake with
          unreported := l.drop 32, unreportedNs := ((l.drop 32).head?.map Prod.fst).getD 0 } }
    | none => s)

end Sys2Proof.Machine
end

