-- ==== Sys2Proof/Machine/Clock.lean ====
section
/-! DEFINITION. One nanosecond of the timebase (R15), which passes when no command waits (DESIGN CHOICE, log 2): the
counters and timers that run with it (R179, R222, R288, R343, R411, R477, R530, R553), and the waits that end of
themselves (R212, R225). -/

namespace Sys2Proof.Machine

/-- Whether the timers of R179 pause for a chase: a unit of it waits on WAIT_H, WAIT_B, WAIT_LINK or WAIT_CHANGE, or
its fence is asserted. -/
def guardPaused (ch : Chase) : Bool :=
  ch.fenced || [Wait.tierH, Wait.tierB, Wait.link, Wait.change].any (stalledOn ch)

/-- Whether the request-input galley of a pass waits for input that has not reached the hub (R477). -/
def inputStarved (s : State) (p : ArrayPass) : Bool :=
  match req s p.req with
  | some r => r.kind == .file && decide ((inputBytes r).length ≤ r.taken ∧ r.taken < r.total)
  | none => false

/-- n nanoseconds for chase c: stall counters (R288), the timer of a running change (R222), the pauses of the progress
timers (R477), and the slots that a GUARANTEED chase borrows, a free value of at most one each ns (R402; log 71). -/
def elapseChase (s : State) (n c : Nat) (ch : Chase) : Chase :=
  let stall := (List.range 8).map fun k => ch.stall.getD k 0 + if !ch.fenced && stalledOn ch k then n else 0
  let act : Activity := match ch.act with
    | .change a b true true timer cmd =>
      .change a b true true (if guardPaused ch then timer else runAt timer (tauPs s s.power.curBin) n) cmd
    | x => x
  let pass (p : ArrayPass) : ArrayPass :=
    if s.power.hold || inputStarved s p then { p with entryNs := p.entryNs + n } else p
  let borrow := (List.range 5).map fun w =>
    ch.borrow.getD w 0 + if ch.cfg.bwMode = 1 then Nat.min n (Config.borrowed c w s.now) else 0
  { ch with stall := stall, act := act, borrow := borrow, array := ch.array.map fun e => (e.1, e.2.map pass) }

/-- n nanoseconds for the registration guard of a unit (R179). -/
def elapseUnit (s : State) (n t u : Nat) (f : FuState) : FuState :=
  match chaseOfTile s t, misregistered s t u with
  | some c, some _ =>
    if guardPaused (chase s c) then f else { f with guard := runAt f.guard (tauPs s s.power.curBin) n }
  | _, _ => { f with guard := [], recorded := false }

/-- n nanoseconds of power's counters (R343, R530). -/
def elapsePower (s : State) (n : Nat) (p : Power) : Power :=
  { p with
    slowNs := p.slowNs + if slower s p.curBin p.sustBin then n else 0
    holdNs := p.holdNs + if p.hold then n else 0 }

/-- n nanoseconds, at most 10 ms, of the aligned 10 ms averages (R411), up to timebase `now`. -/
def elapseThermal (now n : Nat) (t : Thermal) : Thermal :=
  let upTo (k : Nat) (sums : List Nat) : List Nat := ([t.vin, t.tjMax, t.tjPred].zip sums).map fun e => e.1 * k + e.2
  let past := now % 10000000
  if past < n then { t with sums := upTo past [0, 0, 0], avg := (upTo (n - past) t.sums).map (· / 10000000) }
  else { t with sums := upTo n t.sums }

/-- The event counts as they stand (R553). -/
def snapOf (s : State) : Snap where
  viol := s.health.viol
  cnt := s.health.cnt
  drops := s.ports.map HostPort.drops
  relayDrop := s.health.relayDrop
  torus := s.torus.map TorusPort.counts
  totals := s.faults.totals
  domTotals := s.faults.domTotals
  slowCount := s.power.slowCount
  holdCount := s.power.holdCount
  chases := s.chases.map fun e => (e.1, chaseCounts s e.1)
  use := usedTotals s
  spares := s.spares
  retired := (s.fuses.tilesRetired, s.fuses.banksRetired)

/-- n nanoseconds of the timebase, at most 1 ms. -/
def elapse (s : State) (n : Nat) : State :=
  let now := s.now + n
  let t := { s with
    now := now
    power := elapsePower s n s.power
    thermal := elapseThermal now n s.thermal
    chases := s.chases.map fun e => (e.1, elapseChase s n e.1 e.2)
    tiles := s.tiles.map fun e => (e.1, { e.2 with fus := e.2.fus.map fun u => (u.1, elapseUnit s n e.1 u.1 u.2) }) }
  let t : State := if now % 1000000 < n then { t with snap := snapOf t } else t
  (t.chases.map Prod.fst).foldl assertWaiting t

/-- One nanosecond. -/
def tick (s : State) : State := elapse s 1

/-- SYNC_MSG (R457): the timebase follows the device of lowest coordinate, half the round trip on, forward only and
by at most 100 ppm of the 1 ms between messages, by how much is a free value (log 6); its counters and timers take the
step with it. -/
def execSyncMsg (port leader hops t1 t2 t3 : Nat) (s : State) : Host.Outcome State Fault Refusal :=
  .next (match s.torus[port]? with
    | none => s
    | some p =>
      if p.state < 4 then s
      else
        let own := myIndex s
        let cur := if s.health.hops = 0 then own else s.health.leader
        let oneWay := (t3 - t1) / 2
        let s := modPort s port fun p => { p with oneWay := Nat.min 4095 oneWay }
        let synced := decide (p.upNs + 10000000 ≤ s.now)
        if leader < cur ∨ (leader = cur ∧ leader < own) then
          let ahead := t2 + oneWay - t3
          let (n, s) := (Config.slew s.draws, { s with draws := s.draws + 1 })
          elapse { s with health := { s.health with
            leader := leader, hops := Nat.min 127 (hops + 1), synced := synced } } (Nat.min 100 (Nat.min ahead n))
        else { s with health := { s.health with
          leader := cur, hops := if cur = own then 0 else s.health.hops, synced := synced } })

end Sys2Proof.Machine
end

