-- ==== Sys2Proof/Machine/Attest.lean ====
section
/-! DEFINITION. Attestation and diagnosis: the colophon (R430 to R434), the pull area's PULL_READ (R390, R427, R489),
the SPDM responder on the sideband (R435) and the test access port (R418). -/

namespace Sys2Proof.Machine

/-! ### The colophon -/

/-- A digest as 48 bytes. -/
def digest48 (b : Bytes) : Bytes := padTo 48 b

/-- A chase entry of the colophon, 128 bytes (R431); all zero for a FREE chase. -/
def chaseEntryBytes (s : State) (c : Nat) : Bytes :=
  let ch := chase s c
  if ch.state = .free then zeros 128
  else
    le 1 c ++ le 1 ch.state.code ++ le 1 ch.cfg.bwMode ++ le 1 ch.cfg.compMap ++ le 4 ch.cfg.pageMap ++
    (List.range 4).flatMap (fun d => le 2 (ch.cfg.hGran.getD d 0)) ++ le 2 ch.cfg.bGran ++ le 1 ch.cfg.prioMax ++ zeros 1 ++
    le 8 ch.createCount ++ zeros 4 ++ (List.range 4).flatMap (fun d => le 4 (ch.cfg.betaH.getD d 0)) ++
    le 4 ch.cfg.betaB ++ zeros 4 ++ (List.range 4).flatMap (fun d => le 4 (ch.cfg.store.getD d 0)) ++
    (match ch.claimPub with | some k => digest48 (sha384 k) | none => zeros 48) ++ zeros 8

/-- A forme entry of the colophon, 64 bytes (R432). -/
def formeEntryBytes (i : Image) : Bytes :=
  le 8 i.formeId ++ le 4 i.body.version ++ le 1 i.body.cls ++ zeros 3 ++ digest48 i.digest

/-- Insert an image into a list in ascending order of FORME_ID. -/
def insImage (x : Image) : List Image → List Image
  | [] => [x]
  | y :: r => if x.formeId ≤ y.formeId then x :: y :: r else y :: insImage x r

/-- The forme entries of a chase: its IN_SERVICE formes in ascending FORME_ID (R432). -/
def formeEntries (s : State) (c : Nat) : List Image :=
  (((chase s c).images.filter fun i => i.state == .inService).foldl (fun l i => insImage i l) []).take 8

/-- Bytes 0 to 4,847 of the colophon for a session (R430, R433). -/
def colophonBody (s : State) (se : Session) (nonce : Bytes) : Bytes :=
  let fw (f : Firmware → Nat) : Nat := (s.boot.fw.map f).getD 0
  let fs := if se.role = .ten then formeEntries s se.chase else []
  let shows (c : Nat) : Bool := se.role == .own || (se.role == .ten && se.chase == c)
  le 4 0x5A39434F ++ le 2 1 ++ le 1 se.role.code ++ le 1 se.chase ++ padTo 32 nonce ++ le 8 (roundNs se.role s.now) ++
  le 1 s.fuses.lifecycle ++ le 1 (b2n (debugOpen s)) ++ le 1 s.fuses.rollback ++ le 1 (fw Firmware.svn) ++
  le 1 (fw Firmware.keyIndex) ++ zeros 3 ++ le 8 (fw Firmware.version) ++ digest48 (sha384 Config.maskRom) ++
  digest48 (fwDigest s) ++ le 16 s.fuses.serial ++ digest48 (ownerDigest s) ++ le 4 (myCoord s) ++ zeros 4 ++
  (List.range 32).flatMap (fun c => if shows c then chaseEntryBytes s c else zeros 128) ++
  le 1 fs.length ++ zeros 7 ++ padTo 512 (fs.flatMap formeEntryBytes)

/-- COLOPHON (R430, R433): the report for the session's role, signed with the alias key. -/
def execColophon (h : CmdHdr) (nonce : Bytes) (s : State) : Host.Outcome State Fault Refusal :=
  hostCmd h ⟨0x0080, [.own, .ten, .mgt, .vnd], true, 4944⟩ (fun s se =>
    let b := colophonBody s se nonce
    done s h 0x0080 (b ++ padTo 96 (aliasSign s b))) s

/-! ### Pulls -/

/-- One entry of a PULL_READ list (R390); the owner reads TIME rounded (R427). -/
def pullEntry (r : Role) (p : Pull) : Bytes :=
  le 4 p.pullId ++ le 1 p.chase ++ le 1 p.cause ++ zeros 2 ++ le 4 p.length ++ zeros 4 ++ le 8 (roundNs r p.time)

/-- PULL_READ (R390, R427, R438): list, read or free. An owner's MODE 1 or 2 is a violation. -/
def execPullRead (h : CmdHdr) (mode pullId offset len : Nat) (errs : List (Nat × Nat)) (s : State) :
    Host.Outcome State Fault Refusal :=
  hostCmd h ⟨0x00A0, [.own, .ten], true, match mode with | 0 => 8 | 1 => len | _ => 0⟩ (fun s se =>
    let mine (p : Pull) : Bool := se.role == .own || p.chase == se.chase
    if 2 < mode then rep s h 0x00A0 St.malformed 0 []
    else if mode = 0 then
      let ps := s.faults.pulls.filter mine
      done s h 0x00A0 (le 4 ps.length ++ zeros 4 ++ ps.flatMap (pullEntry se.role))
    else if se.role = .own then done (violation s) h 0x00A0 (zeros (if mode = 1 then len else 0))
    else
      match s.faults.pulls.find? fun p => p.pullId == pullId && p.chase == se.chase with
      | none => rep s h 0x00A0 St.notFound 0 []
      | some p =>
        if mode = 1 then
          let b := hubRead (((p.bytes.drop offset).take len).map fun x => (x, false)) errs
          emitReply s { mkReply h.ep h.session 0x00A0 h.reqId St.done 0 (b.map Prod.fst) with
            dscp := h.dscp, flags := b2n (b.any Prod.snd) }
        else done { s with faults := { s.faults with pulls := s.faults.pulls.filter (· != p) } } h 0x00A0 []) s

/-! ### The sideband -/

/-- Answer on the sideband; the target answers in every state except while input power is absent (R535). -/
def side (s : State) (msg : String) (accepted : Bool) (body : Bytes) : State :=
  if s.boot.underVolt then s else { s with sbOut := s.sbOut ++ [⟨msg, accepted, body⟩] }

/-- The certificate chain of slot 0 (R435): the Vogomel root, the device certificate and the alias certificate. -/
def spdmChain (s : State) : Bytes := Config.certChain ++ deviceCert s ++ aliasCert s

/-- Answer an SPDM request and note it in the transcript (R435; the messages' encoding is DSP0274's, log 24). -/
def spdmReply (s : State) (msg : String) (code : Nat) (body : Bytes) : State :=
  side { s with boot := { s.boot with spdm := s.boot.spdm ++ [code] } } msg true body

/-- Answer an SPDM request with an error. -/
def spdmError (s : State) (msg : String) : State := side s msg false []

/-- The transcript that a signed SPDM response covers, in the model's encoding (log 24). -/
def spdmTranscript (s : State) : Bytes := s.boot.spdm.flatMap (le 1)

/-- Measurement block 1 to 5 (R435). -/
def measurement (s : State) (i : Nat) : Bytes :=
  let fw (f : Firmware → Nat) : Nat := (s.boot.fw.map f).getD 0
  match i with
  | 1 => digest48 (sha384 Config.maskRom)
  | 2 => digest48 (fwDigest s)
  | 3 => le 1 (fw Firmware.svn) ++ le 1 (fw Firmware.keyIndex) ++ le 8 (fw Firmware.version)
  | 4 => le 1 s.fuses.lifecycle ++ le 1 (b2n (debugOpen s))
  | _ => le 1 s.fuses.rollback

/-- GET_VERSION (R435): SPDM 1.2. -/
def execGetVersion (s : State) : Host.Outcome State Fault Refusal :=
  .next (spdmReply { s with boot := { s.boot with spdm := [] } } "VERSION" 0x84 (le 1 0x12))

/-- GET_CAPABILITIES (R435): certificates, challenges and measurements. -/
def execGetCapabilities (s : State) : Host.Outcome State Fault Refusal :=
  .next (spdmReply s "CAPABILITIES" 0xE1 (ascii "CERT CHAL MEAS"))

/-- NEGOTIATE_ALGORITHMS (R435). -/
def execNegotiateAlgorithms (s : State) : Host.Outcome State Fault Refusal :=
  .next (spdmReply s "ALGORITHMS" 0xE3 (ascii "TPM_ALG_ECDSA_ECC_NIST_P384 TPM_ALG_SHA_384"))

/-- GET_DIGESTS (R435): slot 0. Before the alias certificate exists there is no chain to report. -/
def execGetDigests (s : State) : Host.Outcome State Fault Refusal :=
  .next (if s.boot.aliasKey then spdmReply s "DIGESTS" 0x81 (sha384 (spdmChain s)) else spdmError s "DIGESTS")

/-- GET_CERTIFICATE (R435): a part of the chain of slot 0. -/
def execGetCertificate (slot offset len : Nat) (s : State) : Host.Outcome State Fault Refusal :=
  .next (
    if slot = 0 ∧ s.boot.aliasKey then spdmReply s "CERTIFICATE" 0x82 (((spdmChain s).drop offset).take len)
    else spdmError s "CERTIFICATE")

/-- CHALLENGE (R435): signed with the alias key over the transcript and both nonces. -/
def execChallenge (slot : Nat) (nonce : Bytes) (s : State) : Host.Outcome State Fault Refusal :=
  .next (
    if slot = 0 ∧ s.boot.aliasKey then
      let (mine, s) := drawBytes s 32
      let body := sha384 (spdmChain s) ++ mine
      spdmReply s "CHALLENGE_AUTH" 0x83 (body ++ aliasSign s (spdmTranscript s ++ nonce ++ body))
    else spdmError s "CHALLENGE_AUTH")

/-- GET_MEASUREMENTS (R435): the number of blocks (0), one block (1 to 5) or all (255), signed with the alias key. -/
def execGetMeasurements (index : Nat) (nonce : Bytes) (s : State) : Host.Outcome State Fault Refusal :=
  .next (
    if s.boot.aliasKey && (index ≤ 5 || index == 255) then
      let blocks : Bytes :=
        if index = 0 then le 1 5
        else if index = 255 then (List.range' 1 5).flatMap (measurement s)
        else measurement s index
      let (mine, s) := drawBytes s 32
      let body := blocks ++ mine
      spdmReply s "MEASUREMENTS" 0xE0 (body ++ aliasSign s (spdmTranscript s ++ nonce ++ body))
    else spdmError s "MEASUREMENTS")

/-- Any other SPDM request is answered with the error UnsupportedRequest (R435). -/
def execUnsupportedRequest (code : Nat) (s : State) : Host.Outcome State Fault Refusal :=
  .next (side s "ERROR" false (le 1 (code % 256)))

/-- An instruction at the test access port (R418): 0 BYPASS, 1 SAMPLE/PRELOAD and 2 IDCODE work in every state; 3
EXTEST only without verified firmware; any other is private, and acts as BYPASS and counts a violation while
locked. -/
def execJtagInstruction (code : Nat) (s : State) : Host.Outcome State Fault Refusal :=
  let put (s : State) (k : Nat) : State := { s with boot := { s.boot with jtag := k } }
  .next (
    if code ≤ 2 then put s code
    else if code = 3 then put s (if s.boot.fw.isNone then 3 else 0)
    else if debugOpen s then put s code
    else put (if s.fuses.lifecycle = 1 ∨ s.fuses.lifecycle = 2 then violation s else s) 0)

end Sys2Proof.Machine
end

