-- ==== Sys2Proof/Machine/Chases.lean ====
section
/-! DEFINITION. Chases (R393 to R399): creation, change of shares, release, and the granules that join (R249). -/

namespace Sys2Proof.Machine

/-- Load the key slots of granules that join a chase, each with a new generation (R249 step 1). -/
def loadSlots (s : State) (c : Nat) (gs : List (Nat × Nat)) : State :=
  let ch := chase s c
  gs.foldl (fun s g =>
    let isH := g.1 == 1
    let m := tier s isH
    let n := kgetD m.gens g.2 0 + 1
    setTier s isH { m with gens := kset m.gens g.2 n, slots := kset m.slots g.2 ⟨c, n, some (slotKeys ch isH g.2 n)⟩ }) s

/-- Why CHASE_CREATE or CHASE_CHANGE is refused for want of resources (R394 to R396, R401, R404, R493): the detail. -/
def shareRefusal (s : State) (c : Nat) (ch : Chase) (f : ChaseFields) : Option Nat :=
  if grantsOos s ch f then some 0x0E02
  else if !totalsOk s c f || !routesOk s c f.pageMap || !compsOk s c f then some 0
  else
    match granNew s ch f with
    | none => some 0
    | some _ =>
      if (granBack ch f).any (granBusy s) then some 0
      else if (List.range 4).any fun d => decide (f.store.getD d 0 * 1024 < storeUse s c d) then some 0
      else if storeGrant f < storeUseAll s c + storeReserved s c then some 0
      else none

/-- A live command of a chase, by its opcode. -/
def liveOfChase (s : State) (c op : Nat) : Option (Nat × Nat) :=
  (s.live.find? fun l => l.chase == c && l.opcode == op).map fun l => (l.session, l.reqId)

/-- CHASE_CREATE (R393 to R397, R423): the chase is UNCLAIMED, with a root key, a seed and its granules on their way;
it completes when the last granule has joined (R249). -/
def execChaseCreate (h : CmdHdr) (f : ChaseFields) (s : State) : Host.Outcome State Fault Refusal :=
  hostCmd h ⟨0x0020, [.own], false, 0⟩ (fun s _ =>
    let c := f.chase
    let ch := chase s c
    if !fieldsOk s f then rep s h 0x0020 St.malformed 0 []
    else if ch.held then rep s h 0x0020 St.wrongState 0 []
    else
      match shareRefusal s c ch f, granNew s ch f with
      | none, some new =>
        let (crk, s) := drawBytes s 48
        let n := ch.createCount + 1
        let s := { s with faults := { s.faults with
          counted := s.faults.counted.filter fun e => e.1 != 4 * 4096 + c
          domTotals := kdel s.faults.domTotals (4 * 4096 + c)
          oos := s.faults.oos.filter (· != 4 * 4096 + c) } }
        let s := { s with chases := kset s.chases c { Chase.fresh with
          state := .unclaimed, cfg := f, createCount := n, crk := some crk, seed := chaseSeed s c n, creating := new } }
        let s := loadSlots s c new
        let s := accept s h 0x0020 c false []
        if new.isEmpty then replyLive s h.session h.reqId St.done 0 [] else s
      | r, _ => rep s h 0x0020 St.noResources (r.getD 0) []) s

/-- What CHASE_CHANGE alters beyond PRIO_MAX and REQ_LIMIT (R398). -/
def altersLayout (a b : ChaseFields) : Bool :=
  { a with prioMax := 0, reqLimit := 0 } != { b with prioMax := 0, reqLimit := 0 }

/-- Step 3 of R398 begins: the fence asserts at once and ends the commands of the chase; the new layout takes effect;
pages that leave are scrubbed and granules that leave await the zeroisation of their slots. -/
def beginShareFence (s : State) (c : Nat) : State :=
  let ch := chase s c
  match ch.newCfg with
  | none => s
  | some (f, cmd) =>
    let join := ch.joining.map fun x => (x.1, x.2.1)
    let back := granBack ch f
    let s := modChase s c fun ch => { ch with newCfg := none, joining := [] }
    let s := fenceChase s c
    let gone := ch.cfg.pageMap - (ch.cfg.pageMap &&& f.pageMap)
    let s := { s with
      tiles := s.tiles.filter fun e => !nbit gone (e.1 / 64)
      net := s.net.filter fun x => x.chase != c }
    let s := modChase s c fun ch =>
      { ch with
        cfg := f
        granH := (join.filterMap fun g => if g.1 = 1 then some g.2 else none).foldl nset
          (ch.granH.filter fun g => !back.contains (1, g))
        granB := (join.filterMap fun g => if g.1 = 2 then some g.2 else none).foldl nset
          (ch.granB.filter fun g => !back.contains (2, g))
        creating := ch.creating.filter fun g => !back.contains g
        leaving := back
        stopped := true
        act := .impose .share .draining (serviceIds ch) (some cmd) }
    bringInSpares s (tilesOf gone)

/-- CHASE_CHANGE (R393, R394, R398, R494). -/
def execChaseChange (h : CmdHdr) (f : ChaseFields) (s : State) : Host.Outcome State Fault Refusal :=
  hostCmd h ⟨0x0021, [.own], false, 0⟩ (fun s _ =>
    let c := f.chase
    let ch := chase s c
    let layout := altersLayout ch.cfg f
    if !fieldsOk s f then rep s h 0x0021 St.malformed 0 []
    else if ch.state = .free then rep s h 0x0021 St.notFound 0 []
    else if ch.state = .releasing then rep s h 0x0021 St.wrongState 0 []
    else if layout && imposing ch then rep s h 0x0021 St.wrongState 0x0701 []
    else
      match shareRefusal s c ch f, granNew s ch f with
      | none, some new =>
        let s := returnFabric s c
        if layout then
          let s := modChase s c fun ch =>
            { ch with newCfg := some (f, (h.session, h.reqId)), joining := new.map fun g => (g.1, g.2, false) }
          let s := accept (loadSlots s c new) h 0x0021 255 false []
          if new.isEmpty then beginShareFence s c else s
        else
          let s := accept (modChase s c fun ch => { ch with cfg := f }) h 0x0021 255 false []
          replyLive s h.session h.reqId St.done 0 []
      | r, _ => rep s h 0x0021 St.noResources (r.getD 0) []) s

/-- GRANULE_JOIN (R249, R398): a granule has been written with zeros. One of a CHASE_CREATE joins at once; those of a
CHASE_CHANGE join together at its fence. -/
def execGranuleJoin (chase : Nat) (isH : Bool) (g : Nat) (s : State) : Host.Outcome State Fault Refusal :=
  .next (
    let c := chase
    let ch := Sys2Proof.Machine.chase s c
    let t := if isH then 1 else 2
    if ch.creating.contains (t, g) then
      let s := setTier s isH (zeroGranule (tier s isH) isH g)
      let s := modChase s c fun ch =>
        { ch with
          creating := ch.creating.filter (· != (t, g))
          granH := if isH then nset ch.granH g else ch.granH
          granB := if isH then ch.granB else nset ch.granB g }
      if (Sys2Proof.Machine.chase s c).creating.isEmpty then replyCmd s (liveOfChase s c 0x0020) St.done 0 else s
    else if ch.joining.contains (t, g, false) then
      let s := setTier s isH (zeroGranule (tier s isH) isH g)
      let s := modChase s c fun ch =>
        { ch with joining := ch.joining.map fun x => if x.1 = t ∧ x.2.1 = g then (t, g, true) else x }
      if (Sys2Proof.Machine.chase s c).joining.all fun x => x.2.2 then beginShareFence s c else s
    else s)

/-- The commands of a chase that are live, requests apart, end with DOMAIN_RESET (R52, R399). -/
def endChaseCmds (s : State) (c : Nat) : State :=
  (s.live.filter fun l => l.chase == c && !l.isRequest).foldl
    (fun s l => replyLive s l.session l.reqId St.domainReset 0 []) s

/-- Begin the release of a chase (R399): RELEASING, its commands ended, its fence asserted. -/
def beginRelease (s : State) (c : Nat) (cmd : Option (Nat × Nat)) : State :=
  let s := modChase s c fun ch => { ch with state := .releasing, stopped := true }
  let s := endChaseCmds (fenceChase s c) c
  let s := { s with
    stages := s.stages.filter fun x => x.chase != c
    objWaits := s.objWaits.filter fun w => w.obj.1 != c }
  modChase s c fun ch => { ch with act := .impose .release .draining [] cmd, images := ch.images.filter fun i => i.state != .checking }

/-- CHASE_RELEASE (R393, R399). -/
def execChaseRelease (h : CmdHdr) (chase : Nat) (s : State) : Host.Outcome State Fault Refusal :=
  hostCmd h ⟨0x0022, [.own], false, 0⟩ (fun s _ =>
    let ch := Sys2Proof.Machine.chase s chase
    if 31 < chase then rep s h 0x0022 St.malformed 0 []
    else if ch.state = .free then rep s h 0x0022 St.notFound 0 []
    else if ch.state = .releasing then rep s h 0x0022 St.wrongState 0 []
    else beginRelease (accept s h 0x0022 255 false []) chase (some (h.session, h.reqId))) s

/-- The CHASE_CREATE fields as bytes (R386). -/
def chaseBytes (f : ChaseFields) : Bytes :=
  le 1 f.chase ++ le 1 f.bwMode ++ le 1 f.prioMax ++ le 1 f.compMap ++ le 4 f.pageMap ++
  (List.range 4).flatMap (fun d => le 2 (f.hGran.getD d 0)) ++ le 2 f.bGran ++ le 2 f.reqLimit ++ zeros 4 ++
  (List.range 4).flatMap (fun d => le 4 (f.betaH.getD d 0)) ++ le 4 f.betaB ++
  (List.range 4).flatMap (fun d => le 4 (f.store.getD d 0))

/-- CHASE_INFO (R386, R393): the shares as granted; a tenant sees its own chase whatever CHASE names. -/
def execChaseInfo (h : CmdHdr) (chase : Nat) (s : State) : Host.Outcome State Fault Refusal :=
  hostCmd h ⟨0x0023, [.own, .ten], false, 116⟩ (fun s se =>
    let c := if se.role = .ten then se.chase else chase
    let ch := Sys2Proof.Machine.chase s c
    if ch.state = .free then rep s h 0x0023 St.notFound 0 []
    else done s h 0x0023 (chaseBytes ch.cfg ++ le 1 (b2n ch.claimPub.isSome) ++ zeros 7 ++
      (match ch.claimPub with | some k => sha384 k | none => zeros 48))) s

end Sys2Proof.Machine
end

