-- ==== Sys2Proof/Machine/Compositor.lean ====
section
/-! DEFINITION. The compositor (R315 to R325): the draw of a token from a row of logits, speculative acceptance, and
the commit of a token. -/

namespace Sys2Proof.Machine

/-! ### FP32 arithmetic of the compositor (R317): rounded to nearest even -/

/-- Value of an FP32 code. -/
def f32 (x : Nat) : FV := decode F.fp32 x
/-- Sum. -/
def f32Add (a b : Nat) : Nat := (elemAdd F.fp32 .rne 0 a b).1
/-- Difference. -/
def f32Sub (a b : Nat) : Nat := (elemSub F.fp32 .rne 0 a b).1
/-- Product. -/
def f32Mul (a b : Nat) : Nat := (elemMul F.fp32 .rne 0 a b).1
/-- Quotient. -/
def f32Div (a b : Nat) : Nat := (elemDiv F.fp32 .rne 0 a b).1
/-- EXP, the vector engine's function (R122). -/
def f32Exp (a : Nat) : Nat := (elemTransc 0x31 F.fp32 .rne 0 a).1
/-- Whether a < b. -/
def f32Lt (a b : Nat) : Bool := (f32 a).compare (f32 b) == some .lt
/-- Whether a code is a NaN. -/
def f32Nan (a : Nat) : Bool := f32 a == .nan
/-- u × 2^-32 of a 32-bit draw. -/
def f32Unit (u : Nat) : Nat := (fFP32.ofFV .rne 0 (.fin false u (-32))).1

/-! ### Reading a row (R317 step 1) -/

/-- One token of a row: its id and its logit in FP32. -/
abbrev Logit := Nat × Nat

/-- The row's tokens that are not excluded, in order of id, and whether a byte read was spoiled (R317, R321). -/
def readRow (s : State) (r : Req) (draft : Bool) (row : Nat) : List Logit × Bool :=
  let e := if draft then r.entry else r.mainEntry
  let body := (imageOf (chase s r.chase) (if draft then r.entry.draftId else r.mainForme)).map Image.body
  let src (tid : Nat) : Option (TensorCfg × Obj) :=
    (body.bind fun b => tensorOf b tid).bind fun t => (findObj s r.chase t.objId).map fun o => (t, o)
  match src (if draft then e.draftLogitTid else e.logitTid) with
  | none => ([], false)
  | some (t, o) =>
    let es := (List.range e.vocab).map fun i => srcElt s t o (row * t.ext.getD 0 0 + i)
    let ms := match src e.maskTid with
      | some (m, mo) => if draft then none else
          some ((List.range (ceilDiv e.vocab 8)).map fun i => srcElt s m mo (row * m.ext.getD 0 0 + i))
      | none => none
    let on (i : Nat) : Bool := match ms with
      | some l => nbit ((l.getD (i / 8) (0, false)).1) (i % 8)
      | none => true
    let z (x : Nat) : Nat := if t.format = F.fp32 then x else (cvt t.format F.fp32 .rne 0 x).1
    let all := es.zipIdx.map fun x => (x.2, z x.1.1)
    (all.filter fun x => !f32Nan x.2 && on x.1,
      es.any Prod.snd || (match ms with | some l => l.any Prod.snd | none => false))

/-! ### The draw (R317) -/

/-- Step 2: the repetition penalty on every distinct id among the last REP_WINDOW tokens. -/
def penalise (r : Req) (zs : List Logit) : List Logit :=
  let hist := r.params.tokens ++ r.tokens.map Prod.fst
  let recent := hist.drop (hist.length - r.params.repWindow)
  let rho := r.params.repPenalty.toNat
  zs.map fun x =>
    if recent.contains x.1 then (x.1, if f32Lt 0 x.2 then f32Div x.2 rho else f32Mul x.2 rho) else x

/-- The token of largest logit, the lowest id on ties (step 3). -/
def argmax : List Logit → Option Logit
  | [] => none
  | x :: r => match argmax r with
    | none => some x
    | some y => if f32Lt x.2 y.2 then some y else some x

/-- Put a token among candidates in descending order of logit, behind those of equal logit. -/
def insertCand (x : Logit) : List Logit → List Logit
  | [] => [x]
  | y :: r => if f32Lt y.2 x.2 then x :: y :: r else y :: insertCand x r

/-- Candidates of step 5, at most n. -/
def candidates (n : Nat) (zs : List Logit) : List Logit := (zs.foldl (fun l x => insertCand x l) []).take n

/-- Weights of step 6. -/
def weights (cs : List Logit) : List Logit :=
  let inf := 0x7F800000
  let z0 := (cs.head?.map Prod.snd).getD 0
  if cs.any fun c => c.2 == inf then cs.map fun c => (c.1, if c.2 = inf then 0x3F800000 else 0)
  else cs.map fun c => (c.1, f32Exp (f32Sub c.2 z0))

/-- Cumulative sums in candidate order, each with its token. -/
def cumulative : Nat → List Logit → List Logit
  | _, [] => []
  | acc, c :: r => let t := f32Add acc c.2; (c.1, t) :: cumulative t r

/-- The last cumulative sum of a list of weights. -/
def lastSum (ws : List Logit) : Nat := ((cumulative 0 ws).getLast?.map Prod.snd).getD 0

/-- The kept set: candidates with their weights after steps 4 to 8. -/
def keptSet (p : GenParams) (zs : List Logit) : List Logit :=
  let zs := zs.map fun x => (x.1, f32Div x.2 p.temp.toNat)
  let cs := candidates (if p.topK = 0 then 1024 else p.topK) zs
  let ws := weights cs
  let w0 := (ws.head?.map Prod.snd).getD 0
  let ws := ws.filter fun w => !f32Lt w.2 (f32Mul p.minP.toNat w0)
  let sums := cumulative 0 ws
  let bound := f32Mul p.topP.toNat ((sums.getLast?.map Prod.snd).getD 0)
  let n := (sums.takeWhile fun c => f32Lt c.2 bound).length + 1
  ws.take n

/-- Step 9: the first of a kept set whose cumulative sum exceeds θ, or the last. -/
def pick (ws : List Logit) (u : Nat) : Option Nat :=
  let sums := cumulative 0 ws
  let theta := f32Mul (f32Unit u) ((sums.getLast?.map Prod.snd).getD 0)
  match sums.find? fun c => f32Lt theta c.2 with
  | some c => some c.1
  | none => ws.getLast?.map Prod.fst

/-- The draw u of a kind at a position (R318). -/
def drawU (seed kind pos : Nat) : Nat := philoxWord (philox seed pos kind 0 2) 0

/-- Whether TEMP is 0. -/
def greedy (p : GenParams) : Bool := p.temp.toNat % 2 ^ 31 == 0

/-- A row drawn by R317: the token, none when no candidate remains, the kept set (empty when TEMP = 0), and whether
the draw is spoiled. -/
def drawRow (s : State) (r : Req) (draft : Bool) (row kind pos : Nat) : Option Nat × List Logit × Bool :=
  let (zs, sp) := readRow s r draft row
  let zs := penalise r zs
  if greedy r.params then ((argmax zs).map Prod.fst, [], sp)
  else
    let k := keptSet r.params zs
    (pick k (drawU r.seed kind pos), k, sp)

/-- The probability of a token in a kept set (R324). -/
def prob (ws : List Logit) (id : Nat) : Nat :=
  match ws.find? fun w => w.1 == id with
  | some w => f32Div w.2 (lastSum ws)
  | none => 0

/-- The test of draft token d against a main row (R324): the token, and whether d was accepted. -/
def testDraft (s : State) (r : Req) (row pos d : Nat) (q : List Logit) : Option (Nat × Bool) × Bool :=
  let (t, p, sp) := drawRow s r false row 0 pos
  match t with
  | none => (none, sp)
  | some t =>
    if greedy r.params then (some (if t = d then d else t, t == d), sp)
    else if f32Lt (f32Unit (drawU r.seed 1 pos)) (f32Div (prob p d) (prob q d)) then (some (d, true), sp)
    else
      let ws := p.map fun w =>
        let v := f32Sub (prob p w.1) (prob q w.1)
        (w.1, if f32Lt 0 v then v else 0)
      let ws := if ws.all fun w => w.2 == 0 then p.map fun w => (w.1, prob p w.1) else ws
      ((pick ws (drawU r.seed 2 pos)).map fun t => (t, false), sp)

/-! ### COMPOSITOR_ROW -/

/-- Stop a request with a stop reason (R320): it is DONE. -/
def stopReq (s : State) (n reason : Nat) : State :=
  endReq (modReq s n fun r => { r with stop := reason }) n .done St.done 0 []

/-- Draw the given row of a request's pass. A draft row yields a draft token and the next pass of the round (R323);
another row a token that waits for its commit. -/
def drawFor (s : State) (n i : Nat) (r : Req) (p : Pass) : State :=
  let pos := r.lp + r.tokens.length
  let draw (s : State) (t : Option Nat) (sp ends : Bool) : State :=
    match t with
    | none => stopReq s n 4
    | some t => modReq s n fun r => { r with drawn := some (t, sp, ends), row := i + 1 }
  match p.kind with
  | .draft =>
    let (t, kept, _) := drawRow s r true (17 * r.draftPosn.getD 0 + i) 3 (pos + r.drafts.length)
    match t with
    | none => stopReq s n 4
    | some t =>
      readyNext (modReq s n fun r =>
        { r with drafts := r.drafts ++ [(t, kept.map fun w => (w.1, BitVec.ofNat 32 w.2))], row := i + 1 }) n
  | .verify =>
    match r.drafts[i]? with
    | some (d, q) =>
      let (t, sp) := testDraft s r (17 * r.mainPosn + i) pos d (q.map fun w => (w.1, w.2.toNat))
      draw s (t.map Prod.fst) sp (match t with | some (_, ok) => !ok | none => true)
    | none =>
      let (t, _, sp) := drawRow s r false (17 * r.mainPosn + i) 0 pos
      draw s t sp true
  | _ =>
    let (t, _, sp) := drawRow s r false (17 * r.mainPosn + i) 0 pos
    draw s t sp true

/-- COMPOSITOR_ROW (R315 to R318, R323, R324): the compositor of a die draws its next row, round-robin over the chases
that have one and in arrival order within a chase. A row waits for the commit of the row before it. -/
def execCompositorRow (die : Nat) (s : State) : Host.Outcome State Fault Refusal :=
  .next (match s.comps[die]? with
    | none => s
    | some k =>
      let cs := (k.rows.map Prod.fst).foldl nset []
      match nextCyclic k.ptr cs with
      | none => s
      | some c =>
        match k.rows.find? fun x => x.1 == c with
        | none => s
        | some x =>
          let done (s : State) : State :=
            compWaits { s with comps := lmod s.comps die fun k => { k with ptr := c, rows := k.rows.erase x } } die
          match req s x.2.1 with
          | none => done s
          | some r =>
            match r.pass with
            | none => done s
            | some p =>
              if r.state.final then done s
              else if r.drawn.isSome then s
              else drawFor (done s) x.2.1 x.2.2 r p)

/-! ### COMMIT -/

/-- The stop reason that applies after a commit, 0 for none (R320). -/
def stopReason (r : Req) (tok : Nat) : Nat :=
  if tok ≠ 0xFFFFFFFF ∧ r.entry.eos.contains tok then 1
  else if r.params.maxTokens ≤ r.tokens.length then 2
  else if r.entry.contextMax ≤ r.lp + r.tokens.length then 3
  else 0

/-- The draft length after a round (R325); drafting off leaves it. -/
def nextK (r : Req) (wasVerify : Bool) : Req :=
  if !r.drafting then r
  else if wasVerify then
    let a := r.accepted
    let k := if a = r.k then r.k + 1 else if 0 < a then a + 1 else r.k / 2
    { r with k := Nat.min k r.entry.kMax, plain := 0
             draftFilled := Nat.min r.draftFilled (r.lp + r.tokens.length - 1) }
  else if r.entry.probeGap ≤ r.plain + 1 then { r with k := Nat.min 1 r.entry.kMax, plain := 0 }
  else { r with plain := r.plain + 1 }

/-- Send the unsent tokens in a PARTIAL reply once TOKEN_BATCH of them are unsent (R304). -/
def sendPartial (s : State) (n : Nat) : State :=
  match req s n with
  | none => s
  | some r =>
    if r.tokens.length < r.sent + r.params.tokenBatch then s
    else
      match liveOf s r.session r.reqId with
      | none => s
      | some l =>
        let s := emitReply s { mkReply l.ep r.session l.opcode r.reqId St.partialOut 0 (unsentBody r) with
          flags := reqFlags s r true false }
        modReq s n fun r => { r with sent := r.tokens.length }

/-- A round or a prefill has ended: the next round begins (R300, R323). The rows that the pass has left are not
drawn. -/
def endRound (s : State) (n : Nat) (r : Req) : State :=
  let wasPrefill : Bool := match r.pass with | some p => p.kind == .prefill | none => false
  let wasVerify : Bool := match r.pass with | some p => p.kind == .verify | none => false
  let s := { s with comps := s.comps.map fun k => { k with rows := k.rows.filter fun x => x.2.1 != n } }
  readyNext (modReq s n fun r => startRound (if wasPrefill then r else nextK r wasVerify)) n

/-- COMMIT (R319, R320, R323): the drawn token enters the token log; then the stop reasons are checked, a batch of
tokens leaves, and the round goes on. -/
def execCommit (req : Nat) (s : State) : Host.Outcome State Fault Refusal :=
  .next (match Sys2Proof.Machine.req s req with
    | none => s
    | some r =>
      match r.drawn with
      | none => s
      | some (tok, sp, ends) =>
        if r.state.final then s
        else
          let s := modReq s req fun r =>
            { r with
              tokens := r.tokens ++ [(tok, sp)], spoiled := r.spoiled || sp, drawn := none, state := .decoding
              accepted := if ends then r.accepted else r.accepted + 1 }
          match Sys2Proof.Machine.req s req with
          | none => s
          | some r =>
            let why := stopReason r tok
            if why ≠ 0 then stopReq s req why
            else
              let s := sendPartial s req
              if ends then endRound s req r else s)

end Sys2Proof.Machine
end

