-- ==== Sys2Proof/Machine/Platen.lean ====
section
/-! DEFINITION. The platen (R110 to R117): PMAC accumulates blocks of 32 products and writes an accumulator set out. -/

namespace Sys2Proof.Machine

/-- One operand element or scale of a block: its code, spoil mark and access report. -/
abbrev PElt := Elt × AccFx

/-- The element of a walk position; a walk too short to hold the position gives a free value (log 36), the one that
number n names. -/
def walkElt (x : Tile) (g : Gen) (fmt n p : Nat) : PElt :=
  if p < g.len then g.read x p else ((maskFmt fmt (Config.freeNat n), false), AccFx.ok)

/-- One operand of a PMAC as its generators stream it: `lanes` elements to each k step (R110, R112). -/
structure PStream where
  fmt : Nat
  lanes : Nat
  gen : Gen
  /-- the scale generator of an MX operand -/
  scale : Option Gen
  /-- first number of the free values of short walks -/
  draw : Nat

/-- The 32 elements of lane i in block b: positions lanes × k + i (R110). -/
def PStream.block (p : PStream) (x : Tile) (b i : Nat) : List PElt :=
  (List.range 32).map fun k =>
    let q := p.lanes * (32 * b + k) + i
    walkElt x p.gen p.fmt (p.draw + q) q

/-- The scale of lane i in block b: 2^0 for an operand that is not MX (R78, R112). -/
def PStream.scaleOf (p : PStream) (x : Tile) (b i : Nat) : FV × Bool × AccFx :=
  match p.scale with
  | none => (.fin false 1 0, false, AccFx.ok)
  | some g =>
    let q := p.lanes * b + i
    let e := walkElt x g F.e8m0 (p.draw + 2 ^ 24 + q) q
    (decode F.e8m0 e.1.1, e.1.2, e.2)

/-- One block of one lane: element codes, scale and whether any of them is spoiled. -/
structure PBlock where
  codes : List Nat
  scale : FV
  spoil : Bool

/-- The blocks of one lane, with the report of their accesses. -/
def PStream.lane (p : PStream) (x : Tile) (kblk i : Nat) : List PBlock × AccFx :=
  let bs := (List.range kblk).map fun b =>
    let es := p.block x b i
    let sc := p.scaleOf x b i
    ((⟨es.map (·.1.1), sc.1, es.any (·.1.2) || sc.2.1⟩ : PBlock),
      es.foldl (fun a e => a.or e.2) sc.2.2)
  (bs.map Prod.fst, bs.foldl (fun a e => a.or e.2) AccFx.ok)

/-- Add the blocks of a row of A and a column of B into one accumulator element (R78 to R88, R117), in the order given
(R98: it follows the arrival of the blocks, a free value, log 3). -/
def accBlocks (fa fb : Nat) (blocks : List (PBlock × PBlock)) (a : AccElem) : AccElem :=
  blocks.foldl (fun a e =>
    let (w, fl) := pmacBlock fa fb e.1.codes e.2.codes e.1.scale e.2.scale a.val
    ⟨w, a.flags ||| fl, a.spoil || e.1.spoil || e.2.spoil⟩) a

/-- The register and the element position of D(i, j) in a case register group of view width w (R116). -/
def platenPlace (w i j : Nat) : Nat × Nat :=
  match w with
  | 32 => (2 * (i / 16) + j / 16, 16 * (i % 16) + j % 16)
  | 16 => (i / 16, 32 * (i % 16) + j)
  | 8 => (i / 32, 64 * (i % 16) + (j + 32 * (i / 16 % 2)))
  | _ => (0, 128 * (i % 16) + (j + 32 * (i / 16)))

/-- The elements that register r of the group receives from D, in the view of `fmt`. -/
def platenReg (fmt r : Nat) (d : List Elt) : List (Option Elt) :=
  let w := viewBits fmt
  (List.range (viewLen fmt)).map fun q =>
    ((d.zipIdx).find? fun e => platenPlace w (e.2 / 32) (e.2 % 32) == (r, q)).map Prod.fst

/-- Convert an accumulator set to OFMT (R89, R90, R116): values with their marks, and each element's flags. An integer
OFMT that is out of range raises NV alone, as R93 and R96 say of a conversion (DESIGN CHOICE, log 85). -/
def writeOut (s : State) (k : SlotCtx) (p : PSlot) (set : List AccElem) : List (Elt × Flags) :=
  set.zipIdx.map fun e =>
    let (v, fl) := cvtFlt p.ofmt (Rnd.ofCode p.rnd) (slotRandom s k p.rnd e.2) (wDecode e.1.val)
    ((v, e.1.spoil), e.1.flags ||| fl)

/-- PMAC (R110 to R117): D = A · B into an accumulator set, cleared first when CLR is set, and written out after the
last block when WO is set. Of an output through a generator whose walk is shorter than D, the elements of D beyond it go
nowhere; a generator of another FORMAT than FMT, FMT2 or OFMT accesses by its own (DESIGN CHOICE, log 86). -/
def pmac (s : State) (k : SlotCtx) : State :=
  let p := PSlot.ofWord k.word
  let x := Sys2Proof.Machine.tile s k.t
  let d := s.draws
  let s := { s with draws := d + 2 ^ 27 }
  let strA : PStream := ⟨p.fmt, 64, k.gen p.aga, if p.mxa then some (k.gen p.agsa) else none, d⟩
  let strB : PStream := ⟨p.fmt2, 32, k.gen p.agb, if p.mxb then some (k.gen p.agsb) else none, d + 2 ^ 25⟩
  let as := (List.range 64).map (strA.lane x p.kblk)
  let bs := (List.range 32).map (strB.lane x p.kblk)
  let fx := (as ++ bs).foldl (fun a e => a.or e.2) AccFx.ok
  let old := if p.clr then List.replicate 2048 ⟨0, 0, false⟩ else accSet x p.acc
  let set := old.zipIdx.map fun e =>
    let blocks := ((as.getD (e.2 / 32) ([], .ok)).1).zip ((bs.getD (e.2 % 32) ([], .ok)).1)
    accBlocks p.fmt p.fmt2 (inOrder blocks.length (Config.freeNat (d + 2 ^ 26 + e.2)) blocks) e.1
  if !p.wo then
    addressFault (modTile s k.t fun x => { x with accs := kset x.accs p.acc set }) k fx
  else
    let out := writeOut s k p set
    let set := (set.zip out).map fun e => { e.1 with flags := e.2.2 }
    let vals := out.map Prod.fst
    let x := { x with accs := kset x.accs p.acc set, summary := out.foldl (fun f e => f ||| e.2) x.summary }
    if p.odst then
      let g := k.gen (p.dst % 8)
      let r := storeElts x g ((vals.take g.len).map some)
      addressFault (setTile s k.t r.1) k (fx.or r.2)
    else
      let x := (List.range (platenRegs (viewBits p.ofmt))).foldl
        (fun x r => putElts x p.ofmt (p.dst + r) (platenReg p.ofmt r vals)) x
      addressFault (setTile s k.t x) k fx

/-- Whether the multiplier lanes serve another PMAC of the tile pair first: one that acquired its accumulator set
before (R114). -/
def lanesBusy (s : State) (t fu : Nat) : Bool :=
  let x := tile s t
  let order (u : Nat) : Option Nat := match nextSlot x u with
    | some w => if slotOpc w = 0x40 then (fuOf x u).firing.bind Firing.held else none
    | none => none
  match order fu with
  | some n => (List.range 32).any fun u => match order u with | some m => decide (m < n) | none => false
  | none => false

/-- PMAC (R113, R114): the lanes serve the PMACs that hold their sets in the order in which they acquired them. -/
def execPmac (tile fu : Nat) (s : State) : Host.Outcome State Fault Refusal :=
  .next (if lanesBusy s tile fu then s else runSlot s tile fu 0x40 pmac)

end Sys2Proof.Machine
end

