-- ==== Sys2Proof/Machine/Loader.lean ====
section
/-! DEFINITION. The loader's checks of a forme image (R187 to R207, R266 to R268), in the order in which it runs them.
Each check of a slot is made on every slot that is not empty, each check of a generator on every one in use. -/

namespace Sys2Proof.Machine

/-- An image as the loader has it: envelope, length, the plaintext body where its tag verifies (R187 to R189), and what
the device keeps of it. -/
structure LoadImg where
  env : Bytes
  len : Nat
  plain : Option Bytes
  f : FormeBody

/-- The plaintext body. -/
def LoadImg.b (g : LoadImg) : Bytes := g.plain.getD []

/-- The body key of an image (R189): from the ECDH secret of EPH_PUB and the chase forme key, under NONCE. -/
def bodyKey (ch : Chase) (env : Bytes) : Bytes :=
  hkdf 32 (ecdh (formePriv ch) (slice env 16 97)) (slice env 116 12) (ascii "Z9 forme v1")

/-- The plaintext body of an image, none where the GCM tag does not verify: the envelope is the additional data
(R187 to R189). -/
def openBody (ch : Chase) (image : Bytes) : Option Bytes :=
  let env := image.take 128
  gcmOpen (bodyKey ch env) (slice env 116 12) env (image.drop 128)

/-- The message that the trailer signs (R190), whose SHA-384 is FORME_DIGEST (R432). -/
def signedPart (env body : Bytes) : Bytes := env ++ body.take (body.length - 128)

/-- An image as the engines deliver it to the checks (R206). -/
def loadImg (ch : Chase) (image : Bytes) : LoadImg :=
  let b := openBody ch image
  ⟨image.take 128, image.length, b, formeOfBytes (b.getD [])⟩

/-- Whether two runs of numbers, given by start and length, have none in common. -/
def apart (x y : Nat × Nat) : Bool := x.2 == 0 || y.2 == 0 || !decide (x.1 < y.1 + y.2 ∧ y.1 < x.1 + x.2)

/-- Whether a relation holds of every two entries of a list, the earlier first. -/
def pairwise {α : Type} (p : α → α → Bool) : List α → Bool
  | [] => true
  | a :: r => r.all (p a) && pairwise p r

/-! ### Envelope, trailer, header and sections (0x0101 to 0x0206) -/

/-- Check 0x0101 (R188). -/
def envelopeOk (env : Bytes) : Bool :=
  field env 0 4 == 0x5A394645 && field env 4 2 == 1 && allZero env 6 2 && allZero env 113 3

/-- Check 0x0107 (R190): the trailer's form, and its signature under the key that KEY_ID names. -/
def trailerOk (g : LoadImg) (key : Option Bytes) : Bool :=
  let t := g.b.drop (g.b.length - 128)
  field t 0 4 == 0x5A395452 && allZero t 4 12 && allZero t 112 16 &&
  match key with
  | some pub => ecdsaOk pub (sha384 (signedPart g.env g.b)) (slice t 16 96)
  | none => false

/-- Check 0x0201 (R191). -/
def formeHeaderOk (b : Bytes) : Bool := field b 0 4 == 0x5A394648 && field b 4 2 == 1

/-- Check 0x0202 (R187, R192, R199): the sections in their order, each on a 4 KiB boundary, within the body and without
overlap, a page image as long as its PRESENT makes it; the trailer at its end; QT_LEN by R199. -/
def sectionsOk (b : Bytes) : Bool :=
  let qt := field b 80 8
  let tr := field b 112 8
  let pages := (dirOf b).map fun d => (d.offset, 49152 * popcount64 d.present)
  let parts := [(0, 512), (field b 72 8, 16 * pages.length)] ++ pages ++
    [(qt, field b 88 8), (field b 96 8, 64 * field b 68 2), (field b 104 8, 1024), (tr, 128)]
  parts.all (fun x => x.1 % 4096 == 0) &&
  (parts.zip (parts.drop 1)).all (fun x => decide (x.1.1 + x.1.2 ≤ x.2.1)) && tr + 128 == b.length &&
  field b 88 8 == 16 + 16 * field b (qt + 4) 4 + 48 * field b (qt + 8) 4

/-- Check 0x0203 (R191). -/
def headerFieldsOk (b : Bytes) : Bool :=
  allZero b 55 1 && allZero b 70 2 && allZero b 128 384 && field b 54 1 / 2 == 0 && decide (field b 6 1 ≤ 1) &&
  decide (field b 7 1 ≤ 1) && decide (field b 53 1 ≤ 2) && field b 8 8 != 0 &&
  decide (1 ≤ field b 68 2 ∧ field b 68 2 ≤ 4095)

/-- Check 0x0204 (R192). -/
def directoryOk (b : Bytes) : Bool :=
  let m := field b 48 4
  field b 52 1 == (pagesOf m).length && (dirOf b).map DirEntry.vpage == pagesOf m && (dirOf b).all fun e => e.resv == 0

/-- Check 0x0205 (R192, R195): each page image reaches to the next one, or to the queue table. -/
def pageImagesOk (b : Bytes) : Bool :=
  let ds := dirOf b
  let ends := (ds.drop 1).map DirEntry.offset ++ [field b 80 8]
  (ds.zip ends).all (fun e => e.2 == e.1.offset + 49152 * popcount64 e.1.present) &&
  (tileBytesOf b).all fun e => field e.2 0 2 % 2048 == e.1

/-! ### Tile images (0x0401 to 0x040C) -/

/-- The slot words of a tile that are not empty. -/
def slotWords (c : TileCfg) : List Nat := (c.slots.map fun e => e.2.toNat).filter fun w => slotOpc w != 0

/-- The configured units of a tile. -/
def unitsOf (c : TileCfg) : List (Nat × UnitCfg) := c.units.filter fun u => u.2.en

/-- The format of a generator, none for an unused one: to name that fails check 0x0409 (R136). -/
def genFormat (c : TileCfg) (i : Nat) : Option Nat := (kget c.gens i).map GenCfg.format

/-- FLT of R119. -/
def isFlt (f : Nat) : Bool := decide (f ≤ 2)
/-- FLT or INT of R119. -/
def isNum (f : Nat) : Bool := isFlt f || f == F.int32 || f == F.int16

/-- Whether FMT and FMT2 of a vector slot are allowed for its opcode (R119, R120; check 0x0402). -/
def vectorFmtOk (c : TileCfg) (v : VSlot) : Bool :=
  v.fmt != 15 && v.fmt2 != 15 &&
  match v.opc with
  | 0x02 | 0x03 => (genFormat c (v.imm % 8)).all fun f => f == v.fmt
  | 0x06 | 0x07 | 0x08 | 0x10 | 0x11 | 0x12 | 0x13 => decide (16 ≤ viewBits v.fmt)
  | 0x20 | 0x21 | 0x22 | 0x25 | 0x29 | 0x2A | 0x48 | 0x49 | 0x4A => isNum v.fmt
  | 0x23 | 0x26 | 0x31 | 0x32 | 0x33 | 0x34 | 0x35 => isFlt v.fmt
  | 0x27 | 0x28 | 0x38 => isNum v.fmt || v.fmt == F.vlg8
  | 0x2B | 0x2C | 0x2D | 0x2E | 0x2F | 0x30 => v.fmt == F.int32 || v.fmt == F.int16
  | 0x3B => v.fmt2 == 0
  | 0x3C | 0x3D | 0x3E | 0x3F | 0x58 | 0x59 | 0x5A | 0x5B => v.fmt == 0 && v.fmt2 == 0
  | 0x4B => v.fmt == F.fp32 || v.fmt == F.int32
  | 0x50 | 0x51 => v.fmt == F.vlg8
  | _ => true

/-- Check 0x0402. -/
def formatsOk (c : TileCfg) : Bool :=
  (slotWords c).all (fun w =>
    if slotOpc w = 0x40 then
      let p := PSlot.ofWord w
      p.fmt != 15 && p.fmt2 != 15 && p.ofmt != 15 && p.ofmt != F.e8m0
    else vectorFmtOk c (VSlot.ofWord w)) &&
  c.gens.all fun g => g.2.format != 15

/-- The vector opcodes of R119. -/
def vectorOpcodes : List Nat :=
  [0x01, 0x02, 0x03, 0x06, 0x07, 0x08, 0x09, 0x0A, 0x10, 0x11, 0x12, 0x13, 0x20, 0x21, 0x22, 0x23, 0x25, 0x26, 0x27,
    0x28, 0x29, 0x2A, 0x2B, 0x2C, 0x2D, 0x2E, 0x2F, 0x30, 0x31, 0x32, 0x33, 0x34, 0x35, 0x38, 0x39, 0x3A, 0x3B, 0x3C,
    0x3D, 0x3E, 0x3F, 0x48, 0x49, 0x4A, 0x4B, 0x50, 0x51, 0x58, 0x59, 0x5A, 0x5B]

/-- Check 0x0403 of one slot: a defined opcode with a valid modifier (R113, R119 to R121, R125). -/
def modifierOk (w : Nat) : Bool :=
  if slotOpc w = 0x40 then decide (1 ≤ (PSlot.ofWord w).kblk)
  else
    let v := VSlot.ofWord w
    vectorOpcodes.contains v.opc &&
    match v.opc with
    | 0x06 => decide (v.imm % 32 < 16)
    | 0x07 => decide (v.imm % 32 < viewCols v.fmt)
    | 0x08 | 0x4B => v.srcb / 4 == 0
    | 0x09 => decide (v.imm / 256 < 16 ∧ v.imm % 256 < viewCols v.fmt)
    | 0x0A => v.srcb / 4 == 0 && decide (v.imm / 256 < 16 ∧ v.imm % 256 < viewCols v.fmt)
    | 0x13 => decide (2 ^ (v.imm % 8) < if nbit v.imm 8 then 16 else viewCols v.fmt)
    | 0x38 => v.imm % 8 != 7
    | 0x48 | 0x49 | 0x4A => v.imm % 4 != 3
    | 0x58 | 0x5A => decide (v.imm % 8 ≤ 4)
    | 0x59 => decide (v.imm % 8 ≤ 4) && v.dst % 2 == 0
    | _ => true

/-- Whether the platen accepts a pair of formats (R80). -/
def pairOk (a b : Nat) : Bool :=
  ([F.e4m3, F.e5m2, F.e3m2, F.e2m3, F.vlg8].contains a && [F.e4m3, F.e5m2, F.e3m2, F.e2m3].contains b) ||
  ([F.int8, F.uint8].contains a && [F.int8, F.uint8].contains b) ||
  (a == b && [F.e2m1, F.int4, F.int16, F.bf16, F.fp16, F.fp32].contains a)

/-- Whether an operand may be declared MX (R576). -/
def mxAllowed (f : Nat) : Bool := [F.e4m3, F.e5m2, F.e3m2, F.e2m3, F.e2m1, F.vlg8, F.bf16].contains f

/-- Check 0x0404 of one slot. -/
def platenPairOk (w : Nat) : Bool :=
  slotOpc w != 0x40 ||
  let p := PSlot.ofWord w
  pairOk p.fmt p.fmt2 && (!p.mxa || mxAllowed p.fmt) && (!p.mxb || mxAllowed p.fmt2)

/-- Check 0x0405 of one slot. -/
def rndOk (w : Nat) : Bool := if slotOpc w = 0x40 then (PSlot.ofWord w).rnd != 3 else (VSlot.ofWord w).rnd != 3

/-- Check 0x0406 of one slot (R103, R116): the wider side of a CVT, and the group a platen write-out fills. -/
def groupOk (w : Nat) : Bool :=
  if slotOpc w = 0x40 then
    let p := PSlot.ofWord w
    !p.wo || p.odst || p.dst % platenRegs (viewBits p.ofmt) == 0
  else
    let v := VSlot.ofWord w
    v.opc != 0x3A ||
      (v.dst % Nat.max 1 (viewBits v.fmt / viewBits v.fmt2) == 0 &&
        v.srca % Nat.max 1 (viewBits v.fmt2 / viewBits v.fmt) == 0)

/-- Check 0x0406 of one emit entry (R144). -/
def caseArgOk (e : EmitCfg) : Bool :=
  e.src != 0xC ||
  let n := 2 ^ nbits e.srcarg 5 2
  e.srcarg % 32 % n == 0 && decide (e.srcarg % 32 + n ≤ 32)

/-- Number of inputs of a function, minus one (R149). -/
def ninOk (func nin : Nat) : Bool :=
  match func with
  | 0 => true
  | 1 | 5 => nin == 0
  | 2 => nin == 2
  | _ => nin == 1

/-- Whether a slot uses what exists only under GATHER (R124). -/
def usesGather (w : Nat) : Bool :=
  let v := VSlot.ofWord w
  v.opc == 0x4B || ((v.opc == 0x48 || v.opc == 0x49 || v.opc == 0x4A) && (nbit v.imm 3 || nbit v.imm 4))

/-- Check 0x0407 of a tile (R149, R155, R162). -/
def functionsOk (f : FormeBody) (c : TileCfg) : Bool :=
  (unitsOf c).all (fun u =>
    let k := u.2
    decide (k.func ≤ 5 ∧ k.tagx ≤ 2 ∧ k.tagn ≤ 6) && ninOk k.func k.nin &&
    (if f.zw5 then k.func != 1 && k.func != 2 && k.tagx == 0 else decide (k.func ≤ 2))) &&
  (f.gather || !(slotWords c).any usesGather)

/-- Scalar results of a unit's chain (R150). -/
def scalarCount (c : TileCfg) (u : UnitCfg) : Nat := (chainOf c u).countP fun w => producesScalar (slotOpc w)

/-- Check 0x0408 of one emit entry of a unit (R150, R193). -/
def emitOk (f : FormeBody) (c : TileCfg) (u : UnitCfg) (e : EmitCfg) : Bool :=
  e.src != 15 && e.arm != 3 && (e.arm == 0 || u.func == 1 || u.func == 3) &&
  (if e.src < 8 then decide (e.src < scalarCount c u)
   else if e.src < 12 then decide (e.src - 8 ≤ u.nin) else true) &&
  (e.dremote || nbit f.pageMap (e.dtile / 64))

/-- Check 0x0408 of one unit (R120, R148, R150, R151). -/
def unitOk (f : FormeBody) (c : TileCfg) (u : UnitCfg) : Bool :=
  (u.func != 0 || (decide (1 ≤ u.slotCount ∧ u.slotFirst + u.slotCount ≤ 4096) &&
    (chainOf c u).all fun w => slotOpc w != 0 &&
      (!([0x08, 0x0A, 0x4B].contains (slotOpc w)) || decide ((VSlot.ofWord w).srcb % 4 ≤ u.nin)))) &&
  decide (u.nemit ≤ 8 ∧ u.emitFirst + u.nemit ≤ 256) && (!u.hen || decide (u.hin ≤ u.nin)) &&
  (emitsOf c u).all (emitOk f c u)

/-- Whether a generator descriptor is valid (R136, R137). -/
def genOk (g : GenCfg) : Bool :=
  g.ext.all (fun e => e != 0) && (g.valid.zip g.ext).all (fun e => decide (e.1 ≤ e.2)) && decide (g.limitLo < g.limitHi) &&
  (fmtBits g.format != 6 || g.indexed ||
    (g.stride.getD 0 0 == 1 && (g.stride.drop 1).all fun d => d % 4 == 0))

/-- Check 0x0409 of a tile. -/
def gensOk (c : TileCfg) : Bool :=
  c.gens.all (fun g => genOk g.2) &&
  ((slotWords c).flatMap slotGens ++ ((unitsOf c).filter fun u => u.2.hen).map fun u => u.2.hgen).all
    fun i => (kget c.gens i).isSome

/-- The ports bound in a tile, one for each bound input (R147). -/
def boundPorts (c : TileCfg) : List Nat := (unitsOf c).flatMap fun u => u.2.ins.take (u.2.nin + 1)

/-- Check 0x040A of a tile. -/
def portsOk (c : TileCfg) : Bool :=
  pairwise (fun a b => a != b) (boundPorts c) && (unitsOf c).all fun u => u.2.tagx != 2 || u.2.nin == 0

/-- Check 0x040B of a tile: the pad code of a PMAC operand generator is a zero of the generator's format (R78, R204). -/
def padsOk (c : TileCfg) : Bool :=
  (slotWords c).all fun w => slotOpc w != 0x40 ||
    ([(PSlot.ofWord w).aga, (PSlot.ofWord w).agb].all fun i =>
      ((kget c.gens i).map fun g => (decode g.format g.pad).isZero).getD true)

/-- The edges of the graph of firing units: unit u of tile t is node 32 t + u. -/
def unitEdges (f : FormeBody) : List (Nat × Nat) :=
  f.tiles.flatMap fun t => (unitsOf t.2).flatMap fun u =>
    ((emitsOf t.2 u.2).filter fun e => !e.dremote).filterMap fun e =>
      ((kget f.tiles e.dtile).bind fun c => boundTo c e.dport).map fun d => (t.1 * 32 + u.1, e.dtile * 32 + d.1)

/-- Take away, again and again, the nodes that no edge from a remaining node enters. -/
def peel : Nat → List (Nat × Nat) → List Nat → List Nat
  | 0, _, l => l
  | n + 1, es, l => peel n es (l.filter fun x => es.any fun e => e.2 == x && l.contains e.1)

/-- Check 0x040C: with CYCLIC = 0 nothing remains. -/
def acyclicOk (f : FormeBody) : Bool :=
  let nodes := f.tiles.flatMap fun t => (unitsOf t.2).map fun u => t.1 * 32 + u.1
  f.cyclic || (peel nodes.length (unitEdges f) nodes).isEmpty

/-! ### Buffers and tensors (0x0501 to 0x0508) -/

/-- The MT regions of a tile's queues: start and length (R199). -/
def queueRegions (f : FormeBody) (t : Nat) : List (Nat × Nat) :=
  (f.queues.filter fun q => q.tile == t && q.loc).map fun q => (q.region, q.bytes)

/-- The preload region of a tile. -/
def preloadRegion (c : TileCfg) : Nat × Nat := (c.preloadAddr, c.preloadLen)

/-- Generators of a tile that a unit relocates (R151). -/
def relocated (c : TileCfg) : List Nat := ((unitsOf c).filter fun u => u.2.hen).map fun u => u.2.hgen

/-- Generators of a tile that no unit relocates. -/
def fixedGens (c : TileCfg) : List GenCfg := (c.gens.filter fun g => !(relocated c).contains g.1).map Prod.snd

/-- Check 0x0501 of a tile (R135, R150, R195). -/
def boundsOk (f : FormeBody) (t : Nat) (c : TileCfg) : Bool :=
  let clear (x : Nat × Nat) : Bool := decide (x.1 + x.2 ≤ mtBytes) && (queueRegions f t).all fun r => apart x r
  (fixedGens c).all (fun g => clear (g.limitLo, g.limitHi - g.limitLo)) &&
  c.preloadAddr % 256 == 0 && c.preloadLen % 64 == 0 && decide (c.preloadLen ≤ 8192) && clear (preloadRegion c) &&
  c.emits.all fun e => e.2.src != 0xD ||
    (e.2.srcarg % 64 == 0 && decide (nbits e.2.srcarg 0 19 + 64 * (nbits e.2.srcarg 19 14 + 1) ≤ mtBytes))

/-- Check 0x0502 (R202, R205, R266), of descriptor i with its 512 bits. -/
def tensorOk (f : FormeBody) (i n : Nat) (d : TensorCfg) : Bool :=
  n / 2 ^ 400 == 0 && d.tid == i && d.tier != 3 && d.format != 15 && d.ext.all (fun e => e != 0) &&
  (if d.mx then ((f.tensors[d.scaleTid]?).map fun x => x.format == F.e8m0).getD false else d.scaleTid == 0xFFF) &&
  (if d.tier = 0 then
    d.mtBase % 256 == 0 && !nbit d.objId 11
   else d.offset % 4096 == 0)

/-- Whether folds partition the dimensions (R203). -/
def foldsOk (d : TensorCfg) : Bool :=
  d.ext.zipIdx.all fun e => !(nbit d.foldR e.2 && nbit d.foldC e.2) && (e.1 == 1 || nbit d.foldR e.2 || nbit d.foldC e.2)

/-- Check 0x0503 (R203). -/
def tensorPlaceOk (s : State) (c : Nat) (f : FormeBody) (d : TensorCfg) : Bool :=
  foldsOk d &&
  if d.tier = 0 then
    (kget f.tiles d.stile).isSome && decide (0 ≤ d.byteSpan.1 ∧ d.byteSpan.2 < (mtBytes : Int))
  else tensorInObject s c d

/-- The MT bytes of a TIER S tensor: those its elements reach, or its ring. -/
def tensorRange (d : TensorCfg) : Int × Int :=
  if d.gkind = 0 then (d.byteSpan.1, d.byteSpan.2 + 1)
  else ((d.mtBase : Int), ((d.mtBase + d.nslot * d.slotg * 64 : Nat) : Int))

/-- Check 0x0504 (R204), of the tensors and of the generators derived from them (DEDUCED, log 75). -/
def padBitsOk (f : FormeBody) : Bool :=
  f.tensors.all (fun d => decide (d.pad < 2 ^ fmtBits d.format)) &&
  f.tiles.all fun t => t.2.gens.all fun g => decide (g.2.pad < 2 ^ fmtBits g.2.format)

/-- Check 0x0505 of a tile. -/
def gensInTensors (f : FormeBody) (t : Nat) (c : TileCfg) : Bool :=
  (fixedGens c).all fun g => f.tensors.any fun d =>
    d.tier == 0 && d.stile == t && d.format == g.format &&
      decide ((tensorRange d).1 ≤ (g.limitLo : Int) ∧ (g.limitHi : Int) ≤ (tensorRange d).2)

/-- The galleys of a forme. -/
def galleyList (f : FormeBody) : List TensorCfg := f.tensors.filter fun d => d.gkind != 0

/-- The ring of a galley: start and length. -/
def ringOf (d : TensorCfg) : Nat × Nat := (d.mtBase, d.nslot * d.slotg * 64)

/-- Check 0x0506 (R266, R268); the galley fields that are zero when GKIND = 0 are checked here (DEDUCED, log 75). -/
def ringsOk (f : FormeBody) : Bool :=
  f.tensors.all (fun d => d.tier != 0 ||
    if d.gkind = 0 then d.nslot == 0 && d.slotg == 0 && d.gtid == 0 && d.gport == 0 && d.outlen == 0
    else
      d.gkind != 3 && decide (3 ≤ d.nslot ∧ d.nslot ≤ 64 ∧ 1 ≤ d.slotg ∧ d.slotg ≤ 8192) &&
      decide ((ringOf d).1 + (ringOf d).2 ≤ mtBytes) && (queueRegions f d.stile).all (apart (ringOf d)) &&
      ((kget f.tiles d.stile).map fun c => apart (ringOf d) (preloadRegion c)).getD true) &&
  pairwise (fun a b => a.stile != b.stile || apart (ringOf a) (ringOf b)) (galleyList f)

/-- Check 0x0507 (R268). -/
def galleyPortsOk (f : FormeBody) : Bool :=
  (galleyList f).all (fun d =>
    f.queues.any (fun q => q.tile == d.stile && q.port == d.gport && q.entry == (d.gkind == 1)) &&
    ((kget f.tiles d.stile).bind fun c => boundTo c d.gport).isSome == (d.gkind == 1)) &&
  pairwise (fun a b => a.stile != b.stile || a.gport != b.gport) (galleyList f)

/-- Check 0x0508 (R266, R268). -/
def galleyTensorsOk (f : FormeBody) : Bool :=
  (galleyList f).all (fun d =>
    ((d.gkind == 2 && d.gtid == 0xFFF) || d.outlen == 0) &&
    if d.gtid = 0xFFF then d.gkind == 1 || decide (1 ≤ d.outlen)
    else match tensorOf f d.gtid with
      | some x => (x.tier == 1 || x.tier == 2) && (d.gkind == 1 || (x.rw && x.format == d.format))
      | none => false) &&
  [1, 2].all fun k => decide ((galleyList f).countP (fun d => d.gkind == k && d.gtid == 0xFFF) ≤ 1)

/-! ### Queues (0x0601 to 0x0605) -/

/-- Check 0x0601 of a queue entry (R199). -/
def queueOk (q : QueueCfg) : Bool :=
  decide (2 ≤ q.depth ∧ q.depth ≤ 1024 ∧ q.slotsz ≤ 8192) &&
  (if q.slotsz = 0 then q.loc == decide (17 ≤ q.depth) else q.loc) &&
  if q.loc then q.region % 64 == 0 && decide (q.region + q.bytes ≤ mtBytes) else q.region == 0

/-- Check 0x0601. -/
def queuesOk (b : Bytes) (f : FormeBody) : Bool :=
  let qt := field b 80 8
  (List.range f.queues.length).all (fun i =>
    let n := field b (qt + 16 + 16 * i) 16
    n / 2 ^ 64 == 0 && !nbit n 17) &&
  f.queues.all queueOk &&
  f.tiles.all (fun t => (boundPorts t.2).all fun p => f.queues.countP (fun q => q.tile == t.1 && q.port == p) == 1) &&
  pairwise (fun a b => a.tile != b.tile || apart (a.region, a.bytes) (b.region, b.bytes)) (f.queues.filter QueueCfg.loc)

/-- Check 0x0602 (R166). -/
def poolOk (f : FormeBody) : Bool :=
  f.queues.all fun q =>
    decide ((((f.queues.filter fun x => x.tile == q.tile && !x.loc).map QueueCfg.depth).foldl (· + ·) 0) ≤ 256)

/-- Granules of the handle that an emit entry builds (R145). -/
def argGranules (e : EmitCfg) : Nat :=
  if e.src = 0xC then 16 * 2 ^ nbits e.srcarg 5 2 else nbits e.srcarg 19 14 + 1

/-- Check 0x0603 (R145, R169). -/
def landingOk (f : FormeBody) : Bool :=
  f.tiles.all fun t => (unitsOf t.2).all fun u => (emitsOf t.2 u.2).all fun e =>
    !(e.src == 0xC || e.src == 0xD) || e.dremote || e.dtile == t.1 ||
      f.queues.all fun q => q.tile != e.dtile || q.port != e.dport || decide (argGranules e ≤ q.slotsz)

/-- Check 0x0604 of a pair record (R176, R200), in exact integers. -/
def pairRecordOk (f : FormeBody) (p : PairCfg) (nq : Nat) : Bool :=
  decide (1 ≤ nq ∧ nq ≤ 12) && decide (p.fu < 32) && p.rDen != 0 && p.qs.all (fun q => decide (q < f.queues.length)) &&
  let depth : Nat := (p.qs.map fun q => ((f.queues[q]?).map QueueCfg.depth).getD 0).foldl (· + ·) 0
  decide (-((((p.lShort : Int) - p.lLong) * p.rNum).fdiv (p.rDen : Int)) + 2 ≤ (depth : Int))

/-- Check 0x0604. -/
def pairsOk (b : Bytes) (f : FormeBody) : Bool :=
  f.pairs.zipIdx.all fun e =>
    let off := field b 80 8 + 16 + 16 * f.queues.length + 48 * e.2
    let nq := field b (off + 3) 1
    pairRecordOk f e.1 nq && field b off 2 / 2048 == 0 && allZero b (off + 16 + 2 * nq) (24 - 2 * nq) && allZero b (off + 40) 8

/-- Check 0x0605, of the head of the queue table; its reserved bytes are checked here (R199; DEDUCED, log 75). -/
def guardOk (b : Bytes) (f : FormeBody) : Bool :=
  decide (256 ≤ f.guardLimit) && allZero b (field b 80 8 + 2) 2 && allZero b (field b 80 8 + 12) 4

/-! ### The order of the checks -/

/-- The checks of R207 and R268 in their order: whether each passes, its status and its detail code. `room` says
whether the image length was reserved on entry (check 0x0103, first part). -/
def loadChecks (s : State) (c : Nat) (g : LoadImg) (room : Bool) : List (Bool × Nat × Nat) :=
  let ch := chase s c
  let f := g.f
  let b := g.b
  let tiles (p : Nat → TileCfg → Bool) : Bool := f.tiles.all fun t => p t.1 t.2
  let slots (p : Nat → Bool) : Bool := f.tiles.all fun t => (slotWords t.2).all p
  let bad (ok : Bool) (code : Nat) : Bool × Nat × Nat := (ok, St.malformed, code)
  [bad (envelopeOk g.env) 0x0101,
   bad (field g.env 8 8 + 144 == g.len) 0x0102,
   (room, St.noResources, 0x0103),
   (p384Valid (slice g.env 16 97), St.verifyFailed, 0x0104),
   (g.plain.isSome, St.verifyFailed, 0x0105),
   ((kget ch.signKeys f.keyId).isSome, St.verifyFailed, 0x0106),
   (trailerOk g (kget ch.signKeys f.keyId), St.verifyFailed, 0x0107),
   ((imageOf ch f.formeId).isNone, St.wrongState, 0x0108),
   bad (formeHeaderOk b) 0x0201,
   bad (sectionsOk b) 0x0202,
   bad (headerFieldsOk b) 0x0203,
   bad (directoryOk b) 0x0204,
   ((List.range 4).all fun d => decide (storeUse s c d + f.storeBytes.getD d 0 ≤ ch.cfg.store.getD d 0 * 1024),
     St.noResources, 0x0103),
   bad (pageImagesOk b) 0x0205,
   (f.fallbackId == 0 || (f.fallbackId != f.formeId && (imageOf ch f.fallbackId).isSome), St.notFound, 0x0206),
   bad (f.pageMap &&& ch.cfg.pageMap == f.pageMap) 0x0301,
   bad (f.tensors.all (tensorInObject s c)) 0x0302,
   bad (tiles fun _ t => t.reservedOk) 0x0401,
   bad (tiles fun _ t => formatsOk t) 0x0402,
   bad (slots modifierOk) 0x0403,
   bad (slots platenPairOk) 0x0404,
   bad (slots rndOk) 0x0405,
   bad (slots groupOk && tiles fun _ t => t.emits.all fun e => caseArgOk e.2) 0x0406,
   bad (!(f.zw5 && f.gather) && tiles fun _ t => functionsOk f t) 0x0407,
   bad (tiles fun _ t => (unitsOf t).all fun u => unitOk f t u.2) 0x0408,
   bad (tiles fun _ t => gensOk t) 0x0409,
   bad (tiles fun _ t => portsOk t) 0x040A,
   bad (tiles fun _ t => padsOk t) 0x040B,
   bad (acyclicOk f) 0x040C,
   bad (tiles (boundsOk f)) 0x0501,
   bad (f.tensors.zipIdx.all fun e => tensorOk f e.2 (field b (field b 96 8 + 64 * e.2) 64) e.1) 0x0502,
   bad (f.tensors.all (tensorPlaceOk s c f)) 0x0503,
   bad (padBitsOk f) 0x0504,
   bad (tiles (gensInTensors f)) 0x0505,
   bad (ringsOk f) 0x0506,
   bad (galleyPortsOk f) 0x0507,
   bad (galleyTensorsOk f) 0x0508,
   bad (queuesOk b f) 0x0601,
   bad (poolOk f) 0x0602,
   bad (landingOk f) 0x0603,
   bad (pairsOk b f) 0x0604,
   bad (guardOk b f) 0x0605]

/-- The first check that fails (R206). -/
def firstFailure (l : List (Bool × Nat × Nat)) : Option (Nat × Nat) := (l.find? fun e => !e.1).map Prod.snd

end Sys2Proof.Machine
end

