-- ==== Sys2Proof/Machine/Formes.lean ====
section
/-! DEFINITION. The forme-store commands (R206 to R210, R386, R426): FORME_LOAD, FORME_STAGE, FORME_FREE, FORME_LIST,
SIGNKEY_SET, FORME_KEY_GET, and the engines that check one image at a time. -/

namespace Sys2Proof.Machine

/-! ### FORME_LOAD (R386) -/

/-- Whether a stage is that of a command. -/
def Stage.isOf (x : Stage) (session reqId : Nat) : Bool := x.session == session && x.reqId == reqId

/-- Answer a chunk without ending the load that its REQUEST_ID names. -/
def answerLoad (s : State) (se : Session) (h : CmdHdr) (status : Nat) : State :=
  conflictReply s se (mkReply h.ep h.session 0x0030 h.reqId status 0 [])

/-- Bytes received of a load. -/
def Stage.got (x : Stage) : Nat := (x.parts.map fun e => e.2.length).foldl (· + ·) 0

/-- Put a chunk into a load. A load whose last byte has arrived takes its place among the images that wait for the
engines (R210). -/
def putPart (s : State) (x : Stage) (off : Nat) (data : Bytes) : State :=
  let y := { x with parts := kset x.parts off data, lastNs := s.now }
  if y.got = y.total then
    { s with stages := (s.stages.filter fun z => !z.isOf x.session x.reqId) ++ [{ y with ready := true }] }
  else { s with stages := s.stages.map fun z => if z.isOf x.session x.reqId then y else z }

/-- A chunk of a load in progress: a retransmission, one that is discarded with MALFORMED, or data. -/
def laterPart (s : State) (se : Session) (h : CmdHdr) (x : Stage) (total off : Nat) (data : Bytes) : State :=
  if (kget x.parts off).isSome then resendReply s ((liveOf s h.session h.reqId).bind LiveCmd.latest)
  else if data.isEmpty ∨ x.total < off + data.length ∨ total ≠ x.total ∨
      x.parts.any (fun e => !apart (off, data.length) (e.1, e.2.length)) then answerLoad s se h St.malformed
  else replyLive (putPart s x off data) h.session h.reqId St.accepted 0 []

/-- The first chunk of a load reserves TOTAL bytes of the chase's store region, summed over the dies. -/
def firstPart (s : State) (c : Nat) (h : CmdHdr) (total off : Nat) (data : Bytes) : State :=
  if data.isEmpty ∨ total < off + data.length then rep s h 0x0030 St.malformed 0 []
  else if storeGrant (chase s c).cfg < storeUseAll s c + storeReserved s c + total then
    rep s h 0x0030 St.noResources 0x0103 []
  else
    let x : Stage :=
      { session := h.session, reqId := h.reqId, opcode := 0x0030, chase := c, total := total, parts := [],
        lastNs := s.now, objId := 0, ready := false, begun := none }
    accept (putPart { s with stages := s.stages ++ [x] } x off data) h 0x0030 c false []

/-- FORME_LOAD (R206, R386): one chunk. -/
def execFormeLoad (h : CmdHdr) (total offset : Nat) (data : Bytes) (s : State) : Host.Outcome State Fault Refusal :=
  chunkCmd h ⟨0x0030, [.ten], false, 0⟩ offset [] (fun s se =>
    match s.stages.find? fun x => x.isOf h.session h.reqId with
    | some x => laterPart s se h x total offset data
    | none =>
      match endedChunk s se h 0x0030 offset with
      | some s => s
      | none => markChunk (firstPart s se.chase h total offset data) h 0x0030 offset) s

/-! ### FORME_STAGE and the engines (R210) -/

/-- FORME_STAGE (R210): a read-only object whose contents are settled. -/
def execFormeStage (h : CmdHdr) (objId : Nat) (s : State) : Host.Outcome State Fault Refusal :=
  hostCmd h ⟨0x0031, [.ten], false, 0⟩ (fun s se =>
    let c := se.chase
    match findObj s c objId with
    | none => rep s h 0x0031 St.notFound 0 []
    | some o =>
      if o.isMutable then rep s h 0x0031 St.notFound 0 []
      else if o.state = .isOpen ∨ intakeHolds s c objId then rep s h 0x0031 St.wrongState 0 []
      else
        let x : Stage :=
          { session := h.session, reqId := h.reqId, opcode := 0x0031, chase := c, total := 0, parts := [],
            lastNs := s.now, objId := objId, ready := true, begun := none }
        accept { s with stages := s.stages ++ [x] } h 0x0031 c false []) s

/-- The length of an image in an object: the length its envelope declares where the object holds that many bytes,
otherwise the object's (DEDUCED, log 43). -/
def objImageLen (s : State) (o : Obj) : Nat :=
  let n := field (objRead s o 0 128).1 8 8 + 144
  if n ≤ o.size then n else o.size

/-- The length of the image that a stage checks; none when its object is gone. -/
def stageLen (s : State) (x : Stage) : Option Nat :=
  if x.opcode = 0x0030 then some x.total else (findObj s x.chase x.objId).map (objImageLen s)

/-- The image that a stage checks (R187): the chunks of a load in the order of their OFFSETs, or the bytes of the object;
none when its object is gone. -/
def stageImage (s : State) (x : Stage) : Option Bytes :=
  if x.opcode = 0x0030 then some (x.parts.flatMap Prod.snd)
  else (findObj s x.chase x.objId).map fun o => (objRead s o 0 (objImageLen s o)).1

/-- IMAGE_CHECK_BEGIN (R210, R487): the engines take the first image that waits, when none is in them and no pull is
to be drained. A stage reserves its image length then, when it fits (check 0x0103). -/
def execImageCheckBegin (s : State) : Host.Outcome State Fault Refusal :=
  .next (
    if s.stages.any (fun x => x.begun.isSome) || !s.faults.buffers.isEmpty then s
    else
      match s.stages.find? fun x => x.ready with
      | none => s
      | some x =>
        let room := storeGrant (chase s x.chase).cfg - storeUseAll s x.chase - storeReserved s x.chase
        let total : Nat :=
          if x.opcode = 0x0030 then x.total
          else match stageLen s x with
            | some n => if n ≤ room then n else 0
            | none => 0
        { s with stages := s.stages.map fun y =>
          if y.isOf x.session x.reqId then { y with total := total, begun := some s.now } else y })

/-- The image that passes the checks, as the store keeps it (R208, R209). -/
def LoadImg.resident (g : LoadImg) : Image := ⟨g.f.formeId, .resident, g.f, sha384 (signedPart g.env g.b), false⟩

/-- IMAGE_CHECK_DONE (R206 to R210): the checks of the image in the engines end. It becomes RESIDENT, or leaves
nothing; the command has its final reply either way. -/
def execImageCheckDone (s : State) : Host.Outcome State Fault Refusal :=
  .next (match s.stages.find? fun x => x.begun.isSome with
    | none => s
    | some x =>
      let drop (s : State) : State := { s with stages := s.stages.filter fun y => !y.isOf x.session x.reqId }
      match stageImage s x with
      | none => replyLive (drop s) x.session x.reqId St.notFound 0 []
      | some image =>
        let g := loadImg (chase s x.chase) image
        match firstFailure (loadChecks (drop s) x.chase g (x.total == g.len)) with
        | some (st, detail) => drop (replyLive s x.session x.reqId st detail [])
        | none =>
          let s := modChase s x.chase fun ch => { ch with images := ch.images ++ [g.resident] }
          drop (replyLive s x.session x.reqId St.done 0 []))

/-! ### FORME_FREE, FORME_LIST and keys -/

/-- Whether an image may not be freed (R209): in service, locked by a load, or the fallback of a forme in service. -/
def freeRefused (ch : Chase) (i : Image) : Bool :=
  i.state == .inService || i.locked ||
    ch.images.any fun x => x.state == .inService && x.body.fallbackId == i.formeId

/-- FORME_FREE (R209, R292): the serving entry is freed with the forme. -/
def execFormeFree (h : CmdHdr) (formeId : Nat) (s : State) : Host.Outcome State Fault Refusal :=
  hostCmd h ⟨0x0032, [.ten], false, 0⟩ (fun s se =>
    match imageOf (chase s se.chase) formeId with
    | none => rep s h 0x0032 St.notFound 0 []
    | some i =>
      if freeRefused (chase s se.chase) i then rep s h 0x0032 St.wrongState 0 []
      else
        done (modChase s se.chase fun ch =>
          { ch with
            images := ch.images.filter fun x => x.formeId != formeId
            serving := ch.serving.filter fun e => e.formeId != formeId
            cleared := ch.cleared.filter (· != formeId) }) h 0x0032 []) s

/-- STATE as FORME_LIST codes it (R209). -/
def ImageState.code : ImageState → Nat
  | .checking => 0
  | .resident => 1
  | .inService => 2

/-- A FORME_LIST entry (R386). -/
def Image.listed (i : Image) : Bytes :=
  le 8 i.formeId ++ le 4 i.body.version ++ le 1 i.state.code ++ le 1 i.body.cls ++ zeros 2

/-- FORME_LIST (R386). -/
def execFormeList (h : CmdHdr) (s : State) : Host.Outcome State Fault Refusal :=
  hostCmd h ⟨0x0038, [.ten], false, 8⟩ (fun s se =>
    let l := (chase s se.chase).images
    done s h 0x0038 (le 4 l.length ++ zeros 4 ++ l.flatMap Image.listed)) s

/-- SIGNKEY_SET (R386): OP 0 registers a key under its KEY_ID, up to 16; OP 1 revokes it. -/
def execSignkeySet (h : CmdHdr) (op keyId : Nat) (pub : Bytes) (s : State) : Host.Outcome State Fault Refusal :=
  hostCmd h ⟨0x0039, [.ten], false, 0⟩ (fun s se =>
    let keys := (chase s se.chase).signKeys
    let put (m : KMap Bytes) : State := modChase s se.chase fun ch => { ch with signKeys := m }
    match op with
    | 0 =>
      if (kget keys keyId).isNone && decide (16 ≤ keys.length) then rep s h 0x0039 St.noResources 0 []
      else done (put (kset keys keyId pub)) h 0x0039 []
    | 1 => if (kget keys keyId).isNone then rep s h 0x0039 St.notFound 0 [] else done (put (kdel keys keyId)) h 0x0039 []
    | _ => rep s h 0x0039 St.malformed 0 []) s

/-- FORME_PUB of a chase (R426). -/
def formePub (ch : Chase) : Bytes := pubOf (formePriv ch)

/-- FORME_KEY_GET (R426). -/
def execFormeKeyGet (h : CmdHdr) (s : State) : Host.Outcome State Fault Refusal :=
  hostCmd h ⟨0x003A, [.ten], false, 200⟩ (fun s se =>
    let ch := chase s se.chase
    done s h 0x003A (padTo 97 (formePub ch) ++ zeros 7 ++ padTo 96 (aliasSign s
      (ascii "Z9 forme key" ++ le 1 se.chase ++ le 8 ch.createCount ++ formePub ch)))) s

end Sys2Proof.Machine
end

