-- ==== Sys2Proof/Machine/Objects.lean ====
section
/-! DEFINITION. The object commands (R253 to R264, R388): OBJ_CREATE, PUT, SEAL, GET, MOVE, OBJ_FREE, WINDOW_SET and
OBJ_INFO. -/

namespace Sys2Proof.Machine

/-- OBJ_CREATE (R253, R254, R257). -/
def execObjCreate (h : CmdHdr) (objId size kind tier die : Nat) (s : State) : Host.Outcome State Fault Refusal :=
  hostCmd h ⟨0x0040, [.ten], false, 0⟩ (fun s se =>
    let c := se.chase
    if objId = 0 ∨ size = 0 ∨ size % 4096 ≠ 0 ∨ 2 ^ 40 < size ∨ 1 < kind ∨ (tier ≠ 1 ∧ tier ≠ 2) ∨ 4 < die ∨
        (tier = 2 ∧ die = 4) then rep s h 0x0040 St.malformed 0 []
    else if (findObj s c objId).isSome then rep s h 0x0040 St.wrongState 0 []
    else if 65536 ≤ (s.objs.countP fun o => o.chase == c) ∨ 262144 ≤ s.objs.length then
      rep s h 0x0040 St.noResources 0 []
    else
      match pickBlocks s c (tier == 1) die (ceilDiv size blockBytes) with
      | none => rep s h 0x0040 St.noResources 0 []
      | some bs =>
        let o : Obj :=
          { chase := c, objId := objId, isMutable := kind == 1, tier := tier, homeDie := die, size := size, window := 0,
            state := if kind = 1 then .idle else .isOpen, blocks := bs, win := [], holder := none, readers := [],
            waiters := [], oldHomes := [], lastFill := none, winWait := [], move := none }
        match fitMeta { s with objs := s.objs ++ [o] } c tier (metaDie tier die bs) with
        | some s => done s h 0x0040 []
        | none => rep s h 0x0040 St.noResources 0 []) s

/-- Bring a command to its object: at once, or behind what holds or moves the object, or waits for its memory (R256,
R265, R388). -/
def atObj (s : State) (h : CmdHdr) (c : Nat) (o : Obj) (op a b : Nat) (data : Bytes) : State :=
  let w : ObjWait := ⟨(c, o.objId), h, op, a, b, data⟩
  let queue (s : State) : State :=
    let s := modObj s c o.objId fun o => { o with waiters := o.waiters ++ [.cmd h.session h.reqId] }
    { s with objWaits := s.objWaits ++ [w] }
  if o.state = .held ∨ o.state = .moving ∨ !o.waiters.isEmpty then queue s
  else
    match waitStall s w with
    | some k => stallMem (queue s) c k
    | none => runWait s w

/-- PUT (R388): data from PUT is never spoiled. -/
def execPut (h : CmdHdr) (objId offset : Nat) (data : Bytes) (s : State) : Host.Outcome State Fault Refusal :=
  hostCmd h ⟨0x0041, [.ten], false, 0⟩ (fun s se =>
    let c := se.chase
    if data.isEmpty then rep s h 0x0041 St.malformed 0x0A02 []
    else if 1048576 < data.length then rep s h 0x0041 St.tooLarge 0x0A04 []
    else
      match findObj s c objId with
      | none => rep s h 0x0041 St.notFound 0 []
      | some o =>
        if intakeHolds s c objId then rep s h 0x0041 St.wrongState 0 []
        else if o.size < offset + data.length then rep s h 0x0041 St.tooLarge 0 []
        else if o.state = .sealed then rep s h 0x0041 St.wrongState 0 []
        else atObj (enlist s h 0x0041 c false) h c o 0x41 offset 0 data) s

/-- SEAL (R257). -/
def execSeal (h : CmdHdr) (objId : Nat) (s : State) : Host.Outcome State Fault Refusal :=
  hostCmd h ⟨0x0042, [.ten], false, 0⟩ (fun s se =>
    let c := se.chase
    match findObj s c objId with
    | none => rep s h 0x0042 St.notFound 0 []
    | some o =>
      if o.state ≠ .isOpen ∨ intakeHolds s c objId then rep s h 0x0042 St.wrongState 0 []
      else done (modObj s c objId fun o => { o with state := .sealed }) h 0x0042 []) s

/-- GET (R388): SPOILED when a granule read is spoiled. -/
def execGet (h : CmdHdr) (objId offset len : Nat) (s : State) : Host.Outcome State Fault Refusal :=
  hostCmd h ⟨0x0043, [.ten], false, len⟩ (fun s se =>
    let c := se.chase
    match findObj s c objId with
    | none => rep s h 0x0043 St.notFound 0 []
    | some o =>
      if intakeHolds s c objId then rep s h 0x0043 St.wrongState 0 []
      else if 1048576 < len then rep s h 0x0043 St.tooLarge 0x0A04 []
      else if o.size < offset + len then rep s h 0x0043 St.tooLarge 0 []
      else atObj (enlist s h 0x0043 c false) h c o 0x43 offset len []) s

/-- Whether a serving entry of the chase names an object for its logits or masks (R306). -/
def namedByEntry (s : State) (c id : Nat) : Bool :=
  (chase s c).serving.any fun e =>
    let has (f tid : Nat) : Bool :=
      match (imageOf (chase s c) f).bind fun i => tensorOf i.body tid with
      | some t => t.objId == id
      | none => false
    (e.poolObj != 0 && (has e.formeId e.logitTid || has e.formeId e.maskTid)) ||
      (e.draftId != 0 && has e.draftId e.draftLogitTid)

/-- Whether an object is a folio pool with a folio that is not FREE, or a concordance of such a pool (R305). -/
def folioBusy (s : State) (c id : Nat) : Bool :=
  let ch := chase s c
  let busy (pool : Nat) : Bool := ch.folios.any fun x => x.1 == pool
  let entries := ch.serving ++ (liveReqs s c).map fun e => e.2.entry
  busy id || (entries.any fun e => e.concObj == id && busy e.poolObj) || ch.conc.any fun e => e.obj == id

/-- Whether MOVE and OBJ_FREE are refused because of what an object serves for (R305, R306, R379). -/
def objServes (s : State) (c id : Nat) : Bool := namedByEntry s c id || folioBusy s c id || intakeHolds s c id

/-- MOVE (R257 to R259). -/
def execMove (h : CmdHdr) (objId tier die : Nat) (s : State) : Host.Outcome State Fault Refusal :=
  hostCmd h ⟨0x0044, [.ten], false, 0⟩ (fun s se =>
    let c := se.chase
    match findObj s c objId with
    | none => rep s h 0x0044 St.notFound 0 []
    | some o =>
      if (tier ≠ 1 ∧ tier ≠ 2) ∨ 4 < die ∨ (tier = 2 ∧ die = 4) then rep s h 0x0044 St.malformed 0 []
      else if o.state = .isOpen ∨ objServes s c objId then rep s h 0x0044 St.wrongState 0 []
      else atObj (accept s h 0x0044 c false []) h c o 0x44 tier die []) s

/-- OBJ_FREE (R257, R305, R306). -/
def execObjFree (h : CmdHdr) (objId : Nat) (s : State) : Host.Outcome State Fault Refusal :=
  hostCmd h ⟨0x0045, [.ten], false, 0⟩ (fun s se =>
    let c := se.chase
    match findObj s c objId with
    | none => rep s h 0x0045 St.notFound 0 []
    | some o =>
      if o.state = .held ∨ o.state = .moving ∨ !o.readers.isEmpty ∨ windowFilling s o ∨ objServes s c objId then
        rep s h 0x0045 St.wrongState 0 []
      else done (dropObj s o) h 0x0045 []) s

/-- WINDOW_SET (R262, R264). -/
def execWindowSet (h : CmdHdr) (objId window die : Nat) (s : State) : Host.Outcome State Fault Refusal :=
  hostCmd h ⟨0x0046, [.ten], false, 0⟩ (fun s se =>
    let c := se.chase
    match findObj s c objId with
    | none => rep s h 0x0046 St.notFound 0 []
    | some o =>
      if intakeHolds s c objId then rep s h 0x0046 St.wrongState 0 []
      else if window % blockBytes ≠ 0 ∨ 3 < die then rep s h 0x0046 St.malformed 0 []
      else atObj (accept s h 0x0046 c false []) h c o 0x46 window die []) s

/-- STATE as OBJ_INFO codes it (R257). -/
def ObjState.code : ObjState → Nat
  | .isOpen => 0
  | .sealed => 1
  | .idle => 2
  | .held => 3
  | .moving => 4

/-- OBJ_INFO (R253, R388). -/
def execObjInfo (h : CmdHdr) (objId : Nat) (s : State) : Host.Outcome State Fault Refusal :=
  hostCmd h ⟨0x0047, [.ten], false, 24⟩ (fun s se =>
    match findObj s se.chase objId with
    | none => rep s h 0x0047 St.notFound 0 []
    | some o =>
      if intakeHolds s se.chase objId then rep s h 0x0047 St.wrongState 0 []
      else done s h 0x0047 (le 1 (b2n o.isMutable) ++ le 1 o.tier ++ le 1 o.homeDie ++ le 1 o.state.code ++ zeros 4 ++
        le 8 o.size ++ le 8 o.window)) s

end Sys2Proof.Machine
end

