-- ==== Sys2Proof/Machine/MemEvents.lean ====
section
/-! DEFINITION. What happens in tiers H and B by itself: reads and writes of granules with their side-band (R239 to
R243), channel retrains and row repairs (R244, R245), the completion of moves (R258, R259) and window fills (R262). -/

namespace Sys2Proof.Machine

/-! ### Granule accesses -/

/-- A device of tier B: 20 x channel + 10 x subchannel + device. -/
def deviceKey (pa symbol : Nat) : Nat := 20 * channelOf false pa + 10 * (pa / 64 % 2) + symbolDevice symbol

/-- The places in a code word of the symbols that lie in failed devices (R240): these are decoded as erasures. -/
def erasedAt (m : TierMem) (isH : Bool) (pa : Nat) : List Nat :=
  if isH then [] else (List.range 80).filter fun p => m.devFailed.contains (deviceKey pa p)

/-- Symbols that the side-band code corrects beside erasures (R240): 2 in tier H; 6 in tier B, or 2 beside one failed
device. -/
def correctable (m : TierMem) (isH : Bool) (pa : Nat) : Option Nat :=
  let r := rsRoots isH
  let e := (erasedAt m isH pa).length
  if e ≤ r then some ((r - e) / 2) else none

/-- Record an error event of a row for 24 h; a device with corrected events in 64 rows is marked failed (R245). -/
def rowEvent (s : State) (isH : Bool) (pa : Nat) (symbols : List Nat) (unc : Bool) : State :=
  let m := tier s isH
  let keys := if isH then [] else (symbols.map (deviceKey pa)).foldl nset []
  let evs := (m.rowEvents.filter fun e => decide (s.now < e.ns + 86400000000000)) ++ [⟨rowOf isH pa, keys, unc, s.now, false⟩]
  let s := setTier s isH { m with rowEvents := evs }
  keys.foldl (fun s key =>
    let rows := ((evs.filter fun e => e.devices.contains key && !e.unc).map RowEvent.row).foldl nset []
    if s.memB.devFailed.contains key || decide (rows.length < 64) then s
    else
      let n := key / 20
      healthEvent { s with
        memB := { s.memB with devFailed := nset s.memB.devFailed key }
        spares := { s.spares with ddrDev := lset s.spares.ddrDev n (s.spares.ddrDev.getD n 0 ||| 2 ^ (key % 20)) } } 4) s

/-- The granule as it is stored (R239, R246, R247). -/
def storedWord (s : State) (isH : Bool) (pa : Nat) : Bytes :=
  sealGranule isH ((granKeys s isH (granuleOf isH pa)).getD []) pa (granuleData (tier s isH) isH pa)

/-- A granule that cannot be trusted (R241 step 5): it holds what the ciphertext as read decrypts to, spoiled, under the
same ciphertext, a new tag and a new code. -/
def distrust (s : State) (isH : Bool) (pa : Nat) (cipher : Bytes) : State :=
  let keys := (granKeys s isH (granuleOf isH pa)).getD []
  setTier s isH (granulePut (tier s isH) isH (pa / 64 * 64) (padTo 64 (xtsDec keys (pa / 64) cipher)) true)

/-- A parity or CRC error of a channel (R244): the fourth within 1 ms begins a retrain. -/
def parityError (s : State) (isH : Bool) (pa : Nat) : State :=
  let m := tier s isH
  let ch := channelOf isH pa
  let errs := (m.errs.filter fun e => decide (s.now < e.2 + 1000000)) ++ [(ch, s.now)]
  if 4 ≤ (errs.countP fun e => e.1 == ch) then
    setTier s isH { m with errs := errs.filter fun e => e.1 != ch, retraining := nset m.retraining ch }
  else setTier s isH { m with errs := errs }

/-- A word beyond what the code surely corrects (R241 steps 1 to 5): the decoder finds no code word, or one that the tag
does not bear out, or one that it does. -/
def doubtGranule (s : State) (isH : Bool) (pa : Nat) (errs : List (Nat × Byte)) : State × Bool :=
  let word := errs.foldl (fun (w : Bytes) e => w.modify e.1 (· ^^^ e.2)) (storedWord s isH pa)
  let bad := errs.map Prod.fst
  match rsDecode Config.rsFirst (rsRoots isH) (erasedAt (tier s isH) isH pa) word with
  | none => (distrust (rowEvent (countMem s isH pa 1) isH pa bad true) isH pa (word.take 64), true)
  | some w =>
    let s := rowEvent (countMem s isH pa 0) isH pa bad false
    let keys := (granKeys s isH (granuleOf isH pa)).getD []
    let c := w.take 64
    if granTag keys (pa / 64) c ≠ field w 64 4 / 16 then (distrust (countMem s isH pa 2) isH pa (word.take 64), true)
    else
      let spoil := nbit (field w 64 4) 3
      (setTier s isH (granulePut (tier s isH) isH (pa / 64 * 64) (padTo 64 (xtsDec keys (pa / 64) c)) spoil), spoil)

/-- One access of the channel that came through: R241 steps 1 to 5. Errors that the code surely corrects leave what is
stored, whose tag agrees (R240, R242). The result says whether the granule is delivered spoiled. -/
def decodeGranule (s : State) (isH : Bool) (pa : Nat) (o : GranuleOutcome) : State × Bool :=
  let s := (List.replicate o.onDie ()).foldl (fun s _ => countErr s (if isH then 1 else 2)) s
  let errs := o.errs.filter fun e => e.2 != 0 && decide (e.1 < 68 + rsRoots isH)
  let spoil := (granuleData (tier s isH) isH pa).spoil
  if errs.isEmpty then (s, spoil)
  else
    let fresh := (errs.map Prod.fst).filter fun p => !(erasedAt (tier s isH) isH pa).contains p
    let sure : Bool := match correctable (tier s isH) isH pa with
      | some n => decide ((fresh.foldl nset []).length ≤ n)
      | none => false
    if sure then (rowEvent (countMem s isH pa 0) isH pa (errs.map Prod.fst) false, spoil)
    else doubtGranule s isH pa errs

/-- The tries of an access: at most three retries after a parity or CRC error (R244). The first outcome that came
through, none when every try fails. -/
def accessTries : Nat → State → Bool → Nat → List GranuleOutcome → State × Option GranuleOutcome
  | 0, s, _, _, _ => (s, none)
  | _ + 1, s, _, _, [] => (s, none)
  | fuel + 1, s, isH, pa, o :: rest =>
    if o.parityError then accessTries fuel (parityError s isH pa) isH pa rest else (s, some o)

/-- A read of a granule (R241, R244): the outcomes of the access and of at most three retries. A lost channel delivers
zeros spoiled and counts an uncorrectable event; none is delivered when every try fails. -/
def readGranule (s : State) (isH : Bool) (pa : Nat) (outs : List GranuleOutcome) : State × Option Bool :=
  if isLost (tier s isH) isH pa then (countMem s isH pa 1, some true)
  else
    match accessTries 4 s isH pa outs with
    | (s, some o) =>
      let (s, spoiled) := decodeGranule s isH pa o
      (s, some spoiled)
    | (s, none) => (s, none)

/-- Whether a physical address lies in a tier that is in service (R232, R237). -/
def paExists (s : State) (isH : Bool) (pa : Nat) : Bool :=
  if isH then decide (pa < 1152 * 2 ^ 30) else decide (pa < bCount s * 2 ^ 32)

/-- GRANULE_READ (R241, R244, R252): a read of a granule. With `reader` it is a read by that chase, which holds the
granule, and a spoiled granule delivered counts in its SPOILED_READS; a read for a chase on a channel that does not
serve waits (R265). Without one it is the controller's part of another command's access: a fill, a GET, a move, a
repair or a partial write (log 91). -/
def execGranuleRead (isH : Bool) (pa : Nat) (reader : Option Nat) (outs : List GranuleOutcome) (s : State) :
    Host.Outcome State Fault Refusal :=
  .next (
    if paExists s isH pa = false then s
    else
      match reader with
      | none =>
        if (tier s isH).retraining.contains (channelOf isH pa) || (isH && dieInReset s (pa / 2 ^ 30 / 288)) then s
        else (readGranule s isH pa outs).1
      | some c =>
        if chaseOfGranule s isH (granuleOf isH pa) ≠ some c then s
        else
          match accessStall s isH pa with
          | some k => stallMem s c k
          | none =>
            match readGranule s isH pa outs with
            | (s, some true) => countSpoiled s c 1
            | (s, _) => s)

/-- GRANULE_WRITE (R242, R244): a whole granule takes the mark of the data written; part of one is merged with what
a read by R241 delivers, and is spoiled when either was. A parity error retries it. -/
def execGranuleWrite (isH : Bool) (pa chase : Nat) (data : Bytes) (strobe : List Bool) (spoiled : Bool)
    (outs : List GranuleOutcome) (s : State) : Host.Outcome State Fault Refusal :=
  .next (
    let on (i : Nat) : Bool := strobe.getD i false
    if paExists s isH pa = false ∨ chaseOfGranule s isH (granuleOf isH pa) ≠ some chase ∨ !(List.range 64).any on then s
    else
      match accessStall s isH pa with
      | some k => stallMem s chase k
      | none =>
        if isLost (tier s isH) isH pa then countMem s isH pa 1
        else
          match accessTries 4 s isH pa outs with
          | (s, none) => s
          | (s, some o) =>
            if (List.range 64).all on then setTier s isH (granulePut (tier s isH) isH (pa / 64 * 64) (padTo 64 data) spoiled)
            else
              let s := (decodeGranule s isH pa o).1
              let old := granuleData (tier s isH) isH pa
              let new := (List.range 64).map fun i => if on i then data.getD i 0 else old.data.getD i 0
              setTier s isH (granulePut (tier s isH) isH (pa / 64 * 64) new (old.spoil || spoiled)))

/-- Whether a step or a move holds the object that a granule lies in, or a move writes the granule (R243, R256). -/
def granuleHeld (s : State) (isH : Bool) (pa : Nat) : Bool :=
  s.objs.any fun o =>
    (o.isH == isH && (o.state == .held || o.state == .moving) && o.blocks.contains (pa / blockBytes)) ||
    (match o.move with
      | some m => (m.tier == 1) == isH && m.blocks.contains (pa / blockBytes)
      | none => false)

/-- Whether a granule lies in memory that is in service, so that the patrol visits it (R243, R493, R504). -/
def patrolled (s : State) (isH : Bool) (pa : Nat) : Bool :=
  paExists s isH pa && !(isH && (dieOos s (pa / 2 ^ 30 / 288) || nbit s.health.hOos (pa / 2 ^ 30 / 288)))

/-- The granule that the patrol reads at pa, or after the dies out of service there. Fuel bounds the dies. -/
def patrolFrom : Nat → State → Bool → Nat → Nat
  | 0, _, _, pa => pa
  | n + 1, s, isH, pa =>
    if !paExists s isH pa then patrolFrom n s isH 0
    else if patrolled s isH pa then pa
    else patrolFrom n s isH ((pa / 2 ^ 30 / 288 + 1) * 288 * 2 ^ 30)

/-- PATROL_READ (R243): the patrol reads its next granule by R241, under the key of its slot or the patrol key, and
delivers nothing. It waits for what a step or a move holds, and stays where every try of the access fails. -/
def execPatrolRead (isH : Bool) (outs : List GranuleOutcome) (s : State) : Host.Outcome State Fault Refusal :=
  .next (
    let pa := patrolFrom 6 s isH (tier s isH).patrol
    if !patrolled s isH pa || granuleHeld s isH pa || (accessStall s isH pa).isSome ||
        (granKeys s isH (granuleOf isH pa)).isNone then s
    else
      match readGranule s isH pa outs with
      | (s, none) => s
      | (s, some _) => setTier s isH { tier s isH with patrol := patrolFrom 6 s isH (pa + 64) })

/-! ### Repair -/

/-- RETRAIN_DONE (R244, R504, R513): the channel is back, its shorted lanes remapped from the spares, or it is lost; what
waited for it goes on. -/
def execRetrainDone (isH : Bool) (chan : Nat) (ok : Bool) (s : State) : Host.Outcome State Fault Refusal :=
  .next (
    let m := tier s isH
    if !m.retraining.contains chan then s
    else
      let lanes := m.shorted.countP fun x => x.1 == chan
      let m := { m with retraining := m.retraining.filter (· != chan), shorted := m.shorted.filter fun x => x.1 != chan }
      let s := if !ok then healthEvent (setTier s isH { m with lost := nset m.lost chan }) 2
        else if isH && decide (0 < lanes) then
          let n := chan / 32
          healthEvent { setTier s isH m with
            spares := { s.spares with hbmLanes := lset s.spares.hbmLanes n (s.spares.hbmLanes.getD n 0 + lanes) } } 4
        else setTier s isH m
      memResume s (· == memKey isH chan))

/-- Rows that the repair log still takes (R541): 256 of each stack, 1,024 of tier B. -/
def logRow (m : TierMem) (isH : Bool) (row : Nat) : List Nat :=
  let mine := if isH then m.repaired.countP fun r => rowChannel r / 32 == rowChannel row / 32 else m.repaired.length
  if mine < (if isH then 256 else 1024) then m.repaired ++ [row] else m.repaired

/-- SOFT_PPR (R245, R541): a row that is due is repaired by a spare row of its bank and entered in the repair log. Its
contents, spoil bits and tags move with it. With no spare row left in its bank it stays in use as it is. Either way the
bank serves again. -/
def execSoftPpr (isH : Bool) (row : Nat) (spare : Bool) (s : State) : Host.Outcome State Fault Refusal :=
  .next (
    let m := tier s isH
    if !rowDue s isH row then s
    else
      let n := if isH then rowChannel row / 32 else rowChannel row
      let mend (e : RowEvent) : RowEvent := if e.row = row then { e with mended := true } else e
      let s := if !spare then setTier s isH { m with noSpare := nset m.noSpare row }
        else healthEvent { setTier s isH { m with rowEvents := m.rowEvents.map mend, repaired := logRow m isH row } with
          spares :=
            if isH then { s.spares with hbmRows := lset s.spares.hbmRows n (s.spares.hbmRows.getD n 0 + 1) }
            else { s.spares with ddrRows := lset s.spares.ddrRows n (s.spares.ddrRows.getD n 0 + 1) } } 4
      memResume s (· == memKey isH (rowChannel row)))

/-! ### Moves and windows -/

/-- The granules of a block. -/
def blockGrans (isH : Bool) (b : Nat) : List (Bool × Nat) :=
  (List.range (blockBytes / 64)).map fun i => (isH, b * blockBytes + 64 * i)

/-- Copy a block granule by granule with its spoil marks (R258 step 3, R262): read by R241 and written by R242 under the
destination's keys. -/
def copyBlock (s : State) (fromH : Bool) (a : Nat) (toH : Bool) (b : Nat) : State :=
  let t := setTier s toH ((List.range (blockBytes / 64)).foldl (fun m i =>
    let g := granuleData (tier s fromH) fromH (a * blockBytes + 64 * i)
    granulePut m toH (b * blockBytes + 64 * i) g.data g.spoil) (tier s toH))
  if s.memH.lost.isEmpty && s.memB.lost.isEmpty then t else countLost (countLost t (blockGrans fromH a)) (blockGrans toH b)

/-- What a copy of blocks waits for in its memory. -/
def copyStall (s : State) (fromH toH : Bool) (l : List (Nat × Nat)) : Option (Nat × Nat) :=
  l.findSome? fun x => (blockGrans fromH x.1 ++ blockGrans toH x.2).findSome? fun g => accessStall s g.1 g.2

/-- Copy a list of blocks onto another. -/
def copyBlocks (s : State) (fromH toH : Bool) : List (Nat × Nat) → State
  | [] => s
  | x :: r => copyBlocks (copyBlock s fromH x.1 toH x.2) fromH toH r

/-- MOVE_COMPLETE (R258 step 4, R259): every granule is at the destination, and the block list is replaced in one step.
Steps that began before keep the source of a READ_ONLY object until they end. -/
def execMoveComplete (chase objId : Nat) (s : State) : Host.Outcome State Fault Refusal :=
  .next (
    match findObj s chase objId with
    | none => s
    | some o =>
      match o.move with
      | none => s
      | some m =>
        match copyStall s o.isH (m.tier == 1) (o.blocks.zip m.blocks) with
        | some k => stallMem s chase k
        | none =>
        let s := copyBlocks s o.isH (m.tier == 1) (o.blocks.zip m.blocks)
        let s := modObj s chase objId fun o =>
          { o with
            tier := m.tier, homeDie := m.die, blocks := m.blocks, move := none, window := 0, win := [], lastFill := none
            state := if o.isMutable then .idle else .sealed
            oldHomes := if o.readers.isEmpty then o.oldHomes else o.oldHomes ++ [⟨o.tier, o.blocks, o.win, o.readers⟩] }
        let s := (fitMeta s chase o.tier (metaDie o.tier o.homeDie o.blocks)).getD s
        let s := replyCmd s (some m.cmd) St.done 0
        wakeObj (o.waiters.length + 1) s chase objId)

/-- WINDOW_FILL (R262, R263): a block of the object comes into its window from tier B, the next of the stream or one that
a read waits for. -/
def execWindowFill (chase objId block : Nat) (s : State) : Host.Outcome State Fault Refusal :=
  .next (
    match findObj s chase objId with
    | none => s
    | some o =>
      if o.tier ≠ 2 ∨ o.state ≠ .sealed ∨ o.blocks.length ≤ block ∨ o.win.any (fun e => e.2.1 == some block) ∨
          (Sys2Proof.Machine.chase s chase).fenced ∨ (nextFill s o ≠ some block ∧ fillWanted s o block = false) then s
      else
        match fillSlot o.win with
        | none => s
        | some b =>
          match copyStall s false true [(o.blocks.getD block 0, b)] with
          | some k => stallMem s chase k
          | none =>
            let s := copyBlock s false (o.blocks.getD block 0) true b
            let put (e : Nat × Option Nat × Nat) : Nat × Option Nat × Nat := if e.1 = b then (b, some block, s.now) else e
            modObj s chase objId fun o => { o with win := o.win.map put, lastFill := some block })

end Sys2Proof.Machine
end

