-- ==== Sys2Proof/Machine/Scan.lean ====
section
/-! DEFINITION. Scan (R225 to R227): the record of a tile pair, written out under the chase's pull key or restored. -/

namespace Sys2Proof.Machine

/-- A token as 16 bytes of a scan record: header, then payload word; zero when there is none. -/
def tokenBytes : Option QTok → Bytes
  | some k => le 8 (tokenHeader k.tok).toNat ++ le 8 k.tok.payload.toNat
  | none => zeros 16

/-- The queues of a tile pair in queue-number order, in the forme it runs. -/
def queuesAt (s : State) (c t : Nat) : List QueueCfg :=
  match formeFor s c t with
  | some i => i.body.queues.filter fun q => q.tile == t
  | none => []

/-- The tokens of a queue in arrival order, then empty places up to its depth, each padded to n bytes (DESIGN CHOICE,
log 34: R226 gives the place of the storage, not the order within it). -/
def queueImage (x : Tile) (q : QueueCfg) (n : Nat) : Bytes :=
  (List.range q.depth).flatMap fun i => padTo n (tokenBytes ((portQ x q.port).toks[i]?))

/-- First MT byte of a queue's landing ring (R169, R199). -/
def QueueCfg.ring (q : QueueCfg) : Nat := q.region + q.depth * 64

/-- The plaintext scan record of a tile pair (R226). -/
def scanRecord (s : State) (c t ns : Nat) : Bytes :=
  let x := tile s t
  let forme := ((formeFor s c t).map Image.formeId).getD 0
  let qs := queuesAt s c t
  let acc (k : Nat) : Bytes := (List.range 2048).flatMap fun i =>
    le 8 (((kgetD x.accs k []).getD i default).val.toNat)
  le 4 0x5A395343 ++ le 2 1 ++ zeros 2 ++ le 8 forme ++ le 2 t ++ le 1 x.imp ++ zeros 5 ++ le 8 ns ++
  (match x.active with | some cfg => cfg.bytes | none => zeros 49152) ++
  (List.range 32).flatMap (caseReg x) ++
  (List.range 8).flatMap (fun m => le 128 (maskReg x m).toNat) ++
  acc 0 ++ acc 1 ++
  (List.range 32).flatMap (fun i => le 8 ((kgetD x.gaccs i default).val.toNat)) ++
  (List.range 512).flatMap (fun i => le 1 (x.flags.getD i 0).toNat) ++
  padTo 8 (le 1 x.summary.toNat) ++
  (List.range 32).flatMap (fun r =>
    le 2 (((List.range 16).map fun row => b2n (x.caseSpoil.contains (16 * r + row)) * 2 ^ row).foldl (· + ·) 0)) ++
  zeros 152 ++
  (List.range 32).flatMap (fun u => (List.range 64).flatMap fun e => (List.range 4).flatMap fun i =>
    tokenBytes ((((fuOf x u).store[e]?).map fun m => m.ins.getD i none).getD none)) ++
  padTo 4096 ((qs.filter fun q => !q.loc).flatMap fun q => queueImage x q 16) ++
  (qs.filter QueueCfg.loc).flatMap fun q =>
    queueImage x q 64 ++ memReadN x.mt q.ring (q.depth * q.slotsz * 64)

/-- The token of a scan record's 16 bytes. Where its handle lies in a landing ring or in a galley's slot, it holds
that slot again. -/
def tokenAt (b : FormeBody) (t p : Nat) (q : Option QueueCfg) (rec : Bytes) (off : Nat) : Option QTok :=
  let h := BitVec.ofNat 64 (field rec off 8)
  if h = 0 then none
  else
    let k := tokenOf h (BitVec.ofNat 64 (field rec (off + 8) 8))
    let a := mtAddr k.payload
    let landing := match q with
      | some q =>
        if k.kind = 3 ∧ q.slotsz ≠ 0 ∧ q.ring ≤ a ∧ a < q.region + q.bytes then some ((a - q.ring) / (q.slotsz * 64)) else none
      | none => none
    let g := (galleysOf b 1).find? fun d =>
      d.stile == t && d.gport == p && k.kind == 3 && decide (d.mtBase ≤ a) && decide (a < d.slotAddr d.nslot)
    some { tok := k, landing := landing, landed := true, galley := g.map TensorCfg.tid
           gslot := (g.map fun d => (a - d.mtBase) / (d.slotg * 64)).getD 0, remote := none }

/-- The landing slots of a port that tokens in the matching stores hold (R169). -/
def landingsOf (x : Tile) (p : Nat) : List Nat :=
  (List.range 32).flatMap fun u =>
    match unitCfg x u with
    | none => []
    | some v => (fuOf x u).store.flatMap fun m => (m.ins.zipIdx.filterMap fun e =>
      if v.port e.2 = p then e.1.bind QTok.landing else none)

/-- A tile pair with the state of a scan record (R226, R227). Flags of the accumulator sets are cleared (R130) and the
guard timers start from zero. -/
def restoreTile (s : State) (c t : Nat) (b : FormeBody) (rec : Bytes) : Tile :=
  let x := tile s t
  let cfg := tileOfBytes ((rec.drop 32).take 49152)
  let qs := queuesAt s c t
  let pool := qs.filter fun q => !q.loc
  let mts := qs.filter QueueCfg.loc
  let x := { x with active := some cfg }
  let x := (List.range 32).foldl (fun x r => setCase x r (slice rec (49184 + 1024 * r) 1024)) x
  let x := (List.range 8).foldl (fun x m => setMask x m (BitVec.ofNat 1024 (field rec (81952 + 128 * m) 128))) x
  let acc (k : Nat) : List AccElem := (List.range 2048).map fun i =>
    ⟨BitVec.ofNat 51 (field rec (82976 + 16384 * k + 8 * i) 8), 0, false⟩
  let x := { x with
    accs := [(0, acc 0), (1, acc 1)]
    gaccs := (List.range 32).map fun i => (i, ⟨BitVec.ofNat 51 (field rec (115744 + 8 * i) 8), 0, false⟩)
    flags := (List.range 512).map fun i => BitVec.ofNat 5 (field rec (116000 + i) 1)
    summary := BitVec.ofNat 5 (field rec 116512 1)
    caseSpoil := (List.range 512).filter fun i => nbit (field rec (116520 + 2 * (i / 16)) 2) (i % 16) }
  let x := (List.range 32).foldl (fun x u =>
    let uc := unitCfg x u
    let entry (e : Nat) : MatchEntry :=
      let ins := (List.range 4).map fun i =>
        let p := (uc.map fun v => v.port i).getD 0
        tokenAt b t p (qs.find? fun q => q.port == p) rec (116736 + ((u * 64 + e) * 4 + i) * 16)
      let key := ((ins.find? Option.isSome).map fun k => (k.map fun k => k.tok.tag).getD 0).getD 0
      let key := match uc with | some v => matchKey v b.zw5 key | none => key
      let m : MatchEntry := ⟨key, ins, 0, none⟩
      { m with ready := if (uc.map fun v => m.complete v).getD false then some e else none }
    let store := ((List.range 64).map entry).filter fun m => m.ins.any Option.isSome
    setFu x u { fuOf x u with store := store, nextReady := 64, firing := none, guard := [], recorded := false }) x
  let load (x : Tile) (q : QueueCfg) (off size : Nat) : Tile :=
    let toks := (List.range q.depth).filterMap fun i => tokenAt b t q.port (some q) rec (off + i * size)
    setPortQ x q.port { portQ x q.port with
      toks := toks, landBusy := toks.filterMap QTok.landing ++ landingsOf x q.port, returning := 0 }
  let (x, _) := pool.foldl (fun (a : Tile × Nat) q => (load a.1 q a.2 16, a.2 + 16 * q.depth)) (x, 247808)
  (mts.foldl (fun (a : Tile × Nat) q =>
    let y := load a.1 q a.2 64
    let n := q.depth * q.slotsz * 64
    (mtWriteBytes y q.ring ((rec.drop (a.2 + q.depth * 64)).take n), a.2 + q.bytes)) (x, 251904)).1

/-- Put a scan in its turn among the orders of the chase (R225, R406). -/
def placeScan (s : State) (h : CmdHdr) (op c t : Nat) (isOut : Bool) (rec : Bytes) : State :=
  placeOrder (accept s h op c false []) c (.scan t isOut rec (h.session, h.reqId))

/-- SCAN_OUT (R225, R386): the coordinate names a tile pair of the chase. -/
def execScanOut (h : CmdHdr) (tile : Nat) (s : State) : Host.Outcome State Fault Refusal :=
  hostCmd h ⟨0x0036, [.ten], false, 8⟩ (fun s se =>
    if chaseOfTile s tile = some se.chase ∧ tile < 2048 then placeScan s h 0x0036 se.chase tile true []
    else rep s h 0x0036 St.notFound 0 []) s

/-- The content of a stored pull or scan record that a chase's pull key opens, none where it does not authenticate: the
first 48 bytes are the additional data (R427). -/
def openPull (ch : Chase) (record : Bytes) : Option Bytes :=
  match ch.pullKey with
  | some key => gcmOpen key (slice record 24 12) (record.take 48) (record.drop 48)
  | none => none

/-- SCAN_IN (R227): the record must decrypt and authenticate, be a scan record and name a tile pair of the chase;
what it must agree with is tested when the scan is done. -/
def execScanIn (h : CmdHdr) (record : Bytes) (s : State) : Host.Outcome State Fault Refusal :=
  hostCmd h ⟨0x0037, [.ten], false, 0⟩ (fun s se =>
    match openPull (chase s se.chase) record with
    | none => rep s h 0x0037 St.malformed 0 []
    | some b =>
      let t := field b 16 2 % 2048
      if field record 0 4 ≠ 0x5A39504C ∨ field record 4 2 ≠ 1 ∨ field record 40 8 ≠ b.length ∨ field b 0 4 ≠ 0x5A395343 ∨
          field b 4 2 ≠ 1 ∨ b.length < 251904 ∨ chaseOfTile s t ≠ some se.chase then rep s h 0x0037 St.malformed 0 []
      else placeScan s h 0x0037 se.chase t false b) s

/-- Release the fence of a scan; the next order may start. -/
def endScan (s : State) (c : Nat) : State := orderEnded (modChase s c fun ch => { ch with fenced := ch.heldDown }) c

/-- SCAN_DONE (R225 to R227): the record is written to the pull area, or restored; the fence is released and the
command completes. -/
def execScanDone (chase : Nat) (s : State) : Host.Outcome State Fault Refusal :=
  .next (
    let c := chase
    let s := assertWaiting s c
    match (Sys2Proof.Machine.chase s c).act with
    | .scan t true (some ns) _ cmd =>
      let rec' := scanRecord s c t ns
      if 16777216 < pullUse s + 64 + rec'.length then endScan (replyCmd s (some cmd) St.noResources 0) c
      else
        let s := storePull s c 0 ns rec'
        endScan (replyLive s cmd.1 cmd.2 St.done 0 (le 4 s.faults.pullCount ++ le 4 rec'.length)) c
    | .scan t false (some _) rec' cmd =>
      match formeOfTile (Sys2Proof.Machine.chase s c) t with
      | some i =>
        if i.formeId = field rec' 8 8 ∧ (tile s t).imp = field rec' 18 1 then
          endScan (replyCmd (setTile s t (restoreTile s c t i.body rec')) (some cmd) St.done 0) c
        else endScan (replyCmd s (some cmd) St.malformed 0) c
      | none => endScan (replyCmd s (some cmd) St.malformed 0) c
    | _ => s)

end Sys2Proof.Machine
end

