-- ==== Sys2Proof/Machine/Schedule.lean ====
section
/-! DEFINITION. The passes of a forme in time: the end of a concordance walk (R312), the holds of a step (R256, R257),
the deadline monitor (R330 to R332), the choice of the next pass (R408) and the progress watchdog (R477). -/

namespace Sys2Proof.Machine

/-! ### WALK_COMPLETE -/

/-- The entries that the leading eligible blocks of a request match, and no more than match (R311, R312). -/
def matched (conc : List ConcEntry) (nb : Nat) (f : ServeFields) : List (Nat × Nat × List Nat) → List ConcEntry
  | [] => []
  | b :: r =>
    match conc.find? fun e => e.inBucket f.concObj nb b.1 && e.isFor f b with
    | some e => e :: matched conc nb f r
    | none => []

/-- WALK_COMPLETE (R300, R307, R312): each matched block's REFS rises and its LAST_USE is set; the request reads the
matched folios, returns as many of its own, and enters PREFILL. -/
def execWalkComplete (req : Nat) (s : State) : Host.Outcome State Fault Refusal :=
  .next (match Sys2Proof.Machine.req s req with
    | none => s
    | some r =>
      if r.state ≠ .walking then s
      else
        let c := r.chase
        let hits := matched (chase s c).conc (bucketsOf s c r.entry.concObj) r.entry (promptBlocks s r)
        let n := r.reserved.length - hits.length
        let s := setConc s c ((chase s c).conc.map fun e =>
          if hits.contains e then { e with refs := e.refs + 1, lastUse := s.now } else e)
        let s := modChase s c fun ch => freeFolios ch r.entry.poolObj (r.reserved.drop n)
        readyNext (modReq s req fun r =>
          { r with
            state := .prefill, folios := hits.map fun e => (e.folio, true), reserved := r.reserved.take n
            filled := 16 * hits.length }) req)

/-! ### Holds (R256, R257) -/

/-- Objects that no step holds: folio pools, and the objects of logit and mask tensors of serving entries and of the
copies that live requests work under (R305, R306). -/
def exemptObjs (s : State) (c : Nat) : List Nat :=
  let es := (chase s c).serving ++ (liveReqs s c).flatMap fun e =>
    e.2.entry :: (match e.2.fall with | some (_, f) => [f] | none => [])
  es.flatMap fun e =>
    let main := (imageOf (chase s c) e.formeId).map Image.body
    let draft := (imageOf (chase s c) e.draftId).map Image.body
    let objOf (b : Option FormeBody) (tid : Nat) : List Nat :=
      ((b.bind fun b => tensorOf b tid).map TensorCfg.objId).toList
    (if e.poolObj = 0 then [] else [e.poolObj]) ++ (if e.draftId = 0 then [] else e.draftPool :: objOf draft e.draftLogitTid) ++
      (if e.poolObj = 0 then [] else objOf main e.logitTid ++ objOf main e.maskTid)

/-- The MUTABLE objects that a step of a forme holds, in ascending OBJ_ID (R256). -/
def stepObjs (s : State) (c : Nat) (b : FormeBody) : List Nat :=
  let ex := exemptObjs s c
  (((b.tensors.filter fun d => d.tier != 0 && d.rw).map TensorCfg.objId).filter fun o => !ex.contains o).foldl nset []

/-- The READ_ONLY objects that a step of a forme reads (R257). -/
def readObjs (b : FormeBody) : List Nat :=
  ((b.tensors.filter fun d => d.tier != 0 && !d.rw).map TensorCfg.objId).foldl nset []

/-- Whether the step of a request waits for a hold. -/
def waitsHold (s : State) (n : Nat) : Bool := s.objs.any fun o => o.waiters.contains (.step n)

/-- Whether a forme reads an object that is not sealed yet (R257). -/
def readsOpen (s : State) (c : Nat) (b : FormeBody) : Bool :=
  (readObjs b).any fun id => match findObj s c id with | some o => decide (o.state = .isOpen) | none => false

/-- Take holds in order until one is not free: there the step waits, in arrival order (R256). -/
def takeHolds : List Nat → State → Nat → Nat → State × Bool
  | [], s, _, _ => (s, true)
  | id :: rest, s, c, n =>
    match findObj s c id with
    | none => takeHolds rest s c n
    | some o =>
      if (req s n).any (fun r => r.holds.contains id) then takeHolds rest s c n
      else if o.state = .held ∨ o.state = .moving then
        (if o.waiters.contains (.step n) then s
          else modObj s c id fun o => { o with waiters := o.waiters ++ [.step n] }, false)
      else
        let s := modObj s c id fun o => { o with state := .held, holder := some n }
        takeHolds rest (modReq s n fun r => { r with holds := nset r.holds id }) c n

/-- Go on with the holds of the step of a request's ready pass (R256, R257): with all of them, and every READ_ONLY
object sealed, the step may begin; else it waits, counted as WAIT_ARB. -/
def acquire (s : State) (n : Nat) (r : Req) (p : Pass) : State :=
  let c := r.chase
  match imageOf (chase s c) p.forme with
  | none => s
  | some i =>
    let (s, all) := takeHolds (stepObjs s c i.body) s c n
    if all && !readsOpen s c i.body then
      modReq (unstall s c (stepKey n)) n fun r => { r with holdsDone := true }
    else stall s c (stepKey n) Wait.arb

/-- STEP_HOLD (R256): the step of a request's ready pass takes its holds. -/
def execStepHold (req : Nat) (s : State) : Host.Outcome State Fault Refusal :=
  .next (match Sys2Proof.Machine.req s req with
    | none => s
    | some r =>
      match r.pass with
      | none => s
      | some p =>
        if r.state.final || r.state == .walking || p.begun || r.holdsDone || (chase s r.chase).fenced then s
        else acquire s req r p)

/-! ### The deadline monitor (R330 to R332) -/

/-- Whether a pass begins at a boundary of the monitor (R330): the pass of a SCORE, a prefill pass, or the first pass
of a round. -/
def isBoundary (r : Req) (p : Pass) : Bool :=
  match p.kind with
  | .verify => false
  | .draft => r.drafts.isEmpty
  | _ => true

/-- Give back the holds of a step that has not begun. -/
def dropHolds (s : State) (c n : Nat) (holds : List Nat) : State := holds.foldl (fun s id => releaseHold s c n id) s

/-- Switch a request to its fallback forme: all its passes from here on run there (R332). None when the fallback is
not IN_SERVICE, has lost its serving entry or has no free position. -/
def fallBack (s : State) (n : Nat) (r : Req) : Option State :=
  let ch := chase s r.chase
  let f := (bodyOf s r.chase r.forme).fallbackId
  if f = 0 ∨ r.fall.isSome ∨ !inService ch f then none
  else
    match ch.serving.find? fun e => e.formeId == f with
    | none => none
    | some e =>
      (freePosn s r.chase f e.passLimit).map fun p =>
        let s := dropHolds s r.chase n r.holds
        readyNext (modReq s n fun r => { r with fall := some (p, e), fallback := true, drafts := [] }) n

/-- What the monitor does at a boundary: none when the pass goes on (R331, R332). -/
def monitor (s : State) (n : Nat) (r : Req) (p : Pass) : Option State :=
  if r.deadline == 0 || !isBoundary r p || decide (predictedPs s r ≤ r.deadline * 1000) then none
  else
    match r.entry.missPolicy with
    | 1 => fallBack s n r
    | 2 => some (endReq (modReq s n fun r => { r with stop := 5 }) n .done St.done 0 [])
    | _ => none

/-! ### PASS_BEGIN (R408) -/

/-- Requests with a ready pass on a forme that do not wait for an object. -/
def readyOn (s : State) (c f : Nat) (b : FormeBody) : List (Nat × Req) :=
  (liveReqs s c).filter fun e =>
    (match e.2.pass with | some p => !p.begun && p.forme == f | none => false) &&
    e.2.state != .walking && !waitsHold s e.1 && (e.2.holdsDone || !readsOpen s c b)

/-- Whether passes may enter a forme now: it is IN_SERVICE, or it is the new forme of a running change and the tile
pairs of its inbound galleys have switched (R219, R408). -/
def formeEnters (s : State) (ch : Chase) (i : Image) : Bool :=
  match ch.act with
  | .change oldId newId _ injected _ _ =>
    if i.formeId = newId then (galleysOf i.body 1).all fun d => (tile s d.stile).switched
    else i.state == .inService && !(i.formeId == oldId && injected)
  | _ => i.state == .inService

/-- The folios of a pass (R305): a main pass lists the next of its reserved folios as they are needed; folios that a
pass first lists become PRIVATE. -/
def assignFolios (s : State) (n : Nat) (r : Req) (p : Pass) : State :=
  let need := ceilDiv (p.pos + p.ntok) 16
  if r.kind ≠ .generate then s
  else
    let setPrivate (pool : Nat) (fs : List Nat) (s : State) : State :=
      let put (x : Nat × Nat × Nat) : Nat × Nat × Nat :=
        if x.1 = pool ∧ fs.contains x.2.1 ∧ x.2.2 = 1 then (x.1, x.2.1, 2) else x
      modChase s r.chase fun ch => { ch with folios := ch.folios.map put }
    if p.kind.isDraft then setPrivate r.entry.draftPool (r.draftFolios.take need) s
    else
      let k := need - r.folios.length
      let new := r.reserved.take k
      setPrivate r.entry.poolObj new (modReq s n fun r =>
        { r with folios := r.folios ++ new.map fun f => (f, false), reserved := r.reserved.drop k })

/-- A ready pass enters the array (R281, R299, R408): its record is written, its step reads its objects, and the
inbound galleys of the forme begin on it. -/
def beginPass (s : State) (n : Nat) (r : Req) (p : Pass) (i : Image) : State :=
  let c := r.chase
  let f := p.forme
  let s := assignFolios s n r p
  let p := { p with begun := true }
  let s := modReq s n fun r =>
    { r with
      pass := some p, holds := [], holdsDone := false
      filled := if p.kind = .prefill then p.pos + p.ntok else r.filled
      draftFilled := if p.kind.isDraft then p.pos + p.ntok else r.draftFilled }
  let record := match req s n with
    | some r => if r.kind = .generate then passRecord n r p else []
    | none => []
  let reads := readObjs i.body
  let a : ArrayPass :=
    { req := n, step := (chase s c).steps, pass := p, record := record, entryNs := s.now, startNs := r.readyNs, outs := [], holds := r.holds, reads := reads }
  let s := { s with objs := s.objs.map fun o =>
    if o.chase = c ∧ reads.contains o.objId then { o with readers := o.readers ++ [a.step] } else o }
  let s := (galleysOf i.body 1).foldl (fun s d => modGalley s d.stile d.tid fun g =>
    { g with pass := some n, passDone := false, chunk := 0, inject := 0, injected := 0 }) s
  let s := modChase s c fun ch =>
    { ch with
      steps := ch.steps + 1
      array := kset ch.array f (kgetD ch.array f [] ++ [a])
      injecting := kset ch.injecting f n
      lastServed := kset ch.lastServed (8 * f + r.prio) n }
  if (galleysOf i.body 1).isEmpty then endInjection s c f else s

/-- PASS_BEGIN (R408): when no pass of the forme injects, one ready pass of the highest priority present is taken, in
round-robin order of the requests; the monitor evaluates it (R330), its step takes its holds (R256), and it enters
the array. None is taken while the chase is fenced or a power hold lasts (R521). -/
def execPassBegin (chase forme : Nat) (s : State) : Host.Outcome State Fault Refusal :=
  .next (
    let c := chase
    let ch := Sys2Proof.Machine.chase s c
    match imageOf ch forme with
    | none => s
    | some i =>
      if ch.fenced || s.power.hold || (kget ch.injecting forme).isSome || !formeEnters s ch i then s
      else
        let ready := readyOn s c forme i.body
        let top := (ready.map fun e => e.2.prio).foldl Nat.max 0
        let turn := (ready.filter fun e => e.2.prio == top).map Prod.fst
        match nextCyclic (kgetD ch.lastServed (8 * forme + top) 0) turn with
        | none => s
        | some n =>
          match req s n with
          | none => s
          | some r =>
            match r.pass with
            | none => s
            | some p =>
              match monitor s n r p with
              | some s => s
              | none =>
                let s := if r.holdsDone then s else acquire s n r p
                match req s n with
                | some r => if r.holdsDone then beginPass s n r p i else s
                | none => s)

/-! ### PROGRESS (R477) -/

/-- The formes and passes of a request that are in the array. -/
def passesOf (s : State) (c n : Nat) : List (Nat × ArrayPass) :=
  (chase s c).array.flatMap fun e => (e.2.filter fun a => a.req == n).map fun a => (e.1, a)

/-- PROGRESS (R477): a pass of a request has reached the limit of the forme progress watchdog. -/
def execProgress (req : Nat) (s : State) : Host.Outcome State Fault Refusal :=
  .next (match Sys2Proof.Machine.req s req with
    | none => s
    | some r =>
      let late (x : Nat × ArrayPass) : Bool :=
        let b := bodyOf s r.chase x.1
        decide (x.2.entryNs + progressLimit s r b (betaOf s r.chase b) ≤ s.now)
      if (passesOf s r.chase req).any late then formeFault s r.chase 0x010C 0x7FF (chevOf 0x010C) else s)

end Sys2Proof.Machine
end

