-- ==== Sys2Proof/Machine/Startup.lean ====
section
/-! DEFINITION. Start-up, firmware and ownership (R412 to R422, R532 to R548). -/

namespace Sys2Proof.Machine

/-- Change the start-up state. -/
def modBoot (s : State) (f : Boot → Boot) : State := { s with boot := f s.boot }

/-! ### The mask ROM and the sideband messages -/

/-- AON_CHECK (R532, R542, R567): the ROM checks end. A self-check that fails gives START_FAILED with its FAIL_CODE;
with a reference clock absent the device stays in AON; else it waits for firmware. -/
def execAonCheck (romFail : Nat) (s : State) : Host.Outcome State Fault Refusal :=
  .next (
    if s.boot.state ≠ 0 then s
    else if romFail ≠ 0 then modBoot s fun b => { b with state := 6, failCode := romFail % 256 }
    else if s.pins.refclk.all id then modBoot s fun b => { b with state := 1 }
    else s)

/-- BOOT_STATUS (R536): START_STATUS, LC_STATUS and the package fault record, as the management controller reads
them. -/
def execBootStatus (s : State) : Host.Outcome State Fault Refusal :=
  .next (side s "BOOT_STATUS" true
    (le 4 (regValue (startStatus s) .mgt) ++ le 4 (regValue (lcStatus s) .mgt) ++ recordBytes s .mgt))

/-- The first field of a BOOT_CONFIG that is out of range, by its place in R536's row: 1 placement record, 2 MGT
credentials, 3 BOOT_SOURCE, 4 BOOT_ADDR, 5 BOOT_PEER, 6 BOOT_UDP, 7 boot network configuration, 8 CLAIM_EXPECT. -/
def badField (c : BootConfig) : Option Nat :=
  let p := c.placement
  let dims := decide (1 ≤ p.nx ∧ p.nx ≤ 64 ∧ 1 ≤ p.ny ∧ p.ny ≤ 64 ∧ 1 ≤ p.nz ∧ p.nz ≤ 32 ∧ p.x < p.nx ∧ p.y < p.ny ∧ p.z < p.nz)
  if !(dims && p.expect.length == 6 && p.reach.length == 6 && p.spares.length == 6 && p.cableDm.length == 6 &&
      p.reach.all (· ≤ 3) && p.cableDm.all (· ≤ 5000)) then some 1
  else if 4 < c.mgtCreds.length then some 2
  else if 1 < c.bootSource then some 3
  else if 2 ^ (if c.bootV6 then 128 else 32) ≤ c.bootAddr then some 4
  else if 2 ^ (if c.bootV6 then 128 else 32) ≤ c.bootPeer then some 5
  else if 65535 < c.bootUdp then some 6
  else if !(c.net.all fun e => e.1 / 256 == 1 && policyOk e.1 e.2) then some 7
  else if c.claimExpect.length ≠ 48 then some 8
  else none

/-- A boot configuration as it is kept: its credentials are numbered in delivery order (R412). -/
def numberedCreds (c : BootConfig) : BootConfig := { c with mgtCreds := c.mgtCreds.zipIdx.map fun e => (e.2 + 1, e.1.2) }

/-- Discard a partial image (R536, R538, R540). -/
def discardImage (s : State) : State := modBoot s fun b => { b with image := [], firstNs := none }

/-- BOOT_CONFIG (R456, R536): the whole configuration is replaced, or nothing when a field is out of range. BOOT_SOURCE
takes effect in AON and AWAIT_FW, later with the next start-up. -/
def execBootConfig (c : BootConfig) (s : State) : Host.Outcome State Fault Refusal :=
  .next (
    if s.boot.underVolt then s
    else
      match badField c with
      | some i => side s "BOOT_CONFIG" false (le 1 i)
      | none =>
        let c := numberedCreds c
        let old := s.boot.cfg
        let s := modBoot s fun b => { b with cfg := some c }
        let gone (se : Session) : Bool := se.role == .mgt && !(c.mgtCreds.any fun e => e.1 == se.credId &&
          (match old with | some o => o.mgtCreds.contains e | none => true))
        let s := closeWhere s gone
        let s := if s.boot.state = 1 ∧ s.boot.source ≠ c.bootSource then discardImage s else s
        let s := if s.boot.state ≤ 1 then modBoot s fun b => { b with source := c.bootSource } else s
        let s := if (s.boot.state = 3 ∨ s.boot.state = 4 ∨ s.boot.state = 5) ∧ old.map BootConfig.placement ≠ some c.placement
          then rediscover s true 4 else s
        side s "BOOT_CONFIG" true [])

/-- CLAIM_WINDOW (R536, R545): opens the window for up to 3,600 s, or closes it. -/
def execClaimWindow (seconds : Nat) (s : State) : Host.Outcome State Fault Refusal :=
  .next (
    if s.boot.underVolt then s
    else if s.boot.state ≠ 4 ∨ s.fuses.lifecycle ≠ 1 ∨ 3600 < seconds then side s "CLAIM_WINDOW" false []
    else
      let e := if seconds = 0 then s.now else s.now + seconds * 1000000000
      side (modBoot s fun b => { b with claimEnd := if seconds = 0 then none else some e }) "CLAIM_WINDOW" true (le 8 e))

/-- CLAIM_WINDOW_EXPIRY (R545). -/
def execClaimWindowExpiry (s : State) : Host.Outcome State Fault Refusal :=
  .next (match s.boot.claimEnd with
    | some e => if e ≤ s.now then modBoot s fun b => { b with claimEnd := none } else s
    | none => s)

/-! ### Firmware delivery (R538 to R540) -/

/-- The bytes received, as one string; gaps are where no byte has arrived. -/
def imageByte (img : KMap Bytes) (a : Nat) : Option Byte :=
  (img.find? fun e => decide (e.1 ≤ a ∧ a < e.1 + e.2.length)).bind fun e => e.2[a - e.1]?

/-- Where the covered prefix of an image ends: chunks by rising offset, from the start. -/
def prefixEnd (img : KMap Bytes) : Nat := img.foldl (fun n e => if e.1 ≤ n then Nat.max n (e.1 + e.2.length) else n) 0

/-- The number of bytes of an image that have arrived, each counted once. -/
def bytesHeld (img : KMap Bytes) : Nat :=
  (img.foldl (fun (a : Nat × Nat) e => (a.1 + (e.1 + e.2.length - Nat.max a.2 e.1), Nat.max a.2 (e.1 + e.2.length))) (0, 0)).1

/-- Bytes [off, off + n) of an image that has them all. -/
def imageBytes (img : KMap Bytes) (off n : Nat) : Bytes := (List.range n).map fun i => (imageByte img (off + i)).getD 0

/-- The image length, once manifest bytes 16 to 23 have arrived: BODY_LEN + 272 (R538). -/
def imageLen (img : KMap Bytes) : Option Nat :=
  if (List.range 8).all fun i => (imageByte img (16 + i)).isSome then some (ofLe (imageBytes img 16 8) + 272) else none

/-- Bytes of an image at most: 48 MiB. -/
def imageMax : Nat := 50331648

/-- With BOOT_SOURCE 1, the datagram that tells BOOT_PEER of a verified or rejected image, with START_STATUS (R539), to
where its datagrams came from. -/
def tellPeer (s : State) : State :=
  match s.boot.source, s.boot.cfg, s.boot.peerAt with
  | 1, some c, some mac =>
    let d : Datagram :=
      { v6 := c.bootV6, src := c.bootAddr, dst := c.bootPeer, dscp := 0, srcPort := c.bootUdp, dstPort := c.bootUdp
        data := le 4 (regValue (startStatus s) .mgt) }
    sendBoot s mac (ipKind c.bootV6) d.packet
  | _, _, _ => s

/-- Reject the image with a code (R538, R540). -/
def rejectImage (s : State) (code : Nat) : State :=
  tellPeer (modBoot (discardImage s) fun b => { b with state := 1, fwReject := code })

/-- Put a chunk of an image (R538): a byte beyond the image's length or 48 MiB rejects it; the last byte begins
verification. -/
def putImageBytes (s : State) (offset : Nat) (data : Bytes) : State :=
  let img := match kget s.boot.image offset with
    | some d => kset s.boot.image offset (data ++ d.drop data.length)
    | none => kset s.boot.image offset data
  let s := modBoot s fun b => { b with image := img, firstNs := some (b.firstNs.getD s.now), lastNs := s.now }
  let far := (img.map fun e => e.1 + e.2.length).foldl Nat.max 0
  match imageLen img with
  | none => if imageMax < far then rejectImage s 6 else s
  | some n =>
    if imageMax < far ∨ n < far ∨ imageMax < n then rejectImage s 6
    else if prefixEnd img = n then modBoot s fun b => { b with state := 2 }
    else s

/-- FW_CHUNK (R536, R538): the reply gives the bytes received so far. -/
def execFwChunk (offset : Nat) (data : Bytes) (s : State) : Host.Outcome State Fault Refusal :=
  .next (
    if s.boot.state = 1 ∧ s.boot.source = 0 ∧ 1 ≤ data.length ∧ data.length ≤ 4096 then
      let s' := putImageBytes s offset data
      side s' "FW_CHUNK" true (le 8 (bytesHeld s'.boot.image))
    else side s "FW_CHUNK" false [])

/-- BOOT_DATAGRAM (R539): a frame on the boot link. A UDP datagram from BOOT_PEER to BOOT_ADDR and BOOT_UDP carries OFFSET
and 1 to 8,192 bytes of the image; anything else is dropped. -/
def execBootDatagram (frame : Bytes) (s : State) : Host.Outcome State Fault Refusal :=
  .next (match s.boot.cfg, bootFrame frame with
    | some c, some e =>
      match (if e.kind = ipKind c.bootV6 then datagramOf c.bootV6 e.body else none) with
      | some d =>
        if bootLink s 0 ∧ d.dst = c.bootAddr ∧ d.src = c.bootPeer ∧ d.dstPort = c.bootUdp ∧ 9 ≤ d.data.length ∧
            d.data.length ≤ 8200 then
          putImageBytes (modBoot s fun b => { b with peerAt := some e.src }) (field d.data 0 8) (d.data.drop 8)
        else s
      | none => s
    | _, _ => s)

/-- FW_DELIVERY_TIMEOUT (R538): 10 s after the first byte of a delivery in which no further byte has arrived since. -/
def execFwDeliveryTimeout (s : State) : Host.Outcome State Fault Refusal :=
  .next (
    if s.boot.state = 1 ∧ s.boot.firstNs.isSome ∧ s.boot.lastNs + 10000000000 ≤ s.now then rejectImage s 7 else s)

/-- The checks of R420 in order: the number of the first that fails. -/
def manifestCheck (s : State) (n : Nat) (img : KMap Bytes) : Option Nat :=
  let m := imageBytes img 0 272
  let key := field m 7 1
  let pub := slice m 72 97
  let body := imageBytes img 272 (n - 272)
  if field m 0 4 ≠ 0x5A394657 ∨ field m 4 2 ≠ 1 ∨ field m 169 7 ≠ 0 then some 1
  else if 3 < key ∨ s.fuses.fwRevoked.contains key ∨ s.fuses.vendorKeys[key]? ≠ some (ofBe (sha384 pub)) then some 2
  else if !ecdsaOk pub (sha384 (m.take 176)) (slice m 176 96) then some 3
  else if field m 16 8 + 272 ≠ n ∨ sha384 body ≠ slice m 24 48 then some 4
  else if field m 6 1 < s.fuses.rollback then some 5
  else none

/-- FW_VERIFY_DONE (R420, R423, R532, R540, R542): bring-up begins with the alias key and the torus ports, or the
first failing check is recorded and the image discarded. -/
def execFwVerifyDone (s : State) : Host.Outcome State Fault Refusal :=
  .next (
    if s.boot.state ≠ 2 then s
    else
      let img := s.boot.image
      let n := prefixEnd img
      match manifestCheck s n img with
      | some k => rejectImage s k
      | none =>
        let m := imageBytes img 0 272
        let s := modBoot s fun b => { b with
          state := 3, bootSrc := s.boot.source, image := [], firstNs := none
          fw := some ⟨field m 6 1, field m 7 1, field m 8 8, sha384 (imageBytes img 0 n)⟩
          aliasKey := s.fuses.udsIntact }
        let s := tellPeer s
        (List.range 6).foldl (fun s n => if portUsable s n then modPort s n fun p => { p with state := 1 } else s) s)

/-! ### Bring-up (R541 to R543) -/

/-- Apply the fused retirement map (R541): the events of these retirements were counted when they took effect. -/
def applyFuseMap (s : State) : State :=
  let h := s.health
  let s := s.fuses.tilesRetired.foldl applyRetire s
  let s := s.fuses.banksRetired.foldl (fun s e => modSpare s e.1 fun x => { x with bank := some e.2 }) s
  { s with health := { s.health with evOwn := h.evOwn, evMgt := h.evMgt } }

/-- What the signature over a boot network list covers (R537); the pairs stand as in the body of POLICY_SET (DEDUCED,
log 66). -/
def netSigned (s : State) (c : BootConfig) : Bytes :=
  ascii "Z9 bootnet v1" ++ le 16 s.fuses.serial ++ c.net.flatMap fun e => le 2 e.1 ++ zeros 6 ++ le 8 e.2

/-- Whether the boot network list may be applied: while the device is OWNED it carries a signature that verifies under
OWNER_PUB (R537). -/
def netAllowed (s : State) (c : BootConfig) : Bool :=
  s.fuses.lifecycle != 2 || (match c.netSig, s.fuses.ownerPub with
    | some sig, some pub => ecdsaOk pub (sha384 (netSigned s c)) sig
    | _, _ => false)

/-- Apply the boot network configuration to the Ethernet ports (R537). -/
def applyNet (s : State) : State :=
  match s.boot.cfg with
  | none => s
  | some c =>
    if netAllowed s c then
      c.net.foldl (fun s e => if 0x010B ≤ e.1 ∧ e.1 ≤ 0x010E then setCak s (e.1 - 0x010B) e.2 else putPolicy s e.1 e.2) s
    else modBoot s fun b => { b with bootnetBad := true }

/-- The Ethernet ports as trained under PORT_MODE (R359, R513, R542). -/
def trainPorts (s : State) (laneFault : Nat) : State :=
  let v := policy s 0x0108
  { s with ports := s.ports.mapIdx fun n p =>
      let bad := nbit laneFault n
      let split := nbit v (8 + n / 2)
      let mode := nbits v (2 * n) 2
      { p with laneFault := bad, split := split, mode := mode, retraining := false
               linkUp := (n % 2 == 0 || split) && mode != 0 && !bad } }

/-- The tile and bank tests of bring-up (R499, R501): what fails is retired at once. -/
def applyTests (s : State) (r : BringUpResult) : State :=
  let s := r.tileFail.foldl retireTile s
  r.bankFail.foldl (fun s e => applyBank (retireBank s e.1 e.2) e.1) s

/-- BRING_UP_DONE (R541 to R543): READY, OUT_OF_SERVICE at the package escalation limit, or START_FAILED. -/
def execBringUpDone (r : BringUpResult) (s : State) : Host.Outcome State Fault Refusal :=
  .next (
    if s.boot.state ≠ 3 then s
    else
      let s := { s with thermal := { s.thermal with senseOpen := r.senseOpen % 64 } }
      if r.failCode ≠ 0 ∨ r.senseOpen % 64 ≠ 0 then
        modBoot s fun b => { b with state := 6, failCode := if r.failCode ≠ 0 then r.failCode % 256 else 7 }
      else
        let s := applyTests (applyFuseMap s) r
        let s := (List.range 4).foldl (fun s d => if nbit r.dieFail d then outOfService s (3 * 4096 + d) else s) s
        let logged (i : Nat) : Nat := (s.memH.repaired.filter fun r => rowChannel r / 32 == i).length
        let ddr := if r.ddrCause = 0 ∧ !([32, 64, 128, 256].contains r.ddrModGib) then 3 else r.ddrCause % 16
        let s := { s with
          health := { s.health with
            hOos := r.hFail % 16, rate8 := r.rate8 % 65536, bInService := ddr == 0, ddrCause := ddr
            ddrRate := r.ddrRate % 4, modGib := if ddr = 0 then r.ddrModGib else 0 }
          memH := { s.memH with repaired := [] }
          memB := { s.memB with repaired := [] }
          spares := { s.spares with hbmHard := (List.range 16).map fun i => Nat.min (r.hardRows.getD i 0) (logged i) % 256 }
          power := { s.power with setMv := 760 } }
        let s := updateSust (trainPorts (applyNet s) r.epLaneFault)
        let full := decide (policy s 0x0303 ≤ pkgInWindow s)
        let (key, s) := drawBytes s 96
        modBoot s fun b => { b with state := if full then 5 else 4, patrolKey := some key })

/-- ROLLBACK_BLOW (R421): one fuse bit, in READY, while SVN exceeds ROLLBACK, never in MANUFACTURE. -/
def execRollbackBlow (s : State) : Host.Outcome State Fault Refusal :=
  .next (match s.boot.fw with
    | some f =>
      if s.boot.state = 4 ∧ s.fuses.lifecycle ≠ 0 ∧ s.fuses.rollback < f.svn ∧ s.fuses.rollback < 64 then
        { s with fuses := { s.fuses with rollback := s.fuses.rollback + 1 } }
      else s
    | none => s)

/-! ### Ownership -/

/-- The conditions of R544 in order: status and detail of the first that fails. -/
def claimCheck (s : State) (se : Session) (pub : Bytes) : Option (Nat × Nat) :=
  let expect := (s.boot.cfg.map BootConfig.claimExpect).getD []
  if s.fuses.lifecycle ≠ 1 ∨ s.boot.state ≠ 4 ∨ s.boot.claim.isSome then some (St.wrongState, 0x0A0B)
  else if s.boot.claimEnd.any (fun t => decide (s.now < t)) = false then some (St.wrongState, 0x1001)
  else if !(expect.all (· == 0)) && expect != digest48 (sha384 pub) then some (St.wrongState, 0x1002)
  else if s.thermal.vin < 3200 ∨ 4000 < s.thermal.vin ∨ s.power.hold then some (St.wrongState, 0x1003)
  else if (slotFor s pub).isNone then some (St.wrongState, 0x1004)
  else if !keptSigOk se pub then some (St.verifyFailed, 0)
  else none

/-- CLAIM (R384, R544, R546): the slot's in-use fuse is blown and the key's fuses follow; DONE comes when the state
fuse is blown. LABEL is carried and has no meaning to the device. -/
def execClaim (h : CmdHdr) (pub _label : Bytes) (s : State) : Host.Outcome State Fault Refusal :=
  hostCmd h ⟨0x0010, [.own], false, 0⟩ (fun s se =>
    if !se.provisional then
      if s.fuses.lifecycle = 1 then done (violation s) h 0x0010 [] else rep s h 0x0010 St.wrongState 0x0A0B []
    else
      match claimCheck s se pub with
      | some (st, detail) =>
        let s := rep s h 0x0010 st detail []
        if st = St.verifyFailed then closeSession s h.session else s
      | none =>
        let i := (slotFor s pub).getD 0
        let s := { s with fuses := { s.fuses with slots := lmod s.fuses.slots i fun x => { x with inUse := true } } }
        let s := modBoot s fun b => { b with claim := some (h.session, h.reqId, pub) }
        enlist s h 0x0010 255 false) s

/-- OWNER_FUSES_BLOWN (R412, R416, R546): the slot holds the key, the state fuse is blown, the session is an OWN
session holding CRED_ID 1, the window closes and the torus runs discovery again. -/
def execOwnerFusesBlown (s : State) : Host.Outcome State Fault Refusal :=
  .next (match s.boot.claim with
    | none => s
    | some (session, reqId, pub) =>
      let i := (slotFor s pub).getD 0
      let s := { s with fuses := { s.fuses with
        lifecycle := Nat.max s.fuses.lifecycle 2, ownerPub := some pub, slots := lmod s.fuses.slots i fun x => { x with key := pub } } }
      let s := modBoot s fun b => { b with claim := none, claimEnd := none }
      let s := { s with sessions := kmod s.sessions session fun x =>
        { x with provisional := false, credId := 1, keptSig := none } }
      rediscover (replyLive s session reqId St.done 0 []) false 2)

/-- READMIT (R547): the package counts are cleared and the device is READY; the fault record stays. -/
def execReadmit (h : CmdHdr) (s : State) : Host.Outcome State Fault Refusal :=
  hostCmd h ⟨0x0014, [.own], true, 0⟩ (fun s _ =>
    if s.boot.state = 5 then done (modBoot s fun b => { b with state := 4, pkgResets := [] }) h 0x0014 []
    else rep s h 0x0014 St.wrongState 0 []) s

/-- DECOMMISSION (R384, R417, R456): every chase is released, every other session closes, every derived key but the
commanding session's is zeroised; the fuses follow. -/
def execDecommission (h : CmdHdr) (confirm : Nat) (s : State) : Host.Outcome State Fault Refusal :=
  hostCmd h ⟨0x0015, [.own], false, 0⟩ (fun s se =>
    if confirm ≠ 0x4445434F4D4D4953 then rep s h 0x0015 St.malformed 0 []
    else
      let s := enlist s h 0x0015 255 false
      let s := (heldChases s).foldl (fun s c => freeChase (scrubChase (beginRelease s c none) c) c) s
      let s := ((s.sessions.filter fun e => e.1 != h.session).map Prod.fst).foldl closeSession s
      let s := zeroiseKeys (rediscover s false 2)
      let s := { s with sessions := kmod s.sessions h.session fun x => { x with keyHD := se.keyHD, keyDH := se.keyDH } }
      modBoot s fun b => { b with decom := some (h.session, h.reqId), decomNs := s.now }) s

/-- UDS_DESTROYED (R417): the UDS is gone and the state fuse is blown; DONE leaves and the session closes. -/
def execUdsDestroyed (s : State) : Host.Outcome State Fault Refusal :=
  .next (match s.boot.decom with
    | none => s
    | some (session, reqId) =>
      let s := { s with fuses := { s.fuses with lifecycle := Nat.max s.fuses.lifecycle 3, udsIntact := false } }
      let s := replyLive (modBoot s fun b => { b with decom := none }) session reqId St.done 0 []
      closeSession s session)

end Sys2Proof.Machine
end

