-- ==== Sys2Proof/Machine/Dispatch.lean ====
section
/-! DEFINITION. One arm for each command of the table: a direct call of its meaning. -/

namespace Sys2Proof.Machine

/-- The effect of a command on everything but the queue. -/
def exec (i : Instr) (s : State) : Host.Outcome State Fault Refusal :=
  match i with
  | .hello h role chase credId nonce eph => Sys2Proof.Machine.execHello h role chase credId nonce eph s
  | .prove h sig => Sys2Proof.Machine.execProve h sig s
  | .close h => Sys2Proof.Machine.execClose h s
  | .ping h data => Sys2Proof.Machine.execPing h data s
  | .sessionInfo h => Sys2Proof.Machine.execSessionInfo h s
  | .claim h pub label => Sys2Proof.Machine.execClaim h pub label s
  | .policySet h entries => Sys2Proof.Machine.execPolicySet h entries s
  | .policyGet h ids => Sys2Proof.Machine.execPolicyGet h ids s
  | .credSet h op role chase credId pub => Sys2Proof.Machine.execCredSet h op role chase credId pub s
  | .readmit h => Sys2Proof.Machine.execReadmit h s
  | .decommission h confirm => Sys2Proof.Machine.execDecommission h confirm s
  | .relaySet h entries => Sys2Proof.Machine.execRelaySet h entries s
  | .intakeSet h cfg => Sys2Proof.Machine.execIntakeSet h cfg s
  | .chaseCreate h f => Sys2Proof.Machine.execChaseCreate h f s
  | .chaseChange h f => Sys2Proof.Machine.execChaseChange h f s
  | .chaseRelease h chase => Sys2Proof.Machine.execChaseRelease h chase s
  | .chaseInfo h chase => Sys2Proof.Machine.execChaseInfo h chase s
  | .chaseClaim h pub => Sys2Proof.Machine.execChaseClaim h pub s
  | .formeLoad h total offset data => Sys2Proof.Machine.execFormeLoad h total offset data s
  | .formeStage h objId => Sys2Proof.Machine.execFormeStage h objId s
  | .formeFree h formeId => Sys2Proof.Machine.execFormeFree h formeId s
  | .impose h ids => Sys2Proof.Machine.execImpose h ids s
  | .change h oldId newId => Sys2Proof.Machine.execChange h oldId newId s
  | .serveSet h op e => Sys2Proof.Machine.execServeSet h op e s
  | .scanOut h tile => Sys2Proof.Machine.execScanOut h tile s
  | .scanIn h record => Sys2Proof.Machine.execScanIn h record s
  | .formeList h => Sys2Proof.Machine.execFormeList h s
  | .signkeySet h op keyId pub => Sys2Proof.Machine.execSignkeySet h op keyId pub s
  | .formeKeyGet h => Sys2Proof.Machine.execFormeKeyGet h s
  | .objCreate h objId size kind tier die => Sys2Proof.Machine.execObjCreate h objId size kind tier die s
  | .put h objId offset data => Sys2Proof.Machine.execPut h objId offset data s
  | .seal h objId => Sys2Proof.Machine.execSeal h objId s
  | .get h objId offset len => Sys2Proof.Machine.execGet h objId offset len s
  | .move h objId tier die => Sys2Proof.Machine.execMove h objId tier die s
  | .objFree h objId => Sys2Proof.Machine.execObjFree h objId s
  | .windowSet h objId window die => Sys2Proof.Machine.execWindowSet h objId window die s
  | .objInfo h objId => Sys2Proof.Machine.execObjInfo h objId s
  | .score h formeId deadline label input => Sys2Proof.Machine.execScore h formeId deadline label input s
  | .generate h p => Sys2Proof.Machine.execGenerate h p s
  | .fileSubmit h formeId deadline total offset label data => Sys2Proof.Machine.execFileSubmit h formeId deadline total offset label data s
  | .cancel h target => Sys2Proof.Machine.execCancel h target s
  | .resend h target fromTok => Sys2Proof.Machine.execResend h target fromTok s
  | .jobOpen h f => Sys2Proof.Machine.execJobOpen h f s
  | .jobStep h jobId step formeId deadline label input => Sys2Proof.Machine.execJobStep h jobId step formeId deadline label input s
  | .jobRejoin h jobId step => Sys2Proof.Machine.execJobRejoin h jobId step s
  | .jobClose h jobId => Sys2Proof.Machine.execJobClose h jobId s
  | .readReg h addr count => Sys2Proof.Machine.execReadReg h addr count s
  | .writeReg h addr value => Sys2Proof.Machine.execWriteReg h addr value s
  | .resetReq h addr value => Sys2Proof.Machine.execResetReq h addr value s
  | .resetReadmit h addr value => Sys2Proof.Machine.execResetReadmit h addr value s
  | .healthEventsClear h addr value => Sys2Proof.Machine.execHealthEventsClear h addr value s
  | .colophon h nonce => Sys2Proof.Machine.execColophon h nonce s
  | .powerCap h cap alertCap overdrive => Sys2Proof.Machine.execPowerCap h cap alertCap overdrive s
  | .pullRead h mode pullId offset len errs => Sys2Proof.Machine.execPullRead h mode pullId offset len errs s
  | .askestPacket ep frame ns => Sys2Proof.Machine.execAskestPacket ep frame ns s
  | .reassemblyTimeout session opcode reqId => Sys2Proof.Machine.execReassemblyTimeout session opcode reqId s
  | .sessionPendingTimeout session => Sys2Proof.Machine.execSessionPendingTimeout session s
  | .sessionIdleTimeout session => Sys2Proof.Machine.execSessionIdleTimeout session s
  | .fileIdleTimeout session reqId => Sys2Proof.Machine.execFileIdleTimeout session reqId s
  | .heldChunkTimeout session reqId => Sys2Proof.Machine.execHeldChunkTimeout session reqId s
  | .policyTakeEffect id => Sys2Proof.Machine.execPolicyTakeEffect id s
  | .portRetrain he trained => Sys2Proof.Machine.execPortRetrain he trained s
  | .arpRequest ep frame => Sys2Proof.Machine.execArpRequest ep frame s
  | .neighborSolicitation ep frame => Sys2Proof.Machine.execNeighborSolicitation ep frame s
  | .mkaFrame ep peerPrio peerSci peerSak => Sys2Proof.Machine.execMkaFrame ep peerPrio peerSci peerSak s
  | .relayFrame port f => Sys2Proof.Machine.execRelayFrame port f s
  | .relayReply f => Sys2Proof.Machine.execRelayReply f s
  | .intakeFrame ep frame => Sys2Proof.Machine.execIntakeFrame ep frame s
  | .flowIdleExpiry idx => Sys2Proof.Machine.execFlowIdleExpiry idx s
  | .flowActiveExpiry idx => Sys2Proof.Machine.execFlowActiveExpiry idx s
  | .intakeScore => Sys2Proof.Machine.execIntakeScore s
  | .intakeRetry idx => Sys2Proof.Machine.execIntakeRetry idx s
  | .intakeResult idx => Sys2Proof.Machine.execIntakeResult idx s
  | .intakeNotify => Sys2Proof.Machine.execIntakeNotify s
  | .imageCheckBegin => Sys2Proof.Machine.execImageCheckBegin s
  | .imageCheckDone => Sys2Proof.Machine.execImageCheckDone s
  | .fenceDrainDone chase => Sys2Proof.Machine.execFenceDrainDone chase s
  | .scrubDone chase vminFail => Sys2Proof.Machine.execScrubDone chase vminFail s
  | .pageLoadDone chase => Sys2Proof.Machine.execPageLoadDone chase s
  | .shadowLoadDone chase => Sys2Proof.Machine.execShadowLoadDone chase s
  | .lockupInject chase => Sys2Proof.Machine.execLockupInject chase s
  | .lockupTake tile fu input => Sys2Proof.Machine.execLockupTake tile fu input s
  | .tileSwitch tile => Sys2Proof.Machine.execTileSwitch tile s
  | .preloadDone tile => Sys2Proof.Machine.execPreloadDone tile s
  | .changeTimeout chase => Sys2Proof.Machine.execChangeTimeout chase s
  | .tokenEject k flip => Sys2Proof.Machine.execTokenEject k flip s
  | .tokenTake tile fu input => Sys2Proof.Machine.execTokenTake tile fu input s
  | .fire tile fu errs => Sys2Proof.Machine.execFire tile fu errs s
  | .branchFire tile fu => Sys2Proof.Machine.execBranchFire tile fu s
  | .selectFire tile fu => Sys2Proof.Machine.execSelectFire tile fu s
  | .steerFire tile fu => Sys2Proof.Machine.execSteerFire tile fu s
  | .mergeFire tile fu => Sys2Proof.Machine.execMergeFire tile fu s
  | .loopFire tile fu => Sys2Proof.Machine.execLoopFire tile fu s
  | .loopEmit tile fu => Sys2Proof.Machine.execLoopEmit tile fu s
  | .emit tile fu => Sys2Proof.Machine.execEmit tile fu s
  | .creditReturn tile port => Sys2Proof.Machine.execCreditReturn tile port s
  | .granuleLand k => Sys2Proof.Machine.execGranuleLand k s
  | .bankGrant tile bank reqs => Sys2Proof.Machine.execBankGrant tile bank reqs s
  | .longGutterRoute k => Sys2Proof.Machine.execLongGutterRoute k s
  | .creditToken k => Sys2Proof.Machine.execCreditToken k s
  | .remoteCreditFlush k => Sys2Proof.Machine.execRemoteCreditFlush k s
  | .misregEvent tile fu => Sys2Proof.Machine.execMisregEvent tile fu s
  | .misreg tile fu => Sys2Proof.Machine.execMisreg tile fu s
  | .mov tile fu => Sys2Proof.Machine.execMov tile fu s
  | .ld tile fu => Sys2Proof.Machine.execLd tile fu s
  | .st tile fu => Sys2Proof.Machine.execSt tile fu s
  | .bcr tile fu => Sys2Proof.Machine.execBcr tile fu s
  | .bcc tile fu => Sys2Proof.Machine.execBcc tile fu s
  | .bcs tile fu => Sys2Proof.Machine.execBcs tile fu s
  | .extr tile fu => Sys2Proof.Machine.execExtr tile fu s
  | .ins tile fu => Sys2Proof.Machine.execIns tile fu s
  | .rotr tile fu => Sys2Proof.Machine.execRotr tile fu s
  | .rotc tile fu => Sys2Proof.Machine.execRotc tile fu s
  | .trans tile fu => Sys2Proof.Machine.execTrans tile fu s
  | .bfly tile fu => Sys2Proof.Machine.execBfly tile fu s
  | .add tile fu => Sys2Proof.Machine.execAdd tile fu s
  | .sub tile fu => Sys2Proof.Machine.execSub tile fu s
  | .mul tile fu => Sys2Proof.Machine.execMul tile fu s
  | .fma tile fu => Sys2Proof.Machine.execFma tile fu s
  | .div tile fu => Sys2Proof.Machine.execDiv tile fu s
  | .sqrt tile fu => Sys2Proof.Machine.execSqrt tile fu s
  | .min tile fu => Sys2Proof.Machine.execMin tile fu s
  | .max tile fu => Sys2Proof.Machine.execMax tile fu s
  | .abs tile fu => Sys2Proof.Machine.execAbs tile fu s
  | .neg tile fu => Sys2Proof.Machine.execNeg tile fu s
  | .and tile fu => Sys2Proof.Machine.execAnd tile fu s
  | .or tile fu => Sys2Proof.Machine.execOr tile fu s
  | .xor tile fu => Sys2Proof.Machine.execXor tile fu s
  | .not tile fu => Sys2Proof.Machine.execNot tile fu s
  | .shl tile fu => Sys2Proof.Machine.execShl tile fu s
  | .shr tile fu => Sys2Proof.Machine.execShr tile fu s
  | .exp tile fu => Sys2Proof.Machine.execExp tile fu s
  | .log tile fu => Sys2Proof.Machine.execLog tile fu s
  | .rsqrt tile fu => Sys2Proof.Machine.execRsqrt tile fu s
  | .tanh tile fu => Sys2Proof.Machine.execTanh tile fu s
  | .erf tile fu => Sys2Proof.Machine.execErf tile fu s
  | .cmp tile fu => Sys2Proof.Machine.execCmp tile fu s
  | .sel tile fu => Sys2Proof.Machine.execSel tile fu s
  | .cvt tile fu => Sys2Proof.Machine.execCvt tile fu s
  | .mpop tile fu => Sys2Proof.Machine.execMpop tile fu s
  | .mand tile fu => Sys2Proof.Machine.execMand tile fu s
  | .mor tile fu => Sys2Proof.Machine.execMor tile fu s
  | .mxor tile fu => Sys2Proof.Machine.execMxor tile fu s
  | .mnot tile fu => Sys2Proof.Machine.execMnot tile fu s
  | .rsum tile fu => Sys2Proof.Machine.execRsum tile fu s
  | .rmax tile fu => Sys2Proof.Machine.execRmax tile fu s
  | .rmin tile fu => Sys2Proof.Machine.execRmin tile fu s
  | .gadd tile fu => Sys2Proof.Machine.execGadd tile fu s
  | .vmul tile fu => Sys2Proof.Machine.execVmul tile fu s
  | .vdiv tile fu => Sys2Proof.Machine.execVdiv tile fu s
  | .frd tile fu => Sys2Proof.Machine.execFrd tile fu s
  | .fprd tile fu => Sys2Proof.Machine.execFprd tile fu s
  | .fsum tile fu => Sys2Proof.Machine.execFsum tile fu s
  | .fclr tile fu => Sys2Proof.Machine.execFclr tile fu s
  | .pmac tile fu => Sys2Proof.Machine.execPmac tile fu s
  | .fillStart feeder tile tid errs => Sys2Proof.Machine.execFillStart feeder tile tid errs s
  | .fillComplete k => Sys2Proof.Machine.execFillComplete k s
  | .slotRelease tile tid slot => Sys2Proof.Machine.execSlotRelease tile tid slot s
  | .slipIn tile tid errs => Sys2Proof.Machine.execSlipIn tile tid errs s
  | .slipOut tile tid errs => Sys2Proof.Machine.execSlipOut tile tid errs s
  | .drainTake tile tid => Sys2Proof.Machine.execDrainTake tile tid s
  | .drainWrite tile tid errs => Sys2Proof.Machine.execDrainWrite tile tid errs s
  | .passBegin chase forme => Sys2Proof.Machine.execPassBegin chase forme s
  | .walkComplete req => Sys2Proof.Machine.execWalkComplete req s
  | .compositorRow die => Sys2Proof.Machine.execCompositorRow die s
  | .commit req => Sys2Proof.Machine.execCommit req s
  | .stepHold req => Sys2Proof.Machine.execStepHold req s
  | .granuleRead isH pa reader outs => Sys2Proof.Machine.execGranuleRead isH pa reader outs s
  | .granuleWrite isH pa chase data strobe spoiled outs => Sys2Proof.Machine.execGranuleWrite isH pa chase data strobe spoiled outs s
  | .retrainDone isH chan ok => Sys2Proof.Machine.execRetrainDone isH chan ok s
  | .softPpr isH row spare => Sys2Proof.Machine.execSoftPpr isH row spare s
  | .patrolRead isH outs => Sys2Proof.Machine.execPatrolRead isH outs s
  | .granuleJoin chase isH g => Sys2Proof.Machine.execGranuleJoin chase isH g s
  | .moveComplete chase objId => Sys2Proof.Machine.execMoveComplete chase objId s
  | .windowFill chase objId block => Sys2Proof.Machine.execWindowFill chase objId block s
  | .faultDetect f => Sys2Proof.Machine.execFaultDetect f s
  | .captureDone domain => Sys2Proof.Machine.execCaptureDone domain s
  | .pullDrainDone domain => Sys2Proof.Machine.execPullDrainDone domain s
  | .resetLineAssert domain => Sys2Proof.Machine.execResetLineAssert domain s
  | .domainResetComplete domain => Sys2Proof.Machine.execDomainResetComplete domain s
  | .firingWd tile fu => Sys2Proof.Machine.execFiringWd tile fu s
  | .progress req => Sys2Proof.Machine.execProgress req s
  | .commandWd kind n => Sys2Proof.Machine.execCommandWd kind n s
  | .packageReset code domain => Sys2Proof.Machine.execPackageReset code domain s
  | .wearSample phys delay => Sys2Proof.Machine.execWearSample phys delay s
  | .phaseRetire rail phase charge uneven => Sys2Proof.Machine.execPhaseRetire rail phase charge uneven s
  | .discoveryMsg port m => Sys2Proof.Machine.execDiscoveryMsg port m s
  | .linkFrame port frame side => Sys2Proof.Machine.execLinkFrame port frame side s
  | .frameNak port seq => Sys2Proof.Machine.execFrameNak port seq s
  | .laneSpareRetrain port lane ok => Sys2Proof.Machine.execLaneSpareRetrain port lane ok s
  | .linkRekey port => Sys2Proof.Machine.execLinkRekey port s
  | .rekeyMsg port nonce eph sig => Sys2Proof.Machine.execRekeyMsg port nonce eph sig s
  | .syncMsg port leader hops t1 t2 t3 => Sys2Proof.Machine.execSyncMsg port leader hops t1 t2 t3 s
  | .lossOfSignal port => Sys2Proof.Machine.execLossOfSignal port s
  | .joinMsg port m => Sys2Proof.Machine.execJoinMsg port m s
  | .joinTimeout jobId => Sys2Proof.Machine.execJoinTimeout jobId s
  | .fenceMsg port jobId step coord cause => Sys2Proof.Machine.execFenceMsg port jobId step coord cause s
  | .rejoinMsg port jobId step epoch => Sys2Proof.Machine.execRejoinMsg port jobId step epoch s
  | .rejoinAck port jobId device detail => Sys2Proof.Machine.execRejoinAck port jobId device detail s
  | .vinRise => Sys2Proof.Machine.execVinRise s
  | .vinUnder => Sys2Proof.Machine.execVinUnder s
  | .vinOver => Sys2Proof.Machine.execVinOver s
  | .epoN => Sys2Proof.Machine.execEpoN s
  | .thermTripN => Sys2Proof.Machine.execThermTripN s
  | .thermTripRelease hottest => Sys2Proof.Machine.execThermTripRelease hottest s
  | .resetN => Sys2Proof.Machine.execResetN s
  | .pwrAlertN => Sys2Proof.Machine.execPwrAlertN s
  | .alertRelease => Sys2Proof.Machine.execAlertRelease s
  | .refclkLoss clk => Sys2Proof.Machine.execRefclkLoss clk s
  | .refclkReturn clk => Sys2Proof.Machine.execRefclkReturn clk s
  | .tempSample sensors => Sys2Proof.Machine.execTempSample sensors s
  | .thermalFloorEnd => Sys2Proof.Machine.execThermalFloorEnd s
  | .curBinUpdate railsMv => Sys2Proof.Machine.execCurBinUpdate railsMv s
  | .tiFall => Sys2Proof.Machine.execTiFall s
  | .railsSettled railsMv => Sys2Proof.Machine.execRailsSettled railsMv s
  | .limiter p => Sys2Proof.Machine.execLimiter p s
  | .limiterHandback watts => Sys2Proof.Machine.execLimiterHandback watts s
  | .throttleStep watts => Sys2Proof.Machine.execThrottleStep watts s
  | .holdEnd watts => Sys2Proof.Machine.execHoldEnd watts s
  | .overdriveEval watts => Sys2Proof.Machine.execOverdriveEval watts s
  | .senseCheck pair remoteMv localMv => Sys2Proof.Machine.execSenseCheck pair remoteMv localMv s
  | .laneShort kind port lane => Sys2Proof.Machine.execLaneShort kind port lane s
  | .aonCheck romFail => Sys2Proof.Machine.execAonCheck romFail s
  | .bootStatus => Sys2Proof.Machine.execBootStatus s
  | .bootConfig c => Sys2Proof.Machine.execBootConfig c s
  | .fwChunk offset data => Sys2Proof.Machine.execFwChunk offset data s
  | .bootDatagram frame => Sys2Proof.Machine.execBootDatagram frame s
  | .fwDeliveryTimeout => Sys2Proof.Machine.execFwDeliveryTimeout s
  | .fwVerifyDone => Sys2Proof.Machine.execFwVerifyDone s
  | .bringUpDone r => Sys2Proof.Machine.execBringUpDone r s
  | .rollbackBlow => Sys2Proof.Machine.execRollbackBlow s
  | .claimWindow seconds => Sys2Proof.Machine.execClaimWindow seconds s
  | .claimWindowExpiry => Sys2Proof.Machine.execClaimWindowExpiry s
  | .getVersion => Sys2Proof.Machine.execGetVersion s
  | .getCapabilities => Sys2Proof.Machine.execGetCapabilities s
  | .negotiateAlgorithms => Sys2Proof.Machine.execNegotiateAlgorithms s
  | .getDigests => Sys2Proof.Machine.execGetDigests s
  | .getCertificate slot offset len => Sys2Proof.Machine.execGetCertificate slot offset len s
  | .challenge slot nonce => Sys2Proof.Machine.execChallenge slot nonce s
  | .getMeasurements index nonce => Sys2Proof.Machine.execGetMeasurements index nonce s
  | .unsupportedRequest code => Sys2Proof.Machine.execUnsupportedRequest code s
  | .scanDone chase => Sys2Proof.Machine.execScanDone chase s
  | .udsDestroyed => Sys2Proof.Machine.execUdsDestroyed s
  | .ownerFusesBlown => Sys2Proof.Machine.execOwnerFusesBlown s
  | .torusPortTrained port failed => Sys2Proof.Machine.execTorusPortTrained port failed s
  | .inputPowerLoss => Sys2Proof.Machine.execInputPowerLoss s
  | .epoNRelease => Sys2Proof.Machine.execEpoNRelease s
  | .inputOorChange vin => Sys2Proof.Machine.execInputOorChange vin s
  | .jtagInstruction code => Sys2Proof.Machine.execJtagInstruction code s

end Sys2Proof.Machine
end

