-- ==== Sys2Proof/Safety.lean ====
section
/-! DEFINITION. The terms that statements about the Z9 are made in: what every run keeps, when a host command passes
the checks that all commands share, and when an operation slot runs. -/

namespace Sys2Proof.Machine

/-! ### What a run keeps -/

/-- The stored bytes of both memory tiers stand in canonical form: addresses strictly rising, and no byte listed that
an unlisted address would read as. -/
def State.memOk (s : State) : Prop := Memory.wf s.memH.bytes = true ∧ Memory.wf s.memB.bytes = true

/-- Fuses only blow (R412, R415, R416, R420 to R422, R541): the lifecycle and the rollback floor never go back, a
destroyed UDS never returns, an owner-key slot once in use stays in use, a revoked key stays revoked, and what was
fused at test never changes. -/
structure FusesKept (a b : Fuses) : Prop where
  lifecycle : a.lifecycle ≤ b.lifecycle
  rollback : a.rollback ≤ b.rollback
  uds : b.udsIntact = true → a.udsIntact = true
  slots : ∀ (i : Nat) (x : OwnerSlot), a.slots[i]? = some x → x.inUse = true →
    ∃ y : OwnerSlot, b.slots[i]? = some y ∧ y.inUse = true
  fwRevoked : ∀ k ∈ a.fwRevoked, k ∈ b.fwRevoked
  vndRevoked : ∀ k ∈ a.vndRevoked, k ∈ b.vndRevoked
  tau : a.tau = b.tau
  identity : a.serial = b.serial ∧ a.vendorNum = b.vendorNum ∧ a.stepping = b.stepping
  thermal : a.rth = b.rth ∧ a.tauTh = b.tauTh

/-- The fuses that only the rows CLAIM, OWNER_FUSES_BLOWN, UDS_DESTROYED and ROLLBACK_BLOW touch. -/
def Fuses.fixed (f : Fuses) :
    (Nat × Nat × Bool) × (List Nat × List Nat) × List Nat × (Nat × Nat × Nat) × Nat × Nat × List Bool :=
  ((f.lifecycle, f.rollback, f.udsIntact), (f.fwRevoked, f.vndRevoked), f.tau, (f.serial, f.vendorNum, f.stepping),
    f.rth, f.tauTh, f.slots.map OwnerSlot.inUse)

/-! ### Host commands -/

/-- The host command `h` of opcode `op` passes the checks that every command passes before its own (R47, R366, R371,
R373, R393, R413, R438): it is its turn, which leaves `s₁` with its descriptor taken; its session `se` is entitled to
it; it is no retransmission; no fence and no release of its chase answers it; the device serves it; its body has the right form; and
the session's limit of live commands leaves room. -/
structure Taken (s : State) (h : CmdHdr) (op : Nat) (roles : List Role) (oosOk : Bool) (s₁ : State) (se : Session) :
    Prop where
  turn : takeDesc s h op = some s₁
  session : kget s₁.sessions h.session = some se
  notLive : liveOf s₁ h.session h.reqId = none
  noFinal : keptFinal s₁ h.session op h.reqId = none
  entitled : entitled se ⟨op, roles, oosOk, 0⟩ = true
  noFence : fenceAnswers s₁ se op = false
  served : s₁.boot.state = 5 → oosOk = true
  form : h.form = .ok
  room : isRequestOp op = true ∨ (s₁.live.countP fun l => l.session == h.session && !l.isRequest) < 1024

/-- The header of a host command and what the checks of R373 take from its row: its opcode, the roles that may send it,
whether the device serves it OUT_OF_SERVICE (R383), and the length of the body of zeros that answers a violation. The
rows of RESET_REQ, RESET_READMIT and HEALTH_EVENTS_CLEAR are WRITE_REG at their own addresses; an event has none. -/
def gatedBy : Instr → Option (CmdHdr × CmdSpec)
  | .prove h _ => some (h, ⟨0x0002, allRoles, true, 0⟩)
  | .close h => some (h, ⟨0x0003, allRoles, true, 0⟩)
  | .ping h data => some (h, ⟨0x0004, allRoles, true, data.length⟩)
  | .sessionInfo h => some (h, ⟨0x0005, allRoles, true, 16⟩)
  | .claim h _ _ => some (h, ⟨0x0010, [.own], false, 0⟩)
  | .policySet h _ => some (h, ⟨0x0011, [.own], false, 0⟩)
  | .policyGet h ids => some (h, ⟨0x0012, [.own], true, 16 * ids.length⟩)
  | .credSet h _ _ _ _ _ => some (h, ⟨0x0013, [.own, .ten], false, 0⟩)
  | .readmit h => some (h, ⟨0x0014, [.own], true, 0⟩)
  | .decommission h _ => some (h, ⟨0x0015, [.own], false, 0⟩)
  | .relaySet h _ => some (h, ⟨0x0016, [.own], false, 0⟩)
  | .intakeSet h _ => some (h, ⟨0x0017, [.ten], false, 0⟩)
  | .chaseCreate h _ => some (h, ⟨0x0020, [.own], false, 0⟩)
  | .chaseChange h _ => some (h, ⟨0x0021, [.own], false, 0⟩)
  | .chaseRelease h _ => some (h, ⟨0x0022, [.own], false, 0⟩)
  | .chaseInfo h _ => some (h, ⟨0x0023, [.own, .ten], false, 116⟩)
  | .chaseClaim h _ => some (h, ⟨0x0024, [.ten], false, 0⟩)
  | .formeLoad h _ _ _ => some (h, ⟨0x0030, [.ten], false, 0⟩)
  | .formeStage h _ => some (h, ⟨0x0031, [.ten], false, 0⟩)
  | .formeFree h _ => some (h, ⟨0x0032, [.ten], false, 0⟩)
  | .impose h _ => some (h, ⟨0x0033, [.ten], false, 0⟩)
  | .change h _ _ => some (h, ⟨0x0034, [.ten], false, 0⟩)
  | .serveSet h _ _ => some (h, ⟨0x0035, [.ten], false, 0⟩)
  | .scanOut h _ => some (h, ⟨0x0036, [.ten], false, 8⟩)
  | .scanIn h _ => some (h, ⟨0x0037, [.ten], false, 0⟩)
  | .formeList h => some (h, ⟨0x0038, [.ten], false, 8⟩)
  | .signkeySet h _ _ _ => some (h, ⟨0x0039, [.ten], false, 0⟩)
  | .formeKeyGet h => some (h, ⟨0x003A, [.ten], false, 200⟩)
  | .objCreate h _ _ _ _ _ => some (h, ⟨0x0040, [.ten], false, 0⟩)
  | .put h _ _ _ => some (h, ⟨0x0041, [.ten], false, 0⟩)
  | .seal h _ => some (h, ⟨0x0042, [.ten], false, 0⟩)
  | .get h _ _ len => some (h, ⟨0x0043, [.ten], false, len⟩)
  | .move h _ _ _ => some (h, ⟨0x0044, [.ten], false, 0⟩)
  | .objFree h _ => some (h, ⟨0x0045, [.ten], false, 0⟩)
  | .windowSet h _ _ _ => some (h, ⟨0x0046, [.ten], false, 0⟩)
  | .objInfo h _ => some (h, ⟨0x0047, [.ten], false, 24⟩)
  | .score h _ _ label _ => some (h, ⟨0x0050, [.ten], false, label.length⟩)
  | .generate h p => some (h, ⟨0x0051, [.ten], false, p.label.length + 8⟩)
  | .fileSubmit h _ _ _ _ label _ => some (h, ⟨0x0052, [.ten], false, label.length⟩)
  | .cancel h _ => some (h, ⟨0x0053, [.ten], false, 0⟩)
  | .resend h _ _ => some (h, ⟨0x0054, [.ten], false, 0⟩)
  | .jobOpen h _ => some (h, ⟨0x0060, [.own], false, 0⟩)
  | .jobStep h _ _ _ _ label _ => some (h, ⟨0x0061, [.ten], false, label.length⟩)
  | .jobRejoin h _ _ => some (h, ⟨0x0062, [.own, .ten], false, 0⟩)
  | .jobClose h _ => some (h, ⟨0x0063, [.own], false, 0⟩)
  | .readReg h _ count => some (h, ⟨0x0070, allRoles, true, 4 * count⟩)
  | .writeReg h _ _ => some (h, writeSpec)
  | .resetReq h addr _ => if addr = 0x00090000 then some (h, writeSpec) else none
  | .resetReadmit h addr _ => if addr = 0x00090004 then some (h, writeSpec) else none
  | .healthEventsClear h addr _ => if addr = 0x00040000 ∨ addr = 0x00040004 then some (h, writeSpec) else none
  | .colophon h _ => some (h, ⟨0x0080, [.own, .ten, .mgt, .vnd], true, 4944⟩)
  | .powerCap h _ _ _ => some (h, ⟨0x0090, [.own, .mgt], true, 0⟩)
  | .pullRead h mode _ _ len _ => some (h, ⟨0x00A0, [.own, .ten], true, match mode with | 0 => 8 | 1 => len | _ => 0⟩)
  | _ => none

/-- The LABEL that a final reply of a command echoes, with the empty token list of GENERATE (R388, R389); nothing for the
commands that carry none. -/
def labelOf : Instr → Bytes
  | .score _ _ _ label _ => label
  | .generate _ p => p.label ++ tokenBody 1 []
  | .fileSubmit _ _ _ _ _ label _ => label
  | .jobStep _ _ _ _ _ label _ => label
  | _ => []

/-- The OFFSET of the chunk that a command is (R371, R389); 0 for the commands that come in one piece. -/
def offsetOf : Instr → Nat
  | .formeLoad _ _ off _ => off
  | .fileSubmit _ _ _ _ off _ _ => off
  | _ => 0

/-- What follows when the common checks refuse a command with a reply: it is sent with the command's label; a chunk of a
command that is live goes on its own, and one that ends its command ends it for its other chunks (R371, R389). -/
def refusal (s : State) (se : Session) (i : Instr) (h : CmdHdr) (op : Nat) (r : Reply) : State :=
  if isChunked op then refuseChunk s se h op (offsetOf i) (r.labelled (labelOf i)) else emitReply s (r.labelled (labelOf i))

/-! ### Operation slots -/

/-- The firing in progress of a unit is live and stands at a slot with opcode `opc` (R108, R154, R159); `k` is what
the slot runs with. -/
def AtSlot (s : State) (t fu opc : Nat) (k : SlotCtx) : Prop := slotAt s t fu opc = some k ∧ k.f.live = true

/-- The commands that run an operation slot, each with the opcode of the slots that it runs (R119). -/
def slotOps : List ((Nat → Nat → Instr) × Nat) :=
  [(.mov, 0x01), (.ld, 0x02), (.st, 0x03), (.bcr, 0x06), (.bcc, 0x07), (.bcs, 0x08), (.extr, 0x09), (.ins, 0x0A),
   (.rotr, 0x10), (.rotc, 0x11), (.trans, 0x12), (.bfly, 0x13), (.add, 0x20), (.sub, 0x21), (.mul, 0x22),
   (.fma, 0x23), (.div, 0x25), (.sqrt, 0x26), (.min, 0x27), (.max, 0x28), (.abs, 0x29), (.neg, 0x2A), (.and, 0x2B),
   (.or, 0x2C), (.xor, 0x2D), (.not, 0x2E), (.shl, 0x2F), (.shr, 0x30), (.exp, 0x31), (.log, 0x32), (.rsqrt, 0x33),
   (.tanh, 0x34), (.erf, 0x35), (.cmp, 0x38), (.sel, 0x39), (.cvt, 0x3A), (.mpop, 0x3B), (.mand, 0x3C), (.mor, 0x3D),
   (.mxor, 0x3E), (.mnot, 0x3F), (.pmac, 0x40), (.rsum, 0x48), (.rmax, 0x49), (.rmin, 0x4A), (.gadd, 0x4B),
   (.vmul, 0x50), (.vdiv, 0x51), (.frd, 0x58), (.fprd, 0x59), (.fsum, 0x5A), (.fclr, 0x5B)]

end Sys2Proof.Machine
end

