-- ==== Sys2Proof/Certificates/Slice0/Obligations.lean ====
section
/-! DEFINITION. The statements about the Z9: one step and the queue, what every step keeps, the checks of host commands,
the rules of arithmetic, tokens, memory, the torus and power, and for every command the state that it completes in. A
completion's conclusion gives the next state itself, so what it does not name is unchanged; where the conclusion names
an operation of the model, that operation is the one that the rule's own description was written as. -/

open Sys2Proof Sys2Proof.Machine

/-- A step takes the command at the front of the queue and runs it on the state with the queue's rest. -/
def Obligations.StepRunsFrontCommand : Prop :=
  ∀ (s : State) (c : Instr) (rest : List Instr), s.pending = c :: rest → step s = exec c { s with pending := rest }

/-- With no command waiting a nanosecond of the timebase passes: the model's own choice (log 2), after R15 and R553. The
tick waits for nothing in the queue and leaves the fuses as they are. -/
def Obligations.EmptyQueueTicks : Prop :=
  ∀ s : State, s.pending = [] → step s = .next (tick s) ∧ (tick s).pending = [] ∧ (tick s).fuses.fixed = s.fuses.fixed

/-- No word spells a command: the rows of the table give no bits. -/
def Obligations.NoWordSpellsACommand : Prop :=
  ∀ (s : State) (nbits w : Nat), decodeTableWord nbits w = none ∧ s.withFetchWord nbits w = s

/-- After reset the block stands in AON with nothing waiting, nothing served and nothing held (R533, R366, R393, R249,
R554): no session, chase, object, request, job or reply, and both memories list nothing. Its core rails have no set
voltage, its links are down, and the memory, the canonical form and the fuses' own order hold. -/
def Obligations.ResetState : Prop :=
  State.reset.boot.state = 0 ∧ State.reset.pending = [] ∧ State.reset.sessions = [] ∧ State.reset.chases = [] ∧
  State.reset.objs = [] ∧ State.reset.reqs = [] ∧ State.reset.jobs = [] ∧ State.reset.out = [] ∧ State.reset.live = [] ∧
  State.reset.memH.bytes = [] ∧ State.reset.memB.bytes = [] ∧ State.reset.power.setMv = 0 ∧
  (∀ p ∈ State.reset.ports, p.linkUp = false) ∧ (∀ p ∈ State.reset.torus, p.state = 0) ∧ State.reset.memOk ∧
  FusesKept State.reset.fuses State.reset.fuses

/-- The queue is first in, first out: whatever a command does, the step leaves the rest of the queue as it was. -/
def Obligations.StepKeepsQueue : Prop :=
  ∀ s t : State, step s = .next t → t.pending = s.pending.tail

/-- Fuses only blow (R415, R412, R416, R420, R421, R541): over every step, from every state, the lifecycle and the
rollback floor never go back, a destroyed UDS never returns, an owner-key slot in use stays in use, a revoked key
stays revoked, and what was fused at test never changes. -/
def Obligations.StepKeepsFuses : Prop :=
  ∀ s t : State, step s = .next t → FusesKept s.fuses t.fuses

/-- Both memories keep their canonical form over every step, so that equal memories are equal data. -/
def Obligations.StepKeepsMemory : Prop :=
  ∀ s t : State, s.memOk → step s = .next t → t.memOk

/-- A step never stops: every command has an outcome in every state (a disabled event changes nothing, log 1). -/
def Obligations.StepAlwaysGoesOn : Prop :=
  ∀ s : State, ∃ t, step s = .next t

/-- The checks that every host command passes before its own (R373, R371, R366, R383, R413, R438, R47): out of its turn
it waits; without a session it is dropped; a repeated id is answered again or refused; a role that its row excludes
gets DONE with zeros and one more violation; the tenant of a chase being released or fenced gets DOMAIN_RESET for what
needs the fabric; a device out of service serves what R383 excepts; a malformed body and a full session are refused. -/
def Obligations.GateAnswers : Prop :=
  ∀ (s : State) (i : Instr) (h : CmdHdr) (sp : CmdSpec), gatedBy i = some (h, sp) →
    (takeDesc s h sp.opcode = none → exec i s = .next s) ∧
    ∀ s₁ : State, takeDesc s h sp.opcode = some s₁ →
      (kget s₁.sessions h.session = none → exec i s = .next s₁) ∧
      ∀ se : Session, kget s₁.sessions h.session = some se →
        (∀ l, liveOf s₁ h.session h.reqId = some l →
          (l.opcode = sp.opcode → isChunked sp.opcode = false → exec i s = .next (resendReply s₁ l.latest)) ∧
          (l.opcode ≠ sp.opcode → exec i s = .next (conflictReply s₁ se
            (mkReply h.ep h.session sp.opcode h.reqId St.malformed 0x0A0A [])))) ∧
        (liveOf s₁ h.session h.reqId = none →
          (∀ f, keptFinal s₁ h.session sp.opcode h.reqId = some f → isChunked sp.opcode = false →
            exec i s = .next (resendReply s₁ (some f.reply))) ∧
          (keptFinal s₁ h.session sp.opcode h.reqId = none →
            let answer := fun (t : State) (st detail : Nat) (body : Bytes) => exec i s = .next (refusal t se i h sp.opcode
              { mkReply h.ep h.session sp.opcode h.reqId st detail body with dscp := h.dscp })
            (entitled se sp = false → answer (violation s₁) St.done 0 (zeros sp.zeroLen)) ∧
            (entitled se sp = true →
              let fenced := fenceAnswers s₁ se sp.opcode = true
              (fenced → answer s₁ St.domainReset 0 []) ∧
              (¬fenced → s₁.boot.state = 5 → sp.oosOk = false → answer s₁ St.outOfService 0 []) ∧
              (¬fenced → (s₁.boot.state = 5 → sp.oosOk = true) →
                (h.form = .badLength → answer s₁ St.malformed 0x0A02 []) ∧
                (h.form = .reservedSet → answer s₁ St.malformed 0x0A03 []) ∧
                (h.form = .ok → isRequestOp sp.opcode = false →
                  1024 ≤ (s₁.live.countP fun l => l.session == h.session && !l.isRequest) →
                  ∃ retry : Nat, exec i s = .next (refusal { s₁ with draws := s₁.draws + 1 } se i h sp.opcode
                    { mkReply h.ep h.session sp.opcode h.reqId St.busy 0x0A0D [] with
                      retryAfter := retry, dscp := h.dscp }))))))

/-- A command that its session is not entitled to changes nothing but the count of violations and what carries its reply
(R22, R373, R413, R438): no policy, credential, chase, object, request, job, image, tile, memory, register of power
or state of start-up. -/
def Obligations.ViolationHasNoEffect : Prop :=
  ∀ (s s₁ : State) (i : Instr) (h : CmdHdr) (sp : CmdSpec) (se : Session), gatedBy i = some (h, sp) →
    takeDesc s h sp.opcode = some s₁ → kget s₁.sessions h.session = some se →
    liveOf s₁ h.session h.reqId = none → keptFinal s₁ h.session sp.opcode h.reqId = none → entitled se sp = false →
    ∃ t : State, exec i s = .next t ∧ t.health = { s.health with viol := sat32 s.health.viol 1 } ∧
      t.policies = s.policies ∧ t.policyDue = s.policyDue ∧ t.creds = s.creds ∧ t.chases = s.chases ∧ t.objs = s.objs ∧
      t.reqs = s.reqs ∧ t.jobs = s.jobs ∧ t.stages = s.stages ∧ t.tiles = s.tiles ∧ t.memH = s.memH ∧ t.memB = s.memB ∧
      t.power = s.power ∧ t.thermal = s.thermal ∧ t.boot = s.boot ∧ t.fuses = s.fuses ∧ t.faults = s.faults ∧
      t.intake = s.intake ∧ t.torus = s.torus ∧ t.spares = s.spares ∧ t.relaySet = s.relaySet ∧ t.draws = s.draws

/-- Descriptors are taken round-robin over the six doorbell queues, one each turn, skipping empty ones, and within a
queue in the order written (R47): a command whose descriptor waits goes on only when it heads the first queue with
anything in it, from the queue after the last one taken, and taking it removes that descriptor alone; a new one goes
behind the others. -/
def Obligations.DoorbellsRoundRobin : Prop :=
  ∀ (s t : State) (h : CmdHdr) (op : Nat), (∃ q ∈ s.doorbells, ∃ d ∈ q, d.isOf h op = true) →
    (takeDesc s h op = some t ↔ ∃ (i q : Nat) (d : Descriptor) (r : List Descriptor), i < 6 ∧ q = (s.doorPtr + i) % 6 ∧
      (∀ j, j < i → s.doorbells.getD ((s.doorPtr + j) % 6) [] = []) ∧ s.doorbells.getD q [] = d :: r ∧
      d.isOf h op = true ∧ t = { s with doorbells := lset s.doorbells q r, doorPtr := (q + 1) % 6 }) ∧
    (∀ (ep : Nat) (x : Reasm) (body : Bytes), (s.doorbells.getD ep []).length < 1024 →
      ∃ d : Descriptor, complete.push s ep x body = { s with doorbells := lmod s.doorbells ep fun q => q ++ [d] })

/-- The replay window of a session (R365) accepts a number above the highest accepted, or one within 1,024 below it that
has not been accepted; a number once taken is never accepted again, nor is any number that was already rejected. -/
def Obligations.ReplayWindow : Prop :=
  ∀ (se : Session) (q : Nat),
    (se.rxHigh < q → seqOk se q = true) ∧
    (se.rxHigh < q + 1024 → q ∉ se.rxSeen → seqOk se q = true) ∧
    (q + 1024 ≤ se.rxHigh → seqOk se q = false) ∧
    seqOk (seqTake se q) q = false ∧
    (∀ x, seqOk se x = false → seqOk (seqTake se q) x = false)

/-- The flow key does not depend on the direction of a packet (R379): the packet of the other direction has the same
key, and so the same bucket. -/
def Obligations.FlowKeyHasNoDirection : Prop :=
  ∀ (s : State) (c : Nat) (f g : IntakeFrame), g.srcAddr = f.dstAddr → g.srcPort = f.dstPort → g.dstAddr = f.srcAddr →
    g.dstPort = f.srcPort → g.vlan = f.vlan → g.vni = f.vni → g.v6 = f.v6 → g.proto = f.proto →
    flowKey g = flowKey f ∧ flowHash s c g = flowHash s c f

/-- A token's header says the token, and its check byte is the one that the ejection point asks for (R143, R146): every
field of a token whose fields fit their widths is read back from the header that was formed from it. -/
def Obligations.TokenHeaderRoundTrip : Prop :=
  ∀ k : Token, k.kind < 16 → k.tag < 65536 → k.imp < 16 → k.route < 256 → k.tile < 2048 → k.port < 64 → k.fmt < 16 →
    tokenOf (tokenHeader k) k.payload = k ∧ headerOk (tokenHeader k) = true

/-- A header with one flipped bit fails the check (R146). -/
def Obligations.TokenHeaderDetectsAFlip : Prop :=
  ∀ (h : DWord) (i : Nat), i < 64 → headerOk h = true → headerOk (h ^^^ BitVec.ofNat 64 (2 ^ i)) = false

/-- What integer operations of the vector engine deliver (R68, R69, R119): a result in range exactly and without
overflow, one out of range at the nearest end of the range with overflow raised; division by zero gives the end of
the range that the dividend points to with divide-by-zero raised, and 0 ÷ 0 gives 0 with invalid raised. -/
def Obligations.IntegersSaturate : Prop :=
  ∀ (fmt u a b : Nat) (rnd : Rnd) (lo hi : Int), intRange fmt = some (lo, hi) →
    let clamp : Int → Int := fun x => if x < lo then lo else if hi < x then hi else x
    let beyond : Int → Bool := fun x => decide (x < lo ∨ hi < x)
    let x := decodeInt fmt a
    let y := decodeInt fmt b
    (decodeInt fmt (elemAdd fmt rnd u a b).1 = clamp (x + y) ∧ (elemAdd fmt rnd u a b).2.bit 2 = beyond (x + y)) ∧
    (decodeInt fmt (elemSub fmt rnd u a b).1 = clamp (x - y) ∧ (elemSub fmt rnd u a b).2.bit 2 = beyond (x - y)) ∧
    (decodeInt fmt (elemMul fmt rnd u a b).1 = clamp (x * y) ∧ (elemMul fmt rnd u a b).2.bit 2 = beyond (x * y)) ∧
    (decodeInt fmt (elemNeg fmt a).1 = clamp (-x) ∧ (elemNeg fmt a).2.bit 2 = beyond (-x)) ∧
    (decodeInt fmt (elemAbs fmt a).1 = clamp x.natAbs ∧ (elemAbs fmt a).2.bit 2 = beyond x.natAbs) ∧
    (y = 0 → 0 < x → decodeInt fmt (elemDiv fmt rnd u a b).1 = hi ∧ (elemDiv fmt rnd u a b).2 = Fl.dz) ∧
    (y = 0 → x < 0 → decodeInt fmt (elemDiv fmt rnd u a b).1 = lo ∧ (elemDiv fmt rnd u a b).2 = Fl.dz) ∧
    (y = 0 → x = 0 → decodeInt fmt (elemDiv fmt rnd u a b).1 = 0 ∧ (elemDiv fmt rnd u a b).2 = Fl.nv) ∧
    (y ≠ 0 → lo ≤ decodeInt fmt (elemDiv fmt rnd u a b).1 ∧ decodeInt fmt (elemDiv fmt rnd u a b).1 ≤ hi)

/-- How the flags of one result combine (R93, R94, R119): NV stands alone, OF and UF come with NX, DZ stands alone, and
a NaN operand gives a NaN and raises none. -/
def Obligations.FlagsCombine : Prop :=
  ∀ (fmt u a b c : Nat) (rnd : Rnd),
    let ok : Flags → Prop := fun f => (f.bit 0 = true → f = Fl.nv) ∧ (f.bit 1 = true → f = Fl.dz) ∧
      (f.bit 2 = true → f.bit 4 = true) ∧ (f.bit 3 = true → f.bit 4 = true)
    (ok (elemAdd fmt rnd u a b).2 ∧ ok (elemSub fmt rnd u a b).2 ∧ ok (elemMul fmt rnd u a b).2 ∧
      ok (elemDiv fmt rnd u a b).2 ∧ ok (elemSqrt fmt rnd u a).2 ∧ ok (elemFma fmt rnd u a b c).2 ∧
      ok (elemNeg fmt a).2 ∧ ok (elemAbs fmt a).2) ∧
    (intRange fmt = none → decode fmt a = .nan →
      (∀ r ∈ [elemAdd fmt rnd u a b, elemAdd fmt rnd u b a, elemSub fmt rnd u a b, elemSub fmt rnd u b a,
        elemMul fmt rnd u a b, elemMul fmt rnd u b a, elemDiv fmt rnd u a b, elemDiv fmt rnd u b a, elemSqrt fmt rnd u a,
        elemFma fmt rnd u a b c, elemFma fmt rnd u b a c, elemFma fmt rnd u b c a, elemNeg fmt a, elemAbs fmt a,
        elemMinMax true fmt a b, elemMinMax false fmt b a], r = ((fltOf fmt).nanBits, Fl.none)))

/-- The coordinate index (R453), and what the shape of a torus makes of a port: on an axis of dimension 1 both ports
stay unused, and on an axis of dimension 2 both reach the same neighbour. -/
def Obligations.TorusCoordinates : Prop :=
  (∀ x y z : Nat, coordIndex x y z = x + 64 * y + 4096 * z) ∧
  (∀ (s : State) (cfg : BootConfig) (n : Nat), s.boot.cfg = some cfg → n < 6 → axisDim cfg.placement n = 1 →
    portUsable s n = false) ∧
  (∀ (p : Placement) (n : Nat), n < 6 → axisDim p n = 2 → p.x < p.nx → p.y < p.ny → p.z < p.nz →
    neighbour p n = neighbour p (facing n) ∧ n ≠ facing n)

/-- RESET_N in the stopped state (R570): it starts the device only with EPO_N and THERM_TRIP_N both high, and else the
device stays STOPPED, until a later pulse; with EPO_N low it has no effect; a low of either pin stops the device. -/
def Obligations.ResetLeavesStopped : Prop :=
  ∀ s : State, s.boot.underVolt = false →
    (s.boot.state = 7 → s.pins.epoN = true → s.pins.thermTripN = true → exec .resetN s = .next (startUp s) ∧
      (startUp s).boot.state = 0) ∧
    (s.boot.state = 7 → (s.pins.epoN = false ∨ s.pins.thermTripN = false) → exec .resetN s = .next s) ∧
    (s.pins.epoN = false → exec .resetN s = .next s) ∧
    (∃ t, exec .epoN s = .next t ∧ t.boot.state = 7 ∧ t.pins.epoN = false) ∧
    (∃ t, exec .thermTripN s = .next t ∧ t.boot.state = 7 ∧ t.pins.thermTripN = false)

/-- The stop leaves no key in any engine and no link up (R58, R424, R529): no session key, chase key, memory key slot,
link key or MACsec key; and a device that is already stopped is left as it is. -/
def Obligations.StopZeroises : Prop :=
  ∀ (s : State) (cause : Option Nat),
    (s.boot.state = 7 → stopDevice cause s = s) ∧
    (s.boot.state ≠ 7 →
      let t := stopDevice cause s
      t.boot.state = 7 ∧ t.boot.stopCause = cause.getD t.boot.stopCause ∧ t.boot.aliasKey = false ∧
      t.power.setMv = 0 ∧ (∀ e ∈ t.memH.slots, e.2.keys = none) ∧ (∀ e ∈ t.memB.slots, e.2.keys = none) ∧
      (∀ e ∈ t.sessions, e.2.keyHD = none ∧ e.2.keyDH = none) ∧
      (∀ e ∈ t.chases, e.2.crk = none ∧ e.2.pullKey = none ∧ e.2.seed = 0) ∧
      (∀ p ∈ t.ports, p.linkUp = false ∧ p.sak = none ∧ p.cak = none) ∧
      (∀ p ∈ t.torus, p.keyTx = none ∧ p.keyRx = none ∧ p.state = 0))

/-- The draft length after a round (R322, R325): one more after full acceptance, one more than the count accepted after
a partial one, half after full rejection, never above K_MAX; after PROBE_GAP plain passes it becomes 1. -/
def Obligations.DraftLength : Prop :=
  ∀ r : Req, r.drafting = true →
    (∀ a, r.accepted = a →
      (a = r.k → (nextK r true).k = Nat.min (r.k + 1) r.entry.kMax) ∧
      (0 < a → a < r.k → (nextK r true).k = Nat.min (a + 1) r.entry.kMax) ∧
      (a = 0 → r.k ≠ 0 → (nextK r true).k = Nat.min (r.k / 2) r.entry.kMax)) ∧
    (r.plain + 1 < r.entry.probeGap → (nextK r false).k = r.k ∧ (nextK r false).plain = r.plain + 1) ∧
    (r.entry.probeGap ≤ r.plain + 1 → (nextK r false).k = Nat.min 1 r.entry.kMax) ∧
    (startRound r).k ≤ r.k ∧ (startRound r).k ≤ r.params.maxTokens - r.tokens.length - 1

/-- A granule of either tier reads back as it was written (R239, R241, R252), and no other granule changes: a full write
gives its 64 bytes and its spoil bit to the granule of its address and to no other. The canonical form is the
invariant of `StepKeepsMemory`. -/
def Obligations.GranuleReadsBack : Prop :=
  ∀ (m : TierMem) (isH : Bool) (pa : Nat) (data : Bytes) (spoiled : Bool), Memory.wf m.bytes = true → data.length = 64 →
    pa % 64 = 0 → isLost m isH pa = false →
    granuleData (granulePut m isH pa data spoiled) isH pa = ⟨data, spoiled⟩ ∧
    (∀ a, a / 64 ≠ pa / 64 → granuleData (granulePut m isH pa data spoiled) isH a = granuleData m isH a) ∧
    Memory.wf (granulePut m isH pa data spoiled).bytes = true

/-- The frame of the slots that make no memory access and take no scalar (all of R119 but LD, ST, BCS, INS, PMAC and
GADD): they write case registers, masks, scalars, flags and accumulators of their own tile pair and the landing slots
and credits of the tokens whose last read is done (R169); they leave every other tile pair, every token in a queue and
every byte of their own tile pair's memory, and every other part of the state as they were, but for what waits for a
register (R104) in the chase's record of what waits and the credits due to other devices. -/
def Obligations.SlotFrame : Prop :=
  ∀ (p : (Nat → Nat → Instr) × Nat), p ∈ slotOps → p.2 ∉ [0x02, 0x03, 0x08, 0x0A, 0x40, 0x4B] →
    ∀ (s v : State) (t fu : Nat) (k : SlotCtx), AtSlot s t fu p.2 k → exec (p.1 t fu) s = .next v →
      v = { s with tiles := v.tiles, draws := v.draws, chases := v.chases, remoteDue := v.remoteDue } ∧
      (∀ t', t' ≠ t → tile v t' = tile s t') ∧
      (∀ c, chase v c = { chase s c with waiting := (chase v c).waiting }) ∧
      (tile v t).mt = (tile s t).mt ∧ (tile v t).mtSpoil = (tile s t).mtSpoil ∧
      (∀ p, (portQ (tile v t) p).toks = (portQ (tile s t) p).toks) ∧
      (tile v t).galleys = (tile s t).galleys ∧ (tile v t).active = (tile s t).active

/-- The frame of the power and temperature controls (R517, R520, R523, R524, R526, R530): they change the registers of
power and of temperature and the pins, and nothing else. -/
def Obligations.PowerFrame : Prop :=
  ∀ (s v : State) (i : Instr), ((∃ l, i = .tempSample l) ∨ i = .thermalFloorEnd ∨ (∃ n, i = .curBinUpdate n) ∨ i = .tiFall ∨
      (∃ n, i = .railsSettled n) ∨ (∃ n, i = .holdEnd n) ∨ (∃ n, i = .limiter n) ∨ (∃ n, i = .limiterHandback n) ∨ (∃ n, i = .throttleStep n) ∨
      (∃ n, i = .overdriveEval n) ∨ (∃ n a b, i = .senseCheck n a b) ∨ i = .pwrAlertN ∨
      i = .alertRelease ∨ (∃ n, i = .inputOorChange n)) → exec i s = .next v →
    v = { s with power := v.power, thermal := v.thermal, pins := v.pins }

/-- The frame of the attestation requests (R435, R536): they change the transcript and what the sideband delivers, and
advance the draws; nothing else. -/
def Obligations.AttestationFrame : Prop :=
  ∀ (s v : State) (i : Instr), (i = .getVersion ∨ i = .getCapabilities ∨ i = .negotiateAlgorithms ∨ i = .getDigests ∨
      (∃ a b c, i = .getCertificate a b c) ∨ (∃ a b, i = .challenge a b) ∨ (∃ a b, i = .getMeasurements a b) ∨
      (∃ a, i = .unsupportedRequest a) ∨ i = .bootStatus) → exec i s = .next v →
    v = { s with
      sbOut := v.sbOut
      draws := v.draws
      boot := { s.boot with spdm := v.boot.spdm } }

/-- CMP (R121): predicates 0 EQ, 1 NE, 2 LT, 3 LE, 4 GT, 5 GE and 6 UN; with a NaN operand only NE and UN are true; +0
and −0 compare equal. The slot writes bit j of the mask named in DST for each governed position j that is active,
keeps the bits of the others, and raises no flag: nothing but that mask changes. -/
def Obligations.CompareRule : Prop :=
  (∀ (fmt a b : Nat), (decode fmt a = .nan ∨ decode fmt b = .nan) → ∀ p, p ≤ 6 →
    elemCmp fmt p a b = decide (p = 1 ∨ p = 6)) ∧
  (∀ (fmt a b : Nat) (o : Ordering), (decode fmt a).compare (decode fmt b) = some o →
    elemCmp fmt 0 a b = (o == .eq) ∧ elemCmp fmt 1 a b = (o != .eq) ∧ elemCmp fmt 2 a b = (o == .lt) ∧
    elemCmp fmt 3 a b = (o == .lt || o == .eq) ∧ elemCmp fmt 4 a b = (o == .gt) ∧
    elemCmp fmt 5 a b = (o == .gt || o == .eq) ∧ elemCmp fmt 6 a b = false) ∧
  (∀ (fmt a b : Nat), (decode fmt a).isZero = true → (decode fmt b).isZero = true →
    (decode fmt a).compare (decode fmt b) = some .eq) ∧
  (∀ (s : State) (t fu : Nat) (k : SlotCtx), AtSlot s t fu 0x38 k → ∃ m : BitVec 1024, exec (.cmp t fu) s =
      .next (slotDone (modTile s k.t fun x => setMask x (k.v.dst % 8) m) k.c t fu k.u) ∧
    ∀ j, j < 1024 → (j < viewLen k.v.fmt → activeAt (tile s k.t) k.v k.v.fmt j = true →
        m.getLsbD j = elemCmp k.v.fmt (k.v.imm % 8) ((regElts (tile s k.t) k.v.fmt k.v.srca).getD j (0, false)).1
          ((regElts (tile s k.t) k.v.fmt k.v.srcb).getD j (0, false)).1) ∧
      (j < viewLen k.v.fmt → activeAt (tile s k.t) k.v k.v.fmt j = false →
        m.getLsbD j = (maskReg (tile s k.t) (k.v.dst % 8)).getLsbD j))

/-- An address of a tile pair's memory selects a bank, a row of the bank and a byte of the row (R132): the write that a
bank grants lands on the granule of its bank and row, at the bytes of its strobe, and on no other byte. The
canonical form of the tile pair's memory, which a fresh tile pair has, is kept. -/
def Obligations.BankWriteLands : Prop :=
  (∀ a : Nat, a < 524288 → a = a / 1024 % 512 * 1024 + a / 64 % 16 * 64 + a % 64) ∧
  (∀ (s : State) (t c a : Nat) (r : BankReq), chaseOfTile s t = some c → (chase s c).fenced = false → a < 524288 →
    (r.user ≠ .config ∨ (tile s t).preloading = true) → r.row = a / 1024 → r.write = true → Memory.wf (tile s t).mt = true →
    ∃ v, exec (.bankGrant t (a / 64 % 16) [r]) s = .next v ∧
      (∀ i, i < 64 → r.strobe.getD i false = true → memRead (tile v t).mt (a / 64 * 64 + i) = r.data.getD i 0) ∧
      (∀ i, i < 64 → r.strobe.getD i false = false →
        memRead (tile v t).mt (a / 64 * 64 + i) = memRead (tile s t).mt (a / 64 * 64 + i)) ∧
      (∀ b, b / 64 ≠ a / 64 → memRead (tile v t).mt b = memRead (tile s t).mt b) ∧
      (∀ t', t' ≠ t → tile v t' = tile s t') ∧ v = { s with tiles := v.tiles, chases := v.chases } ∧
      (∀ c, chase v c = { chase s c with waiting := (chase v c).waiting }) ∧ Memory.wf (tile v t).mt = true)

/-- Completion of the session commands (R366, R367, R384): HELLO answers in the clear and begins a pending session with
the keys of R367; PROVE with the credential's signature over the transcript makes it open; CLOSE replies and ends it;
PING answers its own data; SESSION_INFO answers the session's facts. -/
def Obligations.SessionCommandsComplete : Prop :=
  (∀ (s s₁ : State) (h : CmdHdr) (role chase credId : Nat) (nonce eph : Bytes) (r : Role),
    takeDesc s h 0x0001 = some s₁ → (s₁.boot.state = 4 ∨ s₁.boot.state = 5) → h.form = .ok → Role.ofCode role = some r →
    (r = .ten ∨ chase = 255) → p384Valid eph = true → (s₁.sessions.countP fun e => e.2.isOpen) < 4096 →
    (s₁.sessions.countP fun e => !e.2.isOpen) < 256 →
    ∃ (id : Nat) (nonceD ephPriv : Bytes),
      let se := newSession h id r role chase credId nonce eph nonceD ephPriv s₁.now
      let t := { s₁ with draws := s₁.draws + 3, sessions := kset s₁.sessions id se }
      exec (.hello h role chase credId nonce eph) s = .next (clearReply t h id St.done 0 (nonceD ++ pubOf ephPriv ++
        zeros 1 ++ le 2 (aliasCert t).length ++ zeros 4 ++ aliasSign t se.th ++ aliasCert t)) ∧
      se.isOpen = false ∧ se.role = r ∧ se.chase = chase ∧ se.credId = credId ∧ se.provisional = (credId == 0) ∧
      se.rxHigh = 0 ∧ se.txSeq = 1) ∧
  (∀ (s s₁ : State) (h : CmdHdr) (sig : Bytes) (se : Session), Taken s h 0x0002 allRoles true s₁ se →
    roleAdmitted s₁ se.role se.credId = true →
    (se.credId = 0 ∨ ∃ pub, credKey s₁ se.role se.chase se.credId = some pub ∧
      ecdsaOk pub (sha384 (ascii "Z9 askest prove" ++ se.th)) sig = true) →
    (s₁.sessions.countP fun e => e.2.isOpen) < 4096 →
    exec (.prove h sig) s = .next (done { s₁ with sessions := kmod s₁.sessions h.session fun x =>
      { x with isOpen := true, keptSig := if x.credId = 0 then some sig else none, lastNs := s₁.now } } h 0x0002 [])) ∧
  (∀ (s s₁ : State) (h : CmdHdr) (se : Session), Taken s h 0x0003 allRoles true s₁ se →
    exec (.close h) s = .next (closeSession (done s₁ h 0x0003 []) h.session)) ∧
  (∀ (s s₁ : State) (h : CmdHdr) (data : Bytes) (se : Session), Taken s h 0x0004 allRoles true s₁ se →
    data.length ≤ 64 → exec (.ping h data) s = .next (done s₁ h 0x0004 data)) ∧
  (∀ (s s₁ : State) (h : CmdHdr) (se : Session), Taken s h 0x0005 allRoles true s₁ se →
    exec (.sessionInfo h) s = .next (done s₁ h 0x0005 (le 1 se.role.code ++ le 1 se.chase ++ zeros 2 ++
      le 4 (maxPayload s₁) ++ le 4 (policy s₁ 0x0106) ++
      le 4 ((s₁.live.countP fun l => l.session == h.session) + 1))))

/-- Completion of the owner's commands (R384, R376, R545, R547): CLAIM, POLICY_SET, POLICY_GET, READMIT, DECOMMISSION
and RELAY_SET. -/
def Obligations.OwnerCommandsComplete : Prop :=
  (∀ (s s₁ : State) (h : CmdHdr) (pub label : Bytes) (se : Session), Taken s h 0x0010 [.own] false s₁ se →
    se.provisional = true → claimCheck s₁ se pub = none → ∃ t, exec (.claim h pub label) s = .next t ∧
      t.boot.claim = some (h.session, h.reqId, pub) ∧
      t.fuses.slots = lmod s₁.fuses.slots ((slotFor s₁ pub).getD 0) (fun x => { x with inUse := true }) ∧
      t.live = (enlist s₁ h 0x0010 255 false).live) ∧
  (∀ (s s₁ : State) (h : CmdHdr) (entries : List (Nat × Nat)) (se : Session), Taken s h 0x0011 [.own] false s₁ se →
    (∀ e ∈ entries, policyOk e.1 e.2 = true) → exec (.policySet h entries) s =
      .next (done (entries.foldl (fun s e => applyPolicy s e.1 e.2) s₁) h 0x0011 [])) ∧
  (∀ (s s₁ : State) (h : CmdHdr) (ids : List Nat) (se : Session), Taken s h 0x0012 [.own] true s₁ se →
    (∀ id ∈ ids, (policyDefault id).isSome = true) → exec (.policyGet h ids) s =
      .next (done s₁ h 0x0012 (ids.flatMap fun id =>
        le 2 id ++ zeros 6 ++ le 8 (if 0x010B ≤ id ∧ id ≤ 0x010E then 0 else policySaid s₁ id)))) ∧
  (∀ (s s₁ : State) (h : CmdHdr) (se : Session), Taken s h 0x0014 [.own] true s₁ se → s₁.boot.state = 5 →
    exec (.readmit h) s = .next (done (modBoot s₁ fun b => { b with state := 4, pkgResets := [] }) h 0x0014 [])) ∧
  (∀ (s s₁ : State) (h : CmdHdr) (se : Session), Taken s h 0x0015 [.own] false s₁ se →
    ∃ t, exec (.decommission h 0x4445434F4D4D4953) s = .next t ∧ t.boot.decom = some (h.session, h.reqId) ∧
      t.boot.aliasKey = false) ∧
  (∀ (s s₁ : State) (h : CmdHdr) (entries : List RelayEntry) (se : Session) (b : BootConfig),
    Taken s h 0x0016 [.own] false s₁ se → entries.length ≤ 512 → s₁.boot.cfg = some b →
    (∀ e ∈ entries, e.x < b.placement.nx ∧ e.y < b.placement.ny ∧ e.z < b.placement.nz ∧
      ¬(e.x = b.placement.x ∧ e.y = b.placement.y ∧ e.z = b.placement.z)) →
    exec (.relaySet h entries) s = .next (done { s₁ with relaySet := entries } h 0x0016 []))

/-- Completion of the credential commands (R384, R386, R387, R414): CRED_SET replaces, adds or removes a credential, a
removal closing the sessions opened under it; CHASE_CLAIM gives the chase to the key that the session proved;
SIGNKEY_SET adds and removes a signing key of the chase; FORME_KEY_GET answers the chase's forme key, signed. -/
def Obligations.CredentialCommandsComplete : Prop :=
  (∀ (s s₁ : State) (h : CmdHdr) (role chase credId : Nat) (pub : Bytes) (se : Session) (r : Role) (c : Nat),
    Taken s h 0x0013 [.own, .ten] false s₁ se → credId ≠ 0 →
    (se.role = .own ∧ role = 4 ∧ r = .obs ∧ c = 255 ∨ se.role = .ten ∧ role = 2 ∧ chase = se.chase ∧ r = .ten ∧ c = chase) →
    let isIt := fun e : Cred => e.role == r && e.chase == c && e.credId == credId
    (s₁.creds.any isIt = true → exec (.credSet h 0 role chase credId pub) s =
      .next (done { s₁ with creds := s₁.creds.map fun e => if isIt e then { e with pub := pub } else e } h 0x0013 [])) ∧
    (s₁.creds.any isIt = false → (s₁.creds.countP fun e => e.role == r && e.chase == c) < 64 →
      exec (.credSet h 0 role chase credId pub) s =
        .next (done { s₁ with creds := s₁.creds ++ [⟨r, c, credId, pub⟩] } h 0x0013 [])) ∧
    (s₁.creds.any isIt = true → exec (.credSet h 1 role chase credId pub) s =
      .next (closeWhere (done { s₁ with creds := s₁.creds.filter fun e => !isIt e } h 0x0013 [])
        fun x => x.role == r && x.chase == c && x.credId == credId && !x.provisional))) ∧
  (∀ (s s₁ : State) (h : CmdHdr) (pub : Bytes) (se : Session), Taken s h 0x0024 [.ten] false s₁ se →
    se.provisional = true → (chase s₁ se.chase).state = .unclaimed → keptSigOk se pub = true →
    exec (.chaseClaim h pub) s = .next (done { modChase s₁ se.chase (fun ch =>
        { ch with state := .claimed, claimPub := some pub, pullKey := some (pullKeyOf ch se.chase pub) }) with
      creds := s₁.creds ++ [⟨.ten, se.chase, 1, pub⟩]
      sessions := kmod s₁.sessions h.session fun x => { x with provisional := false, credId := 1, keptSig := none } }
      h 0x0024 [])) ∧
  (∀ (s s₁ : State) (h : CmdHdr) (keyId : Nat) (pub : Bytes) (se : Session), Taken s h 0x0039 [.ten] false s₁ se →
    ((kget (chase s₁ se.chase).signKeys keyId).isSome = true ∨ (chase s₁ se.chase).signKeys.length < 16 →
      exec (.signkeySet h 0 keyId pub) s = .next (done (modChase s₁ se.chase fun ch =>
        { ch with signKeys := kset (chase s₁ se.chase).signKeys keyId pub }) h 0x0039 [])) ∧
    ((kget (chase s₁ se.chase).signKeys keyId).isSome = true →
      exec (.signkeySet h 1 keyId pub) s = .next (done (modChase s₁ se.chase fun ch =>
        { ch with signKeys := kdel (chase s₁ se.chase).signKeys keyId }) h 0x0039 []))) ∧
  (∀ (s s₁ : State) (h : CmdHdr) (se : Session), Taken s h 0x003A [.ten] false s₁ se →
    exec (.formeKeyGet h) s = .next (done s₁ h 0x003A (padTo 97 (formePub (chase s₁ se.chase)) ++ zeros 7 ++
      padTo 96 (aliasSign s₁ (ascii "Z9 forme key" ++ le 1 se.chase ++ le 8 (chase s₁ se.chase).createCount ++
        formePub (chase s₁ se.chase))))))

/-- Completion of the chase commands (R386, R393, R394, R401): CHASE_CREATE makes a chase UNCLAIMED with the new
granules joining; CHASE_CHANGE changes PRIO_MAX and REQ_LIMIT at once and a new layout after its granules have
joined; CHASE_RELEASE begins the release; CHASE_INFO answers the chase's fields. -/
def Obligations.ChaseCommandsComplete : Prop :=
  (∀ (s s₁ : State) (h : CmdHdr) (f : ChaseFields) (se : Session) (new : List (Nat × Nat)),
    Taken s h 0x0020 [.own] false s₁ se → fieldsOk s₁ f = true → (chase s₁ f.chase).held = false →
    shareRefusal s₁ f.chase (chase s₁ f.chase) f = none → granNew s₁ (chase s₁ f.chase) f = some new →
    ∃ t, exec (.chaseCreate h f) s = .next t ∧ (chase t f.chase).state = .unclaimed ∧ (chase t f.chase).cfg = f ∧
      (chase t f.chase).createCount = (chase s₁ f.chase).createCount + 1 ∧ (chase t f.chase).creating = new ∧
      (chase t f.chase).crk.isSome = true) ∧
  (∀ (s s₁ : State) (h : CmdHdr) (f : ChaseFields) (se : Session) (new : List (Nat × Nat)),
    Taken s h 0x0021 [.own] false s₁ se → fieldsOk s₁ f = true → (chase s₁ f.chase).state ≠ .free →
    (chase s₁ f.chase).state ≠ .releasing → shareRefusal s₁ f.chase (chase s₁ f.chase) f = none →
    granNew s₁ (chase s₁ f.chase) f = some new →
    (altersLayout (chase s₁ f.chase).cfg f = false → exec (.chaseChange h f) s =
      .next (replyLive (accept (modChase (returnFabric s₁ f.chase) f.chase fun ch => { ch with cfg := f })
        h 0x0021 255 false []) h.session h.reqId St.done 0 [])) ∧
    (altersLayout (chase s₁ f.chase).cfg f = true → imposing (chase s₁ f.chase) = false →
      let t := accept (loadSlots (modChase (returnFabric s₁ f.chase) f.chase fun ch => { ch with
        newCfg := some (f, (h.session, h.reqId)), joining := new.map fun g => (g.1, g.2, false) }) f.chase new)
        h 0x0021 255 false []
      exec (.chaseChange h f) s = .next (if new.isEmpty then beginShareFence t f.chase else t))) ∧
  (∀ (s s₁ : State) (h : CmdHdr) (c : Nat) (se : Session), Taken s h 0x0022 [.own] false s₁ se → c ≤ 31 →
    (chase s₁ c).state ≠ .free → (chase s₁ c).state ≠ .releasing →
    exec (.chaseRelease h c) s =
      .next (beginRelease (accept s₁ h 0x0022 255 false []) c (some (h.session, h.reqId)))) ∧
  (∀ (s s₁ : State) (h : CmdHdr) (n c : Nat) (se : Session), Taken s h 0x0023 [.own, .ten] false s₁ se →
    c = (if se.role = .ten then se.chase else n) → (chase s₁ c).state ≠ .free →
    exec (.chaseInfo h n) s = .next (done s₁ h 0x0023 (chaseBytes (chase s₁ c).cfg ++
      le 1 (b2n (chase s₁ c).claimPub.isSome) ++ zeros 7 ++
      (match (chase s₁ c).claimPub with | some k => sha384 k | none => zeros 48))))

/-- Completion of the commands on formes (R196, R387, R223, R225, R292): FORME_LOAD and FORME_STAGE begin a load;
FORME_FREE removes an image and its serving entry; IMPOSE and CHANGE place their order on the chase; SERVE_SET sets
and clears a serving entry; SCAN_OUT and SCAN_IN place a scan; FORME_LIST lists the images. -/
def Obligations.FormeCommandsComplete : Prop :=
  (∀ (s s₁ : State) (h : CmdHdr) (total off : Nat) (data : Bytes) (se : Session), Taken s h 0x0030 [.ten] false s₁ se →
    (s₁.stages.find? fun x => x.isOf h.session h.reqId) = none → data ≠ [] → off + data.length ≤ total →
    storeUseAll s₁ se.chase + storeReserved s₁ se.chase + total ≤ storeGrant (chase s₁ se.chase).cfg →
    exec (.formeLoad h total off data) s = .next (markChunk (accept (putPart { s₁ with stages := s₁.stages ++
        [⟨h.session, h.reqId, 0x0030, se.chase, total, [], s₁.now, 0, false, none⟩] }
      ⟨h.session, h.reqId, 0x0030, se.chase, total, [], s₁.now, 0, false, none⟩ off data)
      h 0x0030 se.chase false []) h 0x0030 off)) ∧
  (∀ (s s₁ : State) (h : CmdHdr) (id : Nat) (se : Session) (o : Obj), Taken s h 0x0031 [.ten] false s₁ se →
    findObj s₁ se.chase id = some o → o.isMutable = false → o.state ≠ .isOpen → intakeHolds s₁ se.chase id = false →
    exec (.formeStage h id) s = .next (accept { s₁ with stages := s₁.stages ++
      [⟨h.session, h.reqId, 0x0031, se.chase, 0, [], s₁.now, id, true, none⟩] } h 0x0031 se.chase false [])) ∧
  (∀ (s s₁ : State) (h : CmdHdr) (id : Nat) (se : Session) (i : Image), Taken s h 0x0032 [.ten] false s₁ se →
    imageOf (chase s₁ se.chase) id = some i → freeRefused (chase s₁ se.chase) i = false →
    exec (.formeFree h id) s = .next (done (modChase s₁ se.chase fun ch => { ch with
      images := ch.images.filter fun x => x.formeId != id
      serving := ch.serving.filter fun e => e.formeId != id
      cleared := ch.cleared.filter (· != id) }) h 0x0032 [])) ∧
  (∀ (s s₁ : State) (h : CmdHdr) (ids : List Nat) (se : Session) (is : List Image),
    Taken s h 0x0033 [.ten] false s₁ se → 0 < ids.length → ids.length ≤ 8 →
    ids.map (imageOf (chase s₁ se.chase)) = is.map some → (∀ i ∈ is, i.state ≠ .checking) →
    disjointMaps (is.map fun i => i.body.pageMap) = true → imposing (chase s₁ se.chase) = false →
    (∀ i ∈ is, formeAllowed s₁ i.body = true) →
    (s₁.faults.oos.contains (4 * 4096 + se.chase) = false ∨ (idSet ids == idSet (chase s₁ se.chase).lastSet) = false) →
    exec (.impose h ids) s = .next (placeOrder (accept
      (if s₁.faults.oos.contains (4 * 4096 + se.chase) then returnFabric s₁ se.chase else s₁) h 0x0033 se.chase false [])
      se.chase (.impose ids (h.session, h.reqId)))) ∧
  (∀ (s s₁ : State) (h : CmdHdr) (oldId newId : Nat) (se : Session) (a b : Image),
    Taken s h 0x0034 [.ten] false s₁ se → imageOf (chase s₁ se.chase) oldId = some a →
    imageOf (chase s₁ se.chase) newId = some b → imposing (chase s₁ se.chase) = false → a.state = .inService →
    b.state = .resident → changeAllowed a.body b.body = true →
    exec (.change h oldId newId) s = .next (placeOrder (accept s₁ h 0x0034 se.chase false []) se.chase
      (.change oldId newId (h.session, h.reqId)))) ∧
  (∀ (s s₁ : State) (h : CmdHdr) (e : ServeFields) (se : Session), Taken s h 0x0035 [.ten] false s₁ se →
    (fieldWidths e = true → serveRefusal s₁ se.chase e = none → exec (.serveSet h 0 e) s = .next (done (modChase s₁ se.chase fun ch => { ch with
      serving := (ch.serving.filter fun x => x.formeId != e.formeId) ++ [e]
      cleared := ch.cleared.filter (· != e.formeId) }) h 0x0035 [])) ∧
    (((chase s₁ se.chase).serving.any fun x => x.formeId == e.formeId) = true → exec (.serveSet h 1 e) s =
      .next (done (freeCleared (modChase s₁ se.chase fun ch => { ch with
        serving := ch.serving.filter fun x => x.formeId != e.formeId
        cleared := ch.cleared ++ [e.formeId] }) se.chase) h 0x0035 []))) ∧
  (∀ (s s₁ : State) (h : CmdHdr) (tile : Nat) (se : Session), Taken s h 0x0036 [.ten] false s₁ se → tile < 2048 →
    chaseOfTile s₁ tile = some se.chase → exec (.scanOut h tile) s = .next (placeOrder (accept s₁ h 0x0036 se.chase false [])
      se.chase (.scan tile true [] (h.session, h.reqId)))) ∧
  (∀ (s s₁ : State) (h : CmdHdr) (record b : Bytes) (se : Session), Taken s h 0x0037 [.ten] false s₁ se →
    openPull (chase s₁ se.chase) record = some b → field record 0 4 = 0x5A39504C → field record 4 2 = 1 →
    field record 40 8 = b.length → field b 0 4 = 0x5A395343 → field b 4 2 = 1 → 251904 ≤ b.length →
    chaseOfTile s₁ (field b 16 2 % 2048) = some se.chase → exec (.scanIn h record) s =
      .next (placeOrder (accept s₁ h 0x0037 se.chase false []) se.chase
        (.scan (field b 16 2 % 2048) false b (h.session, h.reqId)))) ∧
  (∀ (s s₁ : State) (h : CmdHdr) (se : Session), Taken s h 0x0038 [.ten] false s₁ se →
    exec (.formeList h) s = .next (done s₁ h 0x0038 (le 4 (chase s₁ se.chase).images.length ++ zeros 4 ++
      (chase s₁ se.chase).images.flatMap Image.listed)))

/-- Completion of the commands on objects (R388, R253, R256, R258, R262, R244): OBJ_CREATE, SEAL, OBJ_FREE and OBJ_INFO
take effect at once; PUT, GET, MOVE and WINDOW_SET take effect at once on an object that no step holds, that does not
move, for which nothing else waits and whose memory can be accessed, and otherwise wait at the object. -/
def Obligations.ObjectCommandsComplete : Prop :=
  (∀ (s s₁ t : State) (h : CmdHdr) (id size kind tierNo die : Nat) (se : Session) (bs : List Nat),
    Taken s h 0x0040 [.ten] false s₁ se → id ≠ 0 → size ≠ 0 → size % 4096 = 0 → size ≤ 2 ^ 40 → kind ≤ 1 →
    (tierNo = 1 ∧ die ≤ 4 ∨ tierNo = 2 ∧ die ≤ 3) → findObj s₁ se.chase id = none →
    (s₁.objs.countP fun o => o.chase == se.chase) < 65536 → s₁.objs.length < 262144 →
    pickBlocks s₁ se.chase (tierNo == 1) die (ceilDiv size blockBytes) = some bs →
    fitMeta { s₁ with objs := s₁.objs ++ [
      { chase := se.chase, objId := id, isMutable := kind == 1, tier := tierNo, homeDie := die, size := size, window := 0
        state := if kind = 1 then .idle else .isOpen, blocks := bs, win := [], holder := none, readers := []
        waiters := [], oldHomes := [], lastFill := none, winWait := [], move := none }] } se.chase tierNo (metaDie tierNo die bs) = some t →
    exec (.objCreate h id size kind tierNo die) s = .next (done t h 0x0040 [])) ∧
  (∀ (s s₁ : State) (h : CmdHdr) (id : Nat) (se : Session) (o : Obj), Taken s h 0x0042 [.ten] false s₁ se →
    findObj s₁ se.chase id = some o → o.state = .isOpen → intakeHolds s₁ se.chase id = false →
    exec (.seal h id) s = .next (done (modObj s₁ se.chase id fun o => { o with state := .sealed }) h 0x0042 [])) ∧
  (∀ (s s₁ : State) (h : CmdHdr) (id : Nat) (se : Session) (o : Obj), Taken s h 0x0045 [.ten] false s₁ se →
    findObj s₁ se.chase id = some o → o.state ≠ .held → o.state ≠ .moving → o.readers = [] → windowFilling s₁ o = false →
    objServes s₁ se.chase id = false → exec (.objFree h id) s = .next (done (dropObj s₁ o) h 0x0045 [])) ∧
  (∀ (s s₁ : State) (h : CmdHdr) (id : Nat) (se : Session) (o : Obj), Taken s h 0x0047 [.ten] false s₁ se →
    findObj s₁ se.chase id = some o → intakeHolds s₁ se.chase id = false →
    exec (.objInfo h id) s = .next (done s₁ h 0x0047 (le 1 (b2n o.isMutable) ++ le 1 o.tier ++ le 1 o.homeDie ++
      le 1 o.state.code ++ zeros 4 ++ le 8 o.size ++ le 8 o.window))) ∧
  (∀ (s s₁ : State) (h : CmdHdr) (id off : Nat) (data : Bytes) (se : Session) (o : Obj),
    Taken s h 0x0041 [.ten] false s₁ se → data ≠ [] → data.length ≤ 1048576 → findObj s₁ se.chase id = some o →
    intakeHolds s₁ se.chase id = false → off + data.length ≤ o.size → o.state ≠ .sealed →
    exec (.put h id off data) s = .next (atObj (enlist s₁ h 0x0041 se.chase false) h se.chase o 0x41 off 0 data)) ∧
  (∀ (s s₁ : State) (h : CmdHdr) (id off len : Nat) (se : Session) (o : Obj), Taken s h 0x0043 [.ten] false s₁ se →
    findObj s₁ se.chase id = some o → intakeHolds s₁ se.chase id = false → len ≤ 1048576 → off + len ≤ o.size →
    exec (.get h id off len) s = .next (atObj (enlist s₁ h 0x0043 se.chase false) h se.chase o 0x43 off len [])) ∧
  (∀ (s s₁ : State) (h : CmdHdr) (id tierNo die : Nat) (se : Session) (o : Obj), Taken s h 0x0044 [.ten] false s₁ se →
    findObj s₁ se.chase id = some o → (tierNo = 1 ∧ die ≤ 4 ∨ tierNo = 2 ∧ die ≤ 3) → o.state ≠ .isOpen →
    objServes s₁ se.chase id = false →
    exec (.move h id tierNo die) s = .next (atObj (accept s₁ h 0x0044 se.chase false []) h se.chase o 0x44 tierNo die [])) ∧
  (∀ (s s₁ : State) (h : CmdHdr) (id window die : Nat) (se : Session) (o : Obj), Taken s h 0x0046 [.ten] false s₁ se →
    findObj s₁ se.chase id = some o → intakeHolds s₁ se.chase id = false → window % blockBytes = 0 → die ≤ 3 →
    exec (.windowSet h id window die) s =
      .next (atObj (accept s₁ h 0x0046 se.chase false []) h se.chase o 0x46 window die [])) ∧
  (∀ (s : State) (h : CmdHdr) (c : Nat) (o : Obj) (op a b : Nat) (data : Bytes),
    let w : ObjWait := ⟨(c, o.objId), h, op, a, b, data⟩
    (o.state = .held ∨ o.state = .moving ∨ o.waiters ≠ [] ∨ (waitStall s w).isSome = true →
      (atObj s h c o op a b data).objWaits = s.objWaits ++ [w]) ∧
    (o.state ≠ .held → o.state ≠ .moving → o.waiters = [] → waitStall s w = none →
      atObj s h c o op a b data = runWait s w))

/-- Completion of the request commands (R389, R298, R304, R327, R335, R466): SCORE, GENERATE, the first chunk of
FILE_SUBMIT and JOB_STEP admit a request that the imprimatur admits, which is live from then on; a later chunk of
FILE_SUBMIT adds its bytes; CANCEL ends a live request; RESEND sends the tokens again; a step of a job begins with the
tokens that the torus ports held for it, and their places are free. -/
def Obligations.RequestCommandsComplete : Prop :=
  (∀ (s s₁ s₂ : State) (h : CmdHdr) (forme deadline n : Nat) (label input : Bytes) (se : Session),
    Taken s h 0x0050 [.ten] false s₁ se → s₁.power.hold = false →
    imprimatur s₁ { newReq h 0x0050 se.chase (priority s₁ se.chase h) .score forme deadline label with
      total := input.length, input := [(0, input)] } = .admitted s₂ n →
    exec (.score h forme deadline label input) s = .next (enlist s₂ h 0x0050 se.chase true)) ∧
  (∀ (s s₁ s₂ : State) (h : CmdHdr) (p : GenParams) (n : Nat) (se : Session),
    Taken s h 0x0051 [.ten] false s₁ se → p.tokens.length = p.lp → s₁.power.hold = false →
    imprimatur s₁ { newReq h 0x0051 se.chase (priority s₁ se.chase h) .generate p.formeId p.deadline p.label with
      gen := some p } = .admitted s₂ n →
    exec (.generate h p) s = .next (enlist s₂ h 0x0051 se.chase true)) ∧
  (∀ (s s₁ s₂ : State) (h : CmdHdr) (forme deadline total n : Nat) (label data : Bytes) (se : Session) (r : Req),
    Taken s h 0x0052 [.ten] false s₁ se → liveReq s₁ h.session h.reqId = none → s₁.power.hold = false →
    data.length ≤ total →
    let mine := isHeldOf h.session h.reqId
    imprimatur { s₁ with heldChunks := s₁.heldChunks.filter fun x => !mine x }
      { newReq h 0x0052 se.chase (priority s₁ se.chase h) .file forme deadline label with
        total := total, ahead := total - data.length } = .admitted s₂ n →
    let t := takeHeld (putChunk (enlist s₂ h 0x0052 se.chase true) n 0 data) se h n (s₁.heldChunks.filter mine)
    req t n = some r →
    exec (.fileSubmit h forme deadline total 0 label data) s = .next (markChunk (replyLive (modReq t n fun q =>
      { q with windowEnd := windowFor t r }) h.session h.reqId St.accepted 0 (le 8 (windowFor t r))) h 0x0052 0)) ∧
  (∀ (s s₁ : State) (h : CmdHdr) (forme deadline total off : Nat) (label data : Bytes) (se : Session),
    Taken s h 0x0052 [.ten] false s₁ se → liveReq s₁ h.session h.reqId = none → off ≠ 0 → off + data.length ≤ 4194304 →
    (∀ x ∈ s₁.heldChunks, ¬(x.1 = h.session ∧ x.2.1 = h.reqId ∧ x.2.2.2.1 = off)) →
    exec (.fileSubmit h forme deadline total off label data) s =
      .next { s₁ with heldChunks := s₁.heldChunks ++ [(h.session, h.reqId, s₁.now, off, data)] }) ∧
  (∀ (s s₁ : State) (h : CmdHdr) (forme deadline total off n : Nat) (label data : Bytes) (se : Session) (l : LiveCmd)
      (r r' : Req),
    takeDesc s h 0x0052 = some s₁ → kget s₁.sessions h.session = some se → liveOf s₁ h.session h.reqId = some l →
    l.opcode = 0x0052 → entitled se ⟨0x0052, [.ten], false, label.length⟩ = true → fenceAnswers s₁ se 0x0052 = false →
    s₁.boot.state ≠ 5 → h.form = .ok → liveReq s₁ h.session h.reqId = some (n, r) → req s₁ n = some r → kget r.input off = none →
    off + data.length ≤ r.total → (∀ e ∈ r.input, overlap off data.length e.1 e.2.length = false) →
    off + data.length ≤ r.windowEnd → req (putChunk s₁ n off data) n = some r' →
    exec (.fileSubmit h forme deadline total off label data) s = .next (replyLive (modReq (putChunk s₁ n off data) n fun q =>
      { q with windowEnd := windowFor (putChunk s₁ n off data) r' }) h.session h.reqId St.accepted 0
        (le 8 (windowFor (putChunk s₁ n off data) r')))) ∧
  (∀ (s s₁ : State) (h : CmdHdr) (target n : Nat) (se : Session) (r : Req), Taken s h 0x0053 [.ten] false s₁ se →
    liveReq s₁ h.session target = some (n, r) →
    exec (.cancel h target) s = .next (done (endReq s₁ n .cancelled St.cancelled 0 []) h 0x0053 [])) ∧
  (∀ (s s₁ : State) (h : CmdHdr) (target first n : Nat) (se : Session) (r : Req), Taken s h 0x0054 [.ten] false s₁ se →
    liveReq s₁ h.session target = some (n, r) → r.kind = .generate → 1 ≤ first →
    exec (.resend h target first) s = .next (done (resendTokens r.tokens.length s₁ h target r.spoiled first
      ((r.tokens.map Prod.fst).drop (first - 1))) h 0x0054 [])) ∧
  (∀ (s s₁ : State) (h : CmdHdr) (target first : Nat) (se : Session) (l : TokenLog), Taken s h 0x0054 [.ten] false s₁ se →
    liveReq s₁ h.session target = none → (s₁.logs.find? fun l => l.session == h.session && l.reqId == target &&
      decide (s₁.now ≤ l.endNs + 1000000000)) = some l → 1 ≤ first →
    exec (.resend h target first) s = .next (done (resendTokens l.tokens.length s₁ h target l.spoiled first
      (l.tokens.drop (first - 1))) h 0x0054 [])) ∧
  (∀ (s s₁ s₂ : State) (h : CmdHdr) (jobId forme deadline n : Nat) (label input : Bytes) (se : Session) (j : Job),
    Taken s h 0x0061 [.ten] false s₁ se → s₁.power.hold = false → findJob s₁ jobId = some j → j.fields.chase = se.chase →
    j.state = .ready →
    imprimatur s₁ { newReq h 0x0061 se.chase (priority s₁ se.chase h) .score forme deadline label with
      total := input.length, input := [(0, input)], job := some (jobId, j.next) } = .admitted s₂ n →
    exec (.jobStep h jobId j.next forme deadline label input) s =
      .next (beginStep (enlist s₂ h 0x0061 se.chase true) jobId j.next)) ∧
  (∀ (s : State) (id step : Nat) (j : Job), findJob s id = some j →
    let mine := fun u : HeldUnit => u.job == id && u.step == step % 2 ^ 32
    let t := modJob s id fun j => { j with state := .stepping }
    let v := { t with torus := t.torus.map fun p => { p with
      freed := p.freed.mapIdx fun vc k => k + ((p.buffer.filter fun u => mine u && u.vc == vc).map HeldUnit.places).sum
      buffer := p.buffer.filter fun u => !mine u } }
    beginStep s id step = announce ((j.ports.map Prod.fst).foldl (fun s n => relieve s n { j with state := .stepping })
      ((s.torus.flatMap fun p => p.buffer.filter mine).foldl
        (fun s u => deliverUnit s j.fields.chase u.src u.die u.body) v)))

/-- Completion of the job commands (R390, R465, R470, R473): JOB_OPEN reserves the block's ports and sends JOIN;
JOB_REJOIN sends REJOIN; JOB_CLOSE removes the job. -/
def Obligations.JobCommandsComplete : Prop :=
  (∀ (s s₁ : State) (h : CmdHdr) (f : JobFields) (se : Session) (cfg : BootConfig),
    Taken s h 0x0060 [.own] false s₁ se → f.ex ≠ 0 → f.ey ≠ 0 → f.ez ≠ 0 → s₁.boot.cfg = some cfg →
    f.ex ≤ cfg.placement.nx → f.ey ≤ cfg.placement.ny → f.ez ≤ cfg.placement.nz →
    inBlock cfg.placement f cfg.placement.x cfg.placement.y cfg.placement.z = true →
    (chase s₁ f.chase).state = .claimed → jobOfChase s₁ f.chase = none → findJob s₁ f.jobId = none →
    (∀ n ∈ blockPorts cfg.placement f, (s₁.torus[n]?).bind TorusPort.job = none) →
    let j : Job :=
      { fields := f, state := .forming, next := 0, epoch := 0
        ports := (blockPorts cfg.placement f).map fun n => (n, false), peerHalted := false, openedNs := s₁.now
        cmds := [(h.session, h.reqId)], aborted := 0, rejoinStep := 0, rejoinFrom := none, acks := [], fail := (0, 0) }
    let a := accept s₁ h 0x0060 f.chase false []
    let t := (blockPorts cfg.placement f).foldl (fun s n => modPort s n fun q => { q with job := some f.jobId })
      { a with jobs := a.jobs ++ [j] }
    exec (.jobOpen h f) s = .next (finishJoin ((blockPorts cfg.placement f).foldl (fun s n =>
      match (s.torus[n]?).bind TorusPort.join with
      | some m => if m.jobId = f.jobId then takeJoin s f.jobId n m else s
      | none => s) (sendHeld t j none "JOIN" (joinFields t j))) f.jobId)) ∧
  (∀ (s s₁ : State) (h : CmdHdr) (jobId step : Nat) (se : Session) (j : Job),
    Taken s h 0x0062 [.own, .ten] false s₁ se → findJob s₁ jobId = some j → (se.role = .ten → se.chase = j.fields.chase) →
    rejoinDetail s₁ j step = 0 →
    (j.state ≠ .rejoining → exec (.jobRejoin h jobId step) s = .next (finishRejoin (sendHeld (modJob
      (accept s₁ h 0x0062 j.fields.chase false []) jobId fun j => { j with
        state := .rejoining, rejoinStep := step, rejoinFrom := none, acks := [], cmds := [(h.session, h.reqId)] })
      j none "REJOIN" [jobId, step, (j.epoch + 1) % 256]) jobId)) ∧
    (j.state = .rejoining → exec (.jobRejoin h jobId step) s = .next (modJob
      (accept s₁ h 0x0062 j.fields.chase false []) jobId fun j => { j with cmds := j.cmds ++ [(h.session, h.reqId)] }))) ∧
  (∀ (s s₁ : State) (h : CmdHdr) (jobId : Nat) (se : Session) (j : Job), Taken s h 0x0063 [.own] false s₁ se →
    findJob s₁ jobId = some j →
    (j.state = .forming → exec (.jobClose h jobId) s =
      .next (done (removeJob (endJobCmds s₁ j St.wrongState 0x0D06) jobId) h 0x0063 [])) ∧
    (j.state ≠ .forming → exec (.jobClose h jobId) s =
      .next (done (removeJob (jobFailure s₁ jobId (myCoord s₁) 3) jobId) h 0x0063 [])))

/-- Completion of the commands on registers, power and pulls (R390, R549, R555, R433, R475, R489): READ_REG answers
the words as the role sees them; WRITE_REG, RESET_REQ, RESET_READMIT and HEALTH_EVENTS_CLEAR write a register that the
role may write; COLOPHON answers signed; POWER_CAP sets the role's caps; PULL_READ lists, reads and frees pulls, and
marks a reply whose bytes met an error in hub SRAM. -/
def Obligations.RegisterCommandsComplete : Prop :=
  (∀ (s s₁ : State) (h : CmdHdr) (addr count : Nat) (se : Session) (ws : List RegWord),
    Taken s h 0x0070 allRoles true s₁ se → addr % 4 = 0 → 0 < count → count ≤ 64 →
    ((List.range count).map fun i => regWord s₁ se (addr + 4 * i)) = ws.map some →
    exec (.readReg h addr count) s = .next (done ((List.range (ws.countP fun w => regHidden w se.role)).foldl
      (fun s _ => violation s) s₁) h 0x0070 (ws.flatMap fun w => le 4 (regValue w se.role)))) ∧
  (∀ (s s₁ : State) (h : CmdHdr) (v : Word) (se : Session) (w : RegWord), Taken s h 0x0071 allRoles false s₁ se →
    (∀ addr, addr % 4 = 0 → regWord s₁ se addr = some w → regHidden w se.role = false →
      addr ∉ [0x00040000, 0x00040004, 0x00090000, 0x00090004] →
      exec (.writeReg h addr v) s = .next (done s₁ h 0x0071 [])) ∧
    (regWord s₁ se 0x00090000 = some w → regHidden w se.role = false →
      exec (.writeReg h 0x00090000 v) s = .next (done (resetRequest s₁ (v.toNat % 65536)) h 0x0071 []) ∧
      exec (.resetReq h 0x00090000 v) s = .next (done (resetRequest s₁ (v.toNat % 65536)) h 0x0071 [])) ∧
    (regWord s₁ se 0x00090004 = some w → regHidden w se.role = false →
      exec (.writeReg h 0x00090004 v) s = .next (done (readmitDomain s₁ (v.toNat % 65536)) h 0x0071 []) ∧
      exec (.resetReadmit h 0x00090004 v) s = .next (done (readmitDomain s₁ (v.toNat % 65536)) h 0x0071 [])) ∧
    (regWord s₁ se 0x00040000 = some w → regHidden w se.role = false →
      exec (.healthEventsClear h 0x00040000 v) s = .next (done { s₁ with health := { s₁.health with
        evOwn := s₁.health.evOwn - (s₁.health.evOwn &&& (v.toNat % 32)) } } h 0x0071 [])) ∧
    (regWord s₁ se 0x00040004 = some w → regHidden w se.role = false →
      exec (.healthEventsClear h 0x00040004 v) s = .next (done { s₁ with health := { s₁.health with
        evMgt := s₁.health.evMgt - (s₁.health.evMgt &&& (v.toNat % 32)) } } h 0x0071 []))) ∧
  (∀ (s s₁ : State) (h : CmdHdr) (nonce : Bytes) (se : Session), Taken s h 0x0080 [.own, .ten, .mgt, .vnd] true s₁ se →
    exec (.colophon h nonce) s = .next (done s₁ h 0x0080 (colophonBody s₁ se nonce ++
      padTo 96 (aliasSign s₁ (colophonBody s₁ se nonce))))) ∧
  (∀ (s s₁ : State) (h : CmdHdr) (cap alert od : Nat) (se : Session), Taken s h 0x0090 [.own, .mgt] true s₁ se →
    cap ≤ 3200 → alert ≤ 3200 → od ≤ 1 → exec (.powerCap h cap alert od) s = .next (done (capsChanged (effCap s₁) (endGrant
      { s₁ with power := if se.role = .own then { s₁.power with capOwn := ⟨cap, alert, od == 1⟩ }
        else { s₁.power with capMgt := ⟨cap, alert, od == 1⟩ } })) h 0x0090 [])) ∧
  (∀ (s s₁ : State) (h : CmdHdr) (id off len : Nat) (errs : List (Nat × Nat)) (se : Session), Taken s h 0x00A0 [.own, .ten] true s₁ se →
    (exec (.pullRead h 0 id off len errs) s = .next (done s₁ h 0x00A0
      (let ps := s₁.faults.pulls.filter fun p => se.role == .own || p.chase == se.chase
       le 4 ps.length ++ zeros 4 ++ ps.flatMap (pullEntry se.role)))) ∧
    (∀ p, se.role = .ten → (s₁.faults.pulls.find? fun p => p.pullId == id && p.chase == se.chase) = some p →
      (let b := hubRead (((p.bytes.drop off).take len).map fun x => (x, false)) errs
       exec (.pullRead h 1 id off len errs) s = .next (emitReply s₁ { mkReply h.ep h.session 0x00A0 h.reqId St.done 0
         (b.map Prod.fst) with
           dscp := h.dscp
           flags := b2n (b.any Prod.snd) })) ∧
      (errs = [] → exec (.pullRead h 1 id off len errs) s = .next (done s₁ h 0x00A0 ((p.bytes.drop off).take len))) ∧
      exec (.pullRead h 2 id off len errs) s = .next (done { s₁ with faults := { s₁.faults with
        pulls := s₁.faults.pulls.filter (· != p) } } h 0x00A0 [])))

/-- Completion of INTAKE_SET (R379, R384): the intake takes the new configuration, its records are those that the table
and the payload object hold, nothing of before is left to report, and the command is answered, or with NOTIFY = 1 stays
live as the intake's subscription. -/
def Obligations.IntakeSetCompletes : Prop :=
  ∀ (s s₁ : State) (h : CmdHdr) (k : IntakeCfg) (se : Session) (tab pay : Obj),
    Taken s h 0x0017 [.ten] false s₁ se → se.chase = policy s₁ 0x010F → nrecOk k.nrec = true → k.capture ≤ 1024 →
    k.capture % 64 = 0 → k.notify ≤ 1 → k.enable ≤ 1 → findObj s₁ se.chase k.tableObj = some tab →
    findObj s₁ se.chase k.payloadObj = some pay → tab.isMutable = true → tab.isH = true → pay.isMutable = true →
    pay.isH = true → 256 * k.nrec ≤ tab.size → 2 * k.capture * k.nrec ≤ pay.size →
    let plain := fun e : Nat × FlowRec => (e.1, { e.2 with retryAt := none, req := 0 })
    ∃ u : State, exec (.intakeSet h k) s =
        .next (if k.notify = 1 then enlist u h 0x0017 se.chase false else done u h 0x0017 []) ∧
      u.intake.cfg = some k ∧ u.intake.unreported = [] ∧
      u.intake.notifyTo = (if k.notify = 1 then some (h.session, h.reqId) else none) ∧
      u.intake.recs.map plain = (readRecs s₁ tab pay k).map plain

/-- Completion of the movement slots (R119, R123, R137): the slot of a live firing has its effect, and the firing goes
on to its next slot. An access that stays in its window and meets no error adds nothing to the effect. -/
def Obligations.MovementSlotsComplete : Prop :=
  ∀ (s : State) (t fu : Nat) (k : SlotCtx),
    (AtSlot s t fu 0x01 k → exec (.mov t fu) s = .next (slotDone (unary s k fun _ a => (a, Fl.none)) k.c t fu k.u)) ∧
    (AtSlot s t fu 0x02 k → exec (.ld t fu) s = .next (slotDone (
      let rs := (List.range (Nat.min (k.gen (k.v.imm % 8)).len (viewLen k.v.fmt))).map fun p =>
        if activeAt (tile s k.t) k.v k.v.fmt p then
          (some ((k.gen (k.v.imm % 8)).read (tile s k.t) p).1, ((k.gen (k.v.imm % 8)).read (tile s k.t) p).2)
        else (none, AccFx.ok)
      addressFault (modTile s k.t fun x => putElts x k.v.fmt k.v.dst (rs.map Prod.fst)) k
        (rs.foldl (fun a r => a.or r.2) AccFx.ok)) k.c t fu k.u)) ∧
    (AtSlot s t fu 0x03 k → exec (.st t fu) s = .next (slotDone (
      let es := ((regElts (tile s k.t) k.v.fmt k.v.srca).take (k.gen (k.v.imm % 8)).len).zipIdx.map fun e =>
        if activeAt (tile s k.t) k.v k.v.fmt e.2 then some e.1 else none
      let r := storeElts (tile s k.t) (k.gen (k.v.imm % 8)) es
      addressFault (setTile s k.t r.1) k r.2) k.c t fu k.u)) ∧
    (∀ fx : AccFx, fx.outside = 0 → fx.fault = false → addressFault s k fx = s) ∧
    (AtSlot s t fu 0x06 k → exec (.bcr t fu) s = .next (slotDone (permute s k fun _ c => (k.v.imm % 32, c)) k.c t fu k.u)) ∧
    (AtSlot s t fu 0x07 k → exec (.bcc t fu) s = .next (slotDone (permute s k fun r _ => (r, k.v.imm % 32)) k.c t fu k.u)) ∧
    (AtSlot s t fu 0x08 k → k.scalarIn.kind = 1 → exec (.bcs t fu) s = .next (slotDone (modTile s k.t fun x =>
      putElts x k.v.fmt k.v.dst ((List.range (viewLen k.v.fmt)).map fun j => if activeAt x k.v k.v.fmt j then
        some (k.scalarIn.payload.toNat % 2 ^ fmtBits k.v.fmt, k.scalarIn.spoil) else none)) k.c t fu k.u)) ∧
    (AtSlot s t fu 0x09 k → exec (.extr t fu) s = .next (slotDone (pushScalar s k
      (if activeAt (tile s k.t) k.v k.v.fmt k.immPos then
        ⟨BitVec.ofNat 64 ((regElts (tile s k.t) k.v.fmt k.v.srca).getD k.immPos (0, false)).1, k.v.fmt,
          ((regElts (tile s k.t) k.v.fmt k.v.srca).getD k.immPos (0, false)).2, true⟩
      else ⟨0, k.v.fmt, false, false⟩)) k.c t fu k.u)) ∧
    (AtSlot s t fu 0x0A k → k.scalarIn.kind = 1 → exec (.ins t fu) s = .next (slotDone (modTile s k.t fun x =>
      if activeAt x k.v k.v.fmt k.immPos then putElts x k.v.fmt k.v.dst ((List.range (viewLen k.v.fmt)).map fun j =>
        if j = k.immPos then some (k.scalarIn.payload.toNat % 2 ^ fmtBits k.v.fmt, k.scalarIn.spoil) else none)
      else x) k.c t fu k.u)) ∧
    (AtSlot s t fu 0x10 k → exec (.rotr t fu) s = .next (slotDone (permute s k fun r c =>
      (r, (c + viewCols k.v.fmt - k.v.imm % 32 % viewCols k.v.fmt) % viewCols k.v.fmt)) k.c t fu k.u)) ∧
    (AtSlot s t fu 0x11 k → exec (.rotc t fu) s = .next (slotDone (permute s k fun r c =>
      ((r + 16 - k.v.imm % 16) % 16, c)) k.c t fu k.u)) ∧
    (AtSlot s t fu 0x12 k → exec (.trans t fu) s = .next (slotDone (permute s k fun r c =>
      (c % 16, r + 16 * (c / 16))) k.c t fu k.u)) ∧
    (AtSlot s t fu 0x13 k → exec (.bfly t fu) s = .next (slotDone (permute s k fun r c =>
      if nbit k.v.imm 8 then (Nat.xor r (2 ^ (k.v.imm % 8)), c) else (r, Nat.xor c (2 ^ (k.v.imm % 8)))) k.c t fu k.u))

/-- Completion of the arithmetic slots (R119, R120): each writes the results of its elementwise operation in the slot's
format, rounded in the slot's mode. -/
def Obligations.ArithmeticSlotsComplete : Prop :=
  ∀ (s : State) (t fu : Nat) (k : SlotCtx),
    (AtSlot s t fu 0x20 k → exec (.add t fu) s =
      .next (slotDone (binary s k fun u a b => elemAdd k.v.fmt k.rnd u a b) k.c t fu k.u)) ∧
    (AtSlot s t fu 0x21 k → exec (.sub t fu) s =
      .next (slotDone (binary s k fun u a b => elemSub k.v.fmt k.rnd u a b) k.c t fu k.u)) ∧
    (AtSlot s t fu 0x22 k → exec (.mul t fu) s =
      .next (slotDone (binary s k fun u a b => elemMul k.v.fmt k.rnd u a b) k.c t fu k.u)) ∧
    (AtSlot s t fu 0x23 k → exec (.fma t fu) s = .next (slotDone (elementwise s k k.v.fmt k.v.fmt
      [(k.v.fmt, k.v.srca), (k.v.fmt, k.v.srcb), (k.v.fmt, k.v.srcc)] fun j l =>
        elemFma k.v.fmt k.rnd (slotRandom s k k.v.rnd j) (l.getD 0 0) (l.getD 1 0) (l.getD 2 0)) k.c t fu k.u)) ∧
    (AtSlot s t fu 0x25 k → exec (.div t fu) s =
      .next (slotDone (binary s k fun u a b => elemDiv k.v.fmt k.rnd u a b) k.c t fu k.u)) ∧
    (AtSlot s t fu 0x26 k → exec (.sqrt t fu) s =
      .next (slotDone (unary s k fun u a => elemSqrt k.v.fmt k.rnd u a) k.c t fu k.u)) ∧
    (AtSlot s t fu 0x27 k → exec (.min t fu) s =
      .next (slotDone (binary s k fun _ a b => elemMinMax false k.v.fmt a b) k.c t fu k.u)) ∧
    (AtSlot s t fu 0x28 k → exec (.max t fu) s =
      .next (slotDone (binary s k fun _ a b => elemMinMax true k.v.fmt a b) k.c t fu k.u)) ∧
    (AtSlot s t fu 0x29 k → exec (.abs t fu) s = .next (slotDone (unary s k fun _ a => elemAbs k.v.fmt a) k.c t fu k.u)) ∧
    (AtSlot s t fu 0x2A k → exec (.neg t fu) s = .next (slotDone (unary s k fun _ a => elemNeg k.v.fmt a) k.c t fu k.u)) ∧
    (AtSlot s t fu 0x31 k → exec (.exp t fu) s =
      .next (slotDone (unary s k fun u a => elemTransc 0x31 k.v.fmt k.rnd u a) k.c t fu k.u)) ∧
    (AtSlot s t fu 0x32 k → exec (.log t fu) s =
      .next (slotDone (unary s k fun u a => elemTransc 0x32 k.v.fmt k.rnd u a) k.c t fu k.u)) ∧
    (AtSlot s t fu 0x33 k → exec (.rsqrt t fu) s =
      .next (slotDone (unary s k fun u a => elemTransc 0x33 k.v.fmt k.rnd u a) k.c t fu k.u)) ∧
    (AtSlot s t fu 0x34 k → exec (.tanh t fu) s =
      .next (slotDone (unary s k fun u a => elemTransc 0x34 k.v.fmt k.rnd u a) k.c t fu k.u)) ∧
    (AtSlot s t fu 0x35 k → exec (.erf t fu) s =
      .next (slotDone (unary s k fun u a => elemTransc 0x35 k.v.fmt k.rnd u a) k.c t fu k.u)) ∧
    (AtSlot s t fu 0x50 k → exec (.vmul t fu) s = .next (slotDone (binary s k fun _ a b => elemVmul a b) k.c t fu k.u)) ∧
    (AtSlot s t fu 0x51 k → exec (.vdiv t fu) s = .next (slotDone (binary s k fun _ a b => elemVdiv a b) k.c t fu k.u)) ∧
    (AtSlot s t fu 0x3A k → exec (.cvt t fu) s = .next (slotDone (elementwise s k
      (if viewBits k.v.fmt2 < viewBits k.v.fmt then k.v.fmt2 else k.v.fmt) k.v.fmt [(k.v.fmt2, k.v.srca)] fun j l =>
        cvt k.v.fmt2 k.v.fmt k.rnd (slotRandom s k k.v.rnd j) (l.getD 0 0)) k.c t fu k.u))

/-- Completion of the bitwise, shift, compare, mask and flag slots (R119, R121, R130). -/
def Obligations.LogicSlotsComplete : Prop :=
  ∀ (s : State) (t fu : Nat) (k : SlotCtx),
    (AtSlot s t fu 0x2B k → exec (.and t fu) s = .next (slotDone (bitwise s k fun a b => Nat.land a b) k.c t fu k.u)) ∧
    (AtSlot s t fu 0x2C k → exec (.or t fu) s = .next (slotDone (bitwise s k fun a b => Nat.lor a b) k.c t fu k.u)) ∧
    (AtSlot s t fu 0x2D k → exec (.xor t fu) s = .next (slotDone (bitwise s k fun a b => Nat.xor a b) k.c t fu k.u)) ∧
    (AtSlot s t fu 0x2E k → exec (.not t fu) s = .next (slotDone (unary s k fun _ a =>
      (2 ^ fmtBits k.v.fmt - 1 - maskFmt k.v.fmt a, Fl.none)) k.c t fu k.u)) ∧
    (AtSlot s t fu 0x2F k → exec (.shl t fu) s = .next (slotDone (shift s k elemShl) k.c t fu k.u)) ∧
    (AtSlot s t fu 0x30 k → exec (.shr t fu) s = .next (slotDone (shift s k elemShr) k.c t fu k.u)) ∧
    (AtSlot s t fu 0x38 k → ∃ m : BitVec 1024, exec (.cmp t fu) s =
        .next (slotDone (modTile s k.t fun x => setMask x (k.v.dst % 8) m) k.c t fu k.u) ∧
      ∀ j, j < 1024 → j < viewLen k.v.fmt → m.getLsbD j = if activeAt (tile s k.t) k.v k.v.fmt j then
          elemCmp k.v.fmt (k.v.imm % 8) ((regElts (tile s k.t) k.v.fmt k.v.srca).getD j (0, false)).1
            ((regElts (tile s k.t) k.v.fmt k.v.srcb).getD j (0, false)).1
        else (maskReg (tile s k.t) (k.v.dst % 8)).getLsbD j) ∧
    (AtSlot s t fu 0x39 k → exec (.sel t fu) s = .next (slotDone (modTile s k.t fun x =>
      putElts x k.v.fmt k.v.dst ((((regElts x k.v.fmt k.v.srca).zip (regElts x k.v.fmt k.v.srcb)).zipIdx).map fun e =>
        if activeAt x k.v k.v.fmt e.2 then
          some ((if (maskReg x (k.v.srcc % 8)).getLsbD (maskIdx k.v.fmt e.2) then e.1.1.1 else e.1.2.1), e.1.1.2 || e.1.2.2)
        else none)) k.c t fu k.u)) ∧
    (AtSlot s t fu 0x3B k → exec (.mpop t fu) s = .next (slotDone (pushScalar s k ⟨BitVec.ofNat 64
      ((List.range (maskBits k.v.fmt)).countP fun j => (maskReg (tile s k.t) (k.v.srca % 8)).getLsbD j &&
        (!k.v.men || (maskReg (tile s k.t) k.v.msel).getLsbD j)), F.int32, false, true⟩) k.c t fu k.u)) ∧
    (AtSlot s t fu 0x3C k → exec (.mand t fu) s = .next (slotDone (maskOp s k fun a b => a &&& b) k.c t fu k.u)) ∧
    (AtSlot s t fu 0x3D k → exec (.mor t fu) s = .next (slotDone (maskOp s k fun a b => a ||| b) k.c t fu k.u)) ∧
    (AtSlot s t fu 0x3E k → exec (.mxor t fu) s = .next (slotDone (maskOp s k fun a b => a ^^^ b) k.c t fu k.u)) ∧
    (AtSlot s t fu 0x3F k → exec (.mnot t fu) s = .next (slotDone (maskOp s k fun a _ => ~~~a) k.c t fu k.u)) ∧
    (AtSlot s t fu 0x5A k → exec (.fsum t fu) s = .next (slotDone (pushScalar s k ⟨BitVec.ofNat 64
      (b2n (Flags.bit (tile s k.t).summary (k.v.imm % 8))), F.int32, false, true⟩) k.c t fu k.u)) ∧
    (AtSlot s t fu 0x5B k → exec (.fclr t fu) s =
      .next (slotDone (modTile s k.t fun x => { x with flags := [], summary := 0 }) k.c t fu k.u)) ∧
    (AtSlot s t fu 0x58 k → ∃ n : Nat, exec (.frd t fu) s =
      .next (slotDone (modTile s k.t fun x => setMask x (k.v.dst % 8) (BitVec.ofNat 1024 n)) k.c t fu k.u) ∧
      ∀ j < ((tile s k.t).flags.take 512).length,
        n.testBit j = Flags.bit ((tile s k.t).flags.getD j 0) (k.v.imm % 8)) ∧
    (AtSlot s t fu 0x59 k → ∃ n : Nat, exec (.fprd t fu) s = .next (slotDone (modTile s k.t fun x =>
      setMask (setMask x (k.v.dst % 8) (BitVec.ofNat 1024 n)) ((k.v.dst + 1) % 8) (BitVec.ofNat 1024 (n / 2 ^ 1024))) k.c t fu k.u) ∧
      ∀ j < (accSet (tile s k.t) (b2n (nbit k.v.imm 8))).length,
        n.testBit j = Flags.bit (((accSet (tile s k.t) (b2n (nbit k.v.imm 8))).getD j default).flags) (k.v.imm % 8))

/-- Completion of the reduction and matrix slots (R119, R124, R127, R113): RSUM, RMAX and RMIN reduce; GADD adds its
scalar to a global accumulator in the wide format; PMAC runs the platen when no earlier PMAC of the tile pair waits for
the lanes, and waits otherwise (R114). -/
def Obligations.ReductionSlotsComplete : Prop :=
  ∀ (s : State) (t fu : Nat) (k : SlotCtx),
    (AtSlot s t fu 0x48 k → exec (.rsum t fu) s = .next (slotDone (reduce s k .sum) k.c t fu k.u)) ∧
    (AtSlot s t fu 0x49 k → exec (.rmax t fu) s = .next (slotDone (reduce s k .max) k.c t fu k.u)) ∧
    (AtSlot s t fu 0x4A k → exec (.rmin t fu) s = .next (slotDone (reduce s k .min) k.c t fu k.u)) ∧
    (AtSlot s t fu 0x4B k → k.scalarIn.kind = 1 → exec (.gadd t fu) s = .next (slotDone (modTile s k.t fun x =>
      let r := wAdd (gacc x (k.v.imm % 32)).val (decode k.v.fmt (k.scalarIn.payload.toNat % 2 ^ fmtBits k.v.fmt))
      orFlag (setGacc x (k.v.imm % 32) ⟨r.1, 0, (gacc x (k.v.imm % 32)).spoil || k.scalarIn.spoil⟩) (k.v.imm % 32) r.2)
      k.c t fu k.u)) ∧
    (AtSlot s t fu 0x40 k → lanesBusy s t fu = false → exec (.pmac t fu) s = .next (slotDone (pmac s k) k.c t fu k.u)) ∧
    (lanesBusy s t fu = true → exec (.pmac t fu) s = .next s)

/-- A void firing runs its slots without their effects (R159, R108): a slot that produces a scalar adds a void one, and
the firing goes on to its next slot; a PMAC waits for the lanes as in a live firing (R114). -/
def Obligations.VoidSlotsOnlyStep : Prop :=
  ∀ (s : State) (t fu : Nat) (k : SlotCtx), ∀ x ∈ slotOps, slotAt s t fu x.2 = some k → k.f.live = false →
    (x.2 = 0x40 → lanesBusy s t fu = false) → exec (x.1 t fu) s = .next (slotDone
      (if producesScalar (slotOpc k.word) then pushScalar s k ⟨0, scalarFmt k.word, false, false⟩ else s) k.c t fu k.u)

/-- A slot whose scalar operand is no scalar ends the step with a forme fault (R125, R146): BCS, INS and GADD. -/
def Obligations.ScalarOperandFault : Prop :=
  ∀ (s : State) (t fu : Nat) (k : SlotCtx), k.scalarIn.kind ≠ 1 →
    (AtSlot s t fu 0x08 k → exec (.bcs t fu) s = .next (slotDone (fabricFault s k.c 0x0103 k.t) k.c t fu k.u)) ∧
    (AtSlot s t fu 0x0A k → exec (.ins t fu) s = .next (slotDone (fabricFault s k.c 0x0103 k.t) k.c t fu k.u)) ∧
    (AtSlot s t fu 0x4B k → exec (.gadd t fu) s = .next (slotDone (fabricFault s k.c 0x0103 k.t) k.c t fu k.u))

/-- Completion of the events of the ports (R359, R360, R361, R364, R376, R377): a frame that is not for the port's VLAN or
fails its checks is counted and dropped; an Askest datagram addressed to the device is received, one for a device of the
relay set goes to the torus, and any other is counted; a relay frame and its reply go on to their device, and arrive
there; an exercised retraining applies the port's policy; ARP and neighbour discovery are answered; the key server of
MKA draws a key, and the other side takes the one it is given (log 97). -/
def Obligations.PortEventsComplete : Prop :=
  (∀ (s : State) (ep : Nat) (frame : Bytes) (ns : Nat), (s.boot.state = 4 ∨ s.boot.state = 5) → portServes s ep 1 = true →
    (∀ t : State, takeFrame s ep frame = (t, none) → exec (.askestPacket ep frame ns) s = .next t) ∧
    (∀ (t : State) (e : Eth) (v6 : Bool) (d : Datagram), takeFrame s ep frame = (t, some e) →
      e.kind = (if v6 then 0x86DD else 0x0800) → datagramOf v6 e.body = some d →
      (d.dstPort ≠ policy t 0x0101 → exec (.askestPacket ep frame ns) s = .next (countDrop t ep 0)) ∧
      (d.dstPort = policy t 0x0101 →
        (∀ k : Packet, ownAddr t v6 = some d.dst → packetOf d e.src ns = some k →
          exec (.askestPacket ep frame ns) s = .next (receive t ep none k)) ∧
        (∀ r : RelayEntry, ownAddr t v6 ≠ some d.dst → relayOf t v6 d.dst = some r → exec (.askestPacket ep frame ns) s =
          .next (sendRelay t (coordIndex r.x r.y r.z)
            ⟨myIndex t, ep, coordIndex r.x r.y r.z, e.src, v6, e.body, ns⟩)) ∧
        (ownAddr t v6 ≠ some d.dst → relayOf t v6 d.dst = none → exec (.askestPacket ep frame ns) s =
          .next (countDrop t ep 0))))) ∧
  (∀ (s : State) (port : Nat) (f : RelayFrame) (p : TorusPort), s.torus[port]? = some p → 4 ≤ p.state →
    (f.target ≠ myIndex s → exec (.relayFrame port f) s = .next (sendRelay s f.target f)) ∧
    (∀ (d : Datagram) (k : Packet), f.target = myIndex s → (s.boot.state = 4 ∨ s.boot.state = 5) →
      datagramOf f.v6 f.packet = some d → packetOf d f.mac f.ns = some k →
      exec (.relayFrame port f) s = .next (receive s 4 (some (f.entry, f.entryPort)) k))) ∧
  (∀ (s : State) (f : RelayFrame),
    (f ∈ s.relayWire → exec (.relayReply f) s =
      .next (sendRelay { s with relayWire := s.relayWire.erase f } f.entry { f with target := myIndex s })) ∧
    (f ∉ s.relayWire → f.entry = myIndex s → portServes s f.entryPort 1 = true →
      (s.relaySet.any fun e => coordIndex e.x e.y e.z == f.target) = true →
      exec (.relayReply f) s = .next (sendEth { s with ports := lmod s.ports f.entryPort fun p =>
        { p with relayed := p.relayed ++ [(f.target, f.packet)] } } f.entryPort f.mac (ipKind f.v6) f.packet)) ∧
    (f ∉ s.relayWire → f.entry ≠ myIndex s → exec (.relayReply f) s = .next (sendRelay s f.entry f))) ∧
  (∀ (s : State) (he n : Nat) (p : HostPort) (trained : Bool), s.ports[n]? = some p → n / 2 = he → p.retraining = true →
    ∃ t q, exec (.portRetrain he trained) s = .next t ∧ t.ports[n]? = some q ∧ q.retraining = false ∧
      q.split = nbit (policy s 0x0108) (8 + he) ∧ q.mode = nbits (policy s 0x0108) (2 * n) 2 ∧
      (q.linkUp = true ↔ trained = true ∧ (n % 2 = 0 ∨ nbit (policy s 0x0108) (8 + he) = true) ∧
        nbits (policy s 0x0108) (2 * n) 2 ≠ 0 ∧ p.laneFault = false ∧ portOos s n = false)) ∧
  (∀ (s t : State) (ep mac sender ip : Nat) (frame : Bytes) (e : Eth), portServes s ep 1 = true →
    takeFrame s ep frame = (t, some e) → arpOf e = some (mac, sender, ip) →
    (answersFor t false ip = true → exec (.arpRequest ep frame) s =
      .next (resolve t ep ip mac 0x0806 (arpReply (portMac t ep) ip mac sender))) ∧
    (answersFor t false ip = false → exec (.arpRequest ep frame) s = .next (countDrop t ep 0))) ∧
  (∀ (s t : State) (ep sender ip : Nat) (frame : Bytes) (e : Eth), portServes s ep 1 = true →
    takeFrame s ep frame = (t, some e) → solicitOf e = some (sender, ip) →
    (answersFor t true ip = true → exec (.neighborSolicitation ep frame) s =
      .next (resolve t ep ip e.src 0x86DD (advertisement (portMac t ep) ip sender))) ∧
    (answersFor t true ip = false → exec (.neighborSolicitation ep frame) s = .next (countDrop t ep 0))) ∧
  (∀ (s : State) (ep prio sci : Nat) (p : HostPort) (k : Option Sak), s.ports[ep]? = some p → portServes s ep 1 = true →
    macsecOn s ep = true → p.cak.isSome = true →
    let mine := nbits (policy s 0x010A) 24 8
    let serves := mine < prio ∨ mine = prio ∧ p.mac * 65536 + 1 < sci
    (serves → ∃ key salt : Bytes, exec (.mkaFrame ep prio sci k) s = .next { s with
      draws := s.draws + 2
      ports := lset s.ports ep { p with
        sak := some ⟨key, salt, ((p.sak.map Sak.an).getD 3 + 1) % 4, sci, 2, 1⟩, macsecUp := true, rxPn := 1, txPn := 1 } }) ∧
    (∀ q : Sak, ¬serves → k = some q → exec (.mkaFrame ep prio sci k) s = .next { s with
      ports := lset s.ports ep { p with sak := some q, macsecUp := true, rxPn := 1, txPn := 1 } }) ∧
    (¬serves → k = none → exec (.mkaFrame ep prio sci k) s = .next s))

/-- Completion of the timers of sessions and messages (R366, R369, R376): a message 10 ms incomplete is dropped; a
session pending for 100 ms, or idle for its timeout with nothing live, closes; a file or load that sends nothing for
FILE_IDLE_MS is cancelled; held chunks are dropped; a policy takes effect 10 ms after it was set. -/
def Obligations.SessionTimersComplete : Prop :=
  (∀ (s : State) (session opcode reqId : Nat) (x : Reasm),
    (s.reasm.find? fun x => x.session == session && x.opcode == opcode && x.reqId == reqId) = some x →
    x.firstNs + 10000000 ≤ s.now → exec (.reassemblyTimeout session opcode reqId) s =
      .next (portReply (countDrop { s with reasm := s.reasm.filter fun y => y != x } x.ep 3) x.ep session opcode reqId
        St.malformed 0x0A05 0)) ∧
  (∀ (s : State) (session : Nat) (se : Session), kget s.sessions session = some se →
    (se.isOpen = false → se.helloNs + 100000000 ≤ s.now →
      exec (.sessionPendingTimeout session) s = .next (closeSession s session)) ∧
    (se.isOpen = true → se.lastNs + policy s 0x0106 * 1000000000 ≤ s.now →
      (∀ l ∈ s.live, l.session ≠ session) →
      exec (.sessionIdleTimeout session) s = .next (closeSession s session))) ∧
  (∀ (s : State) (session reqId : Nat),
    (∀ (n : Nat) (r : Req), liveReq s session reqId = some (n, r) → r.state = .receiving →
      r.chunkNs + policy s 0x0107 * 1000000 ≤ s.now →
      exec (.fileIdleTimeout session reqId) s = .next (endReq s n .cancelled St.cancelled 0x0A09 [])) ∧
    (∀ x : Stage, liveReq s session reqId = none →
      (s.stages.find? fun x => x.session == session && x.reqId == reqId && !x.ready) = some x →
      x.lastNs + policy s 0x0107 * 1000000 ≤ s.now → exec (.fileIdleTimeout session reqId) s = .next
        { replyLive s session reqId St.cancelled 0x0A09 [] with
          stages := (replyLive s session reqId St.cancelled 0x0A09 []).stages.filter fun y =>
            !(y.session == session && y.reqId == reqId && !y.ready) })) ∧
  (∀ (s : State) (session reqId : Nat) (x : Nat × Nat × Nat × Nat × Bytes),
    s.heldChunks.find? (isHeldOf session reqId) = some x →
    x.2.2.1 + policy s 0x0107 * 1000000 ≤ s.now → exec (.heldChunkTimeout session reqId) s = .next (portReply
      { s with heldChunks := s.heldChunks.filter fun y => !isHeldOf session reqId y } 0 session 0x0052 reqId
      St.cancelled 0x0A09 0)) ∧
  (∀ (s : State) (id : Nat) (e : Nat × Nat × Nat),
    (s.policyDue.find? fun e => e.1 == id && decide (e.2.2 + 10000000 ≤ s.now)) = some e →
    exec (.policyTakeEffect id) s =
      .next (putPolicy { s with policyDue := s.policyDue.filter fun x => x != e } id e.2.1))

/-- Completion of the events of the intake (R47, R378, R379, R380, R381, R382, R383): on a port in INTAKE mode a frame that
cannot be recorded is counted; a recordable one of a flow that has an OPEN record adds to it, one of a flow with a
complete record is only counted in it, one of a new flow opens a record where its bucket has room and is counted
otherwise; an idle or old flow completes; the descriptor of a complete record, taken in its queue's turn, is scored; one
that is due to be tried again gets a new descriptor; a result is written and kept for the report; a report carries
at most 32 of them. -/
def Obligations.IntakeEventsComplete : Prop :=
  (∀ (s : State) (ep : Nat) (frame : Bytes), portServes s ep 2 = true →
    (intakeOf (tunnelPorts s).1 (tunnelPorts s).2 frame = none →
      exec (.intakeFrame ep frame) s = .next (countIntake s 18)) ∧
    (∀ (c : Nat) (k : IntakeCfg) (f : IntakeFrame), intakeOf (tunnelPorts s).1 (tunnelPorts s).2 frame = some f →
      intakeOn s = some (c, k) →
      let idxs := bucketRecs k.nrec (flowHash s c f)
      let mine := fun i => match kget s.intake.recs i with | some r => flowKey r.key == flowKey f | none => false
      let free := fun i => match kget s.intake.recs i with | some r => r.state == 3 || r.state == 4 | none => true
      (∀ (i : Nat) (r : FlowRec), idxs.find? mine = some i → kget s.intake.recs i = some r →
        let fwd := endpoint r.key.srcAddr r.key.srcPort == endpoint f.srcAddr f.srcPort
        (r.state = 1 → exec (.intakeFrame ep frame) s = .next (takePacket s c k i r fwd f)) ∧
        (r.state ≠ 1 → exec (.intakeFrame ep frame) s = .next (putRec s c k i (countPacket r fwd s.now f.ipLen)))) ∧
      (∀ i : Nat, idxs.find? mine = none → idxs.find? free = some i → exec (.intakeFrame ep frame) s =
        .next (takePacket s c k i (openRec (flowHash s c f) s.now f) true f)) ∧
      (idxs.find? mine = none → idxs.find? free = none → exec (.intakeFrame ep frame) s = .next (chev s c 19)))) ∧
  (∀ (s : State) (idx c : Nat) (k : IntakeCfg) (r : FlowRec), intakeOn s = some (c, k) → kget s.intake.recs idx = some r →
    r.state = 1 → r.lastNs + k.idleMs * 1000000 ≤ s.now →
    exec (.flowIdleExpiry idx) s = .next (completeRec s c k idx r 2)) ∧
  (∀ (s : State) (idx c : Nat) (k : IntakeCfg) (r : FlowRec), intakeOn s = some (c, k) → kget s.intake.recs idx = some r →
    r.state = 1 → r.firstNs + k.activeMs * 1000000 ≤ s.now →
    exec (.flowActiveExpiry idx) s = .next (completeRec s c k idx r 3)) ∧
  (∀ (s : State) (c : Nat) (k : IntakeCfg) (r : FlowRec) (d : Descriptor) (rest : List Descriptor),
    nextQueue s = some 5 → s.doorbells.getD 5 [] = d :: rest →
    let t := fillIntake { s with doorbells := lset s.doorbells 5 rest, doorPtr := 0 }
    intakeOn t = some (c, k) → kget t.intake.recs d.reqId = some r → r.state = 2 → r.req = 0 →
    exec .intakeScore s = .next (scoreRec t c k d.reqId r)) ∧
  (∀ (s : State) (idx c ns : Nat) (k : IntakeCfg) (r : FlowRec), intakeOn s = some (c, k) →
    kget s.intake.recs idx = some r → r.state = 2 → r.retryAt = some ns → ns ≤ s.now →
    exec (.intakeRetry idx) s = .next (queueScore (modRec (chev s c 20) idx fun r => { r with retryAt := none }) idx)) ∧
  (∀ (s : State) (idx c : Nat) (k : IntakeCfg) (r : FlowRec) (q : Req), intakeOn s = some (c, k) →
    kget s.intake.recs idx = some r → req s r.req = some q → r.state = 2 → q.state.final = true →
    inArray s q.chase r.req = false →
    let r' : FlowRec := { r with
      state := if q.state == .done then 3 else 4
      result := if q.state == .done then padTo 16 (if q.stop = 0 then q.reply else []) else r.result
      req := 0 }
    let t := putRec { s with reqs := kdel s.reqs r.req } c k idx r'
    (t.intake.notifyTo = none → exec (.intakeResult idx) s = .next t) ∧
    (t.intake.notifyTo ≠ none → exec (.intakeResult idx) s = .next { t with intake := { t.intake with
      unreported := t.intake.unreported ++ [(t.now, noticeEntry idx (reqFlags s q (decide (q.state = .done)) true) r')]
      unreportedNs := if t.intake.unreported.isEmpty then t.now else t.intake.unreportedNs } })) ∧
  (∀ (s : State) (session reqId : Nat), s.intake.notifyTo = some (session, reqId) → s.intake.unreported ≠ [] →
    (32 ≤ s.intake.unreported.length ∨ s.intake.unreportedNs + 100000 ≤ s.now) →
    let l := s.intake.unreported
    let t := replyLive s session reqId St.partialOut 0 ((l.take 32).flatMap Prod.snd)
    exec .intakeNotify s = .next { t with intake := { t.intake with
      unreported := l.drop 32, unreportedNs := ((l.drop 32).head?.map Prod.fst).getD 0 } })

/-- Completion of the imposition and image events (R206, R207, R209, R212, R213, R484): the next stage is checked; an
image that passes every check becomes RESIDENT, and one that fails is refused with the first failure's status and
detail; a drained imposition discards what is in flight; a scrubbed one puts its formes IN_SERVICE, locked, and loads
them; a loaded one unlocks them, lifts the fence and ends the order. -/
def Obligations.ImpositionEventsComplete : Prop :=
  (∀ (s : State) (x : Stage), (∀ y ∈ s.stages, y.begun = none) → s.faults.buffers = [] →
    (s.stages.find? fun y => y.ready) = some x → x.opcode = 0x0030 → exec .imageCheckBegin s =
      .next { s with
        stages := s.stages.map fun y =>
          if y.isOf x.session x.reqId then { y with total := x.total, begun := some s.now } else y }) ∧
  (∀ (s : State) (x : Stage) (len : Nat), (∀ y ∈ s.stages, y.begun = none) → s.faults.buffers = [] →
    (s.stages.find? fun y => y.ready) = some x → x.opcode ≠ 0x0030 → stageLen s x = some len →
    exec .imageCheckBegin s = .next { s with
      stages := s.stages.map fun y => if y.isOf x.session x.reqId then { y with
          total := if len ≤ storeGrant (chase s x.chase).cfg - storeUseAll s x.chase - storeReserved s x.chase then len else 0
          begun := some s.now } else y }) ∧
  (∀ (s : State) (x : Stage) (image : Bytes), (s.stages.find? fun y => y.begun.isSome) = some x →
    stageImage s x = some image →
    let drop := fun s : State => { s with stages := s.stages.filter fun y => !y.isOf x.session x.reqId }
    let g := loadImg (chase s x.chase) image
    let failed := firstFailure (loadChecks (drop s) x.chase g (x.total == image.length))
    (failed = none → exec .imageCheckDone s = .next (drop (replyLive (modChase s x.chase fun ch => { ch with
      images := ch.images ++ [⟨g.f.formeId, .resident, g.f, sha384 (signedPart g.env g.b), false⟩] })
      x.session x.reqId St.done 0 []))) ∧
    (∀ st detail : Nat, failed = some (st, detail) →
      exec .imageCheckDone s = .next (drop (replyLive s x.session x.reqId st detail [])))) ∧
  (∀ (s : State) (c : Nat) (cause : ImposeCause) (ids : List Nat) (cmd : Option (Nat × Nat)),
    (chase (assertWaiting s c) c).act = .impose cause .draining ids cmd → cause ≠ .recovery →
    ∃ t, exec (.fenceDrainDone c) s = .next t ∧ (chase t c).act = .impose cause .scrubbing ids cmd ∧
      (∀ f ∈ t.net, f.chase ≠ c)) ∧
  (∀ (s : State) (c : Nat) (ids vmin : List Nat) (cmd : Option (Nat × Nat)),
    let v := scrubVmin (scrubChase s c) c vmin
    ((chase s c).act = .impose .release .scrubbing ids cmd → exec (.scrubDone c vmin) s =
      .next (replyCmd (freeChase v c) cmd St.done 0)) ∧
    ((chase s c).act = .impose .recovery .scrubbing ids cmd → exec (.scrubDone c vmin) s =
      .next (resumeChase v c)) ∧
    (∀ cause, cause ≠ .release → cause ≠ .recovery → (chase s c).act = .impose cause .scrubbing ids cmd →
      imposeChecks v c ids = none → exec (.scrubDone c vmin) s =
        .next (modChase v c fun ch => { ch with
          act := .impose cause .loading ids cmd
          images := ch.images.map fun i =>
            if ids.contains i.formeId then { i with state := .inService, locked := true }
            else { i with state := if i.state == .inService then .resident else i.state, locked := false } }))) ∧
  (∀ (s : State) (c : Nat) (cause : ImposeCause) (ids : List Nat) (cmd : Option (Nat × Nat)),
    (chase s c).act = .impose cause .loading ids cmd → exec (.pageLoadDone c) s = .next (orderEnded (replyCmd (modChase
      ((ids.filterMap fun id => (imageOf (chase s c) id).map Image.body).foldl loadForme s) c fun ch => { ch with
        fenced := false, heldDown := false, tb := [], injecting := [], array := [], lastServed := []
        images := ch.images.map fun i => { i with locked := false } }) cmd St.done 0) c))

/-- Completion of the events of a running change and of a scan (R215, R219, R220, R221, R222, R225, R227): the shadow
configuration loads, the lock-up is injected and taken, one of another epoch is discarded, a tile pair switches when it
may, a change past its limit ends in a forme fault, a preload fills the memory tile, a scan that has read a tile stores
its record, and one that writes a tile restores it. -/
def Obligations.ChangeEventsComplete : Prop :=
  (∀ (s : State) (c oldId newId : Nat) (timer : KMap Nat) (injected : Bool) (cmd : Option (Nat × Nat)) (a b : Image),
    (chase s c).act = .change oldId newId false injected timer cmd → imageOf (chase s c) oldId = some a →
    imageOf (chase s c) newId = some b →
    let ts := changeTiles a.body b.body
    let imp := ((a.body.tiles.head?).map fun e => (tile s e.1).imp + 1).getD 1
    let t := modChase (ts.foldl (fun s t => modTile s t fun x =>
      { x with shadow := kget b.body.tiles t, switched := false }) s) c fun ch =>
        { ch with act := .change oldId newId true false [] cmd }
    exec (.shadowLoadDone c) s = .next (finishChange ((ts.filter fun n => passive a.body (tile t n) n).foldl
      (fun s n => switchTile s b.body n imp) t) c)) ∧
  (∀ (s : State) (c oldId newId : Nat) (timer : KMap Nat) (cmd : Option (Nat × Nat)) (a : Image),
    (chase s c).act = .change oldId newId true false timer cmd → imageOf (chase s c) oldId = some a →
    (chase s c).fenced = false → s.power.hold = false → passesEntered s c oldId = true →
    (∀ q ∈ entryQueues a.body, creditFree s q.tile q.port = true) →
    let count := (chase s c).changeCount
    exec (.lockupInject c) s = .next (modChase
      ((entryQueues a.body).foldl (fun s q => pushFlight s c (q.tile, 64, q.port)
        (lockupToken (tile s q.tile).imp count q.tile q.port none) [] none) s) c fun ch =>
      { ch with act := .change oldId newId true true [] cmd })) ∧
  (∀ (s : State) (t fu input c : Nat) (cfg : TileCfg) (uc : UnitCfg), liveTile s t = some c → (tile s t).active = some cfg →
    unitCfg (tile s t) fu = some uc → input ≤ uc.nin →
    ((fuOf (tile s t) fu).lockups.contains input = true →
      exec (.lockupTake t fu input) s = .next (tryPass s c t fu cfg uc)) ∧
    (∀ (k : QTok) (r : List QTok), (fuOf (tile s t) fu).lockups.contains input = false →
      (portQ (tile s t) (uc.port input)).toks = k :: r → k.tok.kind = 4 → k.tok.imp ≠ (tile s t).imp →
      exec (.lockupTake t fu input) s = .next (fabricFault (giveCredit (modTile s t fun x =>
        setPortQ x (uc.port input) { portQ x (uc.port input) with toks := r }) c t (uc.port input) k) c 0x010A t)) ∧
    (∀ (k : QTok) (r : List QTok), (fuOf (tile s t) fu).lockups.contains input = false →
      (portQ (tile s t) (uc.port input)).toks = k :: r → k.tok.kind = 4 → k.tok.imp = (tile s t).imp →
      exec (.lockupTake t fu input) s = .next (tryPass (giveCredit (modTile s t fun x =>
          setFu (setPortQ x (uc.port input) { portQ x (uc.port input) with toks := r }) fu { fuOf x fu with
            lockups := nset (fuOf (tile s t) fu).lockups input, lockPayload := k.tok.payload })
          c t (uc.port input) k) c t fu cfg uc))) ∧
  (∀ (s : State) (t c oldId newId : Nat) (timer : KMap Nat) (injected : Bool) (cmd : Option (Nat × Nat)) (a b : Image),
    liveTile s t = some c → (chase s c).act = .change oldId newId true injected timer cmd →
    imageOf (chase s c) oldId = some a → imageOf (chase s c) newId = some b → (tile s t).switched = false →
    (changeTiles a.body b.body).contains t = true → mayswitch a.body (tile s t) t = true →
    exec (.tileSwitch t) s = .next (finishChange (switchTile s b.body t ((tile s t).imp + 1)) c)) ∧
  (∀ (s : State) (t : Nat) (cfg : TileCfg), (tile s t).active = some cfg → (tile s t).preloading = true →
    exec (.preloadDone t) s = .next (modTile s t fun x =>
      { mtWriteBytes x cfg.preloadAddr (cfg.preload.take cfg.preloadLen) with preloading := false })) ∧
  (∀ (s : State) (c oldId newId : Nat) (timer : KMap Nat) (cmd : Option (Nat × Nat)) (a : Image),
    (chase s c).act = .change oldId newId true true timer cmd → imageOf (chase s c) oldId = some a →
    pacesReach timer (16 * a.body.guardLimit) = true → exec (.changeTimeout c) s = .next (formeFault s c 0x010D 0x7FF none)) ∧
  (∀ (s : State) (c t ns : Nat) (rec : Bytes) (cmd : Nat × Nat),
    (chase (assertWaiting s c) c).act = .scan t true (some ns) rec cmd →
    let s' := assertWaiting s c
    let r := scanRecord s' c t ns
    pullUse s' + 64 + r.length ≤ 16777216 → exec (.scanDone c) s = .next (endScan (replyLive (storePull s' c 0 ns r) cmd.1 cmd.2
      St.done 0 (le 4 (storePull s' c 0 ns r).faults.pullCount ++ le 4 r.length)) c)) ∧
  (∀ (s : State) (c t ns : Nat) (rec : Bytes) (cmd : Nat × Nat) (i : Image),
    (chase (assertWaiting s c) c).act = .scan t false (some ns) rec cmd →
    let s' := assertWaiting s c
    formeOfTile (chase s' c) t = some i → i.formeId = field rec 8 8 → (tile s' t).imp = field rec 18 1 →
    exec (.scanDone c) s = .next (endScan (replyCmd (setTile s' t (restoreTile s' c t i.body rec)) (some cmd) St.done 0) c))

/-- Completion of the token events (R143, R152, R165, R167, R168, R182, R184, R185): a sound token with room in its
queue enters it; the head of a queue joins the matching store; a credit comes back; granules land; a bank grants the
first of its requesters; a token for another device leaves by its long gutter; CREDIT tokens pay back the remote edges
of the unit that they name. -/
def Obligations.TokenEventsComplete : Prop :=
  (∀ (s : State) (k flip : Nat) (f : Flight) (q : QueueCfg), s.net[k]? = some f → (chase s f.chase).fenced = false →
    f.isRemote = false → behind s.net k f = false →
    (f.isCredit = true → flip ≠ 0) →
    let header := f.header ^^^ BitVec.ofNat 64 flip
    let tok := tokenOf header f.payload
    let gone := { s with net := dropAt s.net k }
    headerOk header = true → tok.kind ≠ 6 → kindReserved tok.kind = false → handleOk tok.kind f.payload = true →
    portTakes gone f.chase f.tile f.port = true → queueAt gone f.tile f.port = some q →
    (f.lands tok = true → f.granules.length ≤ q.slotsz) → (portQ (tile gone f.tile) f.port).toks.length < q.depth →
    exec (.tokenEject k flip) s = .next (enqueue gone f tok q.depth)) ∧
  (∀ (s : State) (t fu input c : Nat) (u : UnitCfg) (k : QTok) (r : List QTok), liveTile s t = some c →
    unitCfg (tile s t) fu = some u → input ≤ u.nin → (portQ (tile s t) (u.port input)).toks = k :: r → k.tok.kind ≠ 4 →
    k.landed = true → takeDecision (tile s t) (fuOf (tile s t) fu) u (isZw5 s c t) input k.tok = .join →
    (isZw5 s c t = true ∨ passedOver s c t fu u input = false) → k.landing = none → k.galley = none →
    let f := fuOf (tile s t) fu
    let f' := if !isZw5 s c t && needsEntry (tile s t) f u input then { f with storePtr := input } else f
    exec (.tokenTake t fu input) s = .next (unstallOn (giveCredit
      (modTile s t fun x => setFu (setPortQ x (u.port input) { portQ x (u.port input) with toks := r }) fu
        (joinEntry f' u (matchKey u (isZw5 s c t) k.tok.tag) input k)) c t (u.port input) k)
      c (unitKey t fu) (input + 1))) ∧
  (∀ (s : State) (t fu input c : Nat) (u : UnitCfg) (k : QTok) (r : List QTok), liveTile s t = some c →
    unitCfg (tile s t) fu = some u → input ≤ u.nin → (portQ (tile s t) (u.port input)).toks = k :: r → k.tok.kind ≠ 4 →
    k.landed = true → takeDecision (tile s t) (fuOf (tile s t) fu) u (isZw5 s c t) input k.tok = .join →
    (isZw5 s c t = true ∨ passedOver s c t fu u input = false) → ∃ v, exec (.tokenTake t fu input) s = .next v ∧ (portQ (tile v t) (u.port input)).toks = r) ∧
  (∀ (s : State) (t port : Nat), (portQ (tile s t) port).returning ≠ 0 → exec (.creditReturn t port) s =
    .next (modTile s t fun x => setPortQ x port { portQ (tile s t) port with
      returning := (portQ (tile s t) port).returning - 1 })) ∧
  (∀ (s : State) (k c : Nat) (l : Landing) (q : QueueCfg), s.landings[k]? = some l → chaseOfTile s l.tile = some c →
    queueAt s l.tile l.port = some q → (chase s c).fenced = false →
    let a := q.region + 64 * q.depth + 64 * q.slotsz * l.slot
    exec (.granuleLand k) s = .next (modTile { s with landings := dropAt s.landings k } l.tile fun x =>
      let x := mtPutGranules x a l.granules
      setPortQ x l.port { portQ x l.port with
        toks := (portQ x l.port).toks.map fun e =>
          if e.landing = some l.slot ∧ e.landed = false then
            { e with
              landed := true
              tok := { e.tok with
                kind := 3
                payload := mtHandle a l.granules.length } }
          else e })) ∧
  (∀ (s : State) (t bank c : Nat) (reqs : List BankReq) (r : BankReq), chaseOfTile s t = some c →
    nextReq (kgetD (tile s t).bankPtr bank 0) (chase s c).fenced (tile s t).preloading reqs = some r →
    let a := (r.row % 512) * 1024 + (bank % 16) * 64
    let v := modTile (bankWaits s c t reqs r) t fun x => { x with bankPtr := kset x.bankPtr bank r.requester }
    exec (.bankGrant t bank reqs) s =
      .next (if r.write then modTile v t fun x => bankWrite x a r else bankReadEvents v t a r)) ∧
  (∀ (s : State) (k : Nat) (f : Flight), s.net[k]? = some f → f.isRemote = false → (chase s f.chase).fenced = false →
    (tokenOf f.header f.payload).kind = 6 → exec (.creditToken k) s = .next { s with
      net := dropAt s.net k
      remoteUsed := refundRemote (fun e => e.tile == f.tile && e.fu == f.port &&
        chaseOfTile s e.tile == some f.chase &&
        ((gutterDevice s f.chase e.tile e.route).map Prod.snd) == f.fromRemote.map Prod.fst)
        s.remoteUsed (f.payload.toNat % 65536) }) ∧
  (∀ (s : State) (k d : Nat) (f : Flight) (j : Job), s.net[k]? = some f → f.isRemote = true →
    (chase s f.chase).fenced = false → behind s.net k f = false →
    gutterDevice s f.chase f.src.1 f.route = some (j, d) →
    let unit := (f.header, f.payload, f.granules)
    let gone := { s with net := dropAt s.net k }
    (d = myIndex s → exec (.longGutterRoute k) s = .next (deliverUnit gone f.chase (d, f.src.1, f.src.2.1)
      (routeDie (routeWord s f.chase f.src.1 f.route)) unit)) ∧
    (∀ v, d ≠ myIndex s → sendUnits gone j d (routeDie (routeWord s f.chase f.src.1 f.route)) (f.src.1, f.src.2.1) unit = some v →
      exec (.longGutterRoute k) s = .next v)) ∧
  (∀ (s : State) (k : Nat) (r : RemoteCredit) (j : Job), s.remoteDue[k]? = some r → (chase s r.chase).fenced = false →
    (8 ≤ r.due ∨ r.oldestNs + 1000 ≤ s.now) → jobOfChase s r.chase = some j →
    let gone := { s with remoteDue := dropAt s.remoteDue k }
    let unit := (tokenHeader (creditTokenOf r), (creditTokenOf r).payload, [])
    (r.device = myIndex s → exec (.remoteCreditFlush k) s = .next (deliverUnit gone r.chase (r.device, 0, 0)
      (r.tile / 512) unit)) ∧
    (∀ v, r.device ≠ myIndex s → sendUnits gone j r.device (r.tile / 512) (0, 0) unit = some v →
      exec (.remoteCreditFlush k) s = .next v))

/-- A token that fails a check at its ejection is dropped and ends the step with the check's forme fault, in the order
of the checks (R146, R147, R167, R169): header, kind, port, landing slot, depth. -/
def Obligations.EjectionDrops : Prop :=
  ∀ (s : State) (k flip : Nat) (f : Flight), s.net[k]? = some f → (chase s f.chase).fenced = false →
    f.isRemote = false → behind s.net k f = false → (f.isCredit = true → flip ≠ 0) →
    let header := f.header ^^^ BitVec.ofNat 64 flip
    let tok := tokenOf header f.payload
    let gone := { s with net := dropAt s.net k }
    (headerOk header = false → exec (.tokenEject k flip) s = .next (fabricFault gone f.chase 0x0102 f.tile)) ∧
    (headerOk header = true → tok.kind ≠ 6 → (kindReserved tok.kind = true ∨ handleOk tok.kind f.payload = false) →
      exec (.tokenEject k flip) s = .next (fabricFault gone f.chase 0x0103 f.tile)) ∧
    (headerOk header = true → tok.kind ≠ 6 → kindReserved tok.kind = false → handleOk tok.kind f.payload = true →
      portTakes gone f.chase f.tile f.port = false →
      exec (.tokenEject k flip) s = .next (fabricFault gone f.chase 0x0104 f.tile)) ∧
    (headerOk header = true → tok.kind ≠ 6 → kindReserved tok.kind = false → handleOk tok.kind f.payload = true →
      portTakes gone f.chase f.tile f.port = true → ∀ q : QueueCfg, queueAt gone f.tile f.port = some q →
      (f.lands tok = true → q.slotsz < f.granules.length →
        exec (.tokenEject k flip) s = .next (fabricFault gone f.chase 0x0108 f.tile)) ∧
      ((f.lands tok = true → f.granules.length ≤ q.slotsz) → q.depth ≤ (portQ (tile gone f.tile) f.port).toks.length →
        exec (.tokenEject k flip) s = .next (fabricFault gone f.chase 0x0107 f.tile)))

/-- Completion of firing and emission (R153, R154, R159, R160, R176, R178): the oldest ready match of an idle unit
fires; a unit of the vector kind runs its slots and then emits; BRANCH, SELECT, STEER and MERGE emit at once; LOOP
emits copy by copy. -/
def Obligations.FiringEventsComplete : Prop :=
  (∀ (s : State) (t fu c : Nat) (u : UnitCfg) (f : FuState) (e : MatchEntry),
    (∀ errs : List RegError, mayFire s t fu 0 = some (c, u, f, e) → (u.hen = true → (firingOf s u e).live = true →
      ((firingOf s u e).tokOf u.hin).kind = 3) →
      let v := beginFiring s t fu u f e
      let w := if (firingOf s u e).live then modTile v t fun x => errs.foldl regError x else v
      exec (.fire t fu errs) s = .next (releaseRead (issueRegs w c t) c t fu u)) ∧
    (mayFire s t fu 1 = some (c, u, f, e) →
      exec (.branchFire t fu) s = .next (emitSome (beginFiring s t fu u f e) c t fu u 512)) ∧
    (mayFire s t fu 2 = some (c, u, f, e) →
      exec (.selectFire t fu) s = .next (emitSome (beginFiring s t fu u f e) c t fu u 512)) ∧
    (mayFire s t fu 3 = some (c, u, f, e) →
      exec (.steerFire t fu) s = .next (emitSome (beginFiring s t fu u f e) c t fu u 512)) ∧
    (mayFire s t fu 5 = some (c, u, f, e) →
      exec (.loopFire t fu) s = .next (emitSome (beginFiring s t fu u f e) c t fu u u.nemit)) ∧
    (mayFire s t fu 4 = some (c, u, f, e) →
      let has := fun i : Nat => ((e.ins[i]?).join).isSome
      let i := if has ((f.mergePtr + 1) % 2) then (f.mergePtr + 1) % 2 else f.mergePtr % 2
      let one : MatchEntry := { e with ins := lset [none, none, none, none] i ((e.ins[i]?).join) }
      let rest := lset e.ins i none
      let store := if rest.any Option.isSome then
          f.store.map fun x => if x.key = e.key then { e with ins := rest, ready := some f.nextReady } else x
        else f.store.filter fun x => x.key != e.key
      let k := { firingOf s u one with tag := (((e.ins[i]?).join).map fun k => k.tok.tag).getD 0 }
      exec (.mergeFire t fu) s = .next (emitSome (modTile s t fun x => setFu x fu { f with
        store := store, nextReady := f.nextReady + 1, mergePtr := i, firing := some k }) c t fu u 8))) ∧
  (∀ (s : State) (t fu c : Nat) (u : UnitCfg) (f : Firing), liveTile s t = some c → unitCfg (tile s t) fu = some u →
    (fuOf (tile s t) fu).firing = some f →
    (u.func = 5 → exec (.loopEmit t fu) s =
      .next (emitSome s c t fu u (u.nemit * (f.emitted / Nat.max 1 u.nemit + 1)))) ∧
    (u.func ≠ 5 → (u.func = 0 → u.slotCount ≤ f.pc) →
      exec (.emit t fu) s = .next (emitSome s c t fu u (copiesOf u f * 8)))) ∧
  (∀ (s : State) (t fu c : Nat) (a b : Nat), liveTile s t = some c → misregistered s t fu = some (a, b) →
    ((fuOf (tile s t) fu).recorded = false → pacesReach (fuOf (tile s t) fu).guard (guardLimit s c t) = true →
      exec (.misregEvent t fu) s = .next (chev (modChase
        (modTile s t fun x => setFu x fu { fuOf (tile s t) fu with recorded := true }) c fun ch => { ch with
          misregs := ch.misregs ++ [⟨s.now, t, fu, a, b,
            ((fuOf (tile s t) fu).store.flatMap fun e =>
              (e.ins.filterMap id).map fun k => k.tok.tag).foldl Nat.min 65535⟩] }) c 9)) ∧
    (pacesReach (fuOf (tile s t) fu).guard (16 * guardLimit s c t) = true →
      exec (.misreg t fu) s = .next (formeFault s c 0x010B t none)))

/-- Completion of the galley events (R270, R271, R274, R280, R281, R285, R475): a feeder starts the fill whose turn it
is; a fill complete in order is injected; a released slot advances the tail; a slip pass is injected and replied at
once; a drain appends the token at its port and writes its full slots; bytes of request input and reply data that met
an error in hub SRAM are spoiled. -/
def Obligations.GalleyEventsComplete : Prop :=
  (∀ (s : State) (feeder t tid : Nat) (errs : List (Nat × Nat)) (k : InGalley) (r : Req), inGalley s t tid = some k →
    feederOf t = feeder →
    (s.fills.countP fun f => f.feeder == feeder) < 16 →
    nextCyclic (kgetD s.feederPtr feeder 0) (feederGalleys s feeder) = some (4096 * t + tid) → k.d.gtid = 0xFFF →
    req s k.n = some r →
    let off := k.g.chunk * (k.d.slotg * 64)
    let n := k.chunkLen s k.g.chunk
    let m := modGalley s t tid takeHead
    exec (.fillStart feeder t tid errs) s = .next (grantWindow (modReq (unstall { m with
      fills := m.fills ++ [⟨feeder, k.c, t, tid, k.g.head, k.g.chunk,
        some (inputGranules (passInput r k.a).1 off n errs)⟩]
      feederPtr := kset m.feederPtr feeder (4096 * t + tid) } k.c (galleyKey t tid)) k.n fun q =>
        { q with taken := Nat.max q.taken (off + n) }) k.n)) ∧
  (∀ (s : State) (feeder t tid : Nat) (errs : List (Nat × Nat)) (k : InGalley), inGalley s t tid = some k →
    feederOf t = feeder → (s.fills.countP fun f => f.feeder == feeder) < 16 →
    nextCyclic (kgetD s.feederPtr feeder 0) (feederGalleys s feeder) = some (4096 * t + tid) → k.d.gtid ≠ 0xFFF →
    (k.source s).isSome = true →
    let take := fun (v : State) (gs : Option (List Granule)) =>
      let m := modGalley v t tid takeHead
      { m with
        fills := m.fills ++ [⟨feeder, k.c, t, tid, k.g.head, k.g.chunk, gs⟩]
        feederPtr := kset m.feederPtr feeder (4096 * t + tid) }
    (∀ (v : State) (gs : List Granule), k.fetch s k.g.chunk = .ok (v, gs) →
      exec (.fillStart feeder t tid errs) s = .next (unstall (take v (some gs)) k.c (galleyKey t tid))) ∧
    (∀ cause : Nat, k.fetch s k.g.chunk = .error cause →
      exec (.fillStart feeder t tid errs) s = .next (stall (take s none) k.c (galleyKey t tid) cause))) ∧
  (∀ (s : State) (n : Nat) (f : Fill) (g : InGalley) (gs : List Granule), s.fills[n]? = some f → f.granules = some gs →
    inGalley s f.tile f.tid = some g →
    creditFree s g.d.stile g.d.gport = true → f.chunk = g.g.inject → f.chunk + 1 ≠ chunkCount g.d (g.stream s).1 →
    let u := unstall s g.c (galleyKey g.d.stile g.d.tid)
    let v := injectChunk u g f.slot f.chunk gs
    exec (.fillComplete n) s = .next { v with fills := v.fills.erase f }) ∧
  (∀ (s : State) (n : Nat) (f : Fill) (g : InGalley) (gs : List Granule), s.fills[n]? = some f → f.granules = some gs →
    inGalley s f.tile f.tid = some g →
    creditFree s g.d.stile g.d.gport = true → f.chunk = g.g.inject → f.chunk + 1 = chunkCount g.d (g.stream s).1 →
    g.d.gtid ≠ 0xFFF →
    let u := unstall s g.c (galleyKey g.d.stile g.d.tid)
    let v := injectChunk u g f.slot f.chunk gs
    exec (.fillComplete n) s = .next (galleyDone { v with fills := v.fills.erase f } g)) ∧
  (∀ (s : State) (t tid slot c : Nat) (g : Galley), liveTile s t = some c → galley (tile s t) tid = some g →
    g.slots[slot]? = some .taken → slotNamed (tile s t) tid slot = false → exec (.slotRelease t tid slot) s =
      .next (modGalley s t tid fun g => advanceTail g.slots.length { g with slots := lset g.slots slot .released })) ∧
  (∀ (s : State) (t tid : Nat) (errs : List (Nat × Nat)) (k : InGalley) (r : Req), inGalley s t tid = some k →
    k.slips s = true → (k.stream s).1 ≤ (k.stream s).2 → req s k.n = some r → ((k.stream s).1 = 0 ∨ k.g.inject = 1) →
    exec (.slipIn t tid errs) s = .next (entryCreditOr s k fun s' => injectEnd s' k (k.stream s).1)) ∧
  (∀ (s : State) (t tid : Nat) (errs : List (Nat × Nat)) (k : InGalley) (r : Req), inGalley s t tid = some k →
    k.slips s = true → (k.stream s).1 ≤ (k.stream s).2 → req s k.n = some r → (k.stream s).1 ≠ 0 → k.g.inject ≠ 1 →
    k.g.slots[k.g.head]? = some .empty → creditFree s k.d.stile k.d.gport = true →
    let len := (k.stream s).1
    let u := modReq (unstall s k.c (galleyKey k.d.stile k.d.tid)) k.n fun q => { q with taken := Nat.max q.taken len }
    exec (.slipIn t tid errs) s = .next (entryCreditOr (injectChunk (modGalley u t tid takeHead) k k.g.head 0
      (inputGranules (passInput r k.a).1 0 len errs)) k fun s' => injectEnd s' k len)) ∧
  (∀ (s : State) (t tid : Nat) (errs : List (Nat × Nat)) (k : OutGalley) (a : ArrayPass),
    outGalley s t tid = some k → k.a = some a →
    k.slips = true → outputWhole k.size.2 k.g = true →
    exec (.slipOut t tid errs) s =
      .next (outputWritten (toReply s a.req (hubRead (k.g.staged.take k.d.outlen) errs)) k)) ∧
  (∀ (s : State) (t tid : Nat) (k : OutGalley) (q : QTok) (r : List QTok), outGalley s t tid = some k →
    (portQ (tile s t) k.d.gport).toks = q :: r → k.g.lockup = false → q.landed = true →
    (q.tok.kind = 4 → exec (.drainTake t tid) s = .next (drainLockup s k r q)) ∧
    (q.tok.kind ≠ 4 → k.a.isSome = true → outputWhole k.size.2 k.g = false →
      k.g.rest = [] → k.g.full.length < k.ring.2 →
      let g := appendToken s t k.ring k.g q.tok
      let v := modTile s t fun x => setPortQ x k.d.gport { portQ x k.d.gport with toks := r }
      let w := unstall (if q.landing.isSome then releaseLanding v k.c t k.d.gport q else giveCredit v k.c t k.d.gport q)
        k.c (galleyKey t tid)
      g.overfull k.size = false → exec (.drainTake t tid) s = .next (modGalley
        (if k.slips then w else modTile w t (stageInMt k.d g)) t tid fun _ => closeOutput k.ring k.size k.slips g))) ∧
  (∀ (s : State) (t tid : Nat) (errs : List (Nat × Nat)) (k : OutGalley) (a : ArrayPass) (off : Nat)
      (b : List (Byte × Bool)) (rest : List (Nat × List (Byte × Bool))),
    outGalley s t tid = some k → k.a = some a → k.g.full = (off, b) :: rest → k.d.gtid = 0xFFF →
    let g := slotWritten k k.g
    let v := modTile (unstall (modGalley (toReply s a.req (hubRead b errs)) t tid fun _ => g) k.c (galleyKey t tid)) t (stageInMt k.d g)
    exec (.drainWrite t tid errs) s =
      .next (if g.full.isEmpty && outputWhole k.size.2 g then outputWritten v k else v)) ∧
  (∀ (s : State) (t tid : Nat) (errs : List (Nat × Nat)) (k : OutGalley) (a : ArrayPass) (off : Nat)
      (b : List (Byte × Bool)) (rest : List (Nat × List (Byte × Bool))) (d : TensorCfg) (o : Obj),
    outGalley s t tid = some k → k.a = some a → k.g.full = (off, b) :: rest → k.d.gtid ≠ 0xFFF →
    reqEnded s a.req = false → tensorOf k.forme.body k.d.gtid = some d → findObj s k.c d.objId = some o →
    (∀ g ∈ writeGrans (elemWrites d k.part off b), accessStall s o.isH (objPA o (64 * g)) = none) →
    let g := slotWritten k k.g
    let v := modTile (unstall (modGalley (writeTensor s d o k.part off b) t tid fun _ => g) k.c (galleyKey t tid))
      t (stageInMt k.d g)
    exec (.drainWrite t tid errs) s =
      .next (if g.full.isEmpty && outputWhole k.size.2 g then outputWritten v k else v))

/-- Completion of the serving events (R300, R312, R316, R317, R408): the request whose turn it is begins its pass; a
walk of the concordance takes its hits; the Compositor draws for the row whose turn it is; a drawn token is
committed to the log, and its stop reasons are tested; a step takes its holds. -/
def Obligations.ServingEventsComplete : Prop :=
  (∀ (s : State) (c forme n : Nat) (i : Image) (r : Req) (p : Pass), imageOf (chase s c) forme = some i →
    (chase s c).fenced = false → s.power.hold = false → kget (chase s c).injecting forme = none →
    formeEnters s (chase s c) i = true →
    let ready := readyOn s c forme i.body
    let top := (ready.map fun e => e.2.prio).foldl Nat.max 0
    nextCyclic (kgetD (chase s c).lastServed (8 * forme + top) 0)
      ((ready.filter fun e => e.2.prio == top).map Prod.fst) = some n →
    req s n = some r → r.pass = some p → monitor s n r p = none → r.holdsDone = true →
    exec (.passBegin c forme) s = .next (beginPass s n r p i)) ∧
  (∀ (s : State) (n : Nat) (r : Req), req s n = some r → r.state = .walking →
    let hits := matched (chase s r.chase).conc (bucketsOf s r.chase r.entry.concObj) r.entry (promptBlocks s r)
    let m := r.reserved.length - hits.length
    let t := modChase (setConc s r.chase ((chase s r.chase).conc.map fun e =>
      if hits.contains e then { e with refs := e.refs + 1, lastUse := s.now } else e)) r.chase fun ch =>
        freeFolios ch r.entry.poolObj (r.reserved.drop m)
    exec (.walkComplete n) s = .next (readyNext (modReq t n fun r => { r with
      state := .prefill, folios := hits.map fun e => (e.folio, true), reserved := r.reserved.take m
      filled := 16 * hits.length }) n)) ∧
  (∀ (s : State) (die c : Nat) (k : Compositor) (x : Nat × Nat × Nat) (r : Req) (p : Pass), s.comps[die]? = some k →
    nextCyclic k.ptr ((k.rows.map Prod.fst).foldl nset []) = some c → (k.rows.find? fun x => x.1 == c) = some x →
    req s x.2.1 = some r → r.pass = some p → r.state.final = false → r.drawn = none →
    exec (.compositorRow die) s = .next (drawFor (compWaits { s with
      comps := lmod s.comps die fun k' => { k' with ptr := c, rows := k'.rows.erase x } } die) x.2.1 x.2.2 r p)) ∧
  (∀ (s : State) (n tok : Nat) (sp ends : Bool) (r : Req), req s n = some r → r.drawn = some (tok, sp, ends) →
    r.state.final = false →
    let q : Req := { r with
      tokens := r.tokens ++ [(tok, sp)], spoiled := r.spoiled || sp, drawn := none, state := .decoding
      accepted := if ends then r.accepted else r.accepted + 1 }
    let t := modReq s n fun _ => q
    (stopReason q tok ≠ 0 → exec (.commit n) s = .next (stopReq t n (stopReason q tok))) ∧
    (stopReason q tok = 0 → exec (.commit n) s =
      .next (if ends then endRound (sendPartial t n) n q else sendPartial t n))) ∧
  (∀ (s : State) (n : Nat) (r : Req) (p : Pass), req s n = some r → r.pass = some p → r.state.final = false →
    r.state ≠ .walking → p.begun = false → r.holdsDone = false → (chase s r.chase).fenced = false →
    exec (.stepHold n) s = .next (acquire s n r p))

/-- Completion of the memory events (R241, R242, R243, R244, R245, R258, R259, R262): a write puts its bytes into the
granule, and a read of it counts what went wrong; an access of memory that does not serve waits; a retrained channel
serves again, or is lost; a row with the events that R245 names is repaired by a spare row, or noted where there is none;
the patrol reads its granule and moves on; a granule joins, zeroed; a move ends where it led; the window fills. -/
def Obligations.MemoryEventsComplete : Prop :=
  (∀ (s : State) (isH : Bool) (pa c : Nat) (data : Bytes) (strobe : List Bool) (spoiled : Bool)
      (outs : List GranuleOutcome), paExists s isH pa = true → chaseOfGranule s isH (granuleOf isH pa) = some c →
    ((List.range 64).any fun i => strobe.getD i false) = true →
    let all := (List.range 64).all fun i => strobe.getD i false
    (∀ k, accessStall s isH pa = some k →
      exec (.granuleWrite isH pa c data strobe spoiled outs) s = .next (stallMem s c k)) ∧
    (accessStall s isH pa = none → isLost (tier s isH) isH pa = true →
      exec (.granuleWrite isH pa c data strobe spoiled outs) s = .next (countMem s isH pa 1)) ∧
    (∀ v o, accessStall s isH pa = none → isLost (tier s isH) isH pa = false → accessTries 4 s isH pa outs = (v, some o) →
      (all = true → exec (.granuleWrite isH pa c data strobe spoiled outs) s =
        .next (setTier v isH (granulePut (tier v isH) isH (pa / 64 * 64) (padTo 64 data) spoiled))) ∧
      (all = false →
        let w := (decodeGranule v isH pa o).1
        let old := granuleData (tier w isH) isH pa
        exec (.granuleWrite isH pa c data strobe spoiled outs) s = .next (setTier w isH (granulePut (tier w isH) isH
          (pa / 64 * 64) ((List.range 64).map fun i => if strobe.getD i false then data.getD i 0 else old.data.getD i 0)
          (old.spoil || spoiled)))))) ∧
  (∀ (s t : State) (isH : Bool) (pa c : Nat) (outs : List GranuleOutcome) (spoil : Option Bool), paExists s isH pa = true →
    chaseOfGranule s isH (granuleOf isH pa) = some c →
    (∀ k, accessStall s isH pa = some k → exec (.granuleRead isH pa (some c) outs) s = .next (stallMem s c k)) ∧
    (accessStall s isH pa = none → readGranule s isH pa outs = (t, spoil) →
      exec (.granuleRead isH pa (some c) outs) s = .next (if spoil = some true then countSpoiled t c 1 else t))) ∧
  (∀ (s : State) (isH : Bool) (pa : Nat) (outs : List GranuleOutcome), paExists s isH pa = true →
    (tier s isH).retraining.contains (channelOf isH pa) = false → (isH = true → dieInReset s (pa / 2 ^ 30 / 288) = false) →
    exec (.granuleRead isH pa none outs) s = .next (readGranule s isH pa outs).1) ∧
  (∀ (s : State) (isH : Bool) (chan : Nat), (tier s isH).retraining.contains chan = true →
    let lanes := (tier s isH).shorted.countP fun x => x.1 == chan
    let m := { tier s isH with
      retraining := (tier s isH).retraining.filter (· != chan)
      shorted := (tier s isH).shorted.filter fun x => x.1 != chan }
    let back := fun v : State => memResume v (· == memKey isH chan)
    exec (.retrainDone isH chan false) s =
      .next (back (healthEvent (setTier s isH { m with lost := nset m.lost chan }) 2)) ∧
    ((isH = false ∨ lanes = 0) → exec (.retrainDone isH chan true) s = .next (back (setTier s isH m))) ∧
    (isH = true → 0 < lanes → exec (.retrainDone isH chan true) s = .next (back (healthEvent { setTier s isH m with
      spares := { s.spares with
        hbmLanes := lset s.spares.hbmLanes (chan / 32) (s.spares.hbmLanes.getD (chan / 32) 0 + lanes) } } 4)))) ∧
  (∀ (s : State) (isH : Bool) (row : Nat), rowDue s isH row = true →
    let m := tier s isH
    let ch := rowChannel row
    let back := fun v : State => memResume v (· == memKey isH ch)
    exec (.softPpr isH row false) s = .next (back (setTier s isH { m with noSpare := nset m.noSpare row })) ∧
    exec (.softPpr isH row true) s = .next (back (healthEvent { setTier s isH { m with
        rowEvents := m.rowEvents.map fun e => if e.row = row then { e with mended := true } else e
        repaired := logRow m isH row } with
      spares := if isH then { s.spares with
          hbmRows := lset s.spares.hbmRows (ch / 32) (s.spares.hbmRows.getD (ch / 32) 0 + 1) }
        else { s.spares with ddrRows := lset s.spares.ddrRows ch (s.spares.ddrRows.getD ch 0 + 1) } } 4))) ∧
  (∀ (s v : State) (isH sp : Bool) (outs : List GranuleOutcome),
    let pa := patrolFrom 6 s isH (tier s isH).patrol
    patrolled s isH pa = true → granuleHeld s isH pa = false → accessStall s isH pa = none →
    (granKeys s isH (granuleOf isH pa)).isSome = true → readGranule s isH pa outs = (v, some sp) →
    exec (.patrolRead isH outs) s = .next (setTier v isH { tier v isH with patrol := patrolFrom 6 v isH (pa + 64) })) ∧
  (∀ (s : State) (c g : Nat) (isH : Bool), (chase s c).creating.contains (if isH then 1 else 2, g) = true →
    let t := if isH then 1 else 2
    let v := modChase (setTier s isH (zeroGranule (tier s isH) isH g)) c fun ch =>
      { ch with
        creating := ch.creating.filter (· != (t, g))
        granH := if isH then nset ch.granH g else ch.granH
        granB := if isH then ch.granB else nset ch.granB g }
    exec (.granuleJoin c isH g) s =
      .next (if (chase v c).creating.isEmpty then replyCmd v (liveOfChase v c 0x0020) St.done 0 else v)) ∧
  (∀ (s : State) (c id : Nat) (o : Obj) (m : MoveOp), findObj s c id = some o → o.move = some m →
    (∀ k, copyStall s o.isH (m.tier == 1) (o.blocks.zip m.blocks) = some k →
      exec (.moveComplete c id) s = .next (stallMem s c k)) ∧
    (copyStall s o.isH (m.tier == 1) (o.blocks.zip m.blocks) = none →
      let v := modObj (copyBlocks s o.isH (m.tier == 1) (o.blocks.zip m.blocks)) c id fun o =>
        { o with
          tier := m.tier, homeDie := m.die, blocks := m.blocks, move := none, window := 0, win := [], lastFill := none
          state := if o.isMutable then .idle else .sealed
          oldHomes := if o.readers.isEmpty then o.oldHomes else o.oldHomes ++ [⟨o.tier, o.blocks, o.win, o.readers⟩] }
      let w := (fitMeta v c o.tier (metaDie o.tier o.homeDie o.blocks)).getD v
      exec (.moveComplete c id) s = .next (wakeObj (o.waiters.length + 1) (replyCmd w (some m.cmd) St.done 0) c id))) ∧
  (∀ (s : State) (c id block b : Nat) (o : Obj), findObj s c id = some o → o.tier = 2 → o.state = .sealed →
    block < o.blocks.length → o.win.any (fun e => e.2.1 == some block) = false → (chase s c).fenced = false →
    (nextFill s o = some block ∨ fillWanted s o block = true) → fillSlot o.win = some b →
    let v := copyBlock s false (o.blocks.getD block 0) true b
    (∀ k, copyStall s false true [(o.blocks.getD block 0, b)] = some k →
      exec (.windowFill c id block) s = .next (stallMem s c k)) ∧
    (copyStall s false true [(o.blocks.getD block 0, b)] = none →
      exec (.windowFill c id block) s = .next (modObj v c id fun o => { o with
        win := o.win.map fun e => if e.1 = b then (b, some block, v.now) else e
        lastFill := some block })))

/-- Completion of the fault events (R475, R476, R477, R478, R482, R483, R486, R490, R499, R502): a fault is taken by
its domain, or by its chase; a reset captures, drains, asserts its line and returns; the watchdogs that are due fire;
a wear sample is averaged; a phase counts its charge, and a worn or uneven one is replaced by a spare one or counted
as failing. -/
def Obligations.FaultEventsComplete : Prop :=
  (∀ (s : State) (f : FaultInfo), classOfCode f.code = some (f.domain / 4096) →
    (f.domain / 4096 = 4 → exec (.faultDetect f) s =
      .next (formeFault s (f.domain % 4096) f.code f.tile (chevOf f.code))) ∧
    (f.domain / 4096 ≠ 4 → exec (.faultDetect f) s = .next (beginReset
      (if f.code = 0x0202 then tileEvent s (f.domain % 4096) 0 else s) f.domain f.code f.tile))) ∧
  (∀ (s : State) (domain : Nat) (op : ResetOp), resetOf s domain = some op →
    (op.captured = false → 1 ≤ domain / 4096 → domain / 4096 ≤ 4 → (∀ c ∈ op.chases, draining s c = false) →
      ∃ t r, exec (.captureDone domain) s = .next t ∧ resetOf t domain = some r ∧ r.captured = true ∧ r.capNs = s.now ∧
        ∀ c ∈ op.chases, kget r.heads c = some (pullHead s c op)) ∧
    (op.captured = true → op.drained = false → ∃ t, exec (.pullDrainDone domain) s = .next t ∧
      ∀ e ∈ t.faults.buffers, e.2.1 ≠ domain) ∧
    (op.line = false → ((domain / 4096 = 1 ∨ domain / 4096 = 4) ∧ op.captured = true ∨
        (domain / 4096 = 2 ∨ domain / 4096 = 3) ∧ op.captured = true ∧ op.drained = true) →
      exec (.resetLineAssert domain) s = .next (modReset s domain fun r => { r with line := true })) ∧
    (op.line = false → op.ns + 200 ≤ s.now →
      (domain / 4096 = 5 → exec (.resetLineAssert domain) s = .next { modReset s domain (fun r => { r with line := true }) with
        ports := lmod s.ports (domain % 4096) fun p => { p with linkUp := false, macsecUp := false, sak := none } }) ∧
      (domain / 4096 = 6 → exec (.resetLineAssert domain) s = .next { modReset s domain (fun r => { r with line := true }) with
        torus := lmod s.torus (domain % 4096) fun p => { p with state := 1 } })) ∧
    (op.line = true → ∃ t, exec (.domainResetComplete domain) s = .next t ∧ resetOf t domain = none)) ∧
  (∀ (s : State) (t fu c : Nat) (f : Firing), chaseOfTile s t = some c → (fuOf (tile s t) fu).firing = some f →
    (chase s c).fenced = false →
    (∀ w ∈ (chase s c).waiting, w.1 = t * 32 + fu → w.2.2 ≠ 0 ∧ w.2.2 ≠ 6) → f.beganNs + 2000 ≤ s.now →
    exec (.firingWd t fu) s = .next (beginReset s (4096 + physOf s t) 0x0201 t)) ∧
  (∀ (s : State) (n : Nat) (r : Req) (x : Nat × ArrayPass), req s n = some r → x ∈ passesOf s r.chase n →
    x.2.entryNs + progressLimit s r (bodyOf s r.chase x.1) (betaOf s r.chase (bodyOf s r.chase x.1)) ≤ s.now →
    exec (.progress n) s = .next (formeFault s r.chase 0x010C 0x7FF (chevOf 0x010C))) ∧
  (∀ (s : State) (n : Nat) (d : Descriptor) (l : List Descriptor), s.doorbells[n]? = some (d :: l) →
    d.writtenNs + 10000000 ≤ s.now → exec (.commandWd 0 n) s = .next (beginReset s 0x7000 0x0701 0x7FF)) ∧
  (∀ (s : State) (n : Nat), exec (.commandWd 1 n) s = .next (beginReset s 0x7000 0x0701 0x7FF)) ∧
  (∀ (s : State) (n : Nat), commandLate s n = true → exec (.commandWd 2 n) s = .next (beginReset s 0x7000 0x0701 0x7FF)) ∧
  (∀ (s : State) (code domain : Nat) (r : ResetOp), domain / 4096 = 7 →
    (s.faults.resets.find? fun r => r.domain / 4096 == 7 && r.domain == domain && r.code == code) = some r →
    exec (.packageReset code domain) s = .next (packageReset s code domain r.ns)) ∧
  (∀ (s : State) (phys delay : Nat), (spareOf s phys).paceAcc.2 + 1 < 1000 → exec (.wearSample phys delay) s =
    .next (modSpare s phys fun x => { x with paceAcc :=
      ((spareOf s phys).paceAcc.1 + delay * 1000 * tauPs s 13 / tauPs s s.power.curBin, x.paceAcc.2 + 1) })) ∧
  (∀ (s : State) (phys delay : Nat), (spareOf s phys).paceAcc.2 + 1 = 1000 →
    let sum := (spareOf s phys).paceAcc.1 + delay * 1000 * tauPs s 13 / tauPs s s.power.curBin
    let v := modSpare s phys fun x => { x with paceAcc := (0, 0), paceNorm := Nat.min 2047 (sum / 1000000) }
    exec (.wearSample phys delay) s = .next (if 1080 * 1000000 < sum then retireTile v phys else v)) ∧
  (∀ (s : State) (rail phase charge : Nat) (uneven : Bool) (r : Rail), s.spares.rails[rail]? = some r →
    phase < r.phases + r.spares + r.retired → r.lost.contains phase = false →
    let q := { r with em := kset r.em phase (kgetD r.em phase 0 + charge) }
    let worn := uneven || decide (s.fuses.emBudget ≤ kgetD r.em phase 0 + charge)
    ∃ t r', exec (.phaseRetire rail phase charge uneven) s = .next t ∧ t.spares.rails[rail]? = some r' ∧
      (worn = false → r' = q) ∧
      (worn = true → 0 < r.spares →
        r' = { q with spares := r.spares - 1, retired := r.retired + 1, lost := r.lost ++ [phase] }) ∧
      (worn = true → r.spares = 0 → r' = { q with failing := r.failing + 1, lost := r.lost ++ [phase] }))

/-- Completion of the torus events (R445, R446, R448, R449, R451, R454, R455, R459, R465, R468, R470): a neighbour
that agrees comes up, and one that does not says why; a frame that opens in sequence is taken, one that does not open
is counted, one out of sequence is asked for again; the replay buffer, training and lane sparing, the exchange of new
keys and their boundary, time, loss of signal, the JOIN, FENCE and REJOIN messages of a job. -/
def Obligations.TorusEventsComplete : Prop :=
  (∀ (s : State) (port : Nat) (p : TorusPort) (cfg : BootConfig) (m : DiscoveryMsg), s.torus[port]? = some p →
    s.boot.cfg = some cfg → p.state = 2 →
    (∀ cause, discoveryCause s cfg.placement port m = some cause → exec (.discoveryMsg port m) s =
      .next (modPort s port fun p => { p with state := 3, cause := cause, disc := none })) ∧
    (∀ nonce eph, discoveryCause s cfg.placement port m = none → p.disc = some (nonce, eph) →
      ∃ t q, exec (.discoveryMsg port m) s = .next t ∧ t.torus[port]? = some q ∧
        q.state = (if m.lifecycle = 2 ∧ s.fuses.lifecycle = 2 then 5 else 4) ∧ q.peerPub = some (m.certs.take 97) ∧
        (q.keyTx, q.keyRx) = (some (linkKeys (myIndex s) (coordIndex m.x m.y m.z) nonce m.nonce eph m.eph).1,
          some (linkKeys (myIndex s) (coordIndex m.x m.y m.z) nonce m.nonce eph m.eph).2) ∧
        q.credits = [128, 128] ∧ q.rxSeq = 0 ∧ q.txSeq = 0)) ∧
  (∀ (s : State) (port : Nat) (p : TorusPort) (side : List (Bool × Bool)), s.torus[port]? = some p → 4 ≤ p.state →
    exec (.linkFrame port none side) s = .next (sendCtl s port "NAK" [p.rxSeq + 1]) ∧
    ∀ b : Bytes,
      let h := headOf b
      let q := if h.rekey = true ∧ p.newRx.isSome = true then p.boundaryRx else p
      ((q.keyRx.bind fun k => openFrame k q.genRx b) = none →
        exec (.linkFrame port (some b) side) s = .next (badFrame s port p)) ∧
      (∀ data, (q.keyRx.bind fun k => openFrame k q.genRx b) = some data →
        (h.seq ≠ q.rxSeq + 1 → exec (.linkFrame port (some b) side) s = .next (sendCtl s port "NAK" [p.rxSeq + 1])) ∧
        (h.seq = q.rxSeq + 1 →
          let v := modPort s port fun _ => q.accept h
          (h.type ≠ 1 → exec (.linkFrame port (some b) side) s = .next (answerFrame v port h.type)) ∧
          (∀ id j, h.type = 1 → q.state = 5 → q.job = some id → findJob v id = some j →
            exec (.linkFrame port (some b) side) s = .next (answerFrame
              (relieve ((splitUnits data side).foldl (fun s u => takeUnit s port j h u) v) port j) port 1))))) ∧
  (∀ (s : State) (port seq : Nat) (p : TorusPort), s.torus[port]? = some p → 4 ≤ p.state →
    (p.replay.filter fun f => decide (seq ≤ f.seq)) ≠ [] → exec (.frameNak port seq) s = .next (modPort s port fun q =>
      { q with
        frames := q.frames ++ (p.replay.filter fun f => decide (seq ≤ f.seq)).map fun f => (f.bytes, f.side)
        counts := bump q.counts 0 })) ∧
  (∀ (s : State) (port lane : Nat) (ok : Bool) (p : TorusPort), s.torus[port]? = some p → p.state ≠ 0 →
    (ok = false ∨ (pickLanes s port (nset p.lanesFailed lane)).length < 8 → exec (.laneSpareRetrain port lane ok) s = .next
      (portDown (modPort s port fun q => { q with lanesFailed := nset p.lanesFailed lane, retraining := false }) port 11)) ∧
    (ok = true → 8 ≤ (pickLanes s port (nset p.lanesFailed lane)).length →
      ∃ t q, exec (.laneSpareRetrain port lane ok) s = .next t ∧ t.torus[port]? = some q ∧ q.state = p.state ∧
        q.retraining = false ∧ q.lanesFailed = nset p.lanesFailed lane ∧ 
        q.sparesUsed = (pickLanes s port (nset p.lanesFailed lane)).countP fun l => decide (8 ≤ l))) ∧
  (∀ (s : State) (port : Nat) (p : TorusPort), s.torus[port]? = some p → 4 ≤ p.state → p.rekeying = false →
    (2147483648 ≤ p.txSeq ∨ 2147483648 ≤ p.rxSeq ∨ p.keyNs + 3600000000000 ≤ s.now) → exec (.linkRekey port) s =
      .next (sendRekey s port)) ∧
  (∀ (s : State) (port : Nat) (nonce eph sig : Bytes) (p : TorusPort) (cfg : BootConfig) (n e pub : Bytes),
    s.torus[port]? = some p → s.boot.cfg = some cfg → 4 ≤ p.state → p.peerPub = some pub →
    ecdsaOk pub (sha384 (nonce ++ eph)) sig = true → p.rekeying = true → p.disc = some (n, e) →
    let nb := neighbour cfg.placement port
    let ks := linkKeys (myIndex s) (coordIndex nb.1 nb.2.1 nb.2.2) n nonce e eph
    (p.acked ≠ p.txSeq → exec (.rekeyMsg port nonce eph sig) s = .next (modPort s port fun _ =>
      { p with newTx := some ks.1, newRx := some ks.2, disc := none })) ∧
    (p.acked = p.txSeq → ∃ t q, exec (.rekeyMsg port nonce eph sig) s = .next t ∧ t.torus[port]? = some q ∧
      q.keyTx = some ks.1 ∧ q.newTx = none ∧ q.newRx = some ks.2 ∧ q.keyRx = p.keyRx ∧ q.disc = none ∧
      q.genTx = p.genTx + 1 ∧ q.txSeq = 1 ∧ q.rxSeq = p.rxSeq ∧ q.rekeying = true ∧ q.state = p.state)) ∧
  (∀ (s : State) (port : Nat) (nonce eph sig : Bytes) (p : TorusPort), s.torus[port]? = some p →
    p.peerPub.any (fun k => ecdsaOk k (sha384 (nonce ++ eph)) sig) = false →
    exec (.rekeyMsg port nonce eph sig) s = .next s) ∧
  (∀ p : TorusPort, p.boundaryRx.keyRx = p.newRx ∧ p.boundaryRx.newRx = none ∧ p.boundaryRx.genRx = p.genRx + 1 ∧
    p.boundaryRx.rxSeq = 0 ∧ p.boundaryRx.rekeying = p.newTx.isSome) ∧
  (∀ (s : State) (port leader hops t1 t2 t3 : Nat) (p : TorusPort), s.torus[port]? = some p → 4 ≤ p.state →
    let cur := if s.health.hops = 0 then myIndex s else s.health.leader
    let v := modPort s port fun p => { p with oneWay := Nat.min 4095 ((t3 - t1) / 2) }
    let synced := decide (p.upNs + 10000000 ≤ s.now)
    ((leader < cur ∨ leader = cur ∧ leader < myIndex s) → exec (.syncMsg port leader hops t1 t2 t3) s = .next (elapse
      { v with
        draws := s.draws + 1
        health := { v.health with leader := leader, hops := Nat.min 127 (hops + 1), synced := synced } }
      (Nat.min 100 (Nat.min (t2 + (t3 - t1) / 2 - t3) (Config.slew s.draws))))) ∧
    (¬(leader < cur ∨ leader = cur ∧ leader < myIndex s) → exec (.syncMsg port leader hops t1 t2 t3) s = .next { v with
      health := { v.health with
        leader := cur
        hops := if cur = myIndex s then 0 else v.health.hops
        synced := synced } })) ∧
  (∀ (s : State) (port : Nat) (p : TorusPort) (cfg : BootConfig), s.torus[port]? = some p → s.boot.cfg = some cfg →
    p.state ≠ 0 → p.job = none → exec (.lossOfSignal port) s =
      .next (portDown (modPort s port fun p => { p with state := 0 }) port 11)) ∧
  (∀ (s : State) (port id : Nat) (p : TorusPort) (cfg : BootConfig), s.torus[port]? = some p → s.boot.cfg = some cfg →
    p.state ≠ 0 → p.job = some id →
    let nb := neighbour cfg.placement port
    exec (.lossOfSignal port) s = .next (portDown (jobFailure (modPort s port fun p => { p with state := 0 }) id
      (coordWord (coordIndex nb.1 nb.2.1 nb.2.2)) 1) port 11)) ∧
  (∀ (s : State) (port : Nat) (p : TorusPort) (m : JoinMsg), s.torus[port]? = some p → 4 ≤ p.state →
    let v := modPort s port fun p => { p with join := some m }
    (p.job = none → exec (.joinMsg port m) s = .next v) ∧
    (∀ id j, p.job = some id → findJob v id = some j →
      (j.state = .forming → exec (.joinMsg port m) s = .next (takeJoin v id port m)) ∧
      (j.state ≠ .forming → m.jobId = id → exec (.joinMsg port m) s = .next (sendCtl v port "JOIN" (joinFields v j))))) ∧
  (∀ (s : State) (id : Nat) (j : Job), findJob s id = some j → j.state = .forming → j.openedNs + 10000000000 ≤ s.now →
    exec (.joinTimeout id) s = .next (removeJob (endJobCmds s j St.wrongState 0x0D06) id)) ∧
  (∀ (s : State) (port id step coord cause : Nat) (j : Job), findJob s id = some j → (j.state = .ready ∨ j.state = .stepping) →
    let v := haltJob (sendHeld s j (some port) "FENCE" [id, step, coord, cause]) id coord cause
    exec (.fenceMsg port id step coord cause) s = .next (if j.state = .stepping ∧ (chase v j.fields.chase).fenced = false
      then fenceForFault v j.fields.chase else v)) ∧
  (∀ (s : State) (port id step epoch : Nat) (j : Job), findJob s id = some j → j.state = .halted →
    let v := sendCtl (sendHeld s j (some port) "REJOIN" [id, step, epoch]) port "REJOIN_ACK"
      [id, myIndex (sendHeld s j (some port) "REJOIN" [id, step, epoch]), rejoinDetail s j step]
    exec (.rejoinMsg port id step epoch) s = .next (if rejoinDetail s j step ≠ 0 then v else
      resumeJob (modJob v id fun j => { j with rejoinFrom := some port, rejoinStep := step }) id step epoch)) ∧
  (∀ (s : State) (port id device detail : Nat) (j : Job), findJob s id = some j →
    (∀ p, j.rejoinFrom = some p → p ≠ port → exec (.rejoinAck port id device detail) s =
      .next (sendCtl s p "REJOIN_ACK" [id, device, detail])) ∧
    (j.rejoinFrom = none → j.state = .rejoining → detail = 0 → exec (.rejoinAck port id device detail) s =
      .next (finishRejoin (modJob s id fun j => { j with acks := nset j.acks device }) id)) ∧
    (j.rejoinFrom = none → j.state = .rejoining → detail ≠ 0 →
      let v := modJob (endJobCmds s j St.wrongState detail) id fun j => { j with state := .halted, cmds := [], acks := [] }
      exec (.rejoinAck port id device detail) s =
        .next (sendHeld v j none "FENCE" [id, j.rejoinStep, myCoord v, 0]))) ∧
  (∀ (s : State) (port : Nat) (failed : List Nat) (p : TorusPort), s.torus[port]? = some p → p.state = 1 →
    let picks := pickLanes s port failed
    let v := modPort s port fun q => { q with
      lanesFailed := failed, retraining := false, sparesUsed := picks.countP fun l => decide (8 ≤ l) }
    (8 ≤ picks.length → exec (.torusPortTrained port failed) s = .next (startDiscovery v port)) ∧
    (picks.length < 8 → exec (.torusPortTrained port failed) s = .next (portDown v port 11)))

/-- Completion of the pin and power events (R513, R519, R526, R529, R533, R534, R570): input power and its loss, EPO_N,
THERM_TRIP_N, RESET_N, PWR_ALERT_N, the reference clocks, and an input out of range. -/
def Obligations.PinEventsComplete : Prop :=
  (∀ s : State, exec .vinRise s = .next { startUp s with
    thermal := { (startUp s).thermal with
      vin := 3000
      inputOor := true } }) ∧
  (∀ s : State, (stopDevice none s).boot.state = 7 ∧ exec .vinUnder s = .next { stopDevice none s with
    boot := { (stopDevice none s).boot with underVolt := true } }) ∧
  (∀ s : State, exec .vinOver s = .next (stopDevice (some 4) s)) ∧
  (∀ s : State, exec .epoN s = .next (stopDevice (some 1) { s with pins := { s.pins with epoN := false } })) ∧
  (∀ s : State, exec .thermTripN s = .next (stopDevice (some (if s.thermal.tripOwn then 2 else 3))
    { s with pins := { s.pins with thermTripN := false } })) ∧
  (∀ (s : State) (t : Nat), (s.thermal.tripOwn = false ∨ t < 90) → exec (.thermTripRelease t) s = .next { s with
    thermal := { s.thermal with tripOwn := false }
    pins := { s.pins with thermTripN := true } }) ∧
  (∀ s : State, exec .epoNRelease s = .next { s with pins := { s.pins with epoN := true } }) ∧
  (∀ s : State, s.boot.underVolt = false → s.pins.epoN = true →
    (s.boot.state ≠ 7 → exec .resetN s = .next (packageReset s 0x0704 0x7000 s.now)) ∧
    (s.boot.state = 7 → s.pins.thermTripN = true → exec .resetN s = .next (startUp s))) ∧
  (∀ s : State, ∃ t, exec .inputPowerLoss s = .next t ∧ t.boot.state = 7 ∧ t.boot.underVolt = true ∧ t.sessions = [] ∧
    t.pending = s.pending ∧ t.pins = (interruptClaim s).pins ∧ t.fuses = (interruptClaim s).fuses) ∧
  (∀ (s : State) (clk : Nat), exec (.refclkReturn clk) s = .next { s with
    pins := { s.pins with
      refclk := lset s.pins.refclk clk true
      holdover := lset s.pins.holdover clk false } }) ∧
  (∀ (s : State) (clk : Nat), exec (.refclkLoss clk) s = .next { s with
    pins := { s.pins with
      refclk := lset s.pins.refclk clk false
      holdover := if s.boot.state = 0 then s.pins.holdover else lset s.pins.holdover clk true } }) ∧
  (∀ s : State, ∃ t, exec .pwrAlertN s = .next t ∧ t.pins.pwrAlertN = false ∧ t.power.alert = true ∧
    t.power.grant = false) ∧
  (∀ s : State, ∃ t, exec .alertRelease s = .next t ∧ t.pins.pwrAlertN = true ∧ t.power.alert = false) ∧
  (∀ (s : State) (vin : Nat), exec (.inputOorChange vin) s = .next (endGrant { s with
    thermal := { s.thermal with
      vin := vin
      inputOor := decide (vin < 3200 ∨ 4000 < vin) } })) ∧
  (∀ (s : State) (pair far near : Nat), (far + 50 < near ∨ near + 50 < far) → pair < 6 →
    nbit s.thermal.senseOpen pair = false →
    let v := endGrant { s with thermal := { s.thermal with senseOpen := s.thermal.senseOpen + 2 ^ pair } }
    ((pair = 0 ∨ pair = 5 ∨ v.power.setMv = 0) → exec (.senseCheck pair far near) s = .next v) ∧
    (1 ≤ pair → pair ≤ 4 → v.power.setMv ≠ 0 → exec (.senseCheck pair far near) s =
      .next (followRails { v with power := { v.power with railsMv := lset v.power.railsMv (pair - 1) near } }))) ∧
  (∀ (s : State) (n lane : Nat),
    exec (.laneShort 0 n lane) s = .next { s with
      torus := lmod s.torus n fun p => { p with retraining := true, lanesFailed := nset p.lanesFailed lane } } ∧
    exec (.laneShort 1 n lane) s = .next { s with
      ports := s.ports.mapIdx fun m p =>
        if m / 2 = n ∧ (p.split = false ∨ m % 2 = lane / 4) then { p with linkUp := false, retraining := true } else p } ∧
    exec (.laneShort 2 n lane) s = .next { s with
      memH := { s.memH with
        retraining := nset s.memH.retraining n
        shorted := s.memH.shorted ++ [(n, lane)] } } ∧
    exec (.laneShort 3 n lane) s = .next { s with
      memB := { s.memB with
        retraining := nset s.memB.retraining n
        shorted := s.memB.shorted ++ [(n, lane)] } })

/-- Completion of the power and temperature controls (R344, R511, R517, R520, R523, R524, R526): a sample of the
sensors names the hottest and the temperature bin; bins follow the lowest core rail, and below the least bin the
device holds; the limiter, the throttle, the hold and the overdrive grant take their samples. -/
def Obligations.PowerControlsComplete : Prop :=
  (∀ (s : State) (sensors : List Nat), ∃ t, exec (.tempSample sensors) s = .next t ∧
    t.thermal.tjMax = (hottest sensors).1 ∧ t.thermal.hotDie = (hottest sensors).2 ∧
    t.thermal.ti = Nat.max (tiOf (hottest sensors).1) s.thermal.ti ∧
    (115 ≤ (hottest sensors).1 → t.thermal.tripOwn = true ∧ t.pins.thermTripN = false) ∧
    (105 ≤ (hottest sensors).1 → t.thermal.floor = true)) ∧
  (∀ (s : State) (t0 : Nat), s.thermal.floor = true → s.thermal.coolNs = some t0 → t0 + 10000000 ≤ s.now →
    exec .thermalFloorEnd s =
      .next (retarget (updateSust { s with thermal := { s.thermal with floor := false } }))) ∧
  (∀ (s : State) (mvs : List Nat),
    let v := { s with power := { s.power with railsMv := mvs } }
    (∀ vi, viOf (railMv v) = some vi →
      exec (.curBinUpdate mvs) s = .next (setBins v (4 * vi + s.thermal.ti) s.power.sustBin)) ∧
    (viOf (railMv v) = none → exec (.curBinUpdate mvs) s = .next (enterHold v))) ∧
  (∀ (s : State) (k t0 : Nat), k < s.thermal.ti → s.thermal.tiFallNs[k]? = some (some t0) → t0 + 1000000 ≤ s.now →
    (∀ j t1, j < k → s.thermal.tiFallNs[j]? = some (some t1) → s.now < t1 + 1000000) →
    exec .tiFall s = .next (retarget (updateSust { s with thermal := { s.thermal with ti := k } }))) ∧
  (∀ (s : State) (mvs : List Nat) (b vi : Nat), s.power.sustNext = some b →
    viOf (railMv { s with power := { s.power with railsMv := mvs } }) = some vi → b / 4 ≤ vi →
    exec (.railsSettled mvs) s = .next (setBins { s with
      power := { s.power with
        railsMv := mvs
        sustNext := none } } s.power.curBin b)) ∧
  (∀ (s : State) (mvs : List Nat), viOf (railMv { s with power := { s.power with railsMv := mvs } }) = none →
    exec (.railsSettled mvs) s = .next (enterHold { s with power := { s.power with railsMv := mvs } })) ∧
  (∀ (s : State) (p : PowerSample),
    let v := takeSample p.watts { s with
      thermal := { s.thermal with
        pinMgt := p.mgtAvg
        pinOwn := p.ownAvg } }
    v.power.setMv ≠ 0 → (effCap v < p.watts ∨ railOver v p.amps = true) → exec (.limiter p) s =
      .next { v with
        power := { v.power with
          limiter := true
          limiterCalmNs := none
          setMv := Nat.max 610 (v.power.setMv - 1) } }) ∧
  (∀ (s : State) (p : PowerSample),
    let v := takeSample p.watts { s with
      thermal := { s.thermal with
        pinMgt := p.mgtAvg
        pinOwn := p.ownAvg } }
    (v.power.setMv = 0 ∨ (p.watts ≤ effCap v ∧ railOver v p.amps = false)) → exec (.limiter p) s = .next (retarget v)) ∧
  (∀ (s : State) (watts t0 : Nat),
    let v := takeSample watts s
    v.power.limiter = true → v.power.limiterCalmNs = some t0 → t0 + 20000 ≤ v.now → exec (.limiterHandback watts) s =
      .next (retarget { v with
        power := { v.power with
          limiter := false
          limiterCalmNs := none } })) ∧
  (∀ (s : State) (watts : Nat),
    let v := takeSample watts s
    v.power.hold = true → atFloor v = true → effCap v < watts →
    (v.power.throttle = 0 ∨ v.power.throttleNs + 2000 ≤ v.now) → exec (.throttleStep watts) s = .next { v with
      power := { v.power with
        throttle := if v.power.throttle = 0 then 1 else Nat.min 7 (v.power.throttle + 1)
        throttleNs := v.now } }) ∧
  (∀ (s : State) (watts t0 : Nat),
    let v := takeSample watts s
    v.power.hold = true → watts ≤ effCap v → v.power.calmNs = some t0 → 0 < v.power.throttle →
    Nat.max t0 v.power.throttleNs + 10000 ≤ v.now → exec (.throttleStep watts) s = .next { v with
      power := { v.power with
        throttle := v.power.throttle - 1
        throttleNs := v.now } }) ∧
  (∀ (s : State) (watts t0 : Nat),
    let v := takeSample watts s
    v.power.hold = true → 600 ≤ railMv v → (v.power.capRose = true ∨ v.power.throttle = 0 ∧ v.power.calmNs = some t0 ∧
      Nat.max t0 v.power.throttleNs + 1000000 ≤ v.now) → exec (.holdEnd watts) s = .next (leaveHold v)) ∧
  (∀ (s : State) (watts : Nat),
    let v := takeSample watts s
    let pred := tjPredOf v watts
    let ok := odAllowed v && decide (pred ≤ 85 * tjUnit) && v.power.setMv != 0
    exec (.overdriveEval watts) s = .next (capsChanged (effCap v) { v with
      power := { v.power with
        ledger := ledgerNs v / 1000000
        grant := ok }
      thermal := { v.thermal with tjPred := if ok then (pred / tjUnit).toNat else 0 } }))

/-- Completion of the start-up events (R536, R538, R541, R545): the always-on check, the sideband commands, the delivery
and verification of the firmware, bring-up, the rollback fuse, and the claim window. -/
def Obligations.StartUpEventsComplete : Prop :=
  (∀ (s : State) (romFail : Nat), s.boot.state = 0 →
    (romFail ≠ 0 → exec (.aonCheck romFail) s = .next (modBoot s fun b => { b with state := 6, failCode := romFail % 256 })) ∧
    (romFail = 0 → (∀ r ∈ s.pins.refclk, r = true) → exec (.aonCheck romFail) s =
      .next (modBoot s fun b => { b with state := 1 }))) ∧
  (∀ s : State, exec .bootStatus s = .next (side s "BOOT_STATUS" true
    (le 4 (regValue (startStatus s) .mgt) ++ le 4 (regValue (lcStatus s) .mgt) ++ recordBytes s .mgt))) ∧
  (∀ (s : State) (c : BootConfig), s.boot.underVolt = false →
    (∀ i, badField c = some i → exec (.bootConfig c) s = .next (side s "BOOT_CONFIG" false (le 1 i))) ∧
    (badField c = none → ∃ t, exec (.bootConfig c) s = .next t ∧ t.boot.cfg = some (numberedCreds c) ∧
      ∃ m, t.sbOut.getLast? = some m ∧ m.msg = "BOOT_CONFIG" ∧ m.accepted = true)) ∧
  (∀ (s : State) (offset : Nat) (data : Bytes), s.boot.state = 1 → s.boot.source = 0 →
    1 ≤ data.length → data.length ≤ 4096 → exec (.fwChunk offset data) s = .next (side (putImageBytes s offset data)
      "FW_CHUNK" true (le 8 (bytesHeld (putImageBytes s offset data).boot.image)))) ∧
  (∀ (s : State) (offset : Nat) (data : Bytes), (s.boot.state ≠ 1 ∨ s.boot.source ≠ 0 ∨ data.length = 0 ∨ 4096 < data.length) →
    exec (.fwChunk offset data) s = .next (side s "FW_CHUNK" false [])) ∧
  (∀ (s : State) (frame : Bytes) (c : BootConfig) (e : Eth) (d : Datagram), s.boot.cfg = some c →
    bootLink s 0 = true → bootFrame frame = some e → e.kind = ipKind c.bootV6 → datagramOf c.bootV6 e.body = some d →
    d.dst = c.bootAddr → d.src = c.bootPeer → d.dstPort = c.bootUdp → 9 ≤ d.data.length → d.data.length ≤ 8200 →
    exec (.bootDatagram frame) s = .next (putImageBytes (modBoot s fun b => { b with peerAt := some e.src })
      (field d.data 0 8) (d.data.drop 8))) ∧
  (∀ s : State, s.boot.state = 1 → s.boot.firstNs.isSome = true → s.boot.lastNs + 10000000000 ≤ s.now →
    exec .fwDeliveryTimeout s = .next (rejectImage s 7)) ∧
  (∀ s : State, s.boot.state = 2 →
    let n := prefixEnd s.boot.image
    (∀ k, manifestCheck s n s.boot.image = some k → exec .fwVerifyDone s = .next (rejectImage s k)) ∧
    (manifestCheck s n s.boot.image = none → ∃ t f, exec .fwVerifyDone s = .next t ∧ t.boot.state = 3 ∧
      t.boot.fw = some f ∧ t.boot.aliasKey = s.fuses.udsIntact ∧ t.boot.image = [] ∧ t.fuses = s.fuses)) ∧
  (∀ (s : State) (r : BringUpResult), s.boot.state = 3 → (r.failCode ≠ 0 ∨ r.senseOpen % 64 ≠ 0) →
    ∃ t, exec (.bringUpDone r) s = .next t ∧ t.boot.state = 6 ∧
      t.boot.failCode = if r.failCode ≠ 0 then r.failCode % 256 else 7) ∧
  (∀ (s : State) (r : BringUpResult), s.boot.state = 3 → r.failCode = 0 → r.senseOpen % 64 = 0 →
    ∃ t, exec (.bringUpDone r) s = .next t ∧ (t.boot.state = 4 ∨ t.boot.state = 5) ∧ t.boot.patrolKey.isSome = true) ∧
  (∀ (s : State) (f : Firmware), s.boot.fw = some f → s.boot.state = 4 → s.fuses.lifecycle ≠ 0 →
    s.fuses.rollback < f.svn → s.fuses.rollback < 64 → exec .rollbackBlow s = .next { s with
      fuses := { s.fuses with rollback := s.fuses.rollback + 1 } }) ∧
  (∀ (s : State) (seconds : Nat), s.boot.underVolt = false → s.boot.state = 4 → s.fuses.lifecycle = 1 → seconds ≤ 3600 →
    let e := s.now + seconds * 1000000000
    exec (.claimWindow seconds) s = .next (side (modBoot s fun b => { b with
      claimEnd := if seconds = 0 then none else some e }) "CLAIM_WINDOW" true (le 8 e))) ∧
  (∀ (s : State) (e : Nat), s.boot.claimEnd = some e → e ≤ s.now → exec .claimWindowExpiry s =
    .next (modBoot s fun b => { b with claimEnd := none }))

/-- Completion of the attestation requests and of the last steps of CLAIM and DECOMMISSION, and of the JTAG port (R416,
R418, R435, R545): each request gets its reply; the owner's fuses and the loss of the UDS only ever raise the
lifecycle. -/
def Obligations.AttestationComplete : Prop :=
  (∀ s : State,
    exec .getVersion s = .next (spdmReply { s with boot := { s.boot with spdm := [] } } "VERSION" 0x84 (le 1 0x12)) ∧
    exec .getCapabilities s = .next (spdmReply s "CAPABILITIES" 0xE1 (ascii "CERT CHAL MEAS")) ∧
    exec .negotiateAlgorithms s =
      .next (spdmReply s "ALGORITHMS" 0xE3 (ascii "TPM_ALG_ECDSA_ECC_NIST_P384 TPM_ALG_SHA_384")) ∧
    (∀ code : Nat, exec (.unsupportedRequest code) s = .next (side s "ERROR" false (le 1 (code % 256))))) ∧
  (∀ s : State, s.boot.aliasKey = true →
    exec .getDigests s = .next (spdmReply s "DIGESTS" 0x81 (sha384 (spdmChain s))) ∧
    (∀ offset len : Nat, exec (.getCertificate 0 offset len) s =
      .next (spdmReply s "CERTIFICATE" 0x82 (((spdmChain s).drop offset).take len))) ∧
    (∀ nonce : Bytes, s.boot.underVolt = false → ∃ t m, exec (.challenge 0 nonce) s = .next t ∧ t.sbOut = s.sbOut ++ [m] ∧
      m.msg = "CHALLENGE_AUTH" ∧ m.accepted = true) ∧
    (∀ (index : Nat) (nonce : Bytes), s.boot.underVolt = false → (index ≤ 5 ∨ index = 255) →
      ∃ t m, exec (.getMeasurements index nonce) s = .next t ∧ t.sbOut = s.sbOut ++ [m] ∧ m.msg = "MEASUREMENTS" ∧ m.accepted = true)) ∧
  (∀ s : State, s.boot.aliasKey = false →
    exec .getDigests s = .next (spdmError s "DIGESTS") ∧
    (∀ slot offset len : Nat, exec (.getCertificate slot offset len) s = .next (spdmError s "CERTIFICATE")) ∧
    (∀ (slot : Nat) (nonce : Bytes), exec (.challenge slot nonce) s = .next (spdmError s "CHALLENGE_AUTH")) ∧
    (∀ (index : Nat) (nonce : Bytes), exec (.getMeasurements index nonce) s = .next (spdmError s "MEASUREMENTS"))) ∧
  (∀ (s : State) (session reqId : Nat), s.boot.decom = some (session, reqId) → ∃ t, exec .udsDestroyed s = .next t ∧
    t.fuses = { s.fuses with lifecycle := Nat.max s.fuses.lifecycle 3, udsIntact := false } ∧ t.boot.decom = none) ∧
  (∀ (s : State) (session reqId : Nat) (pub : Bytes), s.boot.claim = some (session, reqId, pub) →
    ∃ t, exec .ownerFusesBlown s = .next t ∧ t.fuses.lifecycle = Nat.max s.fuses.lifecycle 2 ∧
      t.fuses.ownerPub = some pub ∧ t.boot.claim = none ∧ t.boot.claimEnd = none) ∧
  (∀ (s : State) (code : Nat),
    (code ≤ 2 → exec (.jtagInstruction code) s = .next { s with boot := { s.boot with jtag := code } }) ∧
    (code = 3 → exec (.jtagInstruction code) s =
      .next { s with boot := { s.boot with jtag := if s.boot.fw.isNone then 3 else 0 } }) ∧
    (3 < code → debugOpen s = true → exec (.jtagInstruction code) s =
      .next { s with boot := { s.boot with jtag := code } }) ∧
    (3 < code → debugOpen s = false → ∃ t, exec (.jtagInstruction code) s = .next t ∧ t.boot.jtag = 0 ∧
      ((s.fuses.lifecycle = 1 ∨ s.fuses.lifecycle = 2) → t.health.viol = (violation s).health.viol)))
end

