-- ==== Sys2Proof/Laws/Frame.lean ====
section
/-! SUPPORT. What every shared operation keeps: the queue of waiting commands, and the fuses that no ordinary command
blows. One lemma per operation, cited in place of unfolding it. -/

-- One proof at a time: the package as one text then needs little memory.
set_option Elab.async false

namespace Sys2Proof.Machine

/-! ### Free values -/

/-- A free number is drawn, and the count of draws rises. -/
@[simp] theorem drawNat_eq (s : State) : drawNat s = (Config.freeNat s.draws, { s with draws := s.draws + 1 }) := rfl

/-- Free bytes are drawn, and the count of draws rises. -/
@[simp] theorem drawBytes_eq (s : State) (n : Nat) :
    drawBytes s n = (Config.randomBytes s.draws n, { s with draws := s.draws + 1 }) := rfl

/-! ### Folds -/

/-- What every step of a fold keeps, the fold keeps. -/
theorem foldl_keep {α β : Type} (p : State → β) (f : State → α → State) (h : ∀ s x, p (f s x) = p s)
    (l : List α) (s : State) : p (l.foldl f s) = p s := by
  induction l generalizing s with
  | nil => rfl
  | cons a r ih => simp [ih, h]

@[simp] theorem foldl_pending {α : Type} (l : List α) (f : State → α → State) (s : State)
    (h : ∀ s x, (f s x).pending = s.pending) : (l.foldl f s).pending = s.pending := foldl_keep State.pending f h l s

@[simp] theorem foldl_fixed {α : Type} (l : List α) (f : State → α → State) (s : State)
    (h : ∀ s x, (f s x).fuses.fixed = s.fuses.fixed) : (l.foldl f s).fuses.fixed = s.fuses.fixed :=
  foldl_keep (fun s => s.fuses.fixed) f h l s

/-- What a fold of operations that each keep the queue and the fixed fuses keeps. -/
theorem foldl_keeps {α : Type} (f : State → α → State)
    (h : ∀ s x, (f s x).pending = s.pending ∧ (f s x).fuses.fixed = s.fuses.fixed) (l : List α) (s : State) :
    (l.foldl f s).pending = s.pending ∧ (l.foldl f s).fuses.fixed = s.fuses.fixed := by
  induction l generalizing s with
  | nil => exact ⟨rfl, rfl⟩
  | cons a r ih => exact ⟨(ih _).1.trans (h s a).1, (ih _).2.trans (h s a).2⟩

/-- What `modChase` keeps. -/
@[simp] theorem modChase_keeps (s : State) (c : Nat) (f : Chase → Chase) :
    (modChase s c f).pending = s.pending ∧ (modChase s c f).fuses.fixed = s.fuses.fixed := by
  exact ⟨rfl, rfl⟩

/-- What `chev` keeps. -/
@[simp] theorem chev_keeps (s : State) (c j : Nat) :
    (chev s c j).pending = s.pending ∧ (chev s c j).fuses.fixed = s.fuses.fixed := by
  exact ⟨rfl, rfl⟩

/-- What `setTile` keeps. -/
@[simp] theorem setTile_keeps (s : State) (t : Nat) (x : Tile) :
    (setTile s t x).pending = s.pending ∧ (setTile s t x).fuses.fixed = s.fuses.fixed := by
  exact ⟨rfl, rfl⟩

/-- What `modTile` keeps. -/
@[simp] theorem modTile_keeps (s : State) (t : Nat) (f : Tile → Tile) :
    (modTile s t f).pending = s.pending ∧ (modTile s t f).fuses.fixed = s.fuses.fixed := by
  exact ⟨rfl, rfl⟩

/-- What `violations` keeps. -/
@[simp] theorem violations_keeps (s : State) (n : Nat) :
    (violations s n).pending = s.pending ∧ (violations s n).fuses.fixed = s.fuses.fixed := by
  exact ⟨rfl, rfl⟩

/-- What `violation` keeps. -/
@[simp] theorem violation_keeps (s : State) :
    (violation s).pending = s.pending ∧ (violation s).fuses.fixed = s.fuses.fixed := by
  exact ⟨rfl, rfl⟩

/-- What `healthEvent` keeps. -/
@[simp] theorem healthEvent_keeps (s : State) (mask : Nat) :
    (healthEvent s mask).pending = s.pending ∧ (healthEvent s mask).fuses.fixed = s.fuses.fixed := by
  exact ⟨rfl, rfl⟩

/-- What `countErr` keeps. -/
@[simp] theorem countErr_keeps (s : State) (k : Nat) :
    (countErr s k).pending = s.pending ∧ (countErr s k).fuses.fixed = s.fuses.fixed := by
  constructor <;> (unfold countErr; dsimp only; (repeat' split) <;> simp)

/-- What `stallOn` keeps. -/
@[simp] theorem stallOn_keeps (s : State) (c key sub cause : Nat) :
    (stallOn s c key sub cause).pending = s.pending ∧ (stallOn s c key sub cause).fuses.fixed = s.fuses.fixed := by
  exact ⟨rfl, rfl⟩

/-- What `unstallOn` keeps. -/
@[simp] theorem unstallOn_keeps (s : State) (c key sub : Nat) :
    (unstallOn s c key sub).pending = s.pending ∧ (unstallOn s c key sub).fuses.fixed = s.fuses.fixed := by
  exact ⟨rfl, rfl⟩

/-- What `stall` keeps. -/
@[simp] theorem stall_keeps (s : State) (c key cause : Nat) :
    (stall s c key cause).pending = s.pending ∧ (stall s c key cause).fuses.fixed = s.fuses.fixed := by
  exact ⟨rfl, rfl⟩

/-- What `unstall` keeps. -/
@[simp] theorem unstall_keeps (s : State) (c key : Nat) :
    (unstall s c key).pending = s.pending ∧ (unstall s c key).fuses.fixed = s.fuses.fixed := by
  exact ⟨rfl, rfl⟩

/-- What `modPort` keeps. -/
@[simp] theorem modPort_keeps (s : State) (n : Nat) (f : TorusPort → TorusPort) :
    (modPort s n f).pending = s.pending ∧ (modPort s n f).fuses.fixed = s.fuses.fixed := by
  exact ⟨rfl, rfl⟩

/-- What `sendCtl` keeps. -/
@[simp] theorem sendCtl_keeps (s : State) (port : Nat) (name : String) (fields : List Nat) :
    (sendCtl s port name fields).pending = s.pending ∧ (sendCtl s port name fields).fuses.fixed = s.fuses.fixed := by
  exact ⟨rfl, rfl⟩

/-- What `freePlaces` keeps. -/
@[simp] theorem freePlaces_keeps (s : State) (port vc k : Nat) :
    (freePlaces s port vc k).pending = s.pending ∧ (freePlaces s port vc k).fuses.fixed = s.fuses.fixed := by
  exact ⟨rfl, rfl⟩

/-- What `announce` keeps. -/
@[simp] theorem announce_keeps (s : State) :
    (announce s).pending = s.pending ∧ (announce s).fuses.fixed = s.fuses.fixed := by
  exact ⟨rfl, rfl⟩

/-- What `sendRuns` keeps. -/
@[simp] theorem sendRuns_keeps (fuel : Nat) (s : State) (n vc : Nat) :
    (sendRuns fuel s n vc).pending = s.pending ∧ (sendRuns fuel s n vc).fuses.fixed = s.fuses.fixed := by
  induction fuel generalizing s with
  | zero => exact ⟨rfl, rfl⟩
  | succ f ih =>
    unfold sendRuns
    split
    · dsimp only
      split
      · exact ⟨rfl, rfl⟩
      · refine ⟨(ih _).1.trans ?_, (ih _).2.trans ?_⟩ <;> (dsimp only; split <;> simp)
    · exact ⟨rfl, rfl⟩

/-- What `pump` keeps. -/
@[simp] theorem pump_keeps (s : State) (n : Nat) :
    (pump s n).pending = s.pending ∧ (pump s n).fuses.fixed = s.fuses.fixed := by
  constructor <;> (unfold pump; simp)

/-- What `flushJob` keeps. -/
@[simp] theorem flushJob_keeps (s : State) (id : Nat) :
    (flushJob s id).pending = s.pending ∧ (flushJob s id).fuses.fixed = s.fuses.fixed := by
  unfold flushJob; (try dsimp only); repeat' (first | exact ⟨rfl, rfl⟩ | (simp; done) | (apply foldl_keeps; intro s x) | split)

/-- What `dropRuns` keeps. -/
@[simp] theorem dropRuns_keeps (s : State) (n : Nat) :
    (dropRuns s n).pending = s.pending ∧ (dropRuns s n).fuses.fixed = s.fuses.fixed := by
  exact ⟨rfl, rfl⟩

/-- What `sendEth` keeps. -/
@[simp] theorem sendEth_keeps (s : State) (ep dst kind : Nat) (body : Bytes) :
    (sendEth s ep dst kind body).pending = s.pending ∧ (sendEth s ep dst kind body).fuses.fixed = s.fuses.fixed := by
  constructor <;> (unfold sendEth; dsimp only; (repeat' split) <;> simp)

/-- What `sendUdp` keeps. -/
@[simp] theorem sendUdp_keeps (s : State) (ep : Nat) (dest : SrcAddr) (entry : Option (Nat × Nat)) (dscp : Nat)
    (data : Bytes) :
    (sendUdp s ep dest entry dscp data).pending = s.pending ∧
      (sendUdp s ep dest entry dscp data).fuses.fixed = s.fuses.fixed := by
  constructor <;> (unfold sendUdp; dsimp only; (repeat' split) <;> simp)

/-- What `depart` keeps. -/
@[simp] theorem depart_keeps (s : State) (r : Reply) :
    (depart s r).pending = s.pending ∧ (depart s r).fuses.fixed = s.fuses.fixed := by
  constructor <;> (unfold depart; dsimp only; (repeat' split) <;> simp)

/-- What `rememberFinal` keeps. -/
@[simp] theorem rememberFinal_keeps (s : State) (r : Reply) :
    (rememberFinal s r).pending = s.pending ∧ (rememberFinal s r).fuses.fixed = s.fuses.fixed := by
  exact ⟨rfl, rfl⟩

/-- What `emitReply` keeps. -/
@[simp] theorem emitReply_keeps (s : State) (r : Reply) :
    (emitReply s r).pending = s.pending ∧ (emitReply s r).fuses.fixed = s.fuses.fixed := by
  constructor <;> (unfold emitReply; dsimp only; (repeat' split) <;> simp)

/-- What `resendReply` keeps. -/
@[simp] theorem resendReply_keeps (s : State) (r : Option Reply) :
    (resendReply s r).pending = s.pending ∧ (resendReply s r).fuses.fixed = s.fuses.fixed := by
  constructor <;> (unfold resendReply; (repeat' split) <;> simp)

/-- What `conflictReply` keeps. -/
@[simp] theorem conflictReply_keeps (s : State) (se : Session) (r : Reply) :
    (conflictReply s se r).pending = s.pending ∧ (conflictReply s se r).fuses.fixed = s.fuses.fixed := by
  constructor <;> (unfold conflictReply; simp)

/-- What `replyLive` keeps. -/
@[simp] theorem replyLive_keeps (s : State) (session reqId status detail : Nat) (body : Bytes) :
    (replyLive s session reqId status detail body).pending = s.pending ∧
      (replyLive s session reqId status detail body).fuses.fixed = s.fuses.fixed := by
  constructor <;> (unfold replyLive; (repeat' split) <;> simp)

/-- What `replyCmd` keeps. -/
@[simp] theorem replyCmd_keeps (s : State) (cmd : Option (Nat × Nat)) (status detail : Nat) :
    (replyCmd s cmd status detail).pending = s.pending ∧
      (replyCmd s cmd status detail).fuses.fixed = s.fuses.fixed := by
  constructor <;> (unfold replyCmd; (repeat' split) <;> simp)

/-- What `setTier` keeps. -/
@[simp] theorem setTier_keeps (s : State) (isH : Bool) (m : TierMem) :
    (setTier s isH m).pending = s.pending ∧ (setTier s isH m).fuses.fixed = s.fuses.fixed := by
  constructor <;> (unfold setTier; simp [apply_ite State.pending, apply_ite State.fuses])

/-- What `countMem` keeps. -/
@[simp] theorem countMem_keeps (s : State) (isH : Bool) (pa k : Nat) :
    (countMem s isH pa k).pending = s.pending ∧ (countMem s isH pa k).fuses.fixed = s.fuses.fixed := by
  constructor <;> (unfold countMem; dsimp only; (repeat' split) <;> simp)

/-- What `countLost` keeps. -/
@[simp] theorem countLost_keeps (s : State) (gs : List (Bool × Nat)) :
    (countLost s gs).pending = s.pending ∧ (countLost s gs).fuses.fixed = s.fuses.fixed := by
  unfold countLost
  apply foldl_keeps
  intro s g
  split <;> simp

/-- What `stallMem` keeps. -/
@[simp] theorem stallMem_keeps (s : State) (c : Nat) (k : Nat × Nat) :
    (stallMem s c k).pending = s.pending ∧ (stallMem s c k).fuses.fixed = s.fuses.fixed := by
  exact ⟨rfl, rfl⟩

/-- What `objWrite` keeps. -/
@[simp] theorem objWrite_keeps (s : State) (o : Obj) (off : Nat) (data : List (Byte × Bool)) :
    (objWrite s o off data).pending = s.pending ∧ (objWrite s o off data).fuses.fixed = s.fuses.fixed := by
  constructor <;> (unfold objWrite; simp)

/-- What `modObj` keeps. -/
@[simp] theorem modObj_keeps (s : State) (c id : Nat) (f : Obj → Obj) :
    (modObj s c id f).pending = s.pending ∧ (modObj s c id f).fuses.fixed = s.fuses.fixed := by
  exact ⟨rfl, rfl⟩

/-- What `fitMeta` keeps. -/
theorem fitMeta_keeps {s s' : State} {c tierNo die : Nat} (h : fitMeta s c tierNo die = some s') :
    s'.pending = s.pending ∧ s'.fuses.fixed = s.fuses.fixed := by
  unfold fitMeta at h
  dsimp only at h
  split at h
  · cases h; simp
  · split at h
    · cases h; simp
    · cases h

/-- A metadata fit keeps what its state and its default keep. -/
theorem fitMeta_getD_keeps {s : State} (t d : State) (c tierNo die : Nat)
    (ht : t.pending = s.pending ∧ t.fuses.fixed = s.fuses.fixed)
    (hd : d.pending = s.pending ∧ d.fuses.fixed = s.fuses.fixed) :
    ((fitMeta t c tierNo die).getD d).pending = s.pending ∧
      ((fitMeta t c tierNo die).getD d).fuses.fixed = s.fuses.fixed := by
  cases h : fitMeta t c tierNo die with
  | none => exact hd
  | some x => exact ⟨(fitMeta_keeps h).1.trans ht.1, (fitMeta_keeps h).2.trans ht.2⟩

/-- What `dropObj` keeps. -/
@[simp] theorem dropObj_keeps (s : State) (o : Obj) :
    (dropObj s o).pending = s.pending ∧ (dropObj s o).fuses.fixed = s.fuses.fixed :=
  fitMeta_getD_keeps { s with objs := s.objs.filter fun x => !(x.chase == o.chase && x.objId == o.objId) } _ _ _ _
    ⟨rfl, rfl⟩ ⟨rfl, rfl⟩

/-- What `concReread` keeps. -/
@[simp] theorem concReread_keeps (s : State) (c id off len : Nat) :
    (concReread s c id off len).pending = s.pending ∧ (concReread s c id off len).fuses.fixed = s.fuses.fixed := by
  constructor <;> (unfold concReread; dsimp only; (repeat' split) <;> simp)

/-- What `countSpoiled` keeps. -/
@[simp] theorem countSpoiled_keeps (s : State) (c n : Nat) :
    (countSpoiled s c n).pending = s.pending ∧ (countSpoiled s c n).fuses.fixed = s.fuses.fixed := by
  exact ⟨rfl, rfl⟩

/-- What `doPut` keeps. -/
@[simp] theorem doPut_keeps (s : State) (c id off : Nat) (data : Bytes) (session reqId : Nat) :
    (doPut s c id off data session reqId).pending = s.pending ∧
      (doPut s c id off data session reqId).fuses.fixed = s.fuses.fixed := by
  constructor <;> (unfold doPut; (repeat' split) <;> simp)

/-- What `doGet` keeps. -/
@[simp] theorem doGet_keeps (s : State) (c id off len : Nat) (session reqId : Nat) :
    (doGet s c id off len session reqId).pending = s.pending ∧
      (doGet s c id off len session reqId).fuses.fixed = s.fuses.fixed := by
  constructor <;> (unfold doGet; dsimp only; (repeat' split) <;> simp)

/-- What `doWindow` keeps. -/
@[simp] theorem doWindow_keeps (s : State) (c id window die : Nat) (session reqId : Nat) :
    (doWindow s c id window die session reqId).pending = s.pending ∧
      (doWindow s c id window die session reqId).fuses.fixed = s.fuses.fixed := by
  constructor <;> (unfold doWindow; dsimp only; (repeat' split) <;> simp)

/-- What `settleWindow` keeps. -/
@[simp] theorem settleWindow_keeps (s : State) (c id : Nat) :
    (settleWindow s c id).pending = s.pending ∧ (settleWindow s c id).fuses.fixed = s.fuses.fixed := by
  constructor <;> (unfold settleWindow; (repeat' split) <;> simp)

/-- What `doMove` keeps. -/
@[simp] theorem doMove_keeps (s : State) (c id tierNo die : Nat) (session reqId : Nat) :
    (doMove s c id tierNo die session reqId).pending = s.pending ∧
      (doMove s c id tierNo die session reqId).fuses.fixed = s.fuses.fixed := by
  unfold doMove
  split
  · exact replyLive_keeps ..
  · split
    · exact replyLive_keeps ..
    · exact fitMeta_getD_keeps _ _ _ _ _ (modObj_keeps ..) (replyLive_keeps ..)

/-- What `runWait` keeps. -/
@[simp] theorem runWait_keeps (s : State) (w : ObjWait) :
    (runWait s w).pending = s.pending ∧ (runWait s w).fuses.fixed = s.fuses.fixed := by
  constructor <;> (unfold runWait; dsimp only; (repeat' split) <;> simp)

/-- What `wakeObj` keeps. -/
@[simp] theorem wakeObj_keeps (fuel : Nat) (s : State) (c id : Nat) :
    (wakeObj fuel s c id).pending = s.pending ∧ (wakeObj fuel s c id).fuses.fixed = s.fuses.fixed := by
  induction fuel generalizing s with
  | zero => simp [wakeObj]
  | succ n ih =>
    unfold wakeObj
    repeat' (first | (simp [ih]; done) | split)

/-- What `releaseHold` keeps. -/
@[simp] theorem releaseHold_keeps (s : State) (c n id : Nat) :
    (releaseHold s c n id).pending = s.pending ∧ (releaseHold s c n id).fuses.fixed = s.fuses.fixed := by
  unfold releaseHold
  repeat' (first | (simp; done) | split)

/-- What `memResume` keeps. -/
@[simp] theorem memResume_keeps (s : State) (back : Nat → Bool) :
    (memResume s back).pending = s.pending ∧ (memResume s back).fuses.fixed = s.fuses.fixed := by
  unfold memResume
  dsimp only
  constructor
  · refine (foldl_keeps _ ?_ _ _).1
    intro s o; simp
  · refine (foldl_keeps _ ?_ _ _).2
    intro s o; simp

/-- What `endReads` keeps. -/
@[simp] theorem endReads_keeps (s : State) (c : Nat) (ids : List Nat) (gone : Nat → Bool) :
    (endReads s c ids gone).pending = s.pending ∧ (endReads s c ids gone).fuses.fixed = s.fuses.fixed := by
  constructor <;> (unfold endReads; simp)

/-- What `modReq` keeps. -/
@[simp] theorem modReq_keeps (s : State) (n : Nat) (f : Req → Req) :
    (modReq s n f).pending = s.pending ∧ (modReq s n f).fuses.fixed = s.fuses.fixed := by
  exact ⟨rfl, rfl⟩

/-- What `sendFinal` keeps. -/
@[simp] theorem sendFinal_keeps (s : State) (r : Req) (status detail : Nat) (extra : Bytes) :
    (sendFinal s r status detail extra).pending = s.pending ∧
      (sendFinal s r status detail extra).fuses.fixed = s.fuses.fixed := by
  constructor <;> (unfold sendFinal; dsimp only; (repeat' split) <;> simp)

/-- What `concPut` keeps. -/
@[simp] theorem concPut_keeps (s : State) (c : Nat) (e : ConcEntry) (b : Bytes) :
    (concPut s c e b).pending = s.pending ∧ (concPut s c e b).fuses.fixed = s.fuses.fixed := by
  constructor <;> (unfold concPut; (repeat' split) <;> simp)

/-- What `setConc` keeps. -/
@[simp] theorem setConc_keeps (s : State) (c : Nat) (new : List ConcEntry) :
    (setConc s c new).pending = s.pending ∧ (setConc s c new).fuses.fixed = s.fuses.fixed := by
  constructor <;> (unfold setConc; simp)

/-- What `dropRefs` keeps. -/
@[simp] theorem dropRefs_keeps (s : State) (c pool : Nat) (fs : List Nat) :
    (dropRefs s c pool fs).pending = s.pending ∧ (dropRefs s c pool fs).fuses.fixed = s.fuses.fixed := by
  constructor <;> (unfold dropRefs; simp)

/-- What `freeCleared` keeps. -/
@[simp] theorem freeCleared_keeps (s : State) (c : Nat) :
    (freeCleared s c).pending = s.pending ∧ (freeCleared s c).fuses.fixed = s.fuses.fixed := by
  exact ⟨rfl, rfl⟩

/-- What `releaseReq` keeps. -/
@[simp] theorem releaseReq_keeps (s : State) (n : Nat) :
    (releaseReq s n).pending = s.pending ∧ (releaseReq s n).fuses.fixed = s.fuses.fixed := by
  constructor <;> (unfold releaseReq; dsimp only; (repeat' split) <;> simp)

/-- What `fillRest` keeps. -/
@[simp] theorem fillRest_keeps (s : State) (n : Nat) :
    (fillRest s n).pending = s.pending ∧ (fillRest s n).fuses.fixed = s.fuses.fixed := by
  constructor <;> (unfold fillRest; dsimp only; (repeat' split) <;> simp)

/-- What `endReq` keeps. -/
@[simp] theorem endReq_keeps (s : State) (n : Nat) (st : ReqState) (status detail : Nat) (extra : Bytes) :
    (endReq s n st status detail extra).pending = s.pending ∧
      (endReq s n st status detail extra).fuses.fixed = s.fuses.fixed := by
  constructor <;> (unfold endReq; dsimp only; (repeat' split) <;> simp)

/-- What `modJob` keeps. -/
@[simp] theorem modJob_keeps (s : State) (id : Nat) (f : Job → Job) :
    (modJob s id f).pending = s.pending ∧ (modJob s id f).fuses.fixed = s.fuses.fixed := by
  exact ⟨rfl, rfl⟩

/-- What `sendHeld` keeps. -/
@[simp] theorem sendHeld_keeps (s : State) (j : Job) (except : Option Nat) (name : String) (fields : List Nat) :
    (sendHeld s j except name fields).pending = s.pending ∧
      (sendHeld s j except name fields).fuses.fixed = s.fuses.fixed := by
  unfold sendHeld
  constructor <;> (first | apply foldl_pending | apply foldl_fixed) <;> intro s p <;>
    repeat' (first | (simp; done) | split)

/-- What `abortStep` keeps. -/
@[simp] theorem abortStep_keeps (s : State) (id coord cause : Nat) :
    (abortStep s id coord cause).pending = s.pending ∧ (abortStep s id coord cause).fuses.fixed = s.fuses.fixed := by
  constructor <;> (unfold abortStep; dsimp only; (repeat' split) <;> simp)

/-- What `endJobCmds` keeps. -/
@[simp] theorem endJobCmds_keeps (s : State) (j : Job) (status detail : Nat) :
    (endJobCmds s j status detail).pending = s.pending ∧
      (endJobCmds s j status detail).fuses.fixed = s.fuses.fixed := by
  constructor <;> (unfold endJobCmds; simp)

/-- What `haltJob` keeps. -/
@[simp] theorem haltJob_keeps (s : State) (id coord cause : Nat) :
    (haltJob s id coord cause).pending = s.pending ∧ (haltJob s id coord cause).fuses.fixed = s.fuses.fixed := by
  constructor <;> (unfold haltJob; dsimp only; (repeat' split) <;> simp)

/-- What `failJobAs` keeps. -/
@[simp] theorem failJobAs_keeps (s : State) (id coord cause : Nat) :
    (failJobAs s id coord cause).pending = s.pending ∧ (failJobAs s id coord cause).fuses.fixed = s.fuses.fixed := by
  constructor <;> (unfold failJobAs; dsimp only; (repeat' split) <;> simp)

/-- What `failJob` keeps. -/
@[simp] theorem failJob_keeps (s : State) (id cause : Nat) :
    (failJob s id cause).pending = s.pending ∧ (failJob s id cause).fuses.fixed = s.fuses.fixed := by
  constructor <;> (unfold failJob; simp)

/-- What `dropJoining` keeps. -/
@[simp] theorem dropJoining_keeps (s : State) (c : Nat) :
    (dropJoining s c).pending = s.pending ∧ (dropJoining s c).fuses.fixed = s.fuses.fixed := by
  exact ⟨rfl, rfl⟩

/-- What `endShare` keeps. -/
@[simp] theorem endShare_keeps (s : State) (c : Nat) :
    (endShare s c).pending = s.pending ∧ (endShare s c).fuses.fixed = s.fuses.fixed := by
  constructor <;> (unfold endShare; (repeat' split) <;> simp)

/-- What `endOrders` keeps. -/
@[simp] theorem endOrders_keeps (s : State) (c : Nat) :
    (endOrders s c).pending = s.pending ∧ (endOrders s c).fuses.fixed = s.fuses.fixed := by
  constructor <;> (unfold endOrders; simp)

/-- What `endActivity` keeps. -/
@[simp] theorem endActivity_keeps (s : State) (c : Nat) :
    (endActivity s c).pending = s.pending ∧ (endActivity s c).fuses.fixed = s.fuses.fixed := by
  constructor <;> (unfold endActivity; dsimp only; (repeat' split) <;> simp)

/-- What `endMoves` keeps. -/
@[simp] theorem endMoves_keeps (s : State) (c : Nat) :
    (endMoves s c).pending = s.pending ∧ (endMoves s c).fuses.fixed = s.fuses.fixed := by
  unfold endMoves
  constructor
  · apply foldl_pending
    intro s o
    refine (wakeObj_keeps ..).1.trans ((replyCmd_keeps ..).1.trans ?_)
    split
    · exact (fitMeta_getD_keeps _ _ _ _ _ (modObj_keeps ..) (modObj_keeps ..)).1
    · exact (modObj_keeps ..).1
  · apply foldl_fixed
    intro s o
    refine (wakeObj_keeps ..).2.trans ((replyCmd_keeps ..).2.trans ?_)
    split
    · exact (fitMeta_getD_keeps _ _ _ _ _ (modObj_keeps ..) (modObj_keeps ..)).2
    · exact (modObj_keeps ..).2

/-- What `fenceChase` keeps. -/
@[simp] theorem fenceChase_keeps (s : State) (c : Nat) :
    (fenceChase s c).pending = s.pending ∧ (fenceChase s c).fuses.fixed = s.fuses.fixed := by
  constructor <;> (unfold fenceChase; dsimp only; (repeat' split) <;> simp)

/-- What `modSpare` keeps. -/
@[simp] theorem modSpare_keeps (s : State) (i : Nat) (f : TileSpare → TileSpare) :
    (modSpare s i f).pending = s.pending ∧ (modSpare s i f).fuses.fixed = s.fuses.fixed := by
  exact ⟨rfl, rfl⟩

/-- What `countReset` keeps. -/
@[simp] theorem countReset_keeps (s : State) (domain : Nat) :
    (countReset s domain).pending = s.pending ∧ (countReset s domain).fuses.fixed = s.fuses.fixed := by
  exact ⟨rfl, rfl⟩

/-- What `fenceForFault` keeps. -/
@[simp] theorem fenceForFault_keeps (s : State) (c : Nat) :
    (fenceForFault s c).pending = s.pending ∧ (fenceForFault s c).fuses.fixed = s.fuses.fixed := by
  constructor <;> (unfold fenceForFault; simp)

/-- What `jobFailure` keeps. -/
@[simp] theorem jobFailure_keeps (s : State) (id coord cause : Nat) :
    (jobFailure s id coord cause).pending = s.pending ∧ (jobFailure s id coord cause).fuses.fixed = s.fuses.fixed := by
  constructor <;> (unfold jobFailure; dsimp only; (repeat' split) <;> simp)

/-- What `portDown` keeps. -/
@[simp] theorem portDown_keeps (s : State) (n cause : Nat) :
    (portDown s n cause).pending = s.pending ∧ (portDown s n cause).fuses.fixed = s.fuses.fixed := by
  constructor <;> (unfold portDown; dsimp only; (repeat' split) <;> simp)

/-- What `resetPort` keeps. -/
@[simp] theorem resetPort_keeps (s : State) (n : Nat) :
    (resetPort s n).pending = s.pending ∧ (resetPort s n).fuses.fixed = s.fuses.fixed := by
  constructor <;> (unfold resetPort; simp)

/-- What `beginReset` keeps. -/
@[simp] theorem beginReset_keeps (s : State) (domain code faultTile : Nat) :
    (beginReset s domain code faultTile).pending = s.pending ∧
      (beginReset s domain code faultTile).fuses.fixed = s.fuses.fixed := by
  constructor <;> (unfold beginReset; dsimp only; (repeat' split) <;> simp)

/-- What `formeFault` keeps. -/
@[simp] theorem formeFault_keeps (s : State) (c code faultTile : Nat) (j : Option Nat) :
    (formeFault s c code faultTile j).pending = s.pending ∧
      (formeFault s c code faultTile j).fuses.fixed = s.fuses.fixed := by
  constructor <;> (unfold formeFault; dsimp only; (repeat' split) <;> simp)

/-- What `rep` keeps. -/
@[simp] theorem rep_keeps (s : State) (h : CmdHdr) (op status detail : Nat) (body : Bytes) :
    (rep s h op status detail body).pending = s.pending ∧
      (rep s h op status detail body).fuses.fixed = s.fuses.fixed := by
  constructor <;> (unfold rep; simp)

/-- What `done` keeps. -/
@[simp] theorem done_keeps (s : State) (h : CmdHdr) (op : Nat) (body : Bytes) :
    (done s h op body).pending = s.pending ∧ (done s h op body).fuses.fixed = s.fuses.fixed := by
  constructor <;> (unfold done; simp)

/-- What `repBusy` keeps. -/
@[simp] theorem repBusy_keeps (s : State) (h : CmdHdr) (op status detail retry : Nat) (body : Bytes) :
    (repBusy s h op status detail retry body).pending = s.pending ∧
      (repBusy s h op status detail retry body).fuses.fixed = s.fuses.fixed := by
  constructor <;> (unfold repBusy; simp)

/-- What `repBusyFree` keeps. -/
@[simp] theorem repBusyFree_keeps (s : State) (h : CmdHdr) (op detail : Nat) :
    (repBusyFree s h op detail).pending = s.pending ∧ (repBusyFree s h op detail).fuses.fixed = s.fuses.fixed := by
  constructor <;> (unfold repBusyFree; simp)

/-- What `accept` keeps. -/
@[simp] theorem accept_keeps (s : State) (h : CmdHdr) (op c : Nat) (isRequest : Bool) (body : Bytes) :
    (accept s h op c isRequest body).pending = s.pending ∧
      (accept s h op c isRequest body).fuses.fixed = s.fuses.fixed := by
  constructor <;> (unfold accept; simp)

/-- What `enlist` keeps. -/
@[simp] theorem enlist_keeps (s : State) (h : CmdHdr) (op c : Nat) (isRequest : Bool) :
    (enlist s h op c isRequest).pending = s.pending ∧ (enlist s h op c isRequest).fuses.fixed = s.fuses.fixed := by
  exact ⟨rfl, rfl⟩

/-- What `markChunk` keeps. -/
@[simp] theorem markChunk_keeps (s : State) (h : CmdHdr) (op off : Nat) :
    (markChunk s h op off).pending = s.pending ∧ (markChunk s h op off).fuses.fixed = s.fuses.fixed := by
  constructor <;> (unfold markChunk; simp [apply_ite State.pending, apply_ite State.fuses])

/-- What `refuseChunk` keeps. -/
@[simp] theorem refuseChunk_keeps (s : State) (se : Session) (h : CmdHdr) (op off : Nat) (r : Reply) :
    (refuseChunk s se h op off r).pending = s.pending ∧ (refuseChunk s se h op off r).fuses.fixed = s.fuses.fixed := by
  constructor <;> (unfold refuseChunk; dsimp only; (repeat' split) <;> simp)

/-- What `closeSession` keeps. -/
@[simp] theorem closeSession_keeps (s : State) (id : Nat) :
    (closeSession s id).pending = s.pending ∧ (closeSession s id).fuses.fixed = s.fuses.fixed := by
  constructor <;> (unfold closeSession; simp)

/-- What `closeWhere` keeps. -/
@[simp] theorem closeWhere_keeps (s : State) (p : Session → Bool) :
    (closeWhere s p).pending = s.pending ∧ (closeWhere s p).fuses.fixed = s.fuses.fixed := by
  constructor <;> (unfold closeWhere; simp)

/-- What `clearReply` keeps. -/
@[simp] theorem clearReply_keeps (s : State) (h : CmdHdr) (session status detail : Nat) (body : Bytes) :
    (clearReply s h session status detail body).pending = s.pending ∧
      (clearReply s h session status detail body).fuses.fixed = s.fuses.fixed := by
  constructor <;> (unfold clearReply; dsimp only; (repeat' split) <;> simp)

/-- What `setBins` keeps. -/
@[simp] theorem setBins_keeps (s : State) (cur sust : Nat) :
    (setBins s cur sust).pending = s.pending ∧ (setBins s cur sust).fuses.fixed = s.fuses.fixed := by
  exact ⟨rfl, rfl⟩

/-- What `updateSust` keeps. -/
@[simp] theorem updateSust_keeps (s : State) :
    (updateSust s).pending = s.pending ∧ (updateSust s).fuses.fixed = s.fuses.fixed := by
  constructor <;> (unfold updateSust; dsimp only; (repeat' split) <;> simp)

/-- What `retarget` keeps. -/
@[simp] theorem retarget_keeps (s : State) :
    (retarget s).pending = s.pending ∧ (retarget s).fuses.fixed = s.fuses.fixed := by
  constructor <;> (unfold retarget; simp [apply_ite State.pending, apply_ite State.fuses])

/-- What `enterHold` keeps. -/
@[simp] theorem enterHold_keeps (s : State) :
    (enterHold s).pending = s.pending ∧ (enterHold s).fuses.fixed = s.fuses.fixed := by
  constructor <;> (unfold enterHold; simp [apply_ite State.pending, apply_ite State.fuses])

/-- What `leaveHold` keeps. -/
@[simp] theorem leaveHold_keeps (s : State) :
    (leaveHold s).pending = s.pending ∧ (leaveHold s).fuses.fixed = s.fuses.fixed := by
  exact ⟨rfl, rfl⟩

/-- What `capsChanged` keeps. -/
@[simp] theorem capsChanged_keeps (old : Nat) (s : State) :
    (capsChanged old s).pending = s.pending ∧ (capsChanged old s).fuses.fixed = s.fuses.fixed := by
  constructor <;> (unfold capsChanged; dsimp only; (repeat' split) <;> simp)

/-- What `endGrant` keeps. -/
@[simp] theorem endGrant_keeps (s : State) :
    (endGrant s).pending = s.pending ∧ (endGrant s).fuses.fixed = s.fuses.fixed := by
  constructor <;> (unfold endGrant; dsimp only; (repeat' split) <;> simp)

/-- What `takeSample` keeps. -/
@[simp] theorem takeSample_keeps (watts : Nat) (s : State) :
    (takeSample watts s).pending = s.pending ∧ (takeSample watts s).fuses.fixed = s.fuses.fixed := by
  constructor <;> (unfold takeSample; dsimp only; (repeat' split) <;> simp)

/-- What `followRails` keeps. -/
@[simp] theorem followRails_keeps (s : State) :
    (followRails s).pending = s.pending ∧ (followRails s).fuses.fixed = s.fuses.fixed := by
  constructor <;> (unfold followRails; (repeat' split) <;> simp)

/-- What `zeroiseKeys` keeps. -/
@[simp] theorem zeroiseKeys_keeps (s : State) :
    (zeroiseKeys s).pending = s.pending ∧ (zeroiseKeys s).fuses.fixed = s.fuses.fixed := by
  exact ⟨rfl, rfl⟩

/-- What `fenceAll` keeps. -/
@[simp] theorem fenceAll_keeps (s : State) :
    (fenceAll s).pending = s.pending ∧ (fenceAll s).fuses.fixed = s.fuses.fixed := by
  constructor <;> (unfold fenceAll; simp)

/-- What `dropLinks` keeps. -/
@[simp] theorem dropLinks_keeps (s : State) :
    (dropLinks s).pending = s.pending ∧ (dropLinks s).fuses.fixed = s.fuses.fixed := by
  exact ⟨rfl, rfl⟩

/-- What `stopDevice` keeps. -/
@[simp] theorem stopDevice_keeps (cause : Option Nat) (s : State) :
    (stopDevice cause s).pending = s.pending ∧ (stopDevice cause s).fuses.fixed = s.fuses.fixed := by
  constructor <;> (unfold stopDevice; dsimp only; (repeat' split) <;> simp)

theorem map_lmod_same {α β : Type} (g : α → β) (f : α → α) (h : ∀ x, g (f x) = g x) (l : List α) (i : Nat) :
    (lmod l i f).map g = l.map g := by
  unfold lmod
  induction l generalizing i with
  | nil => cases i <;> rfl
  | cons a r ih =>
    cases i with
    | zero => simp [h]
    | succ i => simp [ih]

/-- What `interruptClaim` keeps. -/
@[simp] theorem interruptClaim_keeps (s : State) :
    (interruptClaim s).pending = s.pending ∧ (interruptClaim s).fuses.fixed = s.fuses.fixed := by
  unfold interruptClaim
  split
  · simp
  · split
    · simp
    · refine ⟨rfl, ?_⟩
      simp only [drawBytes, Fuses.fixed]
      rw [map_lmod_same]
      intro x
      rfl

/-- What `startUp` keeps. -/
@[simp] theorem startUp_keeps (s : State) :
    (startUp s).pending = s.pending ∧ (startUp s).fuses.fixed = s.fuses.fixed := by
  constructor <;> (unfold startUp; simp)

/-- What `packageReset` keeps. -/
@[simp] theorem packageReset_keeps (s : State) (code domain ns : Nat) :
    (packageReset s code domain ns).pending = s.pending ∧
      (packageReset s code domain ns).fuses.fixed = s.fuses.fixed := by
  constructor <;> (unfold packageReset; simp [apply_ite State.pending, apply_ite State.fuses])

/-- What `outOfService` keeps. -/
@[simp] theorem outOfService_keeps (s : State) (domain : Nat) :
    (outOfService s domain).pending = s.pending ∧ (outOfService s domain).fuses.fixed = s.fuses.fixed := by
  exact ⟨rfl, rfl⟩

/-- What `applyRetire` keeps. -/
@[simp] theorem applyRetire_keeps (s : State) (i : Nat) :
    (applyRetire s i).pending = s.pending ∧ (applyRetire s i).fuses.fixed = s.fuses.fixed := by
  constructor <;> (unfold applyRetire; dsimp only; repeat' (first | rfl | (simp [apply_ite State.pending, apply_ite State.fuses]; done) | split))

/-- What `retireTile` keeps. -/
@[simp] theorem retireTile_keeps (s : State) (i : Nat) :
    (retireTile s i).pending = s.pending ∧ (retireTile s i).fuses.fixed = s.fuses.fixed := by
  constructor <;> (unfold retireTile; (repeat' split) <;> simp)

/-- What `retireBank` keeps. -/
@[simp] theorem retireBank_keeps (s : State) (i b : Nat) :
    (retireBank s i b).pending = s.pending ∧ (retireBank s i b).fuses.fixed = s.fuses.fixed := by
  constructor <;> (unfold retireBank; dsimp only; (repeat' split) <;> simp)

/-- What `applyBank` keeps. -/
@[simp] theorem applyBank_keeps (s : State) (i : Nat) :
    (applyBank s i).pending = s.pending ∧ (applyBank s i).fuses.fixed = s.fuses.fixed := by
  constructor <;> (unfold applyBank; dsimp only; repeat' (first | rfl | (simp; done) | split))

/-- What `bringInSpares` keeps. -/
@[simp] theorem bringInSpares_keeps (s : State) (ts : List Nat) :
    (bringInSpares s ts).pending = s.pending ∧ (bringInSpares s ts).fuses.fixed = s.fuses.fixed := by
  unfold bringInSpares
  constructor
  · dsimp only
    rw [foldl_pending _ applyBank _ (by simp), foldl_pending]
    intro s i; split <;> simp
  · dsimp only
    rw [foldl_fixed _ applyBank _ (by simp), foldl_fixed]
    intro s i; split <;> simp

/-- What `bankEvent` keeps. -/
@[simp] theorem bankEvent_keeps (s : State) (i bank : Nat) (unc : Bool) (word : Nat) :
    (bankEvent s i bank unc word).pending = s.pending ∧ (bankEvent s i bank unc word).fuses.fixed = s.fuses.fixed := by
  constructor <;> (unfold bankEvent; dsimp only; (repeat' split) <;> simp)

/-- What `vminFailed` keeps. -/
@[simp] theorem vminFailed_keeps (s : State) (i b : Nat) :
    (vminFailed s i b).pending = s.pending ∧ (vminFailed s i b).fuses.fixed = s.fuses.fixed := by
  constructor <;> (unfold vminFailed; simp)

/-- What `scrubVmin` keeps. -/
@[simp] theorem scrubVmin_keeps (s : State) (c : Nat) (fails : List Nat) :
    (scrubVmin s c fails).pending = s.pending ∧ (scrubVmin s c fails).fuses.fixed = s.fuses.fixed := by
  constructor <;> (unfold scrubVmin; simp)

/-- What `tileEvent` keeps. -/
@[simp] theorem tileEvent_keeps (s : State) (i kind : Nat) :
    (tileEvent s i kind).pending = s.pending ∧ (tileEvent s i kind).fuses.fixed = s.fuses.fixed := by
  constructor <;> (unfold tileEvent; dsimp only; (repeat' split) <;> simp)

/-- What `modReset` keeps. -/
@[simp] theorem modReset_keeps (s : State) (domain : Nat) (f : ResetOp → ResetOp) :
    (modReset s domain f).pending = s.pending ∧ (modReset s domain f).fuses.fixed = s.fuses.fixed := by
  exact ⟨rfl, rfl⟩

/-- What `freeOldPulls` keeps. -/
@[simp] theorem freeOldPulls_keeps (fuel : Nat) (s : State) (c n : Nat) :
    (freeOldPulls fuel s c n).pending = s.pending ∧ (freeOldPulls fuel s c n).fuses.fixed = s.fuses.fixed := by
  induction fuel generalizing s with
  | zero => simp [freeOldPulls]
  | succ k ih =>
    unfold freeOldPulls
    repeat' (first | (simp [ih]; done) | split)

/-- What `storePull` keeps. -/
@[simp] theorem storePull_keeps (s : State) (c cause time : Nat) (content : Bytes) :
    (storePull s c cause time content).pending = s.pending ∧
      (storePull s c cause time content).fuses.fixed = s.fuses.fixed := by
  exact ⟨rfl, rfl⟩

/-- What `makePull` keeps. -/
@[simp] theorem makePull_keeps (s : State) (op : ResetOp) (c : Nat) :
    (makePull s op c).pending = s.pending ∧ (makePull s op c).fuses.fixed = s.fuses.fixed := by
  unfold makePull
  simp

/-- What `scrubChase` keeps. -/
@[simp] theorem scrubChase_keeps (s : State) (c : Nat) :
    (scrubChase s c).pending = s.pending ∧ (scrubChase s c).fuses.fixed = s.fuses.fixed := by
  constructor <;> (unfold scrubChase; simp)

/-- What `resumeChase` keeps. -/
@[simp] theorem resumeChase_keeps (s : State) (c : Nat) :
    (resumeChase s c).pending = s.pending ∧ (resumeChase s c).fuses.fixed = s.fuses.fixed := by
  constructor <;> (unfold resumeChase; dsimp only; (repeat' split) <;> simp)

/-- What `reloadDieKeys` keeps. -/
@[simp] theorem reloadDieKeys_keeps (s : State) (d : Nat) :
    (reloadDieKeys s d).pending = s.pending ∧ (reloadDieKeys s d).fuses.fixed = s.fuses.fixed := by
  exact ⟨rfl, rfl⟩

/-- What `drawExchange` keeps. -/
@[simp] theorem drawExchange_keeps (s : State) (n : Nat) :
    (drawExchange s n).2.2.pending = s.pending ∧ (drawExchange s n).2.2.fuses.fixed = s.fuses.fixed := by
  constructor <;> rfl

/-- What `startDiscovery` keeps. -/
@[simp] theorem startDiscovery_keeps (s : State) (n : Nat) :
    (startDiscovery s n).pending = s.pending ∧ (startDiscovery s n).fuses.fixed = s.fuses.fixed := by
  exact ⟨rfl, rfl⟩

/-- What `rediscover` keeps. -/
@[simp] theorem rediscover_keeps (s : State) (train : Bool) (cause : Nat) :
    (rediscover s train cause).pending = s.pending ∧ (rediscover s train cause).fuses.fixed = s.fuses.fixed := by
  unfold rediscover
  constructor <;> (first | apply foldl_pending | apply foldl_fixed) <;> intro s n <;>
    (cases s.torus[n]? with
     | none => rfl
     | some p => cases hj : p.job <;> simp [hj, apply_ite State.pending, apply_ite State.fuses, apply_ite Fuses.fixed])

/-- What `deliverUnit` keeps. -/
@[simp] theorem deliverUnit_keeps (s : State) (c : Nat) (src : Nat × Nat × Nat) (die : Nat) (u : DWord × DWord × List Granule) :
    (deliverUnit s c src die u).pending = s.pending ∧ (deliverUnit s c src die u).fuses.fixed = s.fuses.fixed := by
  constructor <;> (unfold deliverUnit; dsimp only; (repeat' split) <;> simp)

/-- What `sendUnits` keeps. -/
theorem sendUnits_keeps {s s' : State} {j : Job} {dest die : Nat} {src : Nat × Nat}
    {u : DWord × DWord × List Granule} (h : sendUnits s j dest die src u = some s') : s'.pending = s.pending ∧ s'.fuses.fixed = s.fuses.fixed := by
  unfold sendUnits at h
  repeat' (first | (cases h; done) | split at h | (dsimp only at h))
  all_goals (injection h with h; subst h; simp)

/-- What `forwardUnits` keeps. -/
@[simp] theorem forwardUnits_keeps (s : State) (port : Nat) (j : Job) (a : Arriving) :
    (forwardUnits s port j a).pending = s.pending ∧ (forwardUnits s port j a).fuses.fixed = s.fuses.fixed := by
  constructor <;> (unfold forwardUnits; dsimp only; (repeat' split) <;> simp)

/-- What `takeTransfer` keeps. -/
@[simp] theorem takeTransfer_keeps (s : State) (port : Nat) (j : Job) (a : Arriving) :
    (takeTransfer s port j a).pending = s.pending ∧ (takeTransfer s port j a).fuses.fixed = s.fuses.fixed := by
  constructor <;> (unfold takeTransfer; dsimp only; (repeat' split) <;> simp)

/-- What `takeUnit` keeps. -/
@[simp] theorem takeUnit_keeps (s : State) (port : Nat) (j : Job) (h : FrameHead) (u : LinkUnit) :
    (takeUnit s port j h u).pending = s.pending ∧ (takeUnit s port j h u).fuses.fixed = s.fuses.fixed := by
  constructor <;> (unfold takeUnit; dsimp only; (repeat' split) <;> simp)

/-- What `relieve` keeps. -/
@[simp] theorem relieve_keeps (s : State) (port : Nat) (j : Job) :
    (relieve s port j).pending = s.pending ∧ (relieve s port j).fuses.fixed = s.fuses.fixed := by
  unfold relieve; (try dsimp only); repeat' (first | exact ⟨rfl, rfl⟩ | (simp; done) | (apply foldl_keeps; intro s x) | split)

/-- What `takeUnits` keeps. -/
@[simp] theorem takeUnits_keeps (s : State) (port : Nat) (h : FrameHead) (units : List LinkUnit) :
    (takeUnits s port h units).pending = s.pending ∧ (takeUnits s port h units).fuses.fixed = s.fuses.fixed := by
  constructor <;> (unfold takeUnits; (repeat' split) <;> simp)

/-- What `badFrame` keeps. -/
@[simp] theorem badFrame_keeps (s : State) (port : Nat) (p : TorusPort) :
    (badFrame s port p).pending = s.pending ∧ (badFrame s port p).fuses.fixed = s.fuses.fixed := by
  constructor <;> (unfold badFrame; dsimp only; (repeat' split) <;> simp)

/-- What `boundaryTx` keeps. -/
@[simp] theorem boundaryTx_keeps (s : State) (port : Nat) :
    (boundaryTx s port).pending = s.pending ∧ (boundaryTx s port).fuses.fixed = s.fuses.fixed := by
  exact ⟨rfl, rfl⟩

/-- What `answerFrame` keeps. -/
@[simp] theorem answerFrame_keeps (s : State) (port type : Nat) :
    (answerFrame s port type).pending = s.pending ∧ (answerFrame s port type).fuses.fixed = s.fuses.fixed := by
  constructor <;> (unfold answerFrame; dsimp only; (repeat' split) <;> simp)

/-- What `sendRekey` keeps. -/
@[simp] theorem sendRekey_keeps (s : State) (port : Nat) :
    (sendRekey s port).pending = s.pending ∧ (sendRekey s port).fuses.fixed = s.fuses.fixed := by
  exact ⟨rfl, rfl⟩

/-- What `beginStep` keeps. -/
@[simp] theorem beginStep_keeps (s : State) (id step : Nat) :
    (beginStep s id step).pending = s.pending ∧ (beginStep s id step).fuses.fixed = s.fuses.fixed := by
  constructor <;> (unfold beginStep; dsimp only; (repeat' split) <;> simp)

/-- What `removeJob` keeps. -/
@[simp] theorem removeJob_keeps (s : State) (id : Nat) :
    (removeJob s id).pending = s.pending ∧ (removeJob s id).fuses.fixed = s.fuses.fixed := by
  constructor <;> (unfold removeJob; simp)

/-- What `finishJoin` keeps. -/
@[simp] theorem finishJoin_keeps (s : State) (id : Nat) :
    (finishJoin s id).pending = s.pending ∧ (finishJoin s id).fuses.fixed = s.fuses.fixed := by
  constructor <;> (unfold finishJoin; dsimp only; (repeat' split) <;> simp)

/-- What `takeJoin` keeps. -/
@[simp] theorem takeJoin_keeps (s : State) (id port : Nat) (m : JoinMsg) :
    (takeJoin s id port m).pending = s.pending ∧ (takeJoin s id port m).fuses.fixed = s.fuses.fixed := by
  constructor <;> (unfold takeJoin; (repeat' split) <;> simp)

/-- What `dropHeld` keeps. -/
@[simp] theorem dropHeld_keeps (s : State) (id epoch : Nat) :
    (dropHeld s id epoch).pending = s.pending ∧ (dropHeld s id epoch).fuses.fixed = s.fuses.fixed := by
  constructor <;> (unfold dropHeld; dsimp only; (repeat' split) <;> simp)

/-- What `resumeJob` keeps. -/
@[simp] theorem resumeJob_keeps (s : State) (id step epoch : Nat) :
    (resumeJob s id step epoch).pending = s.pending ∧ (resumeJob s id step epoch).fuses.fixed = s.fuses.fixed := by
  constructor <;> (unfold resumeJob; simp)

/-- What `finishRejoin` keeps. -/
@[simp] theorem finishRejoin_keeps (s : State) (id : Nat) :
    (finishRejoin s id).pending = s.pending ∧ (finishRejoin s id).fuses.fixed = s.fuses.fixed := by
  constructor <;> (unfold finishRejoin; dsimp only; (repeat' split) <;> simp)

/-- What `resetRequest` keeps. -/
@[simp] theorem resetRequest_keeps (s : State) (domain : Nat) :
    (resetRequest s domain).pending = s.pending ∧ (resetRequest s domain).fuses.fixed = s.fuses.fixed := by
  constructor <;> (unfold resetRequest; (repeat' split) <;> simp)

/-- What `readmitDomain` keeps. -/
@[simp] theorem readmitDomain_keeps (s : State) (domain : Nat) :
    (readmitDomain s domain).pending = s.pending ∧ (readmitDomain s domain).fuses.fixed = s.fuses.fixed := by
  constructor <;> (unfold readmitDomain; dsimp only; (repeat' split) <;> simp)

/-- What `regWrite` keeps. -/
@[simp] theorem regWrite_keeps (s : State) (se : Session) (h : CmdHdr) (addr : Nat) (value : Word) :
    (regWrite s se h addr value).pending = s.pending ∧ (regWrite s se h addr value).fuses.fixed = s.fuses.fixed := by
  constructor <;> (unfold regWrite; dsimp only; (repeat' split) <;> simp)

/-- What `putPolicy` keeps. -/
@[simp] theorem putPolicy_keeps (s : State) (id v : Nat) :
    (putPolicy s id v).pending = s.pending ∧ (putPolicy s id v).fuses.fixed = s.fuses.fixed := by
  exact ⟨rfl, rfl⟩

/-- What `setPortMode` keeps. -/
@[simp] theorem setPortMode_keeps (s : State) (v : Nat) :
    (setPortMode s v).pending = s.pending ∧ (setPortMode s v).fuses.fixed = s.fuses.fixed := by
  exact ⟨rfl, rfl⟩

/-- What `setCak` keeps. -/
@[simp] theorem setCak_keeps (s : State) (n l : Nat) :
    (setCak s n l).pending = s.pending ∧ (setCak s n l).fuses.fixed = s.fuses.fixed := by
  exact ⟨rfl, rfl⟩

/-- What `applyPolicy` keeps. -/
@[simp] theorem applyPolicy_keeps (s : State) (id v : Nat) :
    (applyPolicy s id v).pending = s.pending ∧ (applyPolicy s id v).fuses.fixed = s.fuses.fixed := by
  constructor <;> (unfold applyPolicy; dsimp only; (repeat' split) <;> simp)

/-- What `countDrop` keeps. -/
@[simp] theorem countDrop_keeps (s : State) (ep j : Nat) :
    (countDrop s ep j).pending = s.pending ∧ (countDrop s ep j).fuses.fixed = s.fuses.fixed := by
  exact ⟨rfl, rfl⟩

/-- What `resolve` keeps. -/
@[simp] theorem resolve_keeps (s : State) (ep ip dst kind : Nat) (body : Bytes) :
    (resolve s ep ip dst kind body).pending = s.pending ∧
      (resolve s ep ip dst kind body).fuses.fixed = s.fuses.fixed := by
  constructor <;> (unfold resolve; simp)

/-- What `sendBoot` keeps. -/
@[simp] theorem sendBoot_keeps (s : State) (dst kind : Nat) (body : Bytes) :
    (sendBoot s dst kind body).pending = s.pending ∧ (sendBoot s dst kind body).fuses.fixed = s.fuses.fixed := by
  exact ⟨rfl, rfl⟩

/-- What `portReply` keeps. -/
@[simp] theorem portReply_keeps (s : State) (ep session opcode reqId status detail retry : Nat) :
    (portReply s ep session opcode reqId status detail retry).pending = s.pending ∧
      (portReply s ep session opcode reqId status detail retry).fuses.fixed = s.fuses.fixed := by
  constructor <;> (unfold portReply; dsimp only; (repeat' split) <;> simp)

/-- What `complete.push` keeps. -/
@[simp] theorem complete_push_keeps (s : State) (ep : Nat) (x : Reasm) (body : Bytes) :
    (complete.push s ep x body).pending = s.pending ∧ (complete.push s ep x body).fuses.fixed = s.fuses.fixed := by
  unfold complete.push
  split <;> simp

/-- What `complete` keeps. -/
@[simp] theorem complete_keeps (s : State) (ep : Nat) (x : Reasm) (body : Bytes) :
    (complete s ep x body).pending = s.pending ∧ (complete s ep x body).fuses.fixed = s.fuses.fixed := by
  unfold complete
  dsimp only
  repeat' (first | (simp; done) | split)

/-- What `reassemble` keeps. -/
@[simp] theorem reassemble_keeps (s : State) (ep : Nat) (entry : Option (Nat × Nat)) (k : Packet) :
    (reassemble s ep entry k).pending = s.pending ∧ (reassemble s ep entry k).fuses.fixed = s.fuses.fixed := by
  constructor <;> (unfold reassemble; dsimp only; (repeat' split) <;> simp)

/-- What `receive` keeps. -/
@[simp] theorem receive_keeps (s : State) (ep : Nat) (entry : Option (Nat × Nat)) (k : Packet) :
    (receive s ep entry k).pending = s.pending ∧ (receive s ep entry k).fuses.fixed = s.fuses.fixed := by
  constructor <;> (unfold receive; dsimp only; (repeat' split) <;> simp)

/-- What `sendRelay` keeps. -/
@[simp] theorem sendRelay_keeps (s : State) (target : Nat) (f : RelayFrame) :
    (sendRelay s target f).pending = s.pending ∧ (sendRelay s target f).fuses.fixed = s.fuses.fixed := by
  constructor <;> (unfold sendRelay; dsimp only; (repeat' split) <;> simp)

/-- What `unstallTile` keeps. -/
@[simp] theorem unstallTile_keeps (s : State) (c t : Nat) :
    (unstallTile s c t).pending = s.pending ∧ (unstallTile s c t).fuses.fixed = s.fuses.fixed := by
  exact ⟨rfl, rfl⟩

/-- What `fabricFault` keeps. -/
@[simp] theorem fabricFault_keeps (s : State) (c code t : Nat) :
    (fabricFault s c code t).pending = s.pending ∧ (fabricFault s c code t).fuses.fixed = s.fuses.fixed := by
  constructor <;> (unfold fabricFault; simp)

/-- What `pushFlight` keeps. -/
@[simp] theorem pushFlight_keeps (s : State) (c : Nat) (src : Nat × Nat × Nat) (k : Token) (gs : List Granule)
    (galley : Option (Nat × Nat)) :
    (pushFlight s c src k gs galley).pending = s.pending ∧
      (pushFlight s c src k gs galley).fuses.fixed = s.fuses.fixed := by
  exact ⟨rfl, rfl⟩

/-- What `takeRemote` keeps. -/
@[simp] theorem takeRemote_keeps (s : State) (t fu route dt dp : Nat) :
    (takeRemote s t fu route dt dp).pending = s.pending ∧ (takeRemote s t fu route dt dp).fuses.fixed = s.fuses.fixed := by
  constructor <;> (unfold takeRemote; simp [apply_ite State.pending, apply_ite State.fuses])

/-- What `giveCredit` keeps. -/
@[simp] theorem giveCredit_keeps (s : State) (c t p : Nat) (k : QTok) :
    (giveCredit s c t p k).pending = s.pending ∧ (giveCredit s c t p k).fuses.fixed = s.fuses.fixed := by
  constructor <;> (unfold giveCredit; dsimp only; (repeat' split) <;> simp)

/-- What `releaseLanding` keeps. -/
@[simp] theorem releaseLanding_keeps (s : State) (c t p : Nat) (k : QTok) :
    (releaseLanding s c t p k).pending = s.pending ∧ (releaseLanding s c t p k).fuses.fixed = s.fuses.fixed := by
  constructor <;> (unfold releaseLanding; dsimp only; (repeat' split) <;> simp)

/-- What `modGalley` keeps. -/
@[simp] theorem modGalley_keeps (s : State) (t tid : Nat) (f : Galley → Galley) :
    (modGalley s t tid f).pending = s.pending ∧ (modGalley s t tid f).fuses.fixed = s.fuses.fixed := by
  exact ⟨rfl, rfl⟩

/-- What `fenceFor` keeps. -/
@[simp] theorem fenceFor_keeps (s : State) (c : Nat) (act : Activity) :
    (fenceFor s c act).pending = s.pending ∧ (fenceFor s c act).fuses.fixed = s.fuses.fixed := by
  constructor <;> (unfold fenceFor; simp)

/-- What `assertWaiting` keeps. -/
@[simp] theorem assertWaiting_keeps (s : State) (c : Nat) :
    (assertWaiting s c).pending = s.pending ∧ (assertWaiting s c).fuses.fixed = s.fuses.fixed := by
  constructor <;> (unfold assertWaiting; dsimp only; (repeat' split) <;> simp)

/-- What `startOrder` keeps. -/
@[simp] theorem startOrder_keeps (s : State) (c : Nat) (o : Order) :
    (startOrder s c o).pending = s.pending ∧ (startOrder s c o).fuses.fixed = s.fuses.fixed := by
  constructor <;> (unfold startOrder; dsimp only; (repeat' split) <;> simp)

/-- What `nextOrders` keeps. -/
@[simp] theorem nextOrders_keeps (fuel : Nat) (s : State) (c : Nat) :
    (nextOrders fuel s c).pending = s.pending ∧ (nextOrders fuel s c).fuses.fixed = s.fuses.fixed := by
  induction fuel generalizing s with
  | zero => simp [nextOrders]
  | succ k ih =>
    unfold nextOrders
    split
    · simp [ih]
    · simp

/-- What `orderEnded` keeps. -/
@[simp] theorem orderEnded_keeps (s : State) (c : Nat) :
    (orderEnded s c).pending = s.pending ∧ (orderEnded s c).fuses.fixed = s.fuses.fixed := by
  unfold orderEnded
  simp

/-- What `placeOrder` keeps. -/
@[simp] theorem placeOrder_keeps (s : State) (c : Nat) (o : Order) :
    (placeOrder s c o).pending = s.pending ∧ (placeOrder s c o).fuses.fixed = s.fuses.fixed := by
  constructor <;> (unfold placeOrder; (repeat' split) <;> simp)

/-- What `returnFabric` keeps. -/
@[simp] theorem returnFabric_keeps (s : State) (c : Nat) :
    (returnFabric s c).pending = s.pending ∧ (returnFabric s c).fuses.fixed = s.fuses.fixed := by
  exact ⟨rfl, rfl⟩

/-- What `zeroiseLeaving` keeps. -/
@[simp] theorem zeroiseLeaving_keeps (s : State) (c : Nat) :
    (zeroiseLeaving s c).pending = s.pending ∧ (zeroiseLeaving s c).fuses.fixed = s.fuses.fixed := by
  exact ⟨rfl, rfl⟩

/-- What `reloadKeys` keeps. -/
@[simp] theorem reloadKeys_keeps (s : State) (c : Nat) :
    (reloadKeys s c).pending = s.pending ∧ (reloadKeys s c).fuses.fixed = s.fuses.fixed := by
  exact ⟨rfl, rfl⟩

/-- What `zeroiseChase` keeps. -/
@[simp] theorem zeroiseChase_keeps (s : State) (c : Nat) :
    (zeroiseChase s c).pending = s.pending ∧ (zeroiseChase s c).fuses.fixed = s.fuses.fixed := by
  exact ⟨rfl, rfl⟩

/-- What `freeChase` keeps. -/
@[simp] theorem freeChase_keeps (s : State) (c : Nat) :
    (freeChase s c).pending = s.pending ∧ (freeChase s c).fuses.fixed = s.fuses.fixed := by
  constructor <;> (unfold freeChase; simp)

/-- What `loadForme` keeps. -/
@[simp] theorem loadForme_keeps (s : State) (b : FormeBody) :
    (loadForme s b).pending = s.pending ∧ (loadForme s b).fuses.fixed = s.fuses.fixed := by
  constructor <;> (unfold loadForme; simp)

/-- What `switchTile` keeps. -/
@[simp] theorem switchTile_keeps (s : State) (b : FormeBody) (t imp : Nat) :
    (switchTile s b t imp).pending = s.pending ∧ (switchTile s b t imp).fuses.fixed = s.fuses.fixed := by
  constructor <;> (unfold switchTile; dsimp only; (repeat' split) <;> simp)

/-- What `finishChange` keeps. -/
@[simp] theorem finishChange_keeps (s : State) (c : Nat) :
    (finishChange s c).pending = s.pending ∧ (finishChange s c).fuses.fixed = s.fuses.fixed := by
  constructor <;> (unfold finishChange; dsimp only; (repeat' split) <;> simp)

/-- What `restartChangeTimer` keeps. -/
@[simp] theorem restartChangeTimer_keeps (s : State) (c : Nat) :
    (restartChangeTimer s c).pending = s.pending ∧ (restartChangeTimer s c).fuses.fixed = s.fuses.fixed := by
  exact ⟨rfl, rfl⟩

/-- What `tryPass` keeps. -/
@[simp] theorem tryPass_keeps (s : State) (c t u : Nat) (cfg : TileCfg) (uc : UnitCfg) :
    (tryPass s c t u cfg uc).pending = s.pending ∧ (tryPass s c t u cfg uc).fuses.fixed = s.fuses.fixed := by
  unfold tryPass
  dsimp only
  split
  · simp
  · split
    · simp
    · split
      · simp
      · simp only [restartChangeTimer_keeps, unstallOn_keeps, modTile_keeps]
        apply foldl_keeps
        intro s e; split <;> simp

/-- What `placeScan` keeps. -/
@[simp] theorem placeScan_keeps (s : State) (h : CmdHdr) (op c t : Nat) (isOut : Bool) (rec : Bytes) :
    (placeScan s h op c t isOut rec).pending = s.pending ∧
      (placeScan s h op c t isOut rec).fuses.fixed = s.fuses.fixed := by
  constructor <;> (unfold placeScan; simp)

/-- What `endScan` keeps. -/
@[simp] theorem endScan_keeps (s : State) (c : Nat) :
    (endScan s c).pending = s.pending ∧ (endScan s c).fuses.fixed = s.fuses.fixed := by
  constructor <;> (unfold endScan; simp)

/-- What `loadSlots` keeps. -/
@[simp] theorem loadSlots_keeps (s : State) (c : Nat) (gs : List (Nat × Nat)) :
    (loadSlots s c gs).pending = s.pending ∧ (loadSlots s c gs).fuses.fixed = s.fuses.fixed := by
  constructor <;> (unfold loadSlots; simp)

/-- What `beginShareFence` keeps. -/
@[simp] theorem beginShareFence_keeps (s : State) (c : Nat) :
    (beginShareFence s c).pending = s.pending ∧ (beginShareFence s c).fuses.fixed = s.fuses.fixed := by
  constructor <;> (unfold beginShareFence; dsimp only; (repeat' split) <;> simp)

/-- What `endChaseCmds` keeps. -/
@[simp] theorem endChaseCmds_keeps (s : State) (c : Nat) :
    (endChaseCmds s c).pending = s.pending ∧ (endChaseCmds s c).fuses.fixed = s.fuses.fixed := by
  constructor <;> (unfold endChaseCmds; simp)

/-- What `beginRelease` keeps. -/
@[simp] theorem beginRelease_keeps (s : State) (c : Nat) (cmd : Option (Nat × Nat)) :
    (beginRelease s c cmd).pending = s.pending ∧ (beginRelease s c cmd).fuses.fixed = s.fuses.fixed := by
  constructor <;> (unfold beginRelease; simp)

/-- What `side` keeps. -/
@[simp] theorem side_keeps (s : State) (msg : String) (accepted : Bool) (body : Bytes) :
    (side s msg accepted body).pending = s.pending ∧ (side s msg accepted body).fuses.fixed = s.fuses.fixed := by
  constructor <;> (unfold side; simp [apply_ite State.pending, apply_ite State.fuses])

/-- What `spdmReply` keeps. -/
@[simp] theorem spdmReply_keeps (s : State) (msg : String) (code : Nat) (body : Bytes) :
    (spdmReply s msg code body).pending = s.pending ∧ (spdmReply s msg code body).fuses.fixed = s.fuses.fixed := by
  constructor <;> (unfold spdmReply; simp)

/-- What `spdmError` keeps. -/
@[simp] theorem spdmError_keeps (s : State) (msg : String) :
    (spdmError s msg).pending = s.pending ∧ (spdmError s msg).fuses.fixed = s.fuses.fixed := by
  constructor <;> (unfold spdmError; simp)

/-- What `modBoot` keeps. -/
@[simp] theorem modBoot_keeps (s : State) (f : Boot → Boot) :
    (modBoot s f).pending = s.pending ∧ (modBoot s f).fuses.fixed = s.fuses.fixed := by
  exact ⟨rfl, rfl⟩

/-- What `discardImage` keeps. -/
@[simp] theorem discardImage_keeps (s : State) :
    (discardImage s).pending = s.pending ∧ (discardImage s).fuses.fixed = s.fuses.fixed := by
  exact ⟨rfl, rfl⟩

/-- What `tellPeer` keeps. -/
@[simp] theorem tellPeer_keeps (s : State) :
    (tellPeer s).pending = s.pending ∧ (tellPeer s).fuses.fixed = s.fuses.fixed := by
  constructor <;> (unfold tellPeer; dsimp only; (repeat' split) <;> simp)

/-- What `rejectImage` keeps. -/
@[simp] theorem rejectImage_keeps (s : State) (code : Nat) :
    (rejectImage s code).pending = s.pending ∧ (rejectImage s code).fuses.fixed = s.fuses.fixed := by
  constructor <;> (unfold rejectImage; simp)

/-- What `putImageBytes` keeps. -/
@[simp] theorem putImageBytes_keeps (s : State) (offset : Nat) (data : Bytes) :
    (putImageBytes s offset data).pending = s.pending ∧ (putImageBytes s offset data).fuses.fixed = s.fuses.fixed := by
  constructor <;> (unfold putImageBytes; dsimp only; (repeat' split) <;> simp)

/-- What `applyFuseMap` keeps. -/
@[simp] theorem applyFuseMap_keeps (s : State) :
    (applyFuseMap s).pending = s.pending ∧ (applyFuseMap s).fuses.fixed = s.fuses.fixed := by
  constructor <;> (unfold applyFuseMap; simp)

/-- What `applyNet` keeps. -/
@[simp] theorem applyNet_keeps (s : State) :
    (applyNet s).pending = s.pending ∧ (applyNet s).fuses.fixed = s.fuses.fixed := by
  unfold applyNet
  split
  · simp
  · split
    · constructor <;> (first | apply foldl_pending | apply foldl_fixed) <;> intro s e <;> split <;> simp
    · simp

/-- What `trainPorts` keeps. -/
@[simp] theorem trainPorts_keeps (s : State) (laneFault : Nat) :
    (trainPorts s laneFault).pending = s.pending ∧ (trainPorts s laneFault).fuses.fixed = s.fuses.fixed := by
  exact ⟨rfl, rfl⟩

/-- What `applyTests` keeps. -/
@[simp] theorem applyTests_keeps (s : State) (r : BringUpResult) :
    (applyTests s r).pending = s.pending ∧ (applyTests s r).fuses.fixed = s.fuses.fixed := by
  constructor <;> (unfold applyTests; simp)

/-- What `enqueue` keeps. -/
@[simp] theorem enqueue_keeps (s : State) (f : Flight) (k : Token) (depth : Nat) :
    (enqueue s f k depth).pending = s.pending ∧ (enqueue s f k depth).fuses.fixed = s.fuses.fixed := by
  constructor <;> (unfold enqueue; simp [apply_ite State.pending, apply_ite State.fuses])

/-- What `modFiring` keeps. -/
@[simp] theorem modFiring_keeps (s : State) (t u : Nat) (f : Firing → Firing) :
    (modFiring s t u f).pending = s.pending ∧ (modFiring s t u f).fuses.fixed = s.fuses.fixed := by
  exact ⟨rfl, rfl⟩

/-- What `releaseRead` keeps. -/
@[simp] theorem releaseRead_keeps (s : State) (c t fu : Nat) (u : UnitCfg) :
    (releaseRead s c t fu u).pending = s.pending ∧ (releaseRead s c t fu u).fuses.fixed = s.fuses.fixed := by
  unfold releaseRead
  split
  · apply foldl_keeps
    intro s e
    repeat' (first | (simp; done) | split)
  · simp

/-- What `sendUpTo` keeps. -/
@[simp] theorem sendUpTo_keeps (fuel : Nat) (s : State) (c t fu : Nat) (u : UnitCfg) (es : List EmitCfg) (stop : Nat) :
    (sendUpTo fuel s c t fu u es stop).pending = s.pending ∧
      (sendUpTo fuel s c t fu u es stop).fuses.fixed = s.fuses.fixed := by
  induction fuel generalizing s with
  | zero => simp [sendUpTo]
  | succ n ih =>
    unfold sendUpTo
    repeat' (first | (simp [ih, apply_ite State.pending, apply_ite State.fuses]; done) | split)

/-- What `endFiring` keeps. -/
@[simp] theorem endFiring_keeps (s : State) (c t fu : Nat) (u : UnitCfg) (f : Firing) :
    (endFiring s c t fu u f).pending = s.pending ∧ (endFiring s c t fu u f).fuses.fixed = s.fuses.fixed := by
  unfold endFiring
  constructor
  · simp only [unstall_keeps]
    rw [foldl_pending]
    · simp
    · intro s e; split <;> simp
  · simp only [unstall_keeps]
    rw [foldl_fixed]
    · simp
    · intro s e; split <;> simp

/-- What `emitSome` keeps. -/
@[simp] theorem emitSome_keeps (s : State) (c t fu : Nat) (u : UnitCfg) (stop : Nat) :
    (emitSome s c t fu u stop).pending = s.pending ∧ (emitSome s c t fu u stop).fuses.fixed = s.fuses.fixed := by
  unfold emitSome
  dsimp only
  repeat' (first | (simp; done) | split)

/-- What `beginFiring` keeps. -/
@[simp] theorem beginFiring_keeps (s : State) (t fu : Nat) (u : UnitCfg) (f : FuState) (e : MatchEntry) :
    (beginFiring s t fu u f e).pending = s.pending ∧ (beginFiring s t fu u f e).fuses.fixed = s.fuses.fixed := by
  exact ⟨rfl, rfl⟩

/-- What `issueOne` keeps. -/
@[simp] theorem issueOne_keeps (s : State) (c t fu : Nat) :
    (issueOne s c t fu).pending = s.pending ∧ (issueOne s c t fu).fuses.fixed = s.fuses.fixed := by
  constructor <;> (unfold issueOne; dsimp only; (repeat' split) <;> simp)

/-- What `issueRegs` keeps. -/
@[simp] theorem issueRegs_keeps (s : State) (c t : Nat) :
    (issueRegs s c t).pending = s.pending ∧ (issueRegs s c t).fuses.fixed = s.fuses.fixed := by
  constructor <;> (unfold issueRegs; simp)

/-- What `fireNow` keeps. -/
@[simp] theorem fireNow_keeps (s : State) (t fu func : Nat) :
    (fireNow s t fu func).pending = s.pending ∧ (fireNow s t fu func).fuses.fixed = s.fuses.fixed := by
  constructor <;> (unfold fireNow; (repeat' split) <;> simp)

/-- What `countCeS` keeps. -/
@[simp] theorem countCeS_keeps (s : State) (t : Nat) :
    (countCeS s t).pending = s.pending ∧ (countCeS s t).fuses.fixed = s.fuses.fixed := by
  exact ⟨rfl, rfl⟩

/-- What `bankReadEvents` keeps. -/
@[simp] theorem bankReadEvents_keeps (s : State) (t a : Nat) (r : BankReq) :
    (bankReadEvents s t a r).pending = s.pending ∧ (bankReadEvents s t a r).fuses.fixed = s.fuses.fixed := by
  constructor <;> (unfold bankReadEvents; dsimp only; (repeat' split) <;> simp)

/-- What `bankWaits` keeps. -/
@[simp] theorem bankWaits_keeps (s : State) (c t : Nat) (reqs : List BankReq) (r : BankReq) :
    (bankWaits s c t reqs r).pending = s.pending ∧ (bankWaits s c t reqs r).fuses.fixed = s.fuses.fixed := by
  have hf := foldl_keeps (fun s (q : BankReq) => match bankKey t q.user with
      | some k => stallOn s c k 6 Wait.bank
      | none => s) (fun s q => by split <;> simp) (reqs.filter (· != r)) s
  unfold bankWaits
  dsimp only
  split
  · simp only [unstallOn_keeps]; exact hf
  · exact hf

/-- What `pushScalar` keeps. -/
@[simp] theorem pushScalar_keeps (s : State) (k : SlotCtx) (v : Scalar) :
    (pushScalar s k v).pending = s.pending ∧ (pushScalar s k v).fuses.fixed = s.fuses.fixed := by
  exact ⟨rfl, rfl⟩

/-- What `slotDone` keeps. -/
@[simp] theorem slotDone_keeps (s : State) (c t fu : Nat) (u : UnitCfg) :
    (slotDone s c t fu u).pending = s.pending ∧ (slotDone s c t fu u).fuses.fixed = s.fuses.fixed := by
  constructor <;> (unfold slotDone; simp)

/-- What `runSlot` keeps. -/
theorem runSlot_keeps (s : State) (t fu opc : Nat) (op : State → SlotCtx → State)
    (h : ∀ s k, (op s k).pending = s.pending ∧ (op s k).fuses.fixed = s.fuses.fixed) :
    (runSlot s t fu opc op).pending = s.pending ∧ (runSlot s t fu opc op).fuses.fixed = s.fuses.fixed := by
  unfold runSlot
  repeat' (first | (simp [h]; done) | split)

/-- What `elementwise` keeps. -/
@[simp] theorem elementwise_keeps (s : State) (k : SlotCtx) (gov dst : Nat) (srcs : List (Nat × Nat))
    (op : Nat → List Nat → Nat × Flags) :
    (elementwise s k gov dst srcs op).pending = s.pending ∧
      (elementwise s k gov dst srcs op).fuses.fixed = s.fuses.fixed := by
  exact ⟨rfl, rfl⟩

/-- What `unary` keeps. -/
@[simp] theorem unary_keeps (s : State) (k : SlotCtx) (op : Nat → Nat → Nat × Flags) :
    (unary s k op).pending = s.pending ∧ (unary s k op).fuses.fixed = s.fuses.fixed := by
  exact ⟨rfl, rfl⟩

/-- What `binary` keeps. -/
@[simp] theorem binary_keeps (s : State) (k : SlotCtx) (op : Nat → Nat → Nat → Nat × Flags) :
    (binary s k op).pending = s.pending ∧ (binary s k op).fuses.fixed = s.fuses.fixed := by
  exact ⟨rfl, rfl⟩

/-- What `bitwise` keeps. -/
@[simp] theorem bitwise_keeps (s : State) (k : SlotCtx) (op : Nat → Nat → Nat) :
    (bitwise s k op).pending = s.pending ∧ (bitwise s k op).fuses.fixed = s.fuses.fixed := by
  exact ⟨rfl, rfl⟩

/-- What `shift` keeps. -/
@[simp] theorem shift_keeps (s : State) (k : SlotCtx) (op : Nat → Nat → Nat → Nat) :
    (shift s k op).pending = s.pending ∧ (shift s k op).fuses.fixed = s.fuses.fixed := by
  constructor <;> (unfold shift; (repeat' split) <;> simp)

/-- What `transcSlot` keeps. -/
@[simp] theorem transcSlot_keeps (s : State) (k : SlotCtx) (opc : Nat) :
    (transcSlot s k opc).pending = s.pending ∧ (transcSlot s k opc).fuses.fixed = s.fuses.fixed := by
  exact ⟨rfl, rfl⟩

/-- What `permute` keeps. -/
@[simp] theorem permute_keeps (s : State) (k : SlotCtx) (src : Nat → Nat → Nat × Nat) :
    (permute s k src).pending = s.pending ∧ (permute s k src).fuses.fixed = s.fuses.fixed := by
  exact ⟨rfl, rfl⟩

/-- What `withScalar` keeps. -/
theorem withScalar_keeps (s : State) (k : SlotCtx) (op : Elt → State)
    (h : ∀ e, (op e).pending = s.pending ∧ (op e).fuses.fixed = s.fuses.fixed) :
    (withScalar s k op).pending = s.pending ∧ (withScalar s k op).fuses.fixed = s.fuses.fixed := by
  unfold withScalar
  dsimp only
  split
  · simp
  · exact h _

/-- What `maskOp` keeps. -/
@[simp] theorem maskOp_keeps (s : State) (k : SlotCtx) (op : BitVec 1024 → BitVec 1024 → BitVec 1024) :
    (maskOp s k op).pending = s.pending ∧ (maskOp s k op).fuses.fixed = s.fuses.fixed := by
  exact ⟨rfl, rfl⟩

/-- What `addressFault` keeps. -/
@[simp] theorem addressFault_keeps (s : State) (k : SlotCtx) (fx : AccFx) :
    (addressFault s k fx).pending = s.pending ∧ (addressFault s k fx).fuses.fixed = s.fuses.fixed := by
  constructor <;> (unfold addressFault; dsimp only; (repeat' split) <;> simp)

/-- What `reduceShuffle` keeps. -/
@[simp] theorem reduceShuffle_keeps (s : State) (k : SlotCtx) (op : RedOp) :
    (reduceShuffle s k op).pending = s.pending ∧ (reduceShuffle s k op).fuses.fixed = s.fuses.fixed := by
  exact ⟨rfl, rfl⟩

/-- What `reduceGather` keeps. -/
@[simp] theorem reduceGather_keeps (s : State) (k : SlotCtx) (op : RedOp) :
    (reduceGather s k op).pending = s.pending ∧ (reduceGather s k op).fuses.fixed = s.fuses.fixed := by
  exact ⟨rfl, rfl⟩

/-- What `reduce` keeps. -/
@[simp] theorem reduce_keeps (s : State) (k : SlotCtx) (op : RedOp) :
    (reduce s k op).pending = s.pending ∧ (reduce s k op).fuses.fixed = s.fuses.fixed := by
  constructor <;> (unfold reduce; (repeat' split) <;> simp)

/-- What `pmac` keeps. -/
@[simp] theorem pmac_keeps (s : State) (k : SlotCtx) :
    (pmac s k).pending = s.pending ∧ (pmac s k).fuses.fixed = s.fuses.fixed := by
  unfold pmac
  extract_lets p x d s' strA strB as bs fx old set
  have hs : s'.pending = s.pending ∧ s'.fuses.fixed = s.fuses.fixed := ⟨rfl, rfl⟩
  split
  · simpa using hs
  · split <;> simpa using hs

/-- What `readyNext` keeps. -/
@[simp] theorem readyNext_keeps (s : State) (n : Nat) :
    (readyNext s n).pending = s.pending ∧ (readyNext s n).fuses.fixed = s.fuses.fixed := by
  exact ⟨rfl, rfl⟩

/-- What `insertBlock` keeps. -/
@[simp] theorem insertBlock_keeps (s : State) (n j : Nat) (b : Nat × Nat × List Nat) :
    (insertBlock s n j b).pending = s.pending ∧ (insertBlock s n j b).fuses.fixed = s.fuses.fixed := by
  constructor <;> (unfold insertBlock; dsimp only; (repeat' split) <;> simp)

/-- What `insertBlocks` keeps. -/
@[simp] theorem insertBlocks_keeps (s : State) (n : Nat) (p : Pass) :
    (insertBlocks s n p).pending = s.pending ∧ (insertBlocks s n p).fuses.fixed = s.fuses.fixed := by
  constructor <;> (unfold insertBlocks; (repeat' split) <;> simp)

/-- What `compWaits` keeps. -/
@[simp] theorem compWaits_keeps (s : State) (die : Nat) :
    (compWaits s die).pending = s.pending ∧ (compWaits s die).fuses.fixed = s.fuses.fixed := by
  unfold compWaits
  dsimp only
  apply foldl_keeps
  intro s c
  split <;> simp

/-- What `pushRows` keeps. -/
@[simp] theorem pushRows_keeps (s : State) (n : Nat) (r : Req) (p : Pass) :
    (pushRows s n r p).pending = s.pending ∧ (pushRows s n r p).fuses.fixed = s.fuses.fixed := by
  constructor <;> (unfold pushRows; simp)

/-- What `endStep` keeps. -/
@[simp] theorem endStep_keeps (s : State) (c : Nat) (a : ArrayPass) :
    (endStep s c a).pending = s.pending ∧ (endStep s c a).fuses.fixed = s.fuses.fixed := by
  constructor <;> (unfold endStep; simp)

/-- What `countOverrun` keeps. -/
@[simp] theorem countOverrun_keeps (s : State) (c f : Nat) (a : ArrayPass) :
    (countOverrun s c f a).pending = s.pending ∧ (countOverrun s c f a).fuses.fixed = s.fuses.fixed := by
  constructor <;> (unfold countOverrun; dsimp only; (repeat' split) <;> simp)

/-- What `completePass` keeps. -/
@[simp] theorem completePass_keeps (s : State) (c f : Nat) (a : ArrayPass) :
    (completePass s c f a).pending = s.pending ∧ (completePass s c f a).fuses.fixed = s.fuses.fixed := by
  constructor <;> (unfold completePass; dsimp only; (repeat' split) <;> simp)

/-- What `outputDone` keeps. -/
@[simp] theorem outputDone_keeps (s : State) (c f tid : Nat) :
    (outputDone s c f tid).pending = s.pending ∧ (outputDone s c f tid).fuses.fixed = s.fuses.fixed := by
  constructor <;> (unfold outputDone; dsimp only; (repeat' split) <;> simp)

/-- What `endInjection` keeps. -/
@[simp] theorem endInjection_keeps (s : State) (c f : Nat) :
    (endInjection s c f).pending = s.pending ∧ (endInjection s c f).fuses.fixed = s.fuses.fixed := by
  constructor <;> (unfold endInjection; dsimp only; (repeat' split) <;> simp)

/-- What `touchWindow` keeps. -/
@[simp] theorem touchWindow_keeps (s : State) (c id : Nat) (offs : List Nat) :
    (touchWindow s c id offs).pending = s.pending ∧ (touchWindow s c id offs).fuses.fixed = s.fuses.fixed := by
  exact ⟨rfl, rfl⟩

/-- What `grantWindow` keeps. -/
@[simp] theorem grantWindow_keeps (s : State) (n : Nat) :
    (grantWindow s n).pending = s.pending ∧ (grantWindow s n).fuses.fixed = s.fuses.fixed := by
  constructor <;> (unfold grantWindow; dsimp only; (repeat' split) <;> simp)

/-- What `injectToken` keeps. -/
@[simp] theorem injectToken_keeps (s : State) (k : InGalley) (tok : Token) (slot : Option (Nat × Nat)) :
    (injectToken s k tok slot).pending = s.pending ∧ (injectToken s k tok slot).fuses.fixed = s.fuses.fixed := by
  exact ⟨rfl, rfl⟩

/-- What `galleyDone` keeps. -/
@[simp] theorem galleyDone_keeps (s : State) (k : InGalley) :
    (galleyDone s k).pending = s.pending ∧ (galleyDone s k).fuses.fixed = s.fuses.fixed := by
  constructor <;> (unfold galleyDone; simp)

/-- What `entryCreditOr` keeps. -/
theorem entryCreditOr_keeps (s : State) (k : InGalley) (go : State → State)
    (h : ∀ s, (go s).pending = s.pending ∧ (go s).fuses.fixed = s.fuses.fixed) :
    (entryCreditOr s k go).pending = s.pending ∧ (entryCreditOr s k go).fuses.fixed = s.fuses.fixed := by
  unfold entryCreditOr
  split <;> simp [h]

/-- What `injectChunk` keeps. -/
@[simp] theorem injectChunk_keeps (s : State) (k : InGalley) (slot j : Nat) (gs : List Granule) :
    (injectChunk s k slot j gs).pending = s.pending ∧ (injectChunk s k slot j gs).fuses.fixed = s.fuses.fixed := by
  constructor <;> (unfold injectChunk; simp)

/-- What `injectEnd` keeps. -/
@[simp] theorem injectEnd_keeps (s : State) (k : InGalley) (len : Nat) :
    (injectEnd s k len).pending = s.pending ∧ (injectEnd s k len).fuses.fixed = s.fuses.fixed := by
  constructor <;> (unfold injectEnd; simp)

/-- What `drainLockup` keeps. -/
@[simp] theorem drainLockup_keeps (s : State) (k : OutGalley) (r : List QTok) (q : QTok) :
    (drainLockup s k r q).pending = s.pending ∧ (drainLockup s k r q).fuses.fixed = s.fuses.fixed := by
  constructor <;> (unfold drainLockup; dsimp only; (repeat' split) <;> simp)

/-- What `writeTensor` keeps. -/
@[simp] theorem writeTensor_keeps (s : State) (t : TensorCfg) (o : Obj) (part : Nat × Nat) (off : Nat) (b : List
    (Byte × Bool)) :
    (writeTensor s t o part off b).pending = s.pending ∧
      (writeTensor s t o part off b).fuses.fixed = s.fuses.fixed := by
  constructor <;> (unfold writeTensor; simp)

/-- What `outputWritten` keeps. -/
@[simp] theorem outputWritten_keeps (s : State) (k : OutGalley) :
    (outputWritten s k).pending = s.pending ∧ (outputWritten s k).fuses.fixed = s.fuses.fixed := by
  constructor <;> (unfold outputWritten; dsimp only; (repeat' split) <;> simp)

/-- What `toReply` keeps. -/
@[simp] theorem toReply_keeps (s : State) (n : Nat) (b : List (Byte × Bool)) :
    (toReply s n b).pending = s.pending ∧ (toReply s n b).fuses.fixed = s.fuses.fixed := by
  exact ⟨rfl, rfl⟩

/-- What `stopReq` keeps. -/
@[simp] theorem stopReq_keeps (s : State) (n reason : Nat) :
    (stopReq s n reason).pending = s.pending ∧ (stopReq s n reason).fuses.fixed = s.fuses.fixed := by
  constructor <;> (unfold stopReq; simp)

/-- What `drawFor` keeps. -/
@[simp] theorem drawFor_keeps (s : State) (n i : Nat) (r : Req) (p : Pass) :
    (drawFor s n i r p).pending = s.pending ∧ (drawFor s n i r p).fuses.fixed = s.fuses.fixed := by
  constructor <;> (unfold drawFor; dsimp only; (repeat' split) <;> simp)

/-- What `sendPartial` keeps. -/
@[simp] theorem sendPartial_keeps (s : State) (n : Nat) :
    (sendPartial s n).pending = s.pending ∧ (sendPartial s n).fuses.fixed = s.fuses.fixed := by
  constructor <;> (unfold sendPartial; dsimp only; (repeat' split) <;> simp)

/-- What `endRound` keeps. -/
@[simp] theorem endRound_keeps (s : State) (n : Nat) (r : Req) :
    (endRound s n r).pending = s.pending ∧ (endRound s n r).fuses.fixed = s.fuses.fixed := by
  exact ⟨rfl, rfl⟩

/-- What `takeIn` keeps. -/
@[simp] theorem takeIn_keeps (s : State) (r : Req) (fs dfs : List Nat) (m : FolioMem) :
    (takeIn s r fs dfs m).1.pending = s.pending ∧ (takeIn s r fs dfs m).1.fuses.fixed = s.fuses.fixed := by
  unfold takeIn
  dsimp only
  split <;> simp

/-- What `imprimaturFrom` keeps. -/
theorem imprimaturFrom_keeps {s s' : State} {r : Req} {n : Nat} (h : imprimaturFrom s r = .admitted s' n) :
    s'.pending = s.pending ∧ s'.fuses.fixed = s.fuses.fixed := by
  unfold imprimaturFrom at h
  dsimp only at h
  repeat' (first | (cases h; done) | (cases h; exact takeIn_keeps ..) | split at h)

/-- What `imprimatur` keeps. -/
theorem imprimatur_keeps {s s' : State} {r : Req} {n : Nat} (h : imprimatur s r = .admitted s' n) :
    s'.pending = s.pending ∧ s'.fuses.fixed = s.fuses.fixed := by
  unfold imprimatur at h
  dsimp only at h
  repeat' (first | (cases h; done) | exact imprimaturFrom_keeps h | split at h)

/-- What `countRefused` keeps. -/
@[simp] theorem countRefused_keeps (s : State) (c k : Nat) :
    (countRefused s c k).pending = s.pending ∧ (countRefused s c k).fuses.fixed = s.fuses.fixed := by
  exact ⟨rfl, rfl⟩

/-- What `refuseHold` keeps. -/
@[simp] theorem refuseHold_keeps (s : State) (h : CmdHdr) (op c : Nat) (body : Bytes) :
    (refuseHold s h op c body).pending = s.pending ∧ (refuseHold s h op c body).fuses.fixed = s.fuses.fixed := by
  constructor <;> (unfold refuseHold; simp)

/-- What `ask` keeps. -/
theorem ask_keeps (s : State) (h : CmdHdr) (op : Nat) (r : Req) (body : Bytes) (go : State → Nat → State)
    (hgo : ∀ s n, (go s n).pending = s.pending ∧ (go s n).fuses.fixed = s.fuses.fixed) :
    (ask s h op r body go).pending = s.pending ∧ (ask s h op r body go).fuses.fixed = s.fuses.fixed := by
  unfold ask
  split
  · simp
  · next hi => have := imprimatur_keeps hi; simp [hgo, this]

/-- What `answerChunk` keeps. -/
@[simp] theorem answerChunk_keeps (s : State) (se : Session) (h : CmdHdr) (status detail retry : Nat) (body : Bytes) :
    (answerChunk s se h status detail retry body).pending = s.pending ∧
      (answerChunk s se h status detail retry body).fuses.fixed = s.fuses.fixed := by
  constructor <;> (unfold answerChunk; simp)

/-- What `putChunk` keeps. -/
@[simp] theorem putChunk_keeps (s : State) (n off : Nat) (data : Bytes) :
    (putChunk s n off data).pending = s.pending ∧ (putChunk s n off data).fuses.fixed = s.fuses.fixed := by
  exact ⟨rfl, rfl⟩

/-- What `laterChunk` keeps. -/
@[simp] theorem laterChunk_keeps (s : State) (se : Session) (h : CmdHdr) (n off : Nat) (data : Bytes) :
    (laterChunk s se h n off data).pending = s.pending ∧
      (laterChunk s se h n off data).fuses.fixed = s.fuses.fixed := by
  constructor <;> (unfold laterChunk; dsimp only; (repeat' split) <;> simp)

/-- What `takeHeld` keeps. -/
@[simp] theorem takeHeld_keeps (s : State) (se : Session) (h : CmdHdr) (n : Nat)
    (l : List (Nat × Nat × Nat × Nat × Bytes)) :
    (takeHeld s se h n l).pending = s.pending ∧ (takeHeld s se h n l).fuses.fixed = s.fuses.fixed := by
  induction l generalizing s with
  | nil => simp [takeHeld]
  | cons x r ih =>
    unfold takeHeld
    simp only [ih]
    repeat' (first | (simp; done) | split)

/-- What `firstChunk` keeps. -/
@[simp] theorem firstChunk_keeps (s : State) (se : Session) (h : CmdHdr) (f deadline total : Nat) (label data : Bytes) :
    (firstChunk s se h f deadline total label data).pending = s.pending ∧
      (firstChunk s se h f deadline total label data).fuses.fixed = s.fuses.fixed := by
  unfold firstChunk
  extract_lets c held s'
  have hs : s'.pending = s.pending ∧ s'.fuses.fixed = s.fuses.fixed := ⟨rfl, rfl⟩
  split
  · simpa using hs
  · split
    · simpa using hs
    · rw [← hs.1, ← hs.2]
      refine ask_keeps _ h 0x0052 _ label _ ?_
      intro s n
      dsimp only
      split <;> simp

/-- What `earlyChunk` keeps. -/
@[simp] theorem earlyChunk_keeps (s : State) (se : Session) (h : CmdHdr) (off : Nat) (data : Bytes) :
    (earlyChunk s se h off data).pending = s.pending ∧ (earlyChunk s se h off data).fuses.fixed = s.fuses.fixed := by
  constructor <;> (unfold earlyChunk; (repeat' split) <;> simp)

/-- What `takeHolds` keeps. -/
@[simp] theorem takeHolds_keeps (ids : List Nat) (s : State) (c n : Nat) :
    (takeHolds ids s c n).1.pending = s.pending ∧ (takeHolds ids s c n).1.fuses.fixed = s.fuses.fixed := by
  induction ids generalizing s with
  | nil => simp [takeHolds]
  | cons id r ih =>
    unfold takeHolds
    repeat' (first | (simp [ih]; done) | split)

/-- What `acquire` keeps. -/
@[simp] theorem acquire_keeps (s : State) (n : Nat) (r : Req) (p : Pass) :
    (acquire s n r p).pending = s.pending ∧ (acquire s n r p).fuses.fixed = s.fuses.fixed := by
  unfold acquire
  dsimp only
  repeat' (first | (simp; done) | split)

/-- What `dropHolds` keeps. -/
@[simp] theorem dropHolds_keeps (s : State) (c n : Nat) (holds : List Nat) :
    (dropHolds s c n holds).pending = s.pending ∧ (dropHolds s c n holds).fuses.fixed = s.fuses.fixed := by
  constructor <;> (unfold dropHolds; simp)

/-- What `assignFolios` keeps. -/
@[simp] theorem assignFolios_keeps (s : State) (n : Nat) (r : Req) (p : Pass) :
    (assignFolios s n r p).pending = s.pending ∧ (assignFolios s n r p).fuses.fixed = s.fuses.fixed := by
  constructor <;> (unfold assignFolios; dsimp only; (repeat' split) <;> simp)

/-- What `beginPass` keeps. -/
@[simp] theorem beginPass_keeps (s : State) (n : Nat) (r : Req) (p : Pass) (i : Image) :
    (beginPass s n r p i).pending = s.pending ∧ (beginPass s n r p i).fuses.fixed = s.fuses.fixed := by
  constructor <;> (unfold beginPass; dsimp only; (repeat' split) <;> simp)

/-- What `atObj` keeps. -/
@[simp] theorem atObj_keeps (s : State) (h : CmdHdr) (c : Nat) (o : Obj) (op a b : Nat) (data : Bytes) :
    (atObj s h c o op a b data).pending = s.pending ∧ (atObj s h c o op a b data).fuses.fixed = s.fuses.fixed := by
  constructor <;> (unfold atObj; dsimp only; (repeat' split) <;> simp)

/-- What `rowEvent` keeps. -/
@[simp] theorem rowEvent_keeps (s : State) (isH : Bool) (pa : Nat) (symbols : List Nat) (unc : Bool) :
    (rowEvent s isH pa symbols unc).pending = s.pending ∧ (rowEvent s isH pa symbols unc).fuses.fixed = s.fuses.fixed := by
  unfold rowEvent
  dsimp only
  constructor
  · refine (foldl_keeps _ ?_ _ _).1.trans (by simp)
    intro s k; repeat' (first | (simp; done) | split)
  · refine (foldl_keeps _ ?_ _ _).2.trans (by simp)
    intro s k; repeat' (first | (simp; done) | split)

/-- What `distrust` keeps. -/
@[simp] theorem distrust_keeps (s : State) (isH : Bool) (pa : Nat) (cipher : Bytes) :
    (distrust s isH pa cipher).pending = s.pending ∧ (distrust s isH pa cipher).fuses.fixed = s.fuses.fixed := by
  constructor <;> (unfold distrust; simp)

/-- What `parityError` keeps. -/
@[simp] theorem parityError_keeps (s : State) (isH : Bool) (pa : Nat) :
    (parityError s isH pa).pending = s.pending ∧ (parityError s isH pa).fuses.fixed = s.fuses.fixed := by
  constructor <;> (unfold parityError; dsimp only; (repeat' split) <;> simp)

/-- What `copyBlock` keeps. -/
@[simp] theorem copyBlock_keeps (s : State) (fromH : Bool) (a : Nat) (toH : Bool) (b : Nat) :
    (copyBlock s fromH a toH b).pending = s.pending ∧ (copyBlock s fromH a toH b).fuses.fixed = s.fuses.fixed := by
  constructor <;> (unfold copyBlock; dsimp only; (repeat' split) <;> simp)

/-- What `putRec` keeps. -/
@[simp] theorem putRec_keeps (s : State) (c : Nat) (k : IntakeCfg) (idx : Nat) (r : FlowRec) :
    (putRec s c k idx r).pending = s.pending ∧ (putRec s c k idx r).fuses.fixed = s.fuses.fixed := by
  constructor <;> (unfold putRec; dsimp only; (repeat' split) <;> simp)

/-- What `fillIntake` keeps. -/
@[simp] theorem fillIntake_keeps (s : State) :
    (fillIntake s).pending = s.pending ∧ (fillIntake s).fuses.fixed = s.fuses.fixed := by
  exact ⟨rfl, rfl⟩

/-- What `queueScore` keeps. -/
@[simp] theorem queueScore_keeps (s : State) (idx : Nat) :
    (queueScore s idx).pending = s.pending ∧ (queueScore s idx).fuses.fixed = s.fuses.fixed := by
  exact ⟨rfl, rfl⟩

/-- What `completeRec` keeps. -/
@[simp] theorem completeRec_keeps (s : State) (c : Nat) (k : IntakeCfg) (idx : Nat) (r : FlowRec) (cause : Nat) :
    (completeRec s c k idx r cause).pending = s.pending ∧
      (completeRec s c k idx r cause).fuses.fixed = s.fuses.fixed := by
  constructor <;> (unfold completeRec; simp)

/-- What `takePacket` keeps. -/
@[simp] theorem takePacket_keeps (s : State) (c : Nat) (k : IntakeCfg) (idx : Nat) (r : FlowRec) (fwd : Bool)
    (f : IntakeFrame) :
    (takePacket s c k idx r fwd f).pending = s.pending ∧
      (takePacket s c k idx r fwd f).fuses.fixed = s.fuses.fixed := by
  constructor <;> (unfold takePacket; dsimp only; (repeat' split) <;> simp)

/-- What `countIntake` keeps. -/
@[simp] theorem countIntake_keeps (s : State) (k : Nat) :
    (countIntake s k).pending = s.pending ∧ (countIntake s k).fuses.fixed = s.fuses.fixed := by
  constructor <;> (unfold countIntake; (repeat' split) <;> simp)

/-- What `modRec` keeps. -/
@[simp] theorem modRec_keeps (s : State) (idx : Nat) (f : FlowRec → FlowRec) :
    (modRec s idx f).pending = s.pending ∧ (modRec s idx f).fuses.fixed = s.fuses.fixed := by
  exact ⟨rfl, rfl⟩

/-- What `scoreRec` keeps. -/
@[simp] theorem scoreRec_keeps (s : State) (c : Nat) (k : IntakeCfg) (idx : Nat) (r : FlowRec) :
    (scoreRec s c k idx r).pending = s.pending ∧ (scoreRec s c k idx r).fuses.fixed = s.fuses.fixed := by
  unfold scoreRec
  extract_lets n input a q i s' later
  have hs : s'.pending = s.pending ∧ s'.fuses.fixed = s.fuses.fixed := ⟨rfl, rfl⟩
  split
  · simpa [later] using hs
  · split
    · simpa [later] using hs
    · next h => have := imprimatur_keeps h; simpa [hs] using this

/-- What `answerLoad` keeps. -/
@[simp] theorem answerLoad_keeps (s : State) (se : Session) (h : CmdHdr) (status : Nat) :
    (answerLoad s se h status).pending = s.pending ∧ (answerLoad s se h status).fuses.fixed = s.fuses.fixed := by
  constructor <;> (unfold answerLoad; simp)

/-- What `putPart` keeps. -/
@[simp] theorem putPart_keeps (s : State) (x : Stage) (off : Nat) (data : Bytes) :
    (putPart s x off data).pending = s.pending ∧ (putPart s x off data).fuses.fixed = s.fuses.fixed := by
  constructor <;> (unfold putPart; simp [apply_ite State.pending, apply_ite State.fuses])

/-- What `laterPart` keeps. -/
@[simp] theorem laterPart_keeps (s : State) (se : Session) (h : CmdHdr) (x : Stage) (total off : Nat) (data : Bytes) :
    (laterPart s se h x total off data).pending = s.pending ∧
      (laterPart s se h x total off data).fuses.fixed = s.fuses.fixed := by
  constructor <;> (unfold laterPart; (repeat' split) <;> simp)

/-- What `firstPart` keeps. -/
@[simp] theorem firstPart_keeps (s : State) (c : Nat) (h : CmdHdr) (total off : Nat) (data : Bytes) :
    (firstPart s c h total off data).pending = s.pending ∧
      (firstPart s c h total off data).fuses.fixed = s.fuses.fixed := by
  constructor <;> (unfold firstPart; dsimp only; (repeat' split) <;> simp)

/-- What `elapse` keeps. -/
@[simp] theorem elapse_keeps (s : State) (n : Nat) :
    (elapse s n).pending = s.pending ∧ (elapse s n).fuses.fixed = s.fuses.fixed := by
  constructor <;> (unfold elapse; simp [apply_ite State.pending, apply_ite State.fuses])

/-- What `tick` keeps. -/
@[simp] theorem tick_keeps (s : State) :
    (tick s).pending = s.pending ∧ (tick s).fuses.fixed = s.fuses.fixed := by
  constructor <;> (unfold tick; simp [apply_ite State.pending, apply_ite State.fuses])



/-- What `State.withFetchWord` keeps. -/
@[simp] theorem State.withFetchWord_keeps (s : State) (nbits w : Nat) :
    (State.withFetchWord s nbits w).pending = s.pending ∧ (State.withFetchWord s nbits w).fuses.fixed = s.fuses.fixed := by
  exact ⟨rfl, rfl⟩

end Sys2Proof.Machine
end

