-- ==== Sys2Proof/Laws/Memory.lean ====
section
/-! SUPPORT. Laws of the tables by number and of the byte memories: what a read after a write gives, and that every
memory operation keeps the canonical form (R141, R249). -/

-- One proof at a time: the package as one text then needs little memory.
set_option Elab.async false

namespace Sys2Proof.Machine

/-! ### Tables -/

/-- Every key of a table lies above k. -/
def keysAbove {α : Type} (k : Nat) (m : KMap α) : Prop := ∀ e ∈ m, k < e.1

theorem kwf_cons {α : Type} (a : Nat) (v : α) (m : KMap α) :
    kwf ((a, v) :: m) = true ↔ keysAbove a m ∧ kwf m = true := by
  induction m generalizing a v with
  | nil => simp [kwf, keysAbove]
  | cons b r ih =>
    obtain ⟨b, w⟩ := b
    constructor
    · intro h
      simp only [kwf, Bool.and_eq_true, decide_eq_true_eq] at h
      refine ⟨?_, h.2⟩
      intro e he
      rcases List.mem_cons.mp he with rfl | he
      · exact h.1
      · exact Nat.lt_trans h.1 (((ih b w).mp h.2).1 e he)
    · intro h
      simp only [kwf, Bool.and_eq_true, decide_eq_true_eq]
      exact ⟨h.1 (b, w) (by simp), h.2⟩

theorem kget_above {α : Type} {k j : Nat} {m : KMap α} (h : keysAbove k m) (hj : j ≤ k) : kget m j = none := by
  cases m with
  | nil => rfl
  | cons e r =>
    have := h e (by simp)
    simp only [kget]
    rw [if_neg (by omega), if_neg (by omega)]

theorem kset_above {α : Type} {k j : Nat} {v : α} {m : KMap α} (h : keysAbove k m) (hj : k < j) :
    keysAbove k (kset m j v) := by
  induction m with
  | nil => intro e he; simp only [kset, List.mem_singleton] at he; subst he; exact hj
  | cons b r ih =>
    have hr : keysAbove k r := fun e he => h e (by simp [he])
    have hb := h b (by simp)
    intro e he
    simp only [kset] at he
    split at he
    · rcases List.mem_cons.mp he with rfl | he
      · exact hj
      · exact hr e he
    · split at he
      · rcases List.mem_cons.mp he with rfl | he
        · exact hb
        · exact ih hr e he
      · rcases List.mem_cons.mp he with rfl | he
        · exact hj
        · exact h e he

theorem kdel_above {α : Type} {k j : Nat} {m : KMap α} (h : keysAbove k m) : keysAbove k (kdel m j) := by
  induction m with
  | nil => exact h
  | cons b r ih =>
    have hr : keysAbove k r := fun e he => h e (by simp [he])
    intro e he
    simp only [kdel] at he
    split at he
    · exact hr e he
    · split at he
      · rcases List.mem_cons.mp he with rfl | he
        · exact h _ (by simp)
        · exact ih hr e he
      · exact h e he

/-- Putting an entry keeps the keys rising. -/
theorem kset_kwf {α : Type} (m : KMap α) (k : Nat) (v : α) (h : kwf m = true) : kwf (kset m k v) = true := by
  induction m with
  | nil => rfl
  | cons b r ih =>
    obtain ⟨b, w⟩ := b
    obtain ⟨ha, hr⟩ := (kwf_cons b w r).mp h
    simp only [kset]
    split
    · next e => subst e; exact (kwf_cons b v r).mpr ⟨ha, hr⟩
    · split
      · next hlt => exact (kwf_cons b w _).mpr ⟨kset_above ha hlt, ih hr⟩
      · refine (kwf_cons k v _).mpr ⟨?_, h⟩
        intro e he
        rcases List.mem_cons.mp he with rfl | he
        · simp only; omega
        · have := ha e he; omega

/-- Removing an entry keeps the keys rising. -/
theorem kdel_kwf {α : Type} (m : KMap α) (k : Nat) (h : kwf m = true) : kwf (kdel m k) = true := by
  induction m with
  | nil => rfl
  | cons b r ih =>
    obtain ⟨b, w⟩ := b
    obtain ⟨ha, hr⟩ := (kwf_cons b w r).mp h
    simp only [kdel]
    split
    · exact hr
    · split
      · exact (kwf_cons b w _).mpr ⟨kdel_above ha, ih hr⟩
      · exact h

/-- Dropping entries keeps the keys rising. -/
theorem filter_kwf {α : Type} (m : KMap α) (p : Nat × α → Bool) (h : kwf m = true) : kwf (m.filter p) = true := by
  induction m with
  | nil => rfl
  | cons b r ih =>
    obtain ⟨b, w⟩ := b
    obtain ⟨ha, hr⟩ := (kwf_cons b w r).mp h
    simp only [List.filter]
    split
    · refine (kwf_cons b w _).mpr ⟨?_, ih hr⟩
      intro e he
      exact ha e (List.mem_filter.mp he).1
    · exact ih hr

/-- An entry that was put is read. -/
theorem kget_kset_same {α : Type} (m : KMap α) (k : Nat) (v : α) : kget (kset m k v) k = some v := by
  induction m with
  | nil => simp [kset, kget]
  | cons b r ih =>
    simp only [kset]
    split
    · simp [kget]
    · split
      · simp only [kget]
        rw [if_neg (by omega), if_pos (by omega)]
        exact ih
      · simp [kget]

/-- Putting an entry leaves what every other number holds, in any table. -/
theorem kget_kset_ne {α : Type} (m : KMap α) (k j : Nat) (v : α) (h : j ≠ k) : kget (kset m k v) j = kget m j := by
  induction m with
  | nil => simp only [kset, kget]; rw [if_neg (Ne.symm h)]; simp
  | cons b r ih =>
    obtain ⟨b, w⟩ := b
    simp only [kset]
    split
    · subst_vars; simp only [kget]; rw [if_neg (Ne.symm h), if_neg (Ne.symm h)]
    · split
      · simp only [kget, ih]
      · simp only [kget]; rw [if_neg (Ne.symm h)]; split <;> (try rfl); (repeat' split) <;> first | rfl | omega

/-- Putting an entry leaves every other key as it was. -/
theorem kget_kset_other {α : Type} (m : KMap α) (k j : Nat) (v : α) (h : j ≠ k) (hw : kwf m = true) :
    kget (kset m k v) j = kget m j := by
  induction m with
  | nil => simp only [kset, kget]; split <;> (first | omega | (split <;> rfl))
  | cons b r ih =>
    obtain ⟨b, w⟩ := b
    obtain ⟨ha, hr⟩ := (kwf_cons b w r).mp hw
    simp only [kset]
    split
    · next e => subst e; simp only [kget]; rw [if_neg (Ne.symm h), if_neg (Ne.symm h)]
    · split
      · simp only [kget]
        split
        · rfl
        · split
          · exact ih hr
          · rfl
      · simp only [kget]
        rw [if_neg (Ne.symm h)]
        split
        · rfl
        · next hlt =>
          rw [if_neg (by omega), if_neg (by omega)]

/-- A removed entry is not read. -/
theorem kget_kdel_same {α : Type} (m : KMap α) (k : Nat) (hw : kwf m = true) : kget (kdel m k) k = none := by
  induction m with
  | nil => rfl
  | cons b r ih =>
    obtain ⟨b, w⟩ := b
    obtain ⟨ha, hr⟩ := (kwf_cons b w r).mp hw
    simp only [kdel]
    split
    · next e => subst e; exact kget_above ha (Nat.le_refl _)
    · split
      · simp only [kget]
        rw [if_neg (by omega), if_pos (by omega)]
        exact ih hr
      · simp only [kget]
        rw [if_neg (by omega), if_neg (by omega)]

/-- Removing an entry leaves every other key as it was. -/
theorem kget_kdel_other {α : Type} (m : KMap α) (k j : Nat) (h : j ≠ k) (hw : kwf m = true) :
    kget (kdel m k) j = kget m j := by
  induction m with
  | nil => rfl
  | cons b r ih =>
    obtain ⟨b, w⟩ := b
    obtain ⟨ha, hr⟩ := (kwf_cons b w r).mp hw
    simp only [kdel]
    split
    · next e =>
      subst e
      simp only [kget]
      rw [if_neg (Ne.symm h)]
      split
      · rfl
      · exact kget_above ha (by omega)
    · split
      · simp only [kget]
        split
        · rfl
        · split
          · exact ih hr
          · rfl
      · rfl

/-! ### Byte memories -/

theorem Memory.wf_iff (m : List Host.Cell) : Memory.wf m = true ↔ kwf m = true ∧ ∀ c ∈ m, c.2 ≠ 0 := by
  simp [Memory.wf]

theorem mem_kset {α : Type} {m : KMap α} {k : Nat} {v : α} {e : Nat × α} (he : e ∈ kset m k v) : e = (k, v) ∨ e ∈ m := by
  induction m with
  | nil => simpa [kset] using he
  | cons b r ih =>
    simp only [kset] at he
    split at he
    · rcases List.mem_cons.mp he with h | h
      · exact .inl h
      · exact .inr (by simp [h])
    · split at he
      · rcases List.mem_cons.mp he with h | h
        · exact .inr (by simp [h])
        · rcases ih h with h | h
          · exact .inl h
          · exact .inr (by simp [h])
      · rcases List.mem_cons.mp he with h | h
        · exact .inl h
        · exact .inr h

theorem mem_kdel {α : Type} {m : KMap α} {k : Nat} {e : Nat × α} (he : e ∈ kdel m k) : e ∈ m := by
  induction m with
  | nil => exact he
  | cons b r ih =>
    simp only [kdel] at he
    split at he
    · simp [he]
    · split at he
      · rcases List.mem_cons.mp he with h | h
        · simp [h]
        · simp [ih h]
      · exact he

/-- Writing a byte keeps the canonical form. -/
theorem memWrite_wf (m : List Host.Cell) (a : Nat) (b : Byte) (h : Memory.wf m = true) :
    Memory.wf (memWrite m a b) = true := by
  obtain ⟨hk, hz⟩ := (Memory.wf_iff m).mp h
  unfold memWrite
  split
  · exact (Memory.wf_iff _).mpr ⟨kdel_kwf m a hk, fun c hc => hz c (mem_kdel hc)⟩
  · next hb =>
    refine (Memory.wf_iff _).mpr ⟨kset_kwf m a b hk, fun c hc => ?_⟩
    rcases mem_kset hc with rfl | hc
    · exact hb
    · exact hz c hc

/-- Writing a byte string keeps the canonical form. -/
theorem memWriteN_wf (m : List Host.Cell) (a : Nat) (bs : Bytes) (h : Memory.wf m = true) :
    Memory.wf (memWriteN m a bs) = true := by
  induction bs generalizing m a with
  | nil => exact h
  | cons b r ih => exact ih _ _ (memWrite_wf m a b h)

/-- Dropping bytes keeps the canonical form. -/
theorem filter_wf (m : List Host.Cell) (p : Host.Cell → Bool) (h : Memory.wf m = true) : Memory.wf (m.filter p) = true := by
  obtain ⟨hk, hz⟩ := (Memory.wf_iff m).mp h
  exact (Memory.wf_iff _).mpr ⟨filter_kwf m p hk, fun c hc => hz c (List.mem_filter.mp hc).1⟩

/-- A byte that was written is read. -/
theorem memRead_memWrite_same (m : List Host.Cell) (a : Nat) (b : Byte) (h : Memory.wf m = true) :
    memRead (memWrite m a b) a = b := by
  unfold memRead memWrite kgetD
  split
  · next hb => rw [kget_kdel_same m a ((Memory.wf_iff m).mp h).1]; simp [hb]
  · rw [kget_kset_same]; rfl

/-- Writing a byte leaves every other byte as it was. -/
theorem memRead_memWrite_other (m : List Host.Cell) (a c : Nat) (b : Byte) (hc : c ≠ a) (h : Memory.wf m = true) :
    memRead (memWrite m a b) c = memRead m c := by
  have hk := ((Memory.wf_iff m).mp h).1
  unfold memRead memWrite kgetD
  split
  · rw [kget_kdel_other m a c hc hk]
  · rw [kget_kset_other m a c b hc hk]

/-! ### Tiers H and B -/

theorem granulePut_wf (m : TierMem) (isH : Bool) (pa : Nat) (data : Bytes) (spoiled : Bool)
    (h : Memory.wf m.bytes = true) : Memory.wf (granulePut m isH pa data spoiled).bytes = true := by
  unfold granulePut
  split
  · exact h
  · exact memWriteN_wf _ _ _ h

theorem tierWrite_wf (isH : Bool) (fuel : Nat) (m : TierMem) (pa : Nat) (data : List (Byte × Bool))
    (h : Memory.wf m.bytes = true) : Memory.wf (tierWrite isH fuel m pa data).bytes = true := by
  induction fuel generalizing m pa data with
  | zero => exact h
  | succ n ih =>
    unfold tierWrite
    split
    · exact h
    · exact ih _ _ _ (granulePut_wf _ _ _ _ _ h)

theorem objWriteFuel_wf (fuel : Nat) (m : TierMem) (o : Obj) (off : Nat) (data : List (Byte × Bool))
    (h : Memory.wf m.bytes = true) : Memory.wf (objWriteFuel fuel m o off data).bytes = true := by
  induction fuel generalizing m off data with
  | zero => exact h
  | succ n ih =>
    unfold objWriteFuel
    split
    · exact h
    · exact ih _ _ _ (tierWrite_wf _ _ _ _ _ h)

theorem zeroGranule_wf (m : TierMem) (isH : Bool) (g : Nat) (h : Memory.wf m.bytes = true) :
    Memory.wf (zeroGranule m isH g).bytes = true := filter_wf _ _ h

theorem TierMem.forget_wf (m : TierMem) (isH : Bool) (gone : Nat → Bool) (h : Memory.wf m.bytes = true) :
    Memory.wf (m.forget isH gone).bytes = true := filter_wf _ _ h

theorem TierMem.zeroise_wf (m : TierMem) : Memory.wf m.zeroise.bytes = true := rfl

/-- Writing into an object keeps both tiers in canonical form. -/
theorem objWrite_memOk (s : State) (o : Obj) (off : Nat) (data : List (Byte × Bool)) (h : s.memOk) :
    (objWrite s o off data).memOk := by
  cases e : o.isH
  · simp only [objWrite, e, setTier, tier, Bool.false_eq_true, if_false]
    exact ⟨h.1, objWriteFuel_wf _ _ _ _ _ h.2⟩
  · simp only [objWrite, e, setTier, tier, if_true]
    exact ⟨objWriteFuel_wf _ _ _ _ _ h.1, h.2⟩

end Sys2Proof.Machine
end

