-- ==== Sys2Proof/Laws/MemKept.lean ====
section
/-! SUPPORT. Every shared operation keeps the memory of both tiers in its canonical form (`State.memOk`,
Safety.lean): one lemma per operation, cited by the lemma of whatever calls it. -/

-- One proof at a time: the package as one text then needs little memory.
set_option Elab.async false

namespace Sys2Proof.Machine

/-- A fold of operations that each keep the form keeps it. -/
theorem foldl_memOk {α : Type} (f : State → α → State) (h : ∀ s x, s.memOk → (f s x).memOk) (l : List α) (s : State)
    (hs : s.memOk) : (l.foldl f s).memOk := by
  induction l generalizing s with
  | nil => exact hs
  | cons a r ih => exact ih _ (h s a hs)

/-- A tier's bytes in canonical form. -/
def TierMem.ok (m : TierMem) : Prop := Memory.wf m.bytes = true

theorem tier_ok (s : State) (isH : Bool) (h : s.memOk) : (tier s isH).ok := by
  unfold tier TierMem.ok; split; exacts [h.1, h.2]


/-- `modChase` keeps memory in canonical form. -/
theorem modChase_memOk (s : State) (c : Nat) (f : Chase → Chase) (hm : s.memOk) : (modChase s c f).memOk := by
  unfold modChase
  repeat' (first | with_reducible assumption | split
                 | (unfold State.memOk; dsimp only [drawNat_eq, drawBytes_eq]; change State.memOk _))

/-- `chev` keeps memory in canonical form. -/
theorem chev_memOk (s : State) (c j : Nat) (hm : s.memOk) : (chev s c j).memOk := by
  unfold chev
  repeat' (first | with_reducible assumption | with_reducible apply modChase_memOk)

/-- `setTile` keeps memory in canonical form. -/
theorem setTile_memOk (s : State) (t : Nat) (x : Tile) (hm : s.memOk) : (setTile s t x).memOk := by
  unfold setTile
  repeat' (first | with_reducible assumption | split
                 | (unfold State.memOk; dsimp only [drawNat_eq, drawBytes_eq]; change State.memOk _))

/-- `modTile` keeps memory in canonical form. -/
theorem modTile_memOk (s : State) (t : Nat) (f : Tile → Tile) (hm : s.memOk) : (modTile s t f).memOk := by
  unfold modTile
  repeat' (first | with_reducible assumption | with_reducible apply setTile_memOk)

/-- `violations` keeps memory in canonical form. -/
theorem violations_memOk (s : State) (n : Nat) (hm : s.memOk) :
    (violations s n).memOk := by
  unfold violations
  dsimp only [drawNat_eq, drawBytes_eq]
  repeat' (first | with_reducible assumption | split
                 | (unfold State.memOk; dsimp only [drawNat_eq, drawBytes_eq]; change State.memOk _))

/-- `violation` keeps memory in canonical form. -/
theorem violation_memOk (s : State) (hm : s.memOk) : (violation s).memOk := by
  unfold violation
  dsimp only [drawNat_eq, drawBytes_eq]
  repeat' (first | with_reducible assumption | split
                 | (unfold State.memOk; dsimp only [drawNat_eq, drawBytes_eq]; change State.memOk _))

/-- `healthEvent` keeps memory in canonical form. -/
theorem healthEvent_memOk (s : State) (mask : Nat) (hm : s.memOk) : (healthEvent s mask).memOk := by
  unfold healthEvent
  dsimp only [drawNat_eq, drawBytes_eq]
  repeat' (first | with_reducible assumption | split
                 | (unfold State.memOk; dsimp only [drawNat_eq, drawBytes_eq]; change State.memOk _))

/-- `countErr` keeps memory in canonical form. -/
theorem countErr_memOk (s : State) (k : Nat) (hm : s.memOk) : (countErr s k).memOk := by
  unfold countErr
  dsimp only [drawNat_eq, drawBytes_eq]
  repeat' (first | with_reducible assumption | with_reducible apply healthEvent_memOk | split
                 | (unfold State.memOk; dsimp only [drawNat_eq, drawBytes_eq]; change State.memOk _))

/-- `stallOn` keeps memory in canonical form. -/
theorem stallOn_memOk (s : State) (c key sub cause : Nat) (hm : s.memOk) :
    (stallOn s c key sub cause).memOk := by
  unfold stallOn
  repeat' (first | with_reducible assumption
                 | with_reducible apply modChase_memOk | split | (unfold State.memOk; dsimp only [drawNat_eq, drawBytes_eq]; change State.memOk _))

/-- `unstallOn` keeps memory in canonical form. -/
theorem unstallOn_memOk (s : State) (c key sub : Nat) (hm : s.memOk) :
    (unstallOn s c key sub).memOk := by
  unfold unstallOn
  repeat' (first | with_reducible assumption
                 | with_reducible apply modChase_memOk | split | (unfold State.memOk; dsimp only [drawNat_eq, drawBytes_eq]; change State.memOk _))

/-- `stall` keeps memory in canonical form. -/
theorem stall_memOk (s : State) (c key cause : Nat) (hm : s.memOk) :
    (stall s c key cause).memOk := by
  unfold stall
  repeat' (first | with_reducible assumption
                 | with_reducible apply stallOn_memOk | split | (unfold State.memOk; dsimp only [drawNat_eq, drawBytes_eq]; change State.memOk _))

/-- `unstall` keeps memory in canonical form. -/
theorem unstall_memOk (s : State) (c key : Nat) (hm : s.memOk) :
    (unstall s c key).memOk := by
  unfold unstall
  repeat' (first | with_reducible assumption
                 | with_reducible apply unstallOn_memOk | split | (unfold State.memOk; dsimp only [drawNat_eq, drawBytes_eq]; change State.memOk _))

/-- `modPort` keeps memory in canonical form. -/
theorem modPort_memOk (s : State) (n : Nat) (f : TorusPort → TorusPort) (hm : s.memOk) : (modPort s n f).memOk := by
  unfold modPort
  repeat' (first | with_reducible assumption | split
                 | (unfold State.memOk; dsimp only [drawNat_eq, drawBytes_eq]; change State.memOk _))

/-- `sendCtl` keeps memory in canonical form. -/
theorem sendCtl_memOk (s : State) (port : Nat) (name : String) (fields : List Nat) (hm : s.memOk) :
    (sendCtl s port name fields).memOk := by
  unfold sendCtl
  dsimp only [drawNat_eq, drawBytes_eq]
  repeat' (first | with_reducible assumption
                 | with_reducible apply modPort_memOk | split | (unfold State.memOk; dsimp only [drawNat_eq, drawBytes_eq]; change State.memOk _))

/-- `freePlaces` keeps memory in canonical form. -/
theorem freePlaces_memOk (s : State) (port vc k : Nat) (hm : s.memOk) :
    (freePlaces s port vc k).memOk := by
  unfold freePlaces
  repeat' (first | with_reducible assumption
                 | with_reducible apply modPort_memOk | split | (unfold State.memOk; dsimp only [drawNat_eq, drawBytes_eq]; change State.memOk _))

/-- `announce` keeps memory in canonical form. -/
theorem announce_memOk (s : State) (hm : s.memOk) :
    (announce s).memOk := by
  unfold announce
  repeat' (first | with_reducible assumption
                 | (with_reducible apply foldl_memOk; intro _ _ _) | split | (unfold State.memOk; dsimp only [drawNat_eq, drawBytes_eq]; change State.memOk _))

/-- `sendRuns` keeps memory in canonical form. -/
theorem sendRuns_memOk (fuel : Nat) (s : State) (n vc : Nat) (hm : s.memOk) : (sendRuns fuel s n vc).memOk := by
  induction fuel generalizing s with
  | zero => exact hm
  | succ f ih =>
    unfold sendRuns
    split
    · dsimp only
      split
      · exact hm
      · apply ih
        repeat' (first | exact hm | split)
    · exact hm

/-- `pump` keeps memory in canonical form. -/
theorem pump_memOk (s : State) (n : Nat) (hm : s.memOk) :
    (pump s n).memOk := by
  unfold pump
  dsimp only [drawNat_eq, drawBytes_eq]
  repeat' (first | with_reducible assumption
                 | with_reducible apply sendRuns_memOk | split | (unfold State.memOk; dsimp only [drawNat_eq, drawBytes_eq]; change State.memOk _))

/-- `flushJob` keeps memory in canonical form. -/
theorem flushJob_memOk (s : State) (id : Nat) (hm : s.memOk) :
    (flushJob s id).memOk := by
  unfold flushJob
  dsimp only [drawNat_eq, drawBytes_eq]
  repeat' (first | with_reducible assumption
                 | (with_reducible apply foldl_memOk; intro _ _ _)
                 | with_reducible apply announce_memOk
                 | with_reducible apply freePlaces_memOk | split | (unfold State.memOk; dsimp only [drawNat_eq, drawBytes_eq]; change State.memOk _))

/-- `dropRuns` keeps memory in canonical form. -/
theorem dropRuns_memOk (s : State) (n : Nat) (hm : s.memOk) :
    (dropRuns s n).memOk := by
  unfold dropRuns
  repeat' (first | with_reducible assumption | split | (unfold State.memOk; dsimp only [drawNat_eq, drawBytes_eq]; change State.memOk _))

/-- `sendEth` keeps memory in canonical form. -/
theorem sendEth_memOk (s : State) (ep dst kind : Nat) (body : Bytes) (hm : s.memOk) :
    (sendEth s ep dst kind body).memOk := by
  unfold sendEth
  dsimp only [drawNat_eq, drawBytes_eq]
  repeat' (first | with_reducible assumption | split
                 | (unfold State.memOk; dsimp only [drawNat_eq, drawBytes_eq]; change State.memOk _))

/-- `sendUdp` keeps memory in canonical form. -/
theorem sendUdp_memOk (s : State) (ep : Nat) (dest : SrcAddr) (entry : Option (Nat × Nat)) (dscp : Nat) (data : Bytes) (hm : s.memOk) :
    (sendUdp s ep dest entry dscp data).memOk := by
  unfold sendUdp
  dsimp only [drawNat_eq, drawBytes_eq]
  repeat' (first | with_reducible assumption
                 | with_reducible apply sendEth_memOk | split | (unfold State.memOk; dsimp only [drawNat_eq, drawBytes_eq]; change State.memOk _))

/-- `depart` keeps memory in canonical form. -/
theorem depart_memOk (s : State) (r : Reply) (hm : s.memOk) :
    (depart s r).memOk := by
  unfold depart
  dsimp only [drawNat_eq, drawBytes_eq]
  repeat' (first | with_reducible assumption
                 | (with_reducible apply foldl_memOk; intro _ _ _)
                 | with_reducible apply sendUdp_memOk | split | (unfold State.memOk; dsimp only [drawNat_eq, drawBytes_eq]; change State.memOk _))

/-- `rememberFinal` keeps memory in canonical form. -/
theorem rememberFinal_memOk (s : State) (r : Reply) (hm : s.memOk) : (rememberFinal s r).memOk := by
  unfold rememberFinal
  dsimp only [drawNat_eq, drawBytes_eq]
  repeat' (first | with_reducible assumption | split
                 | (unfold State.memOk; dsimp only [drawNat_eq, drawBytes_eq]; change State.memOk _))

/-- `emitReply` keeps memory in canonical form. -/
theorem emitReply_memOk (s : State) (r : Reply) (hm : s.memOk) :
    (emitReply s r).memOk := by
  unfold emitReply
  dsimp only [drawNat_eq, drawBytes_eq]
  repeat' (first | with_reducible assumption
                 | with_reducible apply depart_memOk
                 | with_reducible apply rememberFinal_memOk | split | (unfold State.memOk; dsimp only [drawNat_eq, drawBytes_eq]; change State.memOk _))

/-- `resendReply` keeps memory in canonical form. -/
theorem resendReply_memOk (s : State) (r : Option Reply) (hm : s.memOk) :
    (resendReply s r).memOk := by
  unfold resendReply
  repeat' (first | with_reducible assumption
                 | with_reducible apply depart_memOk | split | (unfold State.memOk; dsimp only [drawNat_eq, drawBytes_eq]; change State.memOk _))

/-- `conflictReply` keeps memory in canonical form. -/
theorem conflictReply_memOk (s : State) (se : Session) (r : Reply) (hm : s.memOk) :
    (conflictReply s se r).memOk := by
  unfold conflictReply
  repeat' (first | with_reducible assumption
                 | with_reducible apply depart_memOk | split | (unfold State.memOk; dsimp only [drawNat_eq, drawBytes_eq]; change State.memOk _))

/-- `replyLive` keeps memory in canonical form. -/
theorem replyLive_memOk (s : State) (session reqId status detail : Nat) (body : Bytes)
    (hm : s.memOk) : (replyLive s session reqId status detail body).memOk := by
  unfold replyLive
  repeat' (first | with_reducible assumption | with_reducible apply emitReply_memOk | split)

/-- `replyCmd` keeps memory in canonical form. -/
theorem replyCmd_memOk (s : State) (cmd : Option (Nat × Nat)) (status detail : Nat)
    (hm : s.memOk) : (replyCmd s cmd status detail).memOk := by
  unfold replyCmd
  repeat' (first | with_reducible assumption | with_reducible apply replyLive_memOk | split)

/-- Replacing a tier's memory keeps canonical form when the new memory has it. -/
theorem setTier_memOk (s : State) (isH : Bool) (m : TierMem)
    (hm : s.memOk) (hn : m.ok) : (setTier s isH m).memOk := by
  unfold setTier; split; exacts [⟨hn, hm.2⟩, ⟨hm.1, hn⟩]

/-- `countMem` keeps memory in canonical form. -/
theorem countMem_memOk (s : State) (isH : Bool) (pa k : Nat) (hm : s.memOk) : (countMem s isH pa k).memOk := by
  unfold countMem
  dsimp only [drawNat_eq, drawBytes_eq]
  repeat' (first | with_reducible assumption | with_reducible apply countErr_memOk | with_reducible apply chev_memOk
                 | split)

/-- `countLost` keeps memory in canonical form. -/
theorem countLost_memOk (s : State) (gs : List (Bool × Nat)) (hm : s.memOk) :
    (countLost s gs).memOk := by
  unfold countLost
  repeat' (first | with_reducible assumption
                 | (with_reducible apply foldl_memOk; intro _ _ _)
                 | with_reducible apply countMem_memOk | split | (unfold State.memOk; dsimp only [drawNat_eq, drawBytes_eq]; change State.memOk _))

/-- `stallMem` keeps memory in canonical form. -/
theorem stallMem_memOk (s : State) (c : Nat) (k : Nat × Nat) (hm : s.memOk) :
    (stallMem s c k).memOk := by
  unfold stallMem
  repeat' (first | with_reducible assumption
                 | with_reducible apply stallOn_memOk | split | (unfold State.memOk; dsimp only [drawNat_eq, drawBytes_eq]; change State.memOk _))

/-- `modObj` keeps memory in canonical form. -/
theorem modObj_memOk (s : State) (c id : Nat) (f : Obj → Obj) (hm : s.memOk) : (modObj s c id f).memOk := by
  unfold modObj
  repeat' (first | with_reducible assumption | split
                 | (unfold State.memOk; dsimp only [drawNat_eq, drawBytes_eq]; change State.memOk _))

/-- A metadata fit, or its default, keeps memory in canonical form. -/
theorem fitMeta_memOk {s d : State} (c tierNo die : Nat) (hs : s.memOk) (hd : d.memOk) :
    ((fitMeta s c tierNo die).getD d).memOk := by
  unfold fitMeta
  dsimp only
  repeat' (first | exact hs | exact hd | split)

/-- `dropObj` keeps memory in canonical form. -/
theorem dropObj_memOk (s : State) (o : Obj) (hm : s.memOk) : (dropObj s o).memOk :=
  fitMeta_memOk _ _ _ hm hm

/-- `concReread` keeps memory in canonical form. -/
theorem concReread_memOk (s : State) (c id off len : Nat) (hm : s.memOk) :
    (concReread s c id off len).memOk := by
  unfold concReread
  dsimp only [drawNat_eq, drawBytes_eq]
  repeat' (first | with_reducible assumption
                 | with_reducible apply modChase_memOk | split | (unfold State.memOk; dsimp only [drawNat_eq, drawBytes_eq]; change State.memOk _))

/-- `countSpoiled` keeps memory in canonical form. -/
theorem countSpoiled_memOk (s : State) (c n : Nat) (hm : s.memOk) : (countSpoiled s c n).memOk := by
  unfold countSpoiled
  dsimp only [drawNat_eq, drawBytes_eq]
  repeat' (first | with_reducible assumption | with_reducible apply modChase_memOk)

/-- `doPut` keeps memory in canonical form. -/
theorem doPut_memOk (s : State) (c id off : Nat) (data : Bytes) (session reqId : Nat) (hm : s.memOk) :
    (doPut s c id off data session reqId).memOk := by
  unfold doPut
  dsimp only [drawNat_eq, drawBytes_eq]
  repeat' (first | with_reducible assumption
                 | with_reducible apply replyLive_memOk
                 | with_reducible apply concReread_memOk
                 | with_reducible apply objWrite_memOk
                 | with_reducible apply countLost_memOk | split | (unfold State.memOk; dsimp only [drawNat_eq, drawBytes_eq]; change State.memOk _))

/-- `doGet` keeps memory in canonical form. -/
theorem doGet_memOk (s : State) (c id off len : Nat) (session reqId : Nat) (hm : s.memOk) :
    (doGet s c id off len session reqId).memOk := by
  unfold doGet
  dsimp only [drawNat_eq, drawBytes_eq]
  repeat' (first | with_reducible assumption
                 | with_reducible apply countSpoiled_memOk
                 | with_reducible apply countLost_memOk
                 | with_reducible apply emitReply_memOk
                 | with_reducible apply replyLive_memOk | split | (unfold State.memOk; dsimp only [drawNat_eq, drawBytes_eq]; change State.memOk _))

/-- `doWindow` keeps memory in canonical form. -/
theorem doWindow_memOk (s : State) (c id window die : Nat) (session reqId : Nat)
    (hm : s.memOk) : (doWindow s c id window die session reqId).memOk := by
  unfold doWindow
  dsimp only [drawNat_eq, drawBytes_eq]
  repeat' (first | with_reducible assumption | with_reducible apply replyLive_memOk
                 | with_reducible apply modObj_memOk | split)

/-- `settleWindow` keeps memory in canonical form. -/
theorem settleWindow_memOk (s : State) (c id : Nat) (hm : s.memOk) :
    (settleWindow s c id).memOk := by
  unfold settleWindow
  repeat' (first | with_reducible assumption
                 | (with_reducible apply foldl_memOk; intro _ _ _)
                 | with_reducible apply doWindow_memOk
                 | with_reducible apply modObj_memOk | split | (unfold State.memOk; dsimp only [drawNat_eq, drawBytes_eq]; change State.memOk _))

/-- `doMove` keeps memory in canonical form. -/
theorem doMove_memOk (s : State) (c id tierNo die : Nat) (session reqId : Nat) (hm : s.memOk) :
    (doMove s c id tierNo die session reqId).memOk := by
  unfold doMove
  split
  · exact replyLive_memOk _ _ _ _ _ _ hm
  · split
    · exact replyLive_memOk _ _ _ _ _ _ hm
    · exact fitMeta_memOk _ _ _ (modObj_memOk _ _ _ _ hm) (replyLive_memOk _ _ _ _ _ _ hm)

/-- `runWait` keeps memory in canonical form. -/
theorem runWait_memOk (s : State) (w : ObjWait) (hm : s.memOk) : (runWait s w).memOk := by
  unfold runWait
  dsimp only [drawNat_eq, drawBytes_eq]
  repeat' (first | with_reducible assumption | with_reducible apply doPut_memOk | with_reducible apply doGet_memOk
                 | with_reducible apply doWindow_memOk | with_reducible apply doMove_memOk | split
                 | (unfold State.memOk; dsimp only [drawNat_eq, drawBytes_eq]; change State.memOk _))

/-- `wakeObj` keeps memory in canonical form. -/
theorem wakeObj_memOk (fuel : Nat) (s : State) (c id : Nat) (hm : s.memOk) :
    (wakeObj fuel s c id).memOk := by
  induction fuel generalizing s with
  | zero => exact hm
  | succ n ih =>
    unfold wakeObj
    repeat' (first | exact hm | exact ih _ (modObj_memOk _ _ _ _ hm) | exact ih _ (runWait_memOk _ _ (modObj_memOk _ _ _ _ hm))
                   | exact stallMem_memOk _ _ _ hm | split)

/-- `releaseHold` keeps memory in canonical form. -/
theorem releaseHold_memOk (s : State) (c n id : Nat) (hm : s.memOk) :
    (releaseHold s c n id).memOk := by
  unfold releaseHold
  repeat' (first | exact hm | exact wakeObj_memOk _ _ _ _ hm | split)

/-- `memResume` keeps memory in canonical form. -/
theorem memResume_memOk (s : State) (back : Nat → Bool) (hm : s.memOk) :
    (memResume s back).memOk := by
  unfold memResume
  refine foldl_memOk _ ?_ _ _ hm
  intro s o hm
  exact wakeObj_memOk _ _ _ _ hm

/-- `endReads` keeps memory in canonical form. -/
theorem endReads_memOk (s : State) (c : Nat) (ids : List Nat) (gone : Nat → Bool) (hm : s.memOk) :
    (endReads s c ids gone).memOk := by
  unfold endReads
  dsimp only [drawNat_eq, drawBytes_eq]
  repeat' (first | with_reducible assumption
                 | (with_reducible apply foldl_memOk; intro _ _ _)
                 | with_reducible apply settleWindow_memOk | split | (unfold State.memOk; dsimp only [drawNat_eq, drawBytes_eq]; change State.memOk _))

/-- `modReq` keeps memory in canonical form. -/
theorem modReq_memOk (s : State) (n : Nat) (f : Req → Req) (hm : s.memOk) : (modReq s n f).memOk := by
  unfold modReq
  repeat' (first | with_reducible assumption | split
                 | (unfold State.memOk; dsimp only [drawNat_eq, drawBytes_eq]; change State.memOk _))

/-- `sendFinal` keeps memory in canonical form. -/
theorem sendFinal_memOk (s : State) (r : Req) (status detail : Nat) (extra : Bytes)
    (hm : s.memOk) : (sendFinal s r status detail extra).memOk := by
  unfold sendFinal
  dsimp only [drawNat_eq, drawBytes_eq]
  repeat' (first | with_reducible assumption | with_reducible apply emitReply_memOk | split)

/-- `concPut` keeps memory in canonical form. -/
theorem concPut_memOk (s : State) (c : Nat) (e : ConcEntry) (b : Bytes) (hm : s.memOk) : (concPut s c e b).memOk := by
  unfold concPut
  repeat' (first | with_reducible assumption | with_reducible apply objWrite_memOk | split)

/-- `setConc` keeps memory in canonical form. -/
theorem setConc_memOk (s : State) (c : Nat) (new : List ConcEntry) (hm : s.memOk) : (setConc s c new).memOk := by
  unfold setConc
  dsimp only [drawNat_eq, drawBytes_eq]
  repeat' (first | with_reducible assumption | (with_reducible apply foldl_memOk; intro _ _ _)
                 | with_reducible apply concPut_memOk | with_reducible apply modChase_memOk)

/-- `dropRefs` keeps memory in canonical form. -/
theorem dropRefs_memOk (s : State) (c pool : Nat) (fs : List Nat) (hm : s.memOk) : (dropRefs s c pool fs).memOk := by
  unfold dropRefs
  repeat' (first | with_reducible assumption | with_reducible apply setConc_memOk)

/-- `freeCleared` keeps memory in canonical form. -/
theorem freeCleared_memOk (s : State) (c : Nat) (hm : s.memOk) : (freeCleared s c).memOk := by
  unfold freeCleared
  repeat' (first | with_reducible assumption | with_reducible apply modChase_memOk)

/-- `releaseReq` keeps memory in canonical form. -/
theorem releaseReq_memOk (s : State) (n : Nat) (hm : s.memOk) : (releaseReq s n).memOk := by
  unfold releaseReq
  dsimp only [drawNat_eq, drawBytes_eq]
  repeat' (first | with_reducible assumption | (with_reducible apply foldl_memOk; intro _ _ _)
                 | with_reducible apply modChase_memOk | with_reducible apply dropRefs_memOk
                 | with_reducible apply releaseHold_memOk | with_reducible apply freeCleared_memOk | split
                 | (unfold State.memOk; dsimp only [drawNat_eq, drawBytes_eq]; change State.memOk _))

/-- `fillRest` keeps memory in canonical form. -/
theorem fillRest_memOk (s : State) (n : Nat) (hm : s.memOk) : (fillRest s n).memOk := by
  unfold fillRest
  dsimp only [drawNat_eq, drawBytes_eq]
  repeat' (first | with_reducible assumption | with_reducible apply modReq_memOk | split
                 | (unfold State.memOk; dsimp only [drawNat_eq, drawBytes_eq]; change State.memOk _))

/-- `endReq` keeps memory in canonical form. -/
theorem endReq_memOk (s : State) (n : Nat) (st : ReqState) (status detail : Nat) (extra : Bytes)
    (hm : s.memOk) : (endReq s n st status detail extra).memOk := by
  unfold endReq
  dsimp only [drawNat_eq, drawBytes_eq]
  repeat' (first | with_reducible assumption | with_reducible apply sendFinal_memOk
                 | with_reducible apply modReq_memOk | with_reducible apply fillRest_memOk
                 | with_reducible apply releaseReq_memOk | split
                 | (unfold State.memOk; dsimp only [drawNat_eq, drawBytes_eq]; change State.memOk _))

/-- `modJob` keeps memory in canonical form. -/
theorem modJob_memOk (s : State) (id : Nat) (f : Job → Job) (hm : s.memOk) : (modJob s id f).memOk := by
  unfold modJob
  repeat' (first | with_reducible assumption | split
                 | (unfold State.memOk; dsimp only [drawNat_eq, drawBytes_eq]; change State.memOk _))

/-- `sendHeld` keeps memory in canonical form. -/
theorem sendHeld_memOk (s : State) (j : Job) (except : Option Nat) (name : String) (fields : List Nat)
    (hm : s.memOk) : (sendHeld s j except name fields).memOk := by
  unfold sendHeld
  repeat' (first | with_reducible assumption | (with_reducible apply foldl_memOk; intro _ _ _)
                 | with_reducible apply sendCtl_memOk | split)

/-- `abortStep` keeps memory in canonical form. -/
theorem abortStep_memOk (s : State) (id coord cause : Nat) (hm : s.memOk) : (abortStep s id coord cause).memOk := by
  unfold abortStep
  dsimp only [drawNat_eq, drawBytes_eq]
  repeat' (first | with_reducible assumption | with_reducible apply endReq_memOk | split)

/-- `endJobCmds` keeps memory in canonical form. -/
theorem endJobCmds_memOk (s : State) (j : Job) (status detail : Nat)
    (hm : s.memOk) : (endJobCmds s j status detail).memOk := by
  unfold endJobCmds
  repeat' (first | with_reducible assumption | (with_reducible apply foldl_memOk; intro _ _ _)
                 | with_reducible apply replyLive_memOk)

/-- `haltJob` keeps memory in canonical form. -/
theorem haltJob_memOk (s : State) (id coord cause : Nat) (hm : s.memOk) :
    (haltJob s id coord cause).memOk := by
  unfold haltJob
  dsimp only [drawNat_eq, drawBytes_eq]
  repeat' (first | with_reducible assumption
                 | with_reducible apply endJobCmds_memOk
                 | with_reducible apply modJob_memOk
                 | with_reducible apply abortStep_memOk
                 | with_reducible apply flushJob_memOk | split | (unfold State.memOk; dsimp only [drawNat_eq, drawBytes_eq]; change State.memOk _))

/-- `failJobAs` keeps memory in canonical form. -/
theorem failJobAs_memOk (s : State) (id coord cause : Nat) (hm : s.memOk) : (failJobAs s id coord cause).memOk := by
  unfold failJobAs
  dsimp only [drawNat_eq, drawBytes_eq]
  repeat' (first | with_reducible assumption | with_reducible apply sendHeld_memOk
                 | with_reducible apply haltJob_memOk | split)

/-- `failJob` keeps memory in canonical form. -/
theorem failJob_memOk (s : State) (id cause : Nat) (hm : s.memOk) : (failJob s id cause).memOk := by
  unfold failJob
  repeat' (first | with_reducible assumption | with_reducible apply failJobAs_memOk)

/-- `dropJoining` keeps memory in canonical form. -/
theorem dropJoining_memOk (s : State) (c : Nat) (hm : s.memOk) :
    (dropJoining s c).memOk := by
  unfold dropJoining
  exact modChase_memOk _ _ _ ⟨TierMem.forget_wf _ _ _ hm.1, TierMem.forget_wf _ _ _ hm.2⟩

/-- `endShare` keeps memory in canonical form. -/
theorem endShare_memOk (s : State) (c : Nat) (hm : s.memOk) : (endShare s c).memOk := by
  unfold endShare
  repeat' (first | with_reducible assumption | with_reducible apply replyCmd_memOk
                 | with_reducible apply modChase_memOk | with_reducible apply dropJoining_memOk | split)

/-- `endOrders` keeps memory in canonical form. -/
theorem endOrders_memOk (s : State) (c : Nat) (hm : s.memOk) : (endOrders s c).memOk := by
  unfold endOrders
  repeat' (first | with_reducible assumption | (with_reducible apply foldl_memOk; intro _ _ _)
                 | with_reducible apply replyCmd_memOk | with_reducible apply modChase_memOk)

/-- `endActivity` keeps memory in canonical form. -/
theorem endActivity_memOk (s : State) (c : Nat) (hm : s.memOk) : (endActivity s c).memOk := by
  unfold endActivity
  dsimp only [drawNat_eq, drawBytes_eq]
  repeat' (first | with_reducible assumption | with_reducible apply endShare_memOk
                 | with_reducible apply endOrders_memOk | with_reducible apply replyCmd_memOk
                 | with_reducible apply modChase_memOk | split)

/-- `endMoves` keeps memory in canonical form. -/
theorem endMoves_memOk (s : State) (c : Nat) (hm : s.memOk) :
    (endMoves s c).memOk := by
  unfold endMoves
  apply foldl_memOk _ _ _ _ hm
  intro s o hm
  apply wakeObj_memOk
  apply replyCmd_memOk
  split
  · exact fitMeta_memOk _ _ _ hm hm
  · exact hm

/-- `fenceChase` keeps memory in canonical form. -/
theorem fenceChase_memOk (s : State) (c : Nat) (hm : s.memOk) :
    (fenceChase s c).memOk := by
  unfold fenceChase
  dsimp only [drawNat_eq, drawBytes_eq]
  repeat' (first | with_reducible assumption
                 | (with_reducible apply foldl_memOk; intro _ _ _)
                 | with_reducible apply endActivity_memOk
                 | with_reducible apply modChase_memOk
                 | with_reducible apply failJob_memOk
                 | with_reducible apply endReq_memOk
                 | with_reducible apply releaseReq_memOk
                 | with_reducible apply endReads_memOk
                 | with_reducible apply endMoves_memOk | split | (unfold State.memOk; dsimp only [drawNat_eq, drawBytes_eq]; change State.memOk _))

/-- `modSpare` keeps memory in canonical form. -/
theorem modSpare_memOk (s : State) (i : Nat) (f : TileSpare → TileSpare) (hm : s.memOk) : (modSpare s i f).memOk := by
  unfold modSpare
  dsimp only [drawNat_eq, drawBytes_eq]
  repeat' (first | with_reducible assumption | split
                 | (unfold State.memOk; dsimp only [drawNat_eq, drawBytes_eq]; change State.memOk _))

/-- `countReset` keeps memory in canonical form. -/
theorem countReset_memOk (s : State) (domain : Nat) (hm : s.memOk) : (countReset s domain).memOk := by
  unfold countReset
  dsimp only [drawNat_eq, drawBytes_eq]
  repeat' (first | with_reducible assumption | split
                 | (unfold State.memOk; dsimp only [drawNat_eq, drawBytes_eq]; change State.memOk _))

/-- `fenceForFault` keeps memory in canonical form. -/
theorem fenceForFault_memOk (s : State) (c : Nat) (hm : s.memOk) : (fenceForFault s c).memOk := by
  unfold fenceForFault
  dsimp only [drawNat_eq, drawBytes_eq]
  repeat' (first | with_reducible assumption | with_reducible apply fenceChase_memOk
                 | with_reducible apply modChase_memOk)

/-- `jobFailure` keeps memory in canonical form. -/
theorem jobFailure_memOk (s : State) (id coord cause : Nat) (hm : s.memOk) : (jobFailure s id coord cause).memOk := by
  unfold jobFailure
  dsimp only [drawNat_eq, drawBytes_eq]
  repeat' (first | with_reducible assumption | with_reducible apply failJobAs_memOk
                 | with_reducible apply fenceForFault_memOk | split)

/-- `portDown` keeps memory in canonical form. -/
theorem portDown_memOk (s : State) (n cause : Nat) (hm : s.memOk) :
    (portDown s n cause).memOk := by
  unfold portDown
  dsimp only [drawNat_eq, drawBytes_eq]
  repeat' (first | with_reducible assumption
                 | with_reducible apply dropRuns_memOk
                 | with_reducible apply jobFailure_memOk | split | (unfold State.memOk; dsimp only [drawNat_eq, drawBytes_eq]; change State.memOk _))

/-- `resetPort` keeps memory in canonical form. -/
theorem resetPort_memOk (s : State) (n : Nat) (hm : s.memOk) :
    (resetPort s n).memOk := by
  unfold resetPort
  dsimp only [drawNat_eq, drawBytes_eq]
  repeat' (first | with_reducible assumption
                 | with_reducible apply portDown_memOk | split | (unfold State.memOk; dsimp only [drawNat_eq, drawBytes_eq]; change State.memOk _))

/-- `beginReset` keeps memory in canonical form. -/
theorem beginReset_memOk (s : State) (domain code faultTile : Nat) (hm : s.memOk) :
    (beginReset s domain code faultTile).memOk := by
  unfold beginReset
  dsimp only [drawNat_eq, drawBytes_eq]
  repeat' (first | with_reducible assumption
                 | (with_reducible apply foldl_memOk; intro _ _ _)
                 | with_reducible apply countReset_memOk
                 | with_reducible apply fenceForFault_memOk
                 | with_reducible apply resetPort_memOk | split | (unfold State.memOk; dsimp only [drawNat_eq, drawBytes_eq]; change State.memOk _))

/-- `formeFault` keeps memory in canonical form. -/
theorem formeFault_memOk (s : State) (c code faultTile : Nat) (j : Option Nat)
    (hm : s.memOk) : (formeFault s c code faultTile j).memOk := by
  unfold formeFault
  dsimp only [drawNat_eq, drawBytes_eq]
  repeat' (first | with_reducible assumption | with_reducible apply chev_memOk | with_reducible apply beginReset_memOk
                 | split)

/-- `rep` keeps memory in canonical form. -/
theorem rep_memOk (s : State) (h : CmdHdr) (op status detail : Nat) (body : Bytes)
    (hm : s.memOk) : (rep s h op status detail body).memOk := by
  unfold rep
  repeat' (first | with_reducible assumption | with_reducible apply emitReply_memOk)

/-- `done` keeps memory in canonical form. -/
theorem done_memOk (s : State) (h : CmdHdr) (op : Nat) (body : Bytes) (hm : s.memOk) : (done s h op body).memOk := by
  unfold done
  repeat' (first | with_reducible assumption | with_reducible apply rep_memOk)

/-- `repBusy` keeps memory in canonical form. -/
theorem repBusy_memOk (s : State) (h : CmdHdr) (op status detail retry : Nat) (body : Bytes)
    (hm : s.memOk) : (repBusy s h op status detail retry body).memOk := by
  unfold repBusy
  dsimp only [drawNat_eq, drawBytes_eq]
  repeat' (first | with_reducible assumption | with_reducible apply emitReply_memOk)

/-- `repBusyFree` keeps memory in canonical form. -/
theorem repBusyFree_memOk (s : State) (h : CmdHdr) (op detail : Nat)
    (hm : s.memOk) : (repBusyFree s h op detail).memOk := by
  unfold repBusyFree
  dsimp only [drawNat_eq, drawBytes_eq]
  repeat' (first | with_reducible assumption | with_reducible apply repBusy_memOk | split
                 | (unfold State.memOk; dsimp only [drawNat_eq, drawBytes_eq]; change State.memOk _))

/-- `accept` keeps memory in canonical form. -/
theorem accept_memOk (s : State) (h : CmdHdr) (op c : Nat) (isRequest : Bool) (body : Bytes)
    (hm : s.memOk) : (accept s h op c isRequest body).memOk := by
  unfold accept
  dsimp only [drawNat_eq, drawBytes_eq]
  repeat' (first | with_reducible assumption | with_reducible apply rep_memOk | split
                 | (unfold State.memOk; dsimp only [drawNat_eq, drawBytes_eq]; change State.memOk _))

/-- `enlist` keeps memory in canonical form. -/
theorem enlist_memOk (s : State) (h : CmdHdr) (op c : Nat) (isRequest : Bool)
    (hm : s.memOk) : (enlist s h op c isRequest).memOk := by
  unfold enlist
  repeat' (first | with_reducible assumption | split
                 | (unfold State.memOk; dsimp only [drawNat_eq, drawBytes_eq]; change State.memOk _))

/-- `markChunk` keeps memory in canonical form. -/
theorem markChunk_memOk (s : State) (h : CmdHdr) (op off : Nat) (hm : s.memOk) :
    (markChunk s h op off).memOk := by
  unfold markChunk
  repeat' (first | with_reducible assumption | split
                 | (unfold State.memOk; dsimp only [drawNat_eq, drawBytes_eq]; change State.memOk _))

/-- `refuseChunk` keeps memory in canonical form. -/
theorem refuseChunk_memOk (s : State) (se : Session) (h : CmdHdr) (op off : Nat) (r : Reply) (hm : s.memOk) :
    (refuseChunk s se h op off r).memOk := by
  unfold refuseChunk
  dsimp only [drawNat_eq, drawBytes_eq]
  repeat' (first | with_reducible assumption
                 | with_reducible apply conflictReply_memOk
                 | with_reducible apply markChunk_memOk
                 | with_reducible apply emitReply_memOk | split | (unfold State.memOk; dsimp only [drawNat_eq, drawBytes_eq]; change State.memOk _))

/-- `closeSession` keeps memory in canonical form. -/
theorem closeSession_memOk (s : State) (id : Nat) (hm : s.memOk) : (closeSession s id).memOk := by
  unfold closeSession
  dsimp only [drawNat_eq, drawBytes_eq]
  repeat' (first | with_reducible assumption | (with_reducible apply foldl_memOk; intro _ _ _)
                 | with_reducible apply endReq_memOk | split
                 | (unfold State.memOk; dsimp only [drawNat_eq, drawBytes_eq]; change State.memOk _))

/-- `closeWhere` keeps memory in canonical form. -/
theorem closeWhere_memOk (s : State) (p : Session → Bool) (hm : s.memOk) : (closeWhere s p).memOk := by
  unfold closeWhere
  repeat' (first | with_reducible assumption | (with_reducible apply foldl_memOk; intro _ _ _)
                 | with_reducible apply closeSession_memOk)

/-- `clearReply` keeps memory in canonical form. -/
theorem clearReply_memOk (s : State) (h : CmdHdr) (session status detail : Nat) (body : Bytes) (hm : s.memOk) :
    (clearReply s h session status detail body).memOk := by
  unfold clearReply
  dsimp only [drawNat_eq, drawBytes_eq]
  repeat' (first | with_reducible assumption
                 | (with_reducible apply foldl_memOk; intro _ _ _)
                 | with_reducible apply sendUdp_memOk | split | (unfold State.memOk; dsimp only [drawNat_eq, drawBytes_eq]; change State.memOk _))

/-- `setBins` keeps memory in canonical form. -/
theorem setBins_memOk (s : State) (cur sust : Nat) (hm : s.memOk) : (setBins s cur sust).memOk := by
  unfold setBins
  dsimp only [drawNat_eq, drawBytes_eq]
  repeat' (first | with_reducible assumption | split
                 | (unfold State.memOk; dsimp only [drawNat_eq, drawBytes_eq]; change State.memOk _))

/-- `updateSust` keeps memory in canonical form. -/
theorem updateSust_memOk (s : State) (hm : s.memOk) : (updateSust s).memOk := by
  unfold updateSust
  dsimp only [drawNat_eq, drawBytes_eq]
  repeat' (first | with_reducible assumption | with_reducible apply setBins_memOk | split
                 | (unfold State.memOk; dsimp only [drawNat_eq, drawBytes_eq]; change State.memOk _))

/-- `retarget` keeps memory in canonical form. -/
theorem retarget_memOk (s : State) (hm : s.memOk) : (retarget s).memOk := by
  unfold retarget
  dsimp only [drawNat_eq, drawBytes_eq]
  repeat' (first | with_reducible assumption | split
                 | (unfold State.memOk; dsimp only [drawNat_eq, drawBytes_eq]; change State.memOk _))

/-- `enterHold` keeps memory in canonical form. -/
theorem enterHold_memOk (s : State) (hm : s.memOk) : (enterHold s).memOk := by
  unfold enterHold
  dsimp only [drawNat_eq, drawBytes_eq]
  repeat' (first | with_reducible assumption | split
                 | (unfold State.memOk; dsimp only [drawNat_eq, drawBytes_eq]; change State.memOk _))

/-- `leaveHold` keeps memory in canonical form. -/
theorem leaveHold_memOk (s : State) (hm : s.memOk) : (leaveHold s).memOk := by
  unfold leaveHold
  dsimp only [drawNat_eq, drawBytes_eq]
  repeat' (first | with_reducible assumption | split
                 | (unfold State.memOk; dsimp only [drawNat_eq, drawBytes_eq]; change State.memOk _))

/-- `capsChanged` keeps memory in canonical form. -/
theorem capsChanged_memOk (old : Nat) (s : State) (hm : s.memOk) : (capsChanged old s).memOk := by
  unfold capsChanged
  dsimp only [drawNat_eq, drawBytes_eq]
  repeat' (first | with_reducible assumption | with_reducible apply updateSust_memOk
                 | with_reducible apply enterHold_memOk | with_reducible apply retarget_memOk | split
                 | (unfold State.memOk; dsimp only [drawNat_eq, drawBytes_eq]; change State.memOk _))

/-- `endGrant` keeps memory in canonical form. -/
theorem endGrant_memOk (s : State) (hm : s.memOk) : (endGrant s).memOk := by
  unfold endGrant
  dsimp only [drawNat_eq, drawBytes_eq]
  repeat' (first | with_reducible assumption | with_reducible apply retarget_memOk | split
                 | (unfold State.memOk; dsimp only [drawNat_eq, drawBytes_eq]; change State.memOk _))

/-- `takeSample` keeps memory in canonical form. -/
theorem takeSample_memOk (watts : Nat) (s : State) (hm : s.memOk) :
    (takeSample watts s).memOk := by
  unfold takeSample
  dsimp only [drawNat_eq, drawBytes_eq]
  repeat' (first | with_reducible assumption
                 | with_reducible apply endGrant_memOk
                 | with_reducible apply enterHold_memOk | split | (unfold State.memOk; dsimp only [drawNat_eq, drawBytes_eq]; change State.memOk _))

/-- `followRails` keeps memory in canonical form. -/
theorem followRails_memOk (s : State) (hm : s.memOk) :
    (followRails s).memOk := by
  unfold followRails
  repeat' (first | with_reducible assumption
                 | with_reducible apply enterHold_memOk
                 | with_reducible apply setBins_memOk | split | (unfold State.memOk; dsimp only [drawNat_eq, drawBytes_eq]; change State.memOk _))

/-- `zeroiseKeys` keeps memory in canonical form. -/
theorem zeroiseKeys_memOk (s : State) :
    (zeroiseKeys s).memOk := by
  unfold zeroiseKeys
  exact ⟨TierMem.zeroise_wf _, TierMem.zeroise_wf _⟩

/-- `fenceAll` keeps memory in canonical form. -/
theorem fenceAll_memOk (s : State) (hm : s.memOk) : (fenceAll s).memOk := by
  unfold fenceAll
  repeat' (first | with_reducible assumption | (with_reducible apply foldl_memOk; intro _ _ _)
                 | with_reducible apply fenceChase_memOk)

/-- `dropLinks` keeps memory in canonical form. -/
theorem dropLinks_memOk (s : State) (hm : s.memOk) : (dropLinks s).memOk := by
  unfold dropLinks
  dsimp only [drawNat_eq, drawBytes_eq]
  repeat' (first | with_reducible assumption | split
                 | (unfold State.memOk; dsimp only [drawNat_eq, drawBytes_eq]; change State.memOk _))

/-- `stopDevice` keeps memory in canonical form. -/
theorem stopDevice_memOk (cause : Option Nat) (s : State) (hm : s.memOk) : (stopDevice cause s).memOk := by
  unfold stopDevice
  dsimp only [drawNat_eq, drawBytes_eq]
  repeat' (first | with_reducible assumption | with_reducible apply dropLinks_memOk
                 | with_reducible apply zeroiseKeys_memOk | with_reducible apply fenceAll_memOk | split
                 | (unfold State.memOk; dsimp only [drawNat_eq, drawBytes_eq]; change State.memOk _))

/-- `interruptClaim` keeps memory in canonical form. -/
theorem interruptClaim_memOk (s : State) (hm : s.memOk) : (interruptClaim s).memOk := by
  unfold interruptClaim
  dsimp only [drawNat_eq, drawBytes_eq]
  repeat' (first | with_reducible assumption | split
                 | (unfold State.memOk; dsimp only [drawNat_eq, drawBytes_eq]; change State.memOk _))

/-- After a start-up memory is in canonical form. -/
theorem startUp_memOk (s : State) : (startUp s).memOk := ⟨rfl, rfl⟩

/-- After a package reset memory is in canonical form. -/
theorem packageReset_memOk (s : State) (code domain ns : Nat) : (packageReset s code domain ns).memOk :=
  startUp_memOk _

/-- `outOfService` keeps memory in canonical form. -/
theorem outOfService_memOk (s : State) (domain : Nat) (hm : s.memOk) : (outOfService s domain).memOk := by
  unfold outOfService
  dsimp only [drawNat_eq, drawBytes_eq]
  repeat' (first | with_reducible assumption | with_reducible apply healthEvent_memOk | split
                 | (unfold State.memOk; dsimp only [drawNat_eq, drawBytes_eq]; change State.memOk _))

/-- `applyRetire` keeps memory in canonical form. -/
theorem applyRetire_memOk (s : State) (i : Nat) (hm : s.memOk) : (applyRetire s i).memOk := by
  unfold applyRetire
  dsimp only [drawNat_eq, drawBytes_eq]
  repeat' (first | with_reducible assumption | with_reducible apply modSpare_memOk
                 | with_reducible apply healthEvent_memOk | with_reducible apply outOfService_memOk | split
                 | (unfold State.memOk; dsimp only [drawNat_eq, drawBytes_eq]; change State.memOk _))

/-- `retireTile` keeps memory in canonical form. -/
theorem retireTile_memOk (s : State) (i : Nat) (hm : s.memOk) : (retireTile s i).memOk := by
  unfold retireTile
  repeat' (first | with_reducible assumption | with_reducible apply applyRetire_memOk
                 | with_reducible apply modSpare_memOk | split)

/-- `retireBank` keeps memory in canonical form. -/
theorem retireBank_memOk (s : State) (i b : Nat) (hm : s.memOk) : (retireBank s i b).memOk := by
  unfold retireBank
  dsimp only [drawNat_eq, drawBytes_eq]
  repeat' (first | with_reducible assumption | with_reducible apply retireTile_memOk
                 | with_reducible apply modSpare_memOk | split)

/-- `applyBank` keeps memory in canonical form. -/
theorem applyBank_memOk (s : State) (i : Nat) (hm : s.memOk) : (applyBank s i).memOk := by
  unfold applyBank
  dsimp only [drawNat_eq, drawBytes_eq]
  repeat' (first | with_reducible assumption | with_reducible apply modSpare_memOk
                 | with_reducible apply healthEvent_memOk | split
                 | (unfold State.memOk; dsimp only [drawNat_eq, drawBytes_eq]; change State.memOk _))

/-- `bringInSpares` keeps memory in canonical form. -/
theorem bringInSpares_memOk (s : State) (ts : List Nat) (hm : s.memOk) : (bringInSpares s ts).memOk := by
  unfold bringInSpares
  dsimp only [drawNat_eq, drawBytes_eq]
  repeat' (first | with_reducible assumption | (with_reducible apply foldl_memOk; intro _ _ _)
                 | with_reducible apply applyRetire_memOk | with_reducible apply applyBank_memOk | split)

/-- `bankEvent` keeps memory in canonical form. -/
theorem bankEvent_memOk (s : State) (i bank : Nat) (unc : Bool) (word : Nat)
    (hm : s.memOk) : (bankEvent s i bank unc word).memOk := by
  unfold bankEvent
  dsimp only [drawNat_eq, drawBytes_eq]
  repeat' (first | with_reducible assumption | with_reducible apply modSpare_memOk
                 | with_reducible apply retireBank_memOk | split)

/-- `vminFailed` keeps memory in canonical form. -/
theorem vminFailed_memOk (s : State) (i b : Nat) (hm : s.memOk) :
    (vminFailed s i b).memOk := by
  unfold vminFailed
  repeat' (first | with_reducible assumption
                 | with_reducible apply retireBank_memOk | split | (unfold State.memOk; dsimp only [drawNat_eq, drawBytes_eq]; change State.memOk _))

/-- `scrubVmin` keeps memory in canonical form. -/
theorem scrubVmin_memOk (s : State) (c : Nat) (fails : List Nat) (hm : s.memOk) :
    (scrubVmin s c fails).memOk := by
  unfold scrubVmin
  dsimp only [drawNat_eq, drawBytes_eq]
  repeat' (first | with_reducible assumption
                 | (with_reducible apply foldl_memOk; intro _ _ _)
                 | with_reducible apply vminFailed_memOk
                 | with_reducible apply modChase_memOk | split | (unfold State.memOk; dsimp only [drawNat_eq, drawBytes_eq]; change State.memOk _))

/-- `tileEvent` keeps memory in canonical form. -/
theorem tileEvent_memOk (s : State) (i kind : Nat) (hm : s.memOk) :
    (tileEvent s i kind).memOk := by
  unfold tileEvent
  dsimp only [drawNat_eq, drawBytes_eq]
  repeat' (first | with_reducible assumption
                 | with_reducible apply retireTile_memOk | split | (unfold State.memOk; dsimp only [drawNat_eq, drawBytes_eq]; change State.memOk _))

/-- `modReset` keeps memory in canonical form. -/
theorem modReset_memOk (s : State) (domain : Nat) (f : ResetOp → ResetOp)
    (hm : s.memOk) : (modReset s domain f).memOk := by
  unfold modReset
  dsimp only [drawNat_eq, drawBytes_eq]
  repeat' (first | with_reducible assumption | split
                 | (unfold State.memOk; dsimp only [drawNat_eq, drawBytes_eq]; change State.memOk _))

/-- `freeOldPulls` keeps memory in canonical form. -/
theorem freeOldPulls_memOk (fuel : Nat) (s : State) (c n : Nat) (hm : s.memOk) : (freeOldPulls fuel s c n).memOk := by
  induction fuel generalizing s with
  | zero => exact hm
  | succ k ih =>
    unfold freeOldPulls
    repeat' (first | exact hm | exact ih _ hm | split)

/-- `storePull` keeps memory in canonical form. -/
theorem storePull_memOk (s : State) (c cause time : Nat) (content : Bytes)
    (hm : s.memOk) : (storePull s c cause time content).memOk := by
  unfold storePull
  dsimp only [drawNat_eq, drawBytes_eq]
  repeat' (first | with_reducible assumption | split
                 | (unfold State.memOk; dsimp only [drawNat_eq, drawBytes_eq]; change State.memOk _))

/-- `makePull` keeps memory in canonical form. -/
theorem makePull_memOk (s : State) (op : ResetOp) (c : Nat) (hm : s.memOk) : (makePull s op c).memOk :=
  storePull_memOk _ _ _ _ _ (freeOldPulls_memOk _ _ _ _ hm)

/-- `scrubChase` keeps memory in canonical form. -/
theorem scrubChase_memOk (s : State) (c : Nat) (hm : s.memOk) : (scrubChase s c).memOk := by
  unfold scrubChase
  dsimp only [drawNat_eq, drawBytes_eq]
  repeat' (first | with_reducible assumption | with_reducible apply bringInSpares_memOk
                 | with_reducible apply modChase_memOk | split
                 | (unfold State.memOk; dsimp only [drawNat_eq, drawBytes_eq]; change State.memOk _))

/-- `resumeChase` keeps memory in canonical form. -/
theorem resumeChase_memOk (s : State) (c : Nat) (hm : s.memOk) : (resumeChase s c).memOk := by
  unfold resumeChase
  dsimp only [drawNat_eq, drawBytes_eq]
  repeat' (first | with_reducible assumption | with_reducible apply modChase_memOk | split)

/-- `reloadDieKeys` keeps memory in canonical form. -/
theorem reloadDieKeys_memOk (s : State) (d : Nat) (hm : s.memOk) : (reloadDieKeys s d).memOk := by
  unfold reloadDieKeys
  dsimp only [drawNat_eq, drawBytes_eq]
  repeat' (first | with_reducible assumption | split
                 | (unfold State.memOk; dsimp only [drawNat_eq, drawBytes_eq]; change State.memOk _))

/-- `drawExchange` keeps memory in canonical form. -/
theorem drawExchange_memOk (s : State) (n : Nat) (hm : s.memOk) : (drawExchange s n).2.2.memOk := hm

/-- `startDiscovery` keeps memory in canonical form. -/
theorem startDiscovery_memOk (s : State) (n : Nat) (hm : s.memOk) :
    (startDiscovery s n).memOk := by
  unfold startDiscovery
  dsimp only [drawNat_eq, drawBytes_eq]
  repeat' (first | with_reducible assumption
                 | with_reducible apply modPort_memOk
                 | with_reducible apply drawExchange_memOk
                 | with_reducible apply sendCtl_memOk | split | (unfold State.memOk; dsimp only [drawNat_eq, drawBytes_eq]; change State.memOk _))

/-- `rediscover` keeps memory in canonical form. -/
theorem rediscover_memOk (s : State) (train : Bool) (cause : Nat)
    (hm : s.memOk) : (rediscover s train cause).memOk := by
  unfold rediscover
  dsimp only [drawNat_eq, drawBytes_eq]
  repeat' (first | with_reducible assumption | (with_reducible apply foldl_memOk; intro _ _ _)
                 | with_reducible apply jobFailure_memOk | with_reducible apply modPort_memOk
                 | with_reducible apply startDiscovery_memOk | split)

/-- `deliverUnit` keeps memory in canonical form. -/
theorem deliverUnit_memOk (s : State) (c : Nat) (src : Nat × Nat × Nat) (die : Nat) (u : DWord × DWord × List Granule)
    (hm : s.memOk) :
    (deliverUnit s c src die u).memOk := by
  unfold deliverUnit
  dsimp only [drawNat_eq, drawBytes_eq]
  repeat' (first | with_reducible assumption
                 | with_reducible apply chev_memOk | split | (unfold State.memOk; dsimp only [drawNat_eq, drawBytes_eq]; change State.memOk _))

/-- `sendUnits` keeps memory in canonical form. -/
theorem sendUnits_memOk {s s' : State} {j : Job} {dest die : Nat} {src : Nat × Nat}
    {u : DWord × DWord × List Granule} (h : sendUnits s j dest die src u = some s') (hm : s.memOk) : s'.memOk := by
  unfold sendUnits at h
  repeat' (first | (cases h; done) | split at h | (dsimp only at h))
  all_goals (injection h with h; subst h; apply pump_memOk; exact hm)

/-- `forwardUnits` keeps memory in canonical form. -/
theorem forwardUnits_memOk (s : State) (port : Nat) (j : Job) (a : Arriving) (hm : s.memOk) :
    (forwardUnits s port j a).memOk := by
  unfold forwardUnits
  dsimp only [drawNat_eq, drawBytes_eq]
  repeat' (first | with_reducible assumption
                 | with_reducible apply violation_memOk
                 | with_reducible apply freePlaces_memOk
                 | with_reducible apply pump_memOk | split | (unfold State.memOk; dsimp only [drawNat_eq, drawBytes_eq]; change State.memOk _))

/-- `takeTransfer` keeps memory in canonical form. -/
theorem takeTransfer_memOk (s : State) (port : Nat) (j : Job) (a : Arriving) (hm : s.memOk) :
    (takeTransfer s port j a).memOk := by
  unfold takeTransfer
  repeat' (first | with_reducible assumption
                 | with_reducible apply forwardUnits_memOk
                 | with_reducible apply deliverUnit_memOk
                 | with_reducible apply freePlaces_memOk
                 | with_reducible apply chev_memOk
                 | with_reducible apply modPort_memOk | split | (unfold State.memOk; dsimp only [drawNat_eq, drawBytes_eq]; change State.memOk _))

/-- `takeUnit` keeps memory in canonical form. -/
theorem takeUnit_memOk (s : State) (port : Nat) (j : Job) (h : FrameHead) (u : LinkUnit) (hm : s.memOk) :
    (takeUnit s port j h u).memOk := by
  unfold takeUnit
  dsimp only [drawNat_eq, drawBytes_eq]
  repeat' (first | with_reducible assumption
                 | with_reducible apply chev_memOk
                 | with_reducible apply freePlaces_memOk
                 | with_reducible apply takeTransfer_memOk
                 | with_reducible apply modPort_memOk | split | (unfold State.memOk; dsimp only [drawNat_eq, drawBytes_eq]; change State.memOk _))

/-- `relieve` keeps memory in canonical form. -/
theorem relieve_memOk (s : State) (port : Nat) (j : Job) (hm : s.memOk) :
    (relieve s port j).memOk := by
  unfold relieve
  repeat' (first | with_reducible assumption
                 | (with_reducible apply foldl_memOk; intro _ _ _)
                 | with_reducible apply freePlaces_memOk
                 | with_reducible apply modPort_memOk | split | (unfold State.memOk; dsimp only [drawNat_eq, drawBytes_eq]; change State.memOk _))

/-- `takeUnits` keeps memory in canonical form. -/
theorem takeUnits_memOk (s : State) (port : Nat) (h : FrameHead) (units : List LinkUnit) (hm : s.memOk) :
    (takeUnits s port h units).memOk := by
  unfold takeUnits
  repeat' (first | with_reducible assumption
                 | (with_reducible apply foldl_memOk; intro _ _ _)
                 | with_reducible apply relieve_memOk
                 | with_reducible apply takeUnit_memOk
                 | with_reducible apply freePlaces_memOk | split | (unfold State.memOk; dsimp only [drawNat_eq, drawBytes_eq]; change State.memOk _))

/-- `badFrame` keeps memory in canonical form. -/
theorem badFrame_memOk (s : State) (port : Nat) (p : TorusPort) (hm : s.memOk) : (badFrame s port p).memOk := by
  unfold badFrame
  dsimp only [drawNat_eq, drawBytes_eq]
  repeat' (first | with_reducible assumption | with_reducible apply modPort_memOk
                 | with_reducible apply portDown_memOk | with_reducible apply sendCtl_memOk | split)

/-- `boundaryTx` keeps memory in canonical form. -/
theorem boundaryTx_memOk (s : State) (port : Nat) (hm : s.memOk) :
    (boundaryTx s port).memOk := by
  unfold boundaryTx
  repeat' (first | with_reducible assumption
                 | with_reducible apply modPort_memOk | split | (unfold State.memOk; dsimp only [drawNat_eq, drawBytes_eq]; change State.memOk _))

/-- `answerFrame` keeps memory in canonical form. -/
theorem answerFrame_memOk (s : State) (port type : Nat) (hm : s.memOk) :
    (answerFrame s port type).memOk := by
  unfold answerFrame
  dsimp only [drawNat_eq, drawBytes_eq]
  repeat' (first | with_reducible assumption
                 | with_reducible apply boundaryTx_memOk
                 | with_reducible apply pump_memOk
                 | with_reducible apply announce_memOk
                 | with_reducible apply modPort_memOk | split | (unfold State.memOk; dsimp only [drawNat_eq, drawBytes_eq]; change State.memOk _))

/-- `sendRekey` keeps memory in canonical form. -/
theorem sendRekey_memOk (s : State) (port : Nat) (hm : s.memOk) :
    (sendRekey s port).memOk := by
  unfold sendRekey
  dsimp only [drawNat_eq, drawBytes_eq]
  repeat' (first | with_reducible assumption
                 | with_reducible apply drawExchange_memOk
                 | with_reducible apply modPort_memOk
                 | with_reducible apply sendCtl_memOk | split | (unfold State.memOk; dsimp only [drawNat_eq, drawBytes_eq]; change State.memOk _))

/-- `beginStep` keeps memory in canonical form. -/
theorem beginStep_memOk (s : State) (id step : Nat) (hm : s.memOk) :
    (beginStep s id step).memOk := by
  unfold beginStep
  repeat' (first | with_reducible assumption
                 | (with_reducible apply foldl_memOk; intro _ _ _)
                 | with_reducible apply modJob_memOk
                 | with_reducible apply deliverUnit_memOk
                 | with_reducible apply announce_memOk
                 | with_reducible apply relieve_memOk | split | (unfold State.memOk; dsimp only [drawNat_eq, drawBytes_eq]; change State.memOk _))

/-- `removeJob` keeps memory in canonical form. -/
theorem removeJob_memOk (s : State) (id : Nat) (hm : s.memOk) :
    (removeJob s id).memOk := by
  unfold removeJob
  dsimp only [drawNat_eq, drawBytes_eq]
  repeat' (first | with_reducible assumption
                 | with_reducible apply flushJob_memOk | split | (unfold State.memOk; dsimp only [drawNat_eq, drawBytes_eq]; change State.memOk _))

/-- `finishJoin` keeps memory in canonical form. -/
theorem finishJoin_memOk (s : State) (id : Nat) (hm : s.memOk) : (finishJoin s id).memOk := by
  unfold finishJoin
  dsimp only [drawNat_eq, drawBytes_eq]
  repeat' (first | with_reducible assumption | with_reducible apply endJobCmds_memOk
                 | with_reducible apply modJob_memOk | split)

/-- `takeJoin` keeps memory in canonical form. -/
theorem takeJoin_memOk (s : State) (id port : Nat) (m : JoinMsg) (hm : s.memOk) : (takeJoin s id port m).memOk := by
  unfold takeJoin
  repeat' (first | with_reducible assumption | with_reducible apply finishJoin_memOk
                 | with_reducible apply modJob_memOk | with_reducible apply removeJob_memOk
                 | with_reducible apply endJobCmds_memOk | split)

/-- `dropHeld` keeps memory in canonical form. -/
theorem dropHeld_memOk (s : State) (id epoch : Nat) (hm : s.memOk) :
    (dropHeld s id epoch).memOk := by
  unfold dropHeld
  dsimp only [drawNat_eq, drawBytes_eq]
  repeat' (first | with_reducible assumption
                 | (with_reducible apply foldl_memOk; intro _ _ _)
                 | with_reducible apply announce_memOk
                 | with_reducible apply chev_memOk | split | (unfold State.memOk; dsimp only [drawNat_eq, drawBytes_eq]; change State.memOk _))

/-- `resumeJob` keeps memory in canonical form. -/
theorem resumeJob_memOk (s : State) (id step epoch : Nat) (hm : s.memOk) :
    (resumeJob s id step epoch).memOk := by
  unfold resumeJob
  repeat' (first | with_reducible assumption
                 | with_reducible apply modJob_memOk
                 | with_reducible apply dropHeld_memOk | split | (unfold State.memOk; dsimp only [drawNat_eq, drawBytes_eq]; change State.memOk _))

/-- `finishRejoin` keeps memory in canonical form. -/
theorem finishRejoin_memOk (s : State) (id : Nat) (hm : s.memOk) : (finishRejoin s id).memOk := by
  unfold finishRejoin
  dsimp only [drawNat_eq, drawBytes_eq]
  repeat' (first | with_reducible assumption | with_reducible apply endJobCmds_memOk
                 | with_reducible apply resumeJob_memOk | with_reducible apply modJob_memOk | split)

/-- `resetRequest` keeps memory in canonical form. -/
theorem resetRequest_memOk (s : State) (domain : Nat) (hm : s.memOk) : (resetRequest s domain).memOk := by
  unfold resetRequest
  repeat' (first | with_reducible assumption | with_reducible apply beginReset_memOk | split)

/-- `readmitDomain` keeps memory in canonical form. -/
theorem readmitDomain_memOk (s : State) (domain : Nat) (hm : s.memOk) :
    (readmitDomain s domain).memOk := by
  unfold readmitDomain
  dsimp only [drawNat_eq, drawBytes_eq]
  repeat' (first | with_reducible assumption
                 | with_reducible apply modPort_memOk | split | (unfold State.memOk; dsimp only [drawNat_eq, drawBytes_eq]; change State.memOk _))

/-- `regWrite` keeps memory in canonical form. -/
theorem regWrite_memOk (s : State) (se : Session) (h : CmdHdr) (addr : Nat) (value : Word)
    (hm : s.memOk) : (regWrite s se h addr value).memOk := by
  unfold regWrite
  dsimp only [drawNat_eq, drawBytes_eq]
  repeat' (first | with_reducible assumption | with_reducible apply rep_memOk | with_reducible apply done_memOk
                 | with_reducible apply violation_memOk | with_reducible apply resetRequest_memOk
                 | with_reducible apply readmitDomain_memOk | split
                 | (unfold State.memOk; dsimp only [drawNat_eq, drawBytes_eq]; change State.memOk _))

/-- `putPolicy` keeps memory in canonical form. -/
theorem putPolicy_memOk (s : State) (id v : Nat) (hm : s.memOk) : (putPolicy s id v).memOk := by
  unfold putPolicy
  repeat' (first | with_reducible assumption | split
                 | (unfold State.memOk; dsimp only [drawNat_eq, drawBytes_eq]; change State.memOk _))

/-- `setPortMode` keeps memory in canonical form. -/
theorem setPortMode_memOk (s : State) (v : Nat) (hm : s.memOk) : (setPortMode s v).memOk := by
  unfold setPortMode
  dsimp only [drawNat_eq, drawBytes_eq]
  repeat' (first | with_reducible assumption | with_reducible apply putPolicy_memOk | split
                 | (unfold State.memOk; dsimp only [drawNat_eq, drawBytes_eq]; change State.memOk _))

/-- `setCak` keeps memory in canonical form. -/
theorem setCak_memOk (s : State) (n l : Nat) (hm : s.memOk) : (setCak s n l).memOk := by
  unfold setCak
  repeat' (first | with_reducible assumption | split
                 | (unfold State.memOk; dsimp only [drawNat_eq, drawBytes_eq]; change State.memOk _))

/-- `applyPolicy` keeps memory in canonical form. -/
theorem applyPolicy_memOk (s : State) (id v : Nat) (hm : s.memOk) : (applyPolicy s id v).memOk := by
  unfold applyPolicy
  dsimp only [drawNat_eq, drawBytes_eq]
  repeat' (first | with_reducible assumption | with_reducible apply setPortMode_memOk
                 | with_reducible apply setCak_memOk | with_reducible apply putPolicy_memOk
                 | with_reducible apply retarget_memOk | with_reducible apply updateSust_memOk | split
                 | (unfold State.memOk; dsimp only [drawNat_eq, drawBytes_eq]; change State.memOk _))

/-- `countDrop` keeps memory in canonical form. -/
theorem countDrop_memOk (s : State) (ep j : Nat) (hm : s.memOk) : (countDrop s ep j).memOk := by
  unfold countDrop
  repeat' (first | with_reducible assumption | split
                 | (unfold State.memOk; dsimp only [drawNat_eq, drawBytes_eq]; change State.memOk _))

/-- `resolve` keeps memory in canonical form. -/
theorem resolve_memOk (s : State) (ep ip dst kind : Nat) (body : Bytes) (hm : s.memOk) :
    (resolve s ep ip dst kind body).memOk := by
  unfold resolve
  dsimp only [drawNat_eq, drawBytes_eq]
  repeat' (first | with_reducible assumption
                 | with_reducible apply sendEth_memOk | split | (unfold State.memOk; dsimp only [drawNat_eq, drawBytes_eq]; change State.memOk _))

/-- `sendBoot` keeps memory in canonical form. -/
theorem sendBoot_memOk (s : State) (dst kind : Nat) (body : Bytes) (hm : s.memOk) :
    (sendBoot s dst kind body).memOk := by
  unfold sendBoot
  repeat' (first | with_reducible assumption | split | (unfold State.memOk; dsimp only [drawNat_eq, drawBytes_eq]; change State.memOk _))

/-- `portReply` keeps memory in canonical form. -/
theorem portReply_memOk (s : State) (ep session opcode reqId status detail retry : Nat) (hm : s.memOk) :
    (portReply s ep session opcode reqId status detail retry).memOk := by
  unfold portReply
  dsimp only [drawNat_eq, drawBytes_eq]
  repeat' (first | with_reducible assumption
                 | with_reducible apply conflictReply_memOk
                 | with_reducible apply emitReply_memOk | split | (unfold State.memOk; dsimp only [drawNat_eq, drawBytes_eq]; change State.memOk _))

/-- `complete` keeps memory in canonical form. -/
theorem complete_memOk (s : State) (ep : Nat) (x : Reasm) (body : Bytes) (hm : s.memOk) :
    (complete s ep x body).memOk := by
  have push : (complete.push s ep x body).memOk := by
    unfold complete.push
    split
    · exact portReply_memOk _ _ _ _ _ _ _ _ hm
    · exact hm
  unfold complete
  dsimp only
  repeat' (first | with_reducible assumption | with_reducible apply resendReply_memOk |
    with_reducible apply conflictReply_memOk | with_reducible apply portReply_memOk | split)

/-- `reassemble` keeps memory in canonical form. -/
theorem reassemble_memOk (s : State) (ep : Nat) (entry : Option (Nat × Nat)) (k : Packet) (hm : s.memOk) :
    (reassemble s ep entry k).memOk := by
  unfold reassemble
  dsimp only [drawNat_eq, drawBytes_eq]
  repeat' (first | with_reducible assumption
                 | (with_reducible apply foldl_memOk; intro _ _ _)
                 | with_reducible apply portReply_memOk
                 | with_reducible apply countDrop_memOk
                 | with_reducible apply complete_memOk | split | (unfold State.memOk; dsimp only [drawNat_eq, drawBytes_eq]; change State.memOk _))

/-- `receive` keeps memory in canonical form. -/
theorem receive_memOk (s : State) (ep : Nat) (entry : Option (Nat × Nat)) (k : Packet) (hm : s.memOk) :
    (receive s ep entry k).memOk := by
  unfold receive
  dsimp only [drawNat_eq, drawBytes_eq]
  repeat' (first | with_reducible assumption
                 | with_reducible apply countDrop_memOk
                 | with_reducible apply reassemble_memOk | split | (unfold State.memOk; dsimp only [drawNat_eq, drawBytes_eq]; change State.memOk _))

/-- `sendRelay` keeps memory in canonical form. -/
theorem sendRelay_memOk (s : State) (target : Nat) (f : RelayFrame) (hm : s.memOk) :
    (sendRelay s target f).memOk := by
  unfold sendRelay
  dsimp only [drawNat_eq, drawBytes_eq]
  repeat' (first | with_reducible assumption
                 | with_reducible apply modPort_memOk | split | (unfold State.memOk; dsimp only [drawNat_eq, drawBytes_eq]; change State.memOk _))

/-- `unstallTile` keeps memory in canonical form. -/
theorem unstallTile_memOk (s : State) (c t : Nat) (hm : s.memOk) :
    (unstallTile s c t).memOk := by
  unfold unstallTile
  repeat' (first | with_reducible assumption
                 | with_reducible apply modChase_memOk | split | (unfold State.memOk; dsimp only [drawNat_eq, drawBytes_eq]; change State.memOk _))

/-- `fabricFault` keeps memory in canonical form. -/
theorem fabricFault_memOk (s : State) (c code t : Nat) (hm : s.memOk) : (fabricFault s c code t).memOk := by
  unfold fabricFault
  repeat' (first | with_reducible assumption | with_reducible apply formeFault_memOk)

/-- `pushFlight` keeps memory in canonical form. -/
theorem pushFlight_memOk (s : State) (c : Nat) (src : Nat × Nat × Nat) (k : Token) (gs : List Granule)
    (galley : Option (Nat × Nat)) (hm : s.memOk) : (pushFlight s c src k gs galley).memOk := by
  unfold pushFlight
  repeat' (first | with_reducible assumption | split
                 | (unfold State.memOk; dsimp only [drawNat_eq, drawBytes_eq]; change State.memOk _))

/-- `takeRemote` keeps memory in canonical form. -/
theorem takeRemote_memOk (s : State) (t fu route dt dp : Nat) (hm : s.memOk) : (takeRemote s t fu route dt dp).memOk := by
  unfold takeRemote
  dsimp only [drawNat_eq, drawBytes_eq]
  repeat' (first | with_reducible assumption | split
                 | (unfold State.memOk; dsimp only [drawNat_eq, drawBytes_eq]; change State.memOk _))

/-- `giveCredit` keeps memory in canonical form. -/
theorem giveCredit_memOk (s : State) (c t p : Nat) (k : QTok) (hm : s.memOk) : (giveCredit s c t p k).memOk := by
  unfold giveCredit
  dsimp only [drawNat_eq, drawBytes_eq]
  repeat' (first | with_reducible assumption | with_reducible apply modTile_memOk | split
                 | (unfold State.memOk; dsimp only [drawNat_eq, drawBytes_eq]; change State.memOk _))

/-- `releaseLanding` keeps memory in canonical form. -/
theorem releaseLanding_memOk (s : State) (c t p : Nat) (k : QTok)
    (hm : s.memOk) : (releaseLanding s c t p k).memOk := by
  unfold releaseLanding
  dsimp only [drawNat_eq, drawBytes_eq]
  repeat' (first | with_reducible assumption | with_reducible apply modTile_memOk
                 | with_reducible apply giveCredit_memOk | split)

/-- `modGalley` keeps memory in canonical form. -/
theorem modGalley_memOk (s : State) (t tid : Nat) (f : Galley → Galley)
    (hm : s.memOk) : (modGalley s t tid f).memOk := by
  unfold modGalley
  repeat' (first | with_reducible assumption | with_reducible apply modTile_memOk)

/-- `fenceFor` keeps memory in canonical form. -/
theorem fenceFor_memOk (s : State) (c : Nat) (act : Activity) (hm : s.memOk) : (fenceFor s c act).memOk := by
  unfold fenceFor
  dsimp only [drawNat_eq, drawBytes_eq]
  repeat' (first | with_reducible assumption | with_reducible apply modChase_memOk
                 | with_reducible apply endShare_memOk | with_reducible apply fenceChase_memOk)

/-- `assertWaiting` keeps memory in canonical form. -/
theorem assertWaiting_memOk (s : State) (c : Nat) (hm : s.memOk) : (assertWaiting s c).memOk := by
  unfold assertWaiting
  dsimp only [drawNat_eq, drawBytes_eq]
  repeat' (first | with_reducible assumption | with_reducible apply modChase_memOk
                 | with_reducible apply fenceFor_memOk | with_reducible apply endShare_memOk | split)

/-- `startOrder` keeps memory in canonical form. -/
theorem startOrder_memOk (s : State) (c : Nat) (o : Order) (hm : s.memOk) : (startOrder s c o).memOk := by
  unfold startOrder
  dsimp only [drawNat_eq, drawBytes_eq]
  repeat' (first | with_reducible assumption | with_reducible apply assertWaiting_memOk
                 | with_reducible apply modChase_memOk | with_reducible apply replyCmd_memOk | split)

/-- `nextOrders` keeps memory in canonical form. -/
theorem nextOrders_memOk (fuel : Nat) (s : State) (c : Nat) (hm : s.memOk) : (nextOrders fuel s c).memOk := by
  induction fuel generalizing s with
  | zero => exact hm
  | succ k ih =>
    unfold nextOrders
    split
    · exact ih _ (startOrder_memOk _ _ _ hm)
    · exact hm

/-- `orderEnded` keeps memory in canonical form. -/
theorem orderEnded_memOk (s : State) (c : Nat) (hm : s.memOk) : (orderEnded s c).memOk := nextOrders_memOk _ _ _ hm

/-- `placeOrder` keeps memory in canonical form. -/
theorem placeOrder_memOk (s : State) (c : Nat) (o : Order) (hm : s.memOk) : (placeOrder s c o).memOk := by
  unfold placeOrder
  repeat' (first | with_reducible assumption | with_reducible apply modChase_memOk
                 | with_reducible apply startOrder_memOk | split)

/-- `returnFabric` keeps memory in canonical form. -/
theorem returnFabric_memOk (s : State) (c : Nat) (hm : s.memOk) : (returnFabric s c).memOk := by
  unfold returnFabric
  dsimp only [drawNat_eq, drawBytes_eq]
  repeat' (first | with_reducible assumption | split
                 | (unfold State.memOk; dsimp only [drawNat_eq, drawBytes_eq]; change State.memOk _))

/-- `zeroiseLeaving` keeps memory in canonical form. -/
theorem zeroiseLeaving_memOk (s : State) (c : Nat) (hm : s.memOk) :
    (zeroiseLeaving s c).memOk := by
  unfold zeroiseLeaving
  exact modChase_memOk _ _ _ ⟨TierMem.forget_wf _ _ _ hm.1, TierMem.forget_wf _ _ _ hm.2⟩

/-- `reloadKeys` keeps memory in canonical form. -/
theorem reloadKeys_memOk (s : State) (c : Nat) (hm : s.memOk) : (reloadKeys s c).memOk := by
  unfold reloadKeys
  dsimp only [drawNat_eq, drawBytes_eq]
  repeat' (first | with_reducible assumption | split
                 | (unfold State.memOk; dsimp only [drawNat_eq, drawBytes_eq]; change State.memOk _))

/-- `zeroiseChase` keeps memory in canonical form. -/
theorem zeroiseChase_memOk (s : State) (c : Nat) (hm : s.memOk) :
    (zeroiseChase s c).memOk := by
  unfold zeroiseChase
  exact modChase_memOk _ _ _ ⟨TierMem.forget_wf _ _ _ hm.1, TierMem.forget_wf _ _ _ hm.2⟩

/-- `freeChase` keeps memory in canonical form. -/
theorem freeChase_memOk (s : State) (c : Nat) (hm : s.memOk) : (freeChase s c).memOk := by
  unfold freeChase
  dsimp only [drawNat_eq, drawBytes_eq]
  repeat' (first | with_reducible assumption | (with_reducible apply foldl_memOk; intro _ _ _)
                 | with_reducible apply closeWhere_memOk | split
                 | (unfold State.memOk; dsimp only [drawNat_eq, drawBytes_eq]; change State.memOk _))

/-- `loadForme` keeps memory in canonical form. -/
theorem loadForme_memOk (s : State) (b : FormeBody) (hm : s.memOk) : (loadForme s b).memOk := by
  unfold loadForme
  repeat' (first | with_reducible assumption | (with_reducible apply foldl_memOk; intro _ _ _)
                 | with_reducible apply setTile_memOk)

/-- `switchTile` keeps memory in canonical form. -/
theorem switchTile_memOk (s : State) (b : FormeBody) (t imp : Nat) (hm : s.memOk) :
    (switchTile s b t imp).memOk := by
  unfold switchTile
  dsimp only [drawNat_eq, drawBytes_eq]
  repeat' (first | with_reducible assumption
                 | with_reducible apply unstallTile_memOk
                 | with_reducible apply modTile_memOk | split | (unfold State.memOk; dsimp only [drawNat_eq, drawBytes_eq]; change State.memOk _))

/-- `finishChange` keeps memory in canonical form. -/
theorem finishChange_memOk (s : State) (c : Nat) (hm : s.memOk) : (finishChange s c).memOk := by
  unfold finishChange
  dsimp only [drawNat_eq, drawBytes_eq]
  repeat' (first | with_reducible assumption | (with_reducible apply foldl_memOk; intro _ _ _)
                 | with_reducible apply modTile_memOk | with_reducible apply modChase_memOk
                 | with_reducible apply orderEnded_memOk | with_reducible apply replyCmd_memOk | split)

/-- `restartChangeTimer` keeps memory in canonical form. -/
theorem restartChangeTimer_memOk (s : State) (c : Nat) (hm : s.memOk) : (restartChangeTimer s c).memOk := by
  unfold restartChangeTimer
  repeat' (first | with_reducible assumption | with_reducible apply modChase_memOk)

/-- `tryPass` keeps memory in canonical form. -/
theorem tryPass_memOk (s : State) (c t u : Nat) (cfg : TileCfg) (uc : UnitCfg) (hm : s.memOk) :
    (tryPass s c t u cfg uc).memOk := by
  unfold tryPass
  dsimp only [drawNat_eq, drawBytes_eq]
  repeat' (first | with_reducible assumption
                 | (with_reducible apply foldl_memOk; intro _ _ _)
                 | with_reducible apply stallOn_memOk
                 | with_reducible apply takeRemote_memOk
                 | with_reducible apply pushFlight_memOk
                 | with_reducible apply modTile_memOk
                 | with_reducible apply restartChangeTimer_memOk
                 | with_reducible apply unstallOn_memOk | split | (unfold State.memOk; dsimp only [drawNat_eq, drawBytes_eq]; change State.memOk _))

/-- `placeScan` keeps memory in canonical form. -/
theorem placeScan_memOk (s : State) (h : CmdHdr) (op c t : Nat) (isOut : Bool) (rec : Bytes)
    (hm : s.memOk) : (placeScan s h op c t isOut rec).memOk := by
  unfold placeScan
  repeat' (first | with_reducible assumption | with_reducible apply placeOrder_memOk
                 | with_reducible apply accept_memOk)

/-- `endScan` keeps memory in canonical form. -/
theorem endScan_memOk (s : State) (c : Nat) (hm : s.memOk) : (endScan s c).memOk := by
  unfold endScan
  repeat' (first | with_reducible assumption | with_reducible apply orderEnded_memOk
                 | with_reducible apply modChase_memOk)

/-- `loadSlots` keeps memory in canonical form. -/
theorem loadSlots_memOk (s : State) (c : Nat) (gs : List (Nat × Nat)) (hm : s.memOk) : (loadSlots s c gs).memOk := by
  unfold loadSlots
  apply foldl_memOk _ _ _ _ hm
  intro s g hm
  exact setTier_memOk _ _ _ hm (tier_ok s _ hm)

/-- `beginShareFence` keeps memory in canonical form. -/
theorem beginShareFence_memOk (s : State) (c : Nat) (hm : s.memOk) : (beginShareFence s c).memOk := by
  unfold beginShareFence
  dsimp only [drawNat_eq, drawBytes_eq]
  repeat' (first | with_reducible assumption | with_reducible apply modChase_memOk
                 | with_reducible apply fenceChase_memOk | with_reducible apply bringInSpares_memOk | split
                 | (unfold State.memOk; dsimp only [drawNat_eq, drawBytes_eq]; change State.memOk _))

/-- `endChaseCmds` keeps memory in canonical form. -/
theorem endChaseCmds_memOk (s : State) (c : Nat) (hm : s.memOk) : (endChaseCmds s c).memOk := by
  unfold endChaseCmds
  repeat' (first | with_reducible assumption | (with_reducible apply foldl_memOk; intro _ _ _)
                 | with_reducible apply replyLive_memOk)

/-- `beginRelease` keeps memory in canonical form. -/
theorem beginRelease_memOk (s : State) (c : Nat) (cmd : Option (Nat × Nat))
    (hm : s.memOk) : (beginRelease s c cmd).memOk := by
  unfold beginRelease
  dsimp only [drawNat_eq, drawBytes_eq]
  repeat' (first | with_reducible assumption | with_reducible apply modChase_memOk
                 | with_reducible apply endChaseCmds_memOk | with_reducible apply fenceChase_memOk | split
                 | (unfold State.memOk; dsimp only [drawNat_eq, drawBytes_eq]; change State.memOk _))

/-- `side` keeps memory in canonical form. -/
theorem side_memOk (s : State) (msg : String) (accepted : Bool) (body : Bytes)
    (hm : s.memOk) : (side s msg accepted body).memOk := by
  unfold side
  repeat' (first | with_reducible assumption | split
                 | (unfold State.memOk; dsimp only [drawNat_eq, drawBytes_eq]; change State.memOk _))

/-- `spdmReply` keeps memory in canonical form. -/
theorem spdmReply_memOk (s : State) (msg : String) (code : Nat) (body : Bytes)
    (hm : s.memOk) : (spdmReply s msg code body).memOk := by
  unfold spdmReply
  dsimp only [drawNat_eq, drawBytes_eq]
  repeat' (first | with_reducible assumption | with_reducible apply side_memOk | split
                 | (unfold State.memOk; dsimp only [drawNat_eq, drawBytes_eq]; change State.memOk _))

/-- `spdmError` keeps memory in canonical form. -/
theorem spdmError_memOk (s : State) (msg : String) (hm : s.memOk) : (spdmError s msg).memOk := by
  unfold spdmError
  repeat' (first | with_reducible assumption | with_reducible apply side_memOk)

/-- `modBoot` keeps memory in canonical form. -/
theorem modBoot_memOk (s : State) (f : Boot → Boot) (hm : s.memOk) : (modBoot s f).memOk := by
  unfold modBoot
  repeat' (first | with_reducible assumption | split
                 | (unfold State.memOk; dsimp only [drawNat_eq, drawBytes_eq]; change State.memOk _))

/-- `discardImage` keeps memory in canonical form. -/
theorem discardImage_memOk (s : State) (hm : s.memOk) : (discardImage s).memOk := by
  unfold discardImage
  repeat' (first | with_reducible assumption | with_reducible apply modBoot_memOk)

/-- `tellPeer` keeps memory in canonical form. -/
theorem tellPeer_memOk (s : State) (hm : s.memOk) :
    (tellPeer s).memOk := by
  unfold tellPeer
  dsimp only [drawNat_eq, drawBytes_eq]
  repeat' (first | with_reducible assumption
                 | with_reducible apply sendBoot_memOk | split | (unfold State.memOk; dsimp only [drawNat_eq, drawBytes_eq]; change State.memOk _))

/-- `rejectImage` keeps memory in canonical form. -/
theorem rejectImage_memOk (s : State) (code : Nat) (hm : s.memOk) : (rejectImage s code).memOk := by
  unfold rejectImage
  repeat' (first | with_reducible assumption | with_reducible apply tellPeer_memOk
                 | with_reducible apply modBoot_memOk | with_reducible apply discardImage_memOk)

/-- `putImageBytes` keeps memory in canonical form. -/
theorem putImageBytes_memOk (s : State) (offset : Nat) (data : Bytes)
    (hm : s.memOk) : (putImageBytes s offset data).memOk := by
  unfold putImageBytes
  dsimp only [drawNat_eq, drawBytes_eq]
  repeat' (first | with_reducible assumption | with_reducible apply modBoot_memOk
                 | with_reducible apply rejectImage_memOk | split)

/-- `applyFuseMap` keeps memory in canonical form. -/
theorem applyFuseMap_memOk (s : State) (hm : s.memOk) : (applyFuseMap s).memOk := by
  unfold applyFuseMap
  dsimp only [drawNat_eq, drawBytes_eq]
  repeat' (first | with_reducible assumption | (with_reducible apply foldl_memOk; intro _ _ _)
                 | with_reducible apply applyRetire_memOk | with_reducible apply modSpare_memOk | split
                 | (unfold State.memOk; dsimp only [drawNat_eq, drawBytes_eq]; change State.memOk _))

/-- `applyNet` keeps memory in canonical form. -/
theorem applyNet_memOk (s : State) (hm : s.memOk) : (applyNet s).memOk := by
  unfold applyNet
  repeat' (first | with_reducible assumption | (with_reducible apply foldl_memOk; intro _ _ _)
                 | with_reducible apply setCak_memOk | with_reducible apply putPolicy_memOk
                 | with_reducible apply modBoot_memOk | split)

/-- `trainPorts` keeps memory in canonical form. -/
theorem trainPorts_memOk (s : State) (laneFault : Nat) (hm : s.memOk) : (trainPorts s laneFault).memOk := by
  unfold trainPorts
  dsimp only [drawNat_eq, drawBytes_eq]
  repeat' (first | with_reducible assumption | split
                 | (unfold State.memOk; dsimp only [drawNat_eq, drawBytes_eq]; change State.memOk _))

/-- `applyTests` keeps memory in canonical form. -/
theorem applyTests_memOk (s : State) (r : BringUpResult) (hm : s.memOk) : (applyTests s r).memOk := by
  unfold applyTests
  dsimp only [drawNat_eq, drawBytes_eq]
  repeat' (first | with_reducible assumption | (with_reducible apply foldl_memOk; intro _ _ _)
                 | with_reducible apply retireTile_memOk | with_reducible apply applyBank_memOk
                 | with_reducible apply retireBank_memOk)

/-- `enqueue` keeps memory in canonical form. -/
theorem enqueue_memOk (s : State) (f : Flight) (k : Token) (depth : Nat)
    (hm : s.memOk) : (enqueue s f k depth).memOk := by
  unfold enqueue
  dsimp only [drawNat_eq, drawBytes_eq]
  repeat' (first | with_reducible assumption | with_reducible apply modTile_memOk | split
                 | (unfold State.memOk; dsimp only [drawNat_eq, drawBytes_eq]; change State.memOk _))

/-- `modFiring` keeps memory in canonical form. -/
theorem modFiring_memOk (s : State) (t u : Nat) (f : Firing → Firing) (hm : s.memOk) : (modFiring s t u f).memOk := by
  unfold modFiring
  dsimp only [drawNat_eq, drawBytes_eq]
  repeat' (first | with_reducible assumption | with_reducible apply modTile_memOk)

/-- `releaseRead` keeps memory in canonical form. -/
theorem releaseRead_memOk (s : State) (c t fu : Nat) (u : UnitCfg) (hm : s.memOk) :
    (releaseRead s c t fu u).memOk := by
  unfold releaseRead
  repeat' (first | with_reducible assumption
                 | (with_reducible apply foldl_memOk; intro _ _ _)
                 | with_reducible apply modFiring_memOk
                 | with_reducible apply releaseLanding_memOk | split | (unfold State.memOk; dsimp only [drawNat_eq, drawBytes_eq]; change State.memOk _))

/-- `sendUpTo` keeps memory in canonical form. -/
theorem sendUpTo_memOk (fuel : Nat) (s : State) (c t fu : Nat) (u : UnitCfg) (es : List EmitCfg) (stop : Nat)
    (hm : s.memOk) : (sendUpTo fuel s c t fu u es stop).memOk := by
  induction fuel generalizing s with
  | zero => exact hm
  | succ n ih =>
    unfold sendUpTo
    dsimp only
    repeat' (first | with_reducible assumption | with_reducible apply ih | with_reducible apply stall_memOk |
      with_reducible apply modFiring_memOk | with_reducible apply pushFlight_memOk | with_reducible apply takeRemote_memOk |
      split)

/-- `endFiring` keeps memory in canonical form. -/
theorem endFiring_memOk (s : State) (c t fu : Nat) (u : UnitCfg) (f : Firing)
    (hm : s.memOk) : (endFiring s c t fu u f).memOk := by
  unfold endFiring
  dsimp only [drawNat_eq, drawBytes_eq]
  repeat' (first | with_reducible assumption | (with_reducible apply foldl_memOk; intro _ _ _)
                 | with_reducible apply modTile_memOk | with_reducible apply releaseLanding_memOk
                 | with_reducible apply unstall_memOk | split)

/-- `emitSome` keeps memory in canonical form. -/
theorem emitSome_memOk (s : State) (c t fu : Nat) (u : UnitCfg) (stop : Nat) (hm : s.memOk) :
    (emitSome s c t fu u stop).memOk := by
  unfold emitSome
  dsimp only [drawNat_eq, drawBytes_eq]
  repeat' (first | with_reducible assumption
                 | with_reducible apply sendUpTo_memOk
                 | with_reducible apply unstall_memOk
                 | with_reducible apply releaseRead_memOk
                 | with_reducible apply endFiring_memOk | split | (unfold State.memOk; dsimp only [drawNat_eq, drawBytes_eq]; change State.memOk _))

/-- `beginFiring` keeps memory in canonical form. -/
theorem beginFiring_memOk (s : State) (t fu : Nat) (u : UnitCfg) (f : FuState) (e : MatchEntry)
    (hm : s.memOk) : (beginFiring s t fu u f e).memOk := by
  unfold beginFiring
  repeat' (first | with_reducible assumption | with_reducible apply modTile_memOk)

/-- `issueOne` keeps memory in canonical form. -/
theorem issueOne_memOk (s : State) (c t fu : Nat) (hm : s.memOk) :
    (issueOne s c t fu).memOk := by
  unfold issueOne
  dsimp only [drawNat_eq, drawBytes_eq]
  repeat' (first | with_reducible assumption
                 | with_reducible apply unstall_memOk
                 | with_reducible apply modTile_memOk
                 | with_reducible apply stall_memOk | split | (unfold State.memOk; dsimp only [drawNat_eq, drawBytes_eq]; change State.memOk _))

/-- `issueRegs` keeps memory in canonical form. -/
theorem issueRegs_memOk (s : State) (c t : Nat) (hm : s.memOk) :
    (issueRegs s c t).memOk := by
  unfold issueRegs
  repeat' (first | with_reducible assumption
                 | (with_reducible apply foldl_memOk; intro _ _ _)
                 | with_reducible apply issueOne_memOk | split | (unfold State.memOk; dsimp only [drawNat_eq, drawBytes_eq]; change State.memOk _))

/-- `fireNow` keeps memory in canonical form. -/
theorem fireNow_memOk (s : State) (t fu func : Nat) (hm : s.memOk) : (fireNow s t fu func).memOk := by
  unfold fireNow
  repeat' (first | with_reducible assumption | with_reducible apply emitSome_memOk
                 | with_reducible apply beginFiring_memOk | split)

/-- `countCeS` keeps memory in canonical form. -/
theorem countCeS_memOk (s : State) (t : Nat) (hm : s.memOk) :
    (countCeS s t).memOk := by
  unfold countCeS
  repeat' (first | with_reducible assumption
                 | with_reducible apply modSpare_memOk
                 | with_reducible apply countErr_memOk | split | (unfold State.memOk; dsimp only [drawNat_eq, drawBytes_eq]; change State.memOk _))

/-- `bankReadEvents` keeps memory in canonical form. -/
theorem bankReadEvents_memOk (s : State) (t a : Nat) (r : BankReq) (hm : s.memOk) :
    (bankReadEvents s t a r).memOk := by
  unfold bankReadEvents
  dsimp only [drawNat_eq, drawBytes_eq]
  repeat' (first | with_reducible assumption
                 | (with_reducible apply foldl_memOk; intro _ _ _)
                 | with_reducible apply bankEvent_memOk
                 | with_reducible apply countCeS_memOk
                 | with_reducible apply modTile_memOk
                 | with_reducible apply countErr_memOk
                 | with_reducible apply chev_memOk | split | (unfold State.memOk; dsimp only [drawNat_eq, drawBytes_eq]; change State.memOk _))

/-- `bankWaits` keeps memory in canonical form. -/
theorem bankWaits_memOk (s : State) (c t : Nat) (reqs : List BankReq) (r : BankReq) (hm : s.memOk) :
    (bankWaits s c t reqs r).memOk := by
  unfold bankWaits
  dsimp only [drawNat_eq, drawBytes_eq]
  repeat' (first | with_reducible assumption
                 | (with_reducible apply foldl_memOk; intro _ _ _)
                 | with_reducible apply stallOn_memOk
                 | with_reducible apply unstallOn_memOk | split | (unfold State.memOk; dsimp only [drawNat_eq, drawBytes_eq]; change State.memOk _))

/-- `pushScalar` keeps memory in canonical form. -/
theorem pushScalar_memOk (s : State) (k : SlotCtx) (v : Scalar) (hm : s.memOk) : (pushScalar s k v).memOk := by
  unfold pushScalar
  repeat' (first | with_reducible assumption | with_reducible apply modFiring_memOk)

/-- `slotDone` keeps memory in canonical form. -/
theorem slotDone_memOk (s : State) (c t fu : Nat) (u : UnitCfg) (hm : s.memOk) :
    (slotDone s c t fu u).memOk := by
  unfold slotDone
  dsimp only [drawNat_eq, drawBytes_eq]
  repeat' (first | with_reducible assumption
                 | with_reducible apply modFiring_memOk
                 | with_reducible apply issueRegs_memOk
                 | with_reducible apply releaseRead_memOk
                 | with_reducible apply unstallOn_memOk | split | (unfold State.memOk; dsimp only [drawNat_eq, drawBytes_eq]; change State.memOk _))

/-- `runSlot` keeps memory in canonical form. -/
theorem runSlot_memOk (s : State) (t fu opc : Nat) (op : State → SlotCtx → State)
    (h : ∀ s k, s.memOk → (op s k).memOk) (hm : s.memOk) : (runSlot s t fu opc op).memOk := by
  unfold runSlot
  dsimp only
  split
  · exact hm
  · apply slotDone_memOk
    repeat' (first | with_reducible assumption | exact h _ _ hm | with_reducible apply pushScalar_memOk | split)

/-- `elementwise` keeps memory in canonical form. -/
theorem elementwise_memOk (s : State) (k : SlotCtx) (gov dst : Nat) (srcs : List (Nat × Nat))
    (op : Nat → List Nat → Nat × Flags) (hm : s.memOk) : (elementwise s k gov dst srcs op).memOk := by
  unfold elementwise
  dsimp only [drawNat_eq, drawBytes_eq]
  repeat' (first | with_reducible assumption | with_reducible apply modTile_memOk)

/-- `unary` keeps memory in canonical form. -/
theorem unary_memOk (s : State) (k : SlotCtx) (op : Nat → Nat → Nat × Flags)
    (hm : s.memOk) : (unary s k op).memOk := by
  unfold unary
  dsimp only [drawNat_eq, drawBytes_eq]
  repeat' (first | with_reducible assumption | with_reducible apply elementwise_memOk)

/-- `binary` keeps memory in canonical form. -/
theorem binary_memOk (s : State) (k : SlotCtx) (op : Nat → Nat → Nat → Nat × Flags)
    (hm : s.memOk) : (binary s k op).memOk := by
  unfold binary
  dsimp only [drawNat_eq, drawBytes_eq]
  repeat' (first | with_reducible assumption | with_reducible apply elementwise_memOk)

/-- `bitwise` keeps memory in canonical form. -/
theorem bitwise_memOk (s : State) (k : SlotCtx) (op : Nat → Nat → Nat) (hm : s.memOk) : (bitwise s k op).memOk := by
  unfold bitwise
  repeat' (first | with_reducible assumption | with_reducible apply binary_memOk)

/-- `shift` keeps memory in canonical form. -/
theorem shift_memOk (s : State) (k : SlotCtx) (op : Nat → Nat → Nat → Nat) (hm : s.memOk) : (shift s k op).memOk := by
  unfold shift
  repeat' (first | with_reducible assumption | with_reducible apply unary_memOk | with_reducible apply binary_memOk
                 | split)

/-- `transcSlot` keeps memory in canonical form. -/
theorem transcSlot_memOk (s : State) (k : SlotCtx) (opc : Nat) (hm : s.memOk) : (transcSlot s k opc).memOk := by
  unfold transcSlot
  repeat' (first | with_reducible assumption | with_reducible apply unary_memOk)

/-- `permute` keeps memory in canonical form. -/
theorem permute_memOk (s : State) (k : SlotCtx) (src : Nat → Nat → Nat × Nat)
    (hm : s.memOk) : (permute s k src).memOk := by
  unfold permute
  dsimp only [drawNat_eq, drawBytes_eq]
  repeat' (first | with_reducible assumption | with_reducible apply modTile_memOk)

/-- `withScalar` keeps memory in canonical form when its operation does. -/
theorem withScalar_memOk (s : State) (k : SlotCtx) (op : Elt → State) (h : ∀ e, (op e).memOk) (hm : s.memOk) :
    (withScalar s k op).memOk := by
  unfold withScalar
  dsimp only
  split
  · exact fabricFault_memOk _ _ _ _ hm
  · exact h _

/-- `maskOp` keeps memory in canonical form. -/
theorem maskOp_memOk (s : State) (k : SlotCtx) (op : BitVec 1024 → BitVec 1024 → BitVec 1024)
    (hm : s.memOk) : (maskOp s k op).memOk := by
  unfold maskOp
  dsimp only [drawNat_eq, drawBytes_eq]
  repeat' (first | with_reducible assumption | with_reducible apply modTile_memOk)

/-- `addressFault` keeps memory in canonical form. -/
theorem addressFault_memOk (s : State) (k : SlotCtx) (fx : AccFx) (hm : s.memOk) :
    (addressFault s k fx).memOk := by
  unfold addressFault
  dsimp only [drawNat_eq, drawBytes_eq]
  repeat' (first | with_reducible assumption
                 | with_reducible apply violations_memOk
                 | with_reducible apply formeFault_memOk | split | (unfold State.memOk; dsimp only [drawNat_eq, drawBytes_eq]; change State.memOk _))

/-- `reduceShuffle` keeps memory in canonical form. -/
theorem reduceShuffle_memOk (s : State) (k : SlotCtx) (op : RedOp) (hm : s.memOk) : (reduceShuffle s k op).memOk := by
  unfold reduceShuffle
  dsimp only [drawNat_eq, drawBytes_eq]
  repeat' (first | with_reducible assumption | with_reducible apply modTile_memOk)

/-- `reduceGather` keeps memory in canonical form. -/
theorem reduceGather_memOk (s : State) (k : SlotCtx) (op : RedOp) (hm : s.memOk) : (reduceGather s k op).memOk := by
  unfold reduceGather
  dsimp only [drawNat_eq, drawBytes_eq]
  repeat' (first | with_reducible assumption | with_reducible apply modTile_memOk | split
                 | (unfold State.memOk; dsimp only [drawNat_eq, drawBytes_eq]; change State.memOk _))

/-- `reduce` keeps memory in canonical form. -/
theorem reduce_memOk (s : State) (k : SlotCtx) (op : RedOp) (hm : s.memOk) : (reduce s k op).memOk := by
  unfold reduce
  repeat' (first | with_reducible assumption | with_reducible apply reduceGather_memOk
                 | with_reducible apply reduceShuffle_memOk | split)

/-- `pmac` keeps memory in canonical form. -/
theorem pmac_memOk (s : State) (k : SlotCtx) (hm : s.memOk) : (pmac s k).memOk := by
  unfold pmac
  dsimp only [drawNat_eq, drawBytes_eq]
  repeat' (first | with_reducible assumption | with_reducible apply addressFault_memOk
                 | with_reducible apply modTile_memOk | with_reducible apply setTile_memOk | split
                 | (unfold State.memOk; dsimp only [drawNat_eq, drawBytes_eq]; change State.memOk _))

/-- `readyNext` keeps memory in canonical form. -/
theorem readyNext_memOk (s : State) (n : Nat) (hm : s.memOk) : (readyNext s n).memOk := by
  unfold readyNext
  repeat' (first | with_reducible assumption | with_reducible apply modReq_memOk)

/-- `insertBlock` keeps memory in canonical form. -/
theorem insertBlock_memOk (s : State) (n j : Nat) (b : Nat × Nat × List Nat)
    (hm : s.memOk) : (insertBlock s n j b).memOk := by
  unfold insertBlock
  dsimp only [drawNat_eq, drawBytes_eq]
  repeat' (first | with_reducible assumption | with_reducible apply chev_memOk | with_reducible apply setConc_memOk
                 | with_reducible apply modChase_memOk | with_reducible apply modReq_memOk | split)

/-- `insertBlocks` keeps memory in canonical form. -/
theorem insertBlocks_memOk (s : State) (n : Nat) (p : Pass) (hm : s.memOk) : (insertBlocks s n p).memOk := by
  unfold insertBlocks
  repeat' (first | with_reducible assumption | (with_reducible apply foldl_memOk; intro _ _ _)
                 | with_reducible apply insertBlock_memOk | split)

/-- `compWaits` keeps memory in canonical form. -/
theorem compWaits_memOk (s : State) (die : Nat) (hm : s.memOk) :
    (compWaits s die).memOk := by
  unfold compWaits
  dsimp only [drawNat_eq, drawBytes_eq]
  repeat' (first | with_reducible assumption
                 | (with_reducible apply foldl_memOk; intro _ _ _)
                 | with_reducible apply stall_memOk
                 | with_reducible apply unstall_memOk | split | (unfold State.memOk; dsimp only [drawNat_eq, drawBytes_eq]; change State.memOk _))

/-- `pushRows` keeps memory in canonical form. -/
theorem pushRows_memOk (s : State) (n : Nat) (r : Req) (p : Pass) (hm : s.memOk) :
    (pushRows s n r p).memOk := by
  unfold pushRows
  dsimp only [drawNat_eq, drawBytes_eq]
  repeat' (first | with_reducible assumption
                 | with_reducible apply compWaits_memOk | split | (unfold State.memOk; dsimp only [drawNat_eq, drawBytes_eq]; change State.memOk _))

/-- `endStep` keeps memory in canonical form. -/
theorem endStep_memOk (s : State) (c : Nat) (a : ArrayPass) (hm : s.memOk) :
    (endStep s c a).memOk := by
  unfold endStep
  dsimp only [drawNat_eq, drawBytes_eq]
  repeat' (first | with_reducible assumption
                 | (with_reducible apply foldl_memOk; intro _ _ _)
                 | with_reducible apply endReads_memOk
                 | with_reducible apply releaseHold_memOk | split | (unfold State.memOk; dsimp only [drawNat_eq, drawBytes_eq]; change State.memOk _))

/-- `countOverrun` keeps memory in canonical form. -/
theorem countOverrun_memOk (s : State) (c f : Nat) (a : ArrayPass) (hm : s.memOk) :
    (countOverrun s c f a).memOk := by
  unfold countOverrun
  dsimp only [drawNat_eq, drawBytes_eq]
  repeat' (first | with_reducible assumption
                 | with_reducible apply chev_memOk | split | (unfold State.memOk; dsimp only [drawNat_eq, drawBytes_eq]; change State.memOk _))

/-- `completePass` keeps memory in canonical form. -/
theorem completePass_memOk (s : State) (c f : Nat) (a : ArrayPass) (hm : s.memOk) : (completePass s c f a).memOk := by
  unfold completePass
  dsimp only [drawNat_eq, drawBytes_eq]
  repeat' (first | with_reducible assumption | with_reducible apply modChase_memOk
                 | with_reducible apply countOverrun_memOk | with_reducible apply endStep_memOk
                 | with_reducible apply releaseReq_memOk | with_reducible apply endReq_memOk
                 | with_reducible apply done_memOk | with_reducible apply insertBlocks_memOk
                 | with_reducible apply pushRows_memOk | with_reducible apply readyNext_memOk | split)

/-- `outputDone` keeps memory in canonical form. -/
theorem outputDone_memOk (s : State) (c f tid : Nat) (hm : s.memOk) : (outputDone s c f tid).memOk := by
  unfold outputDone
  dsimp only [drawNat_eq, drawBytes_eq]
  repeat' (first | with_reducible assumption | with_reducible apply modChase_memOk
                 | with_reducible apply completePass_memOk | split)

/-- `endInjection` keeps memory in canonical form. -/
theorem endInjection_memOk (s : State) (c f : Nat) (hm : s.memOk) : (endInjection s c f).memOk := by
  unfold endInjection
  dsimp only [drawNat_eq, drawBytes_eq]
  repeat' (first | with_reducible assumption | (with_reducible apply foldl_memOk; intro _ _ _)
                 | with_reducible apply modGalley_memOk | with_reducible apply modChase_memOk
                 | with_reducible apply readyNext_memOk | split)

/-- `touchWindow` keeps memory in canonical form. -/
theorem touchWindow_memOk (s : State) (c id : Nat) (offs : List Nat)
    (hm : s.memOk) : (touchWindow s c id offs).memOk := by
  unfold touchWindow
  dsimp only [drawNat_eq, drawBytes_eq]
  repeat' (first | with_reducible assumption | with_reducible apply modObj_memOk)

/-- `grantWindow` keeps memory in canonical form. -/
theorem grantWindow_memOk (s : State) (n : Nat) (hm : s.memOk) : (grantWindow s n).memOk := by
  unfold grantWindow
  dsimp only [drawNat_eq, drawBytes_eq]
  repeat' (first | with_reducible assumption | with_reducible apply replyLive_memOk
                 | with_reducible apply modReq_memOk | split)

/-- `injectToken` keeps memory in canonical form. -/
theorem injectToken_memOk (s : State) (k : InGalley) (tok : Token) (slot : Option (Nat × Nat))
    (hm : s.memOk) : (injectToken s k tok slot).memOk := by
  unfold injectToken
  dsimp only [drawNat_eq, drawBytes_eq]
  repeat' (first | with_reducible assumption | with_reducible apply pushFlight_memOk
                 | with_reducible apply modGalley_memOk)

/-- `galleyDone` keeps memory in canonical form. -/
theorem galleyDone_memOk (s : State) (k : InGalley) (hm : s.memOk) : (galleyDone s k).memOk := by
  unfold galleyDone
  repeat' (first | with_reducible assumption | with_reducible apply endInjection_memOk
                 | with_reducible apply modGalley_memOk)

/-- `entryCreditOr` keeps memory in canonical form when what follows does. -/
theorem entryCreditOr_memOk (s : State) (k : InGalley) (go : State → State) (h : ∀ s, s.memOk → (go s).memOk)
    (hm : s.memOk) : (entryCreditOr s k go).memOk := by
  unfold entryCreditOr
  split
  · exact h _ hm
  · exact hm

/-- `injectChunk` keeps memory in canonical form. -/
theorem injectChunk_memOk (s : State) (k : InGalley) (slot j : Nat) (gs : List Granule)
    (hm : s.memOk) : (injectChunk s k slot j gs).memOk := by
  unfold injectChunk
  dsimp only [drawNat_eq, drawBytes_eq]
  repeat' (first | with_reducible assumption | with_reducible apply modTile_memOk
                 | with_reducible apply modGalley_memOk | with_reducible apply injectToken_memOk)

/-- `injectEnd` keeps memory in canonical form. -/
theorem injectEnd_memOk (s : State) (k : InGalley) (len : Nat) (hm : s.memOk) : (injectEnd s k len).memOk := by
  unfold injectEnd
  dsimp only [drawNat_eq, drawBytes_eq]
  repeat' (first | with_reducible assumption | with_reducible apply galleyDone_memOk
                 | with_reducible apply injectToken_memOk)

/-- `drainLockup` keeps memory in canonical form. -/
theorem drainLockup_memOk (s : State) (k : OutGalley) (r : List QTok) (q : QTok)
    (hm : s.memOk) : (drainLockup s k r q).memOk := by
  unfold drainLockup
  dsimp only [drawNat_eq, drawBytes_eq]
  repeat' (first | with_reducible assumption | with_reducible apply modTile_memOk
                 | with_reducible apply giveCredit_memOk | with_reducible apply modGalley_memOk
                 | with_reducible apply fabricFault_memOk | with_reducible apply restartChangeTimer_memOk | split)

/-- `writeTensor` keeps memory in canonical form. -/
theorem writeTensor_memOk (s : State) (t : TensorCfg) (o : Obj) (part : Nat × Nat) (off : Nat) (b : List (Byte × Bool)) (hm : s.memOk) :
    (writeTensor s t o part off b).memOk := by
  unfold writeTensor
  apply countLost_memOk
  apply foldl_memOk _ _ _ _ hm
  intro s g hm
  refine setTier_memOk _ _ _ hm ?_
  split
  · exact granulePut_wf _ _ _ _ _ (tier_ok s _ hm)
  · exact List.foldlRecOn _ _ (tier_ok s _ hm) fun m h e _ => granulePut_wf m _ _ _ _ h

/-- `outputWritten` keeps memory in canonical form. -/
theorem outputWritten_memOk (s : State) (k : OutGalley) (hm : s.memOk) : (outputWritten s k).memOk := by
  unfold outputWritten
  dsimp only [drawNat_eq, drawBytes_eq]
  repeat' (first | with_reducible assumption | with_reducible apply modGalley_memOk
                 | with_reducible apply restartChangeTimer_memOk | with_reducible apply outputDone_memOk | split)

/-- `toReply` keeps memory in canonical form. -/
theorem toReply_memOk (s : State) (n : Nat) (b : List (Byte × Bool)) (hm : s.memOk) : (toReply s n b).memOk := by
  unfold toReply
  repeat' (first | with_reducible assumption | with_reducible apply modReq_memOk)

/-- `stopReq` keeps memory in canonical form. -/
theorem stopReq_memOk (s : State) (n reason : Nat) (hm : s.memOk) : (stopReq s n reason).memOk := by
  unfold stopReq
  repeat' (first | with_reducible assumption | with_reducible apply endReq_memOk | with_reducible apply modReq_memOk)

/-- `drawFor` keeps memory in canonical form. -/
theorem drawFor_memOk (s : State) (n i : Nat) (r : Req) (p : Pass) (hm : s.memOk) : (drawFor s n i r p).memOk := by
  unfold drawFor
  dsimp only [drawNat_eq, drawBytes_eq]
  repeat' (first | with_reducible assumption | with_reducible apply stopReq_memOk | with_reducible apply modReq_memOk
                 | with_reducible apply readyNext_memOk | split)

/-- `sendPartial` keeps memory in canonical form. -/
theorem sendPartial_memOk (s : State) (n : Nat) (hm : s.memOk) : (sendPartial s n).memOk := by
  unfold sendPartial
  dsimp only [drawNat_eq, drawBytes_eq]
  repeat' (first | with_reducible assumption | with_reducible apply emitReply_memOk
                 | with_reducible apply modReq_memOk | split)

/-- `endRound` keeps memory in canonical form. -/
theorem endRound_memOk (s : State) (n : Nat) (r : Req) (hm : s.memOk) : (endRound s n r).memOk := by
  unfold endRound
  dsimp only [drawNat_eq, drawBytes_eq]
  repeat' (first | with_reducible assumption | with_reducible apply readyNext_memOk
                 | with_reducible apply modReq_memOk | split
                 | (unfold State.memOk; dsimp only [drawNat_eq, drawBytes_eq]; change State.memOk _))

/-- `takeIn` keeps memory in canonical form. -/
theorem takeIn_memOk (s : State) (r : Req) (fs dfs : List Nat) (m : FolioMem) (hm : s.memOk) :
    (takeIn s r fs dfs m).1.memOk := by
  have h := setConc_memOk s r.chase m.conc hm
  unfold takeIn
  dsimp only
  split
  · exact h
  · exact h

/-- Admission keeps memory in canonical form. -/
theorem imprimaturFrom_memOk {s s' : State} {r : Req} {n : Nat} (h : imprimaturFrom s r = .admitted s' n)
    (hm : s.memOk) : s'.memOk := by
  unfold imprimaturFrom at h
  dsimp only at h
  repeat' (first | (cases h; done) | (cases h; exact takeIn_memOk _ _ _ _ _ hm) | split at h)

/-- Admission keeps memory in canonical form. -/
theorem imprimatur_memOk {s s' : State} {r : Req} {n : Nat} (h : imprimatur s r = .admitted s' n) (hm : s.memOk) :
    s'.memOk := by
  unfold imprimatur at h
  dsimp only at h
  repeat' (first | (cases h; done) | exact imprimaturFrom_memOk h hm | split at h)

/-- `countRefused` keeps memory in canonical form. -/
theorem countRefused_memOk (s : State) (c k : Nat) (hm : s.memOk) : (countRefused s c k).memOk := by
  unfold countRefused
  repeat' (first | with_reducible assumption | with_reducible apply modChase_memOk)

/-- `refuseHold` keeps memory in canonical form. -/
theorem refuseHold_memOk (s : State) (h : CmdHdr) (op c : Nat) (body : Bytes)
    (hm : s.memOk) : (refuseHold s h op c body).memOk := by
  unfold refuseHold
  repeat' (first | with_reducible assumption | with_reducible apply repBusy_memOk
                 | with_reducible apply countRefused_memOk)

/-- `ask` keeps memory in canonical form when what follows an admission does. -/
theorem ask_memOk (s : State) (h : CmdHdr) (op : Nat) (r : Req) (body : Bytes) (go : State → Nat → State)
    (hgo : ∀ s n, s.memOk → (go s n).memOk) (hm : s.memOk) : (ask s h op r body go).memOk := by
  unfold ask
  split
  · exact repBusy_memOk _ _ _ _ _ _ _ (countRefused_memOk _ _ _ hm)
  · next hi =>
    have hk := imprimatur_memOk hi hm
    exact hgo _ _ hk

/-- `answerChunk` keeps memory in canonical form. -/
theorem answerChunk_memOk (s : State) (se : Session) (h : CmdHdr) (status detail retry : Nat) (body : Bytes)
    (hm : s.memOk) : (answerChunk s se h status detail retry body).memOk := by
  unfold answerChunk
  dsimp only [drawNat_eq, drawBytes_eq]
  repeat' (first | with_reducible assumption | with_reducible apply conflictReply_memOk)

/-- `putChunk` keeps memory in canonical form. -/
theorem putChunk_memOk (s : State) (n off : Nat) (data : Bytes) (hm : s.memOk) : (putChunk s n off data).memOk := by
  unfold putChunk
  dsimp only [drawNat_eq, drawBytes_eq]
  repeat' (first | with_reducible assumption | with_reducible apply modReq_memOk)

/-- `laterChunk` keeps memory in canonical form. -/
theorem laterChunk_memOk (s : State) (se : Session) (h : CmdHdr) (n off : Nat) (data : Bytes)
    (hm : s.memOk) : (laterChunk s se h n off data).memOk := by
  unfold laterChunk
  dsimp only [drawNat_eq, drawBytes_eq]
  repeat' (first | with_reducible assumption | with_reducible apply resendReply_memOk
                 | with_reducible apply answerChunk_memOk | with_reducible apply putChunk_memOk
                 | with_reducible apply replyLive_memOk | with_reducible apply modReq_memOk | split)

/-- `takeHeld` keeps memory in canonical form. -/
theorem takeHeld_memOk (s : State) (se : Session) (h : CmdHdr) (n : Nat) (l : List (Nat × Nat × Nat × Nat × Bytes))
    (hm : s.memOk) : (takeHeld s se h n l).memOk := by
  induction l generalizing s with
  | nil => exact hm
  | cons x r ih =>
    unfold takeHeld
    dsimp only
    apply ih
    repeat' (first | with_reducible assumption | with_reducible apply answerChunk_memOk |
      with_reducible apply putChunk_memOk | split)

/-- `firstChunk` keeps memory in canonical form. -/
theorem firstChunk_memOk (s : State) (se : Session) (h : CmdHdr) (f deadline total : Nat) (label data : Bytes) (hm : s.memOk) :
    (firstChunk s se h f deadline total label data).memOk := by
  unfold firstChunk
  extract_lets c held s'
  have hs : s'.memOk := hm
  split
  · exact refuseHold_memOk _ _ _ _ _ hs
  · split
    · exact rep_memOk _ _ _ _ _ _ hs
    · refine ask_memOk _ h 0x0052 _ label _ ?_ hs
      intro s n hm
      have ht := takeHeld_memOk _ se h n held (putChunk_memOk s n 0 data hm)
      dsimp only
      split
      · exact replyLive_memOk _ _ _ _ _ _ ht
      · exact ht

/-- `earlyChunk` keeps memory in canonical form. -/
theorem earlyChunk_memOk (s : State) (se : Session) (h : CmdHdr) (off : Nat) (data : Bytes)
    (hm : s.memOk) : (earlyChunk s se h off data).memOk := by
  unfold earlyChunk
  repeat' (first | with_reducible assumption | with_reducible apply answerChunk_memOk | split
                 | (unfold State.memOk; dsimp only [drawNat_eq, drawBytes_eq]; change State.memOk _))

/-- `resendTokens` keeps memory in canonical form. -/
theorem resendTokens_memOk (fuel : Nat) (s : State) (h : CmdHdr) (target : Nat) (spoiled : Bool) (first : Nat)
    (toks : List Nat) (hm : s.memOk) : (resendTokens fuel s h target spoiled first toks).memOk := by
  induction fuel generalizing s first toks with
  | zero => exact hm
  | succ n ih =>
    unfold resendTokens
    split
    · exact hm
    · exact ih _ _ _ (emitReply_memOk _ _ hm)

/-- `takeHolds` keeps memory in canonical form. -/
theorem takeHolds_memOk (ids : List Nat) (s : State) (c n : Nat) (hm : s.memOk) : (takeHolds ids s c n).1.memOk := by
  induction ids generalizing s with
  | nil => exact hm
  | cons id r ih =>
    unfold takeHolds
    dsimp only
    repeat' (first | exact ih _ hm | exact hm | split)

/-- `acquire` keeps memory in canonical form. -/
theorem acquire_memOk (s : State) (n : Nat) (r : Req) (p : Pass) (hm : s.memOk) : (acquire s n r p).memOk := by
  unfold acquire
  dsimp only
  split
  · exact hm
  · split
    · exact takeHolds_memOk _ _ _ _ hm
    · exact takeHolds_memOk _ _ _ _ hm

/-- `dropHolds` keeps memory in canonical form. -/
theorem dropHolds_memOk (s : State) (c n : Nat) (holds : List Nat)
    (hm : s.memOk) : (dropHolds s c n holds).memOk := by
  unfold dropHolds
  repeat' (first | with_reducible assumption | (with_reducible apply foldl_memOk; intro _ _ _)
                 | with_reducible apply releaseHold_memOk)

/-- `assignFolios` keeps memory in canonical form. -/
theorem assignFolios_memOk (s : State) (n : Nat) (r : Req) (p : Pass)
    (hm : s.memOk) : (assignFolios s n r p).memOk := by
  unfold assignFolios
  dsimp only [drawNat_eq, drawBytes_eq]
  repeat' (first | with_reducible assumption | with_reducible apply modChase_memOk | with_reducible apply modReq_memOk
                 | split)

/-- `beginPass` keeps memory in canonical form. -/
theorem beginPass_memOk (s : State) (n : Nat) (r : Req) (p : Pass) (i : Image)
    (hm : s.memOk) : (beginPass s n r p i).memOk := by
  unfold beginPass
  dsimp only [drawNat_eq, drawBytes_eq]
  repeat' (first | with_reducible assumption | (with_reducible apply foldl_memOk; intro _ _ _)
                 | with_reducible apply assignFolios_memOk | with_reducible apply modReq_memOk
                 | with_reducible apply modGalley_memOk | with_reducible apply modChase_memOk
                 | with_reducible apply endInjection_memOk | split
                 | (unfold State.memOk; dsimp only [drawNat_eq, drawBytes_eq]; change State.memOk _))

/-- `atObj` keeps memory in canonical form. -/
theorem atObj_memOk (s : State) (h : CmdHdr) (c : Nat) (o : Obj) (op a b : Nat) (data : Bytes) (hm : s.memOk) :
    (atObj s h c o op a b data).memOk := by
  unfold atObj
  dsimp only [drawNat_eq, drawBytes_eq]
  repeat' (first | with_reducible assumption
                 | with_reducible apply modObj_memOk
                 | with_reducible apply stallMem_memOk
                 | with_reducible apply runWait_memOk | split | (unfold State.memOk; dsimp only [drawNat_eq, drawBytes_eq]; change State.memOk _))

theorem ite_memOk {p : Prop} [Decidable p] {a b : State} (ha : a.memOk) (hb : b.memOk) : (if p then a else b).memOk := by
  split <;> assumption

/-- `rowEvent` keeps memory in canonical form. -/
theorem rowEvent_memOk (s : State) (isH : Bool) (pa : Nat) (symbols : List Nat) (unc : Bool) (hm : s.memOk) :
    (rowEvent s isH pa symbols unc).memOk := by
  have h : ∀ evs, (setTier s isH { tier s isH with rowEvents := evs }).memOk :=
    fun _ => setTier_memOk _ _ _ hm (tier_ok s isH hm)
  unfold rowEvent
  refine foldl_memOk _ ?_ _ _ (h _)
  intro s k hm
  exact ite_memOk hm (healthEvent_memOk _ _ hm)

/-- `distrust` keeps memory in canonical form. -/
theorem distrust_memOk (s : State) (isH : Bool) (pa : Nat) (cipher : Bytes) (hm : s.memOk) :
    (distrust s isH pa cipher).memOk := by
  unfold distrust
  exact setTier_memOk _ _ _ hm (granulePut_wf _ _ _ _ _ (tier_ok _ isH hm))

/-- `parityError` keeps memory in canonical form. -/
theorem parityError_memOk (s : State) (isH : Bool) (pa : Nat) (hm : s.memOk) : (parityError s isH pa).memOk := by
  unfold parityError
  dsimp only
  split
  · exact setTier_memOk _ _ _ hm (tier_ok _ isH hm)
  · exact setTier_memOk _ _ _ hm (tier_ok _ isH hm)

/-- `doubtGranule` keeps memory in canonical form. -/
theorem doubtGranule_memOk (s : State) (isH : Bool) (pa : Nat) (errs : List (Nat × Byte)) (hm : s.memOk) :
    (doubtGranule s isH pa errs).1.memOk := by
  unfold doubtGranule
  dsimp only
  split
  · exact distrust_memOk _ _ _ _ (rowEvent_memOk _ _ _ _ _ (countMem_memOk _ _ _ _ hm))
  · have h := rowEvent_memOk _ isH pa (errs.map Prod.fst) false (countMem_memOk s isH pa 0 hm)
    split
    · exact distrust_memOk _ _ _ _ (countMem_memOk _ _ _ _ h)
    · exact setTier_memOk _ _ _ h (granulePut_wf _ _ _ _ _ (tier_ok _ isH h))

/-- `decodeGranule` keeps memory in canonical form. -/
theorem decodeGranule_memOk (s : State) (isH : Bool) (pa : Nat) (o : GranuleOutcome) (hm : s.memOk) :
    (decodeGranule s isH pa o).1.memOk := by
  have h : ∀ l : List Unit, (l.foldl (fun s _ => countErr s (if isH then 1 else 2)) s).memOk :=
    fun l => foldl_memOk _ (fun _ _ hm => countErr_memOk _ _ hm) l s hm
  unfold decodeGranule
  extract_lets s' errs spoil fresh sure
  have hs : s'.memOk := h _
  repeat' (first | exact hs | exact doubtGranule_memOk _ _ _ _ hs
                 | exact rowEvent_memOk _ _ _ _ _ (countMem_memOk _ _ _ _ hs) | split)

/-- `accessTries` keeps memory in canonical form. -/
theorem accessTries_memOk (fuel : Nat) (s : State) (isH : Bool) (pa : Nat) (outs : List GranuleOutcome) (hm : s.memOk) :
    (accessTries fuel s isH pa outs).1.memOk := by
  induction fuel generalizing s outs with
  | zero => exact hm
  | succ n ih =>
    cases outs with
    | nil => exact hm
    | cons o rest =>
      unfold accessTries
      split
      · exact ih _ _ (parityError_memOk _ _ _ hm)
      · exact hm

/-- `readGranule` keeps memory in canonical form. -/
theorem readGranule_memOk (s : State) (isH : Bool) (pa : Nat) (outs : List GranuleOutcome) (hm : s.memOk) :
    (readGranule s isH pa outs).1.memOk := by
  have h := accessTries_memOk 4 s isH pa outs hm
  unfold readGranule
  split
  · exact countMem_memOk _ _ _ _ hm
  · split
    · next e => rw [e] at h; exact decodeGranule_memOk _ _ _ _ h
    · next e => rw [e] at h; exact h

/-- `copyBlock` keeps memory in canonical form. -/
theorem copyBlock_memOk (s : State) (fromH : Bool) (a : Nat) (toH : Bool) (b : Nat) (hm : s.memOk) :
    (copyBlock s fromH a toH b).memOk := by
  have h : ∀ l : List Nat, (setTier s toH (l.foldl (fun m i =>
      let g := granuleData (tier s fromH) fromH (a * blockBytes + 64 * i)
      granulePut m toH (b * blockBytes + 64 * i) g.data g.spoil) (tier s toH))).memOk := fun l =>
    setTier_memOk _ _ _ hm (List.foldlRecOn _ _ (tier_ok s toH hm) fun m h i _ => granulePut_wf m _ _ _ _ h)
  unfold copyBlock
  dsimp only
  split
  · exact h _
  · exact countLost_memOk _ _ (countLost_memOk _ _ (h _))

/-- `copyBlocks` keeps memory in canonical form. -/
theorem copyBlocks_memOk (s : State) (fromH toH : Bool) (l : List (Nat × Nat)) (hm : s.memOk) :
    (copyBlocks s fromH toH l).memOk := by
  induction l generalizing s with
  | nil => exact hm
  | cons x r ih => exact ih _ (copyBlock_memOk _ _ _ _ _ hm)

/-- `putRec` keeps memory in canonical form. -/
theorem putRec_memOk (s : State) (c : Nat) (k : IntakeCfg) (idx : Nat) (r : FlowRec)
    (hm : s.memOk) : (putRec s c k idx r).memOk := by
  unfold putRec
  dsimp only [drawNat_eq, drawBytes_eq]
  repeat' (first | with_reducible assumption | with_reducible apply objWrite_memOk | split
                 | (unfold State.memOk; dsimp only [drawNat_eq, drawBytes_eq]; change State.memOk _))

/-- `fillIntake` keeps memory in canonical form. -/
theorem fillIntake_memOk (s : State) (hm : s.memOk) :
    (fillIntake s).memOk := by
  unfold fillIntake
  dsimp only [drawNat_eq, drawBytes_eq]
  repeat' (first | with_reducible assumption | split
                 | (unfold State.memOk; dsimp only [drawNat_eq, drawBytes_eq]; change State.memOk _))

/-- `queueScore` keeps memory in canonical form. -/
theorem queueScore_memOk (s : State) (idx : Nat) (hm : s.memOk) :
    (queueScore s idx).memOk := by
  unfold queueScore
  dsimp only [drawNat_eq, drawBytes_eq]
  repeat' (first | with_reducible assumption
                 | with_reducible apply fillIntake_memOk | split | (unfold State.memOk; dsimp only [drawNat_eq, drawBytes_eq]; change State.memOk _))

/-- `completeRec` keeps memory in canonical form. -/
theorem completeRec_memOk (s : State) (c : Nat) (k : IntakeCfg) (idx : Nat) (r : FlowRec) (cause : Nat) (hm : s.memOk) :
    (completeRec s c k idx r cause).memOk := by
  unfold completeRec
  repeat' (first | with_reducible assumption
                 | with_reducible apply queueScore_memOk
                 | with_reducible apply putRec_memOk | split | (unfold State.memOk; dsimp only [drawNat_eq, drawBytes_eq]; change State.memOk _))

/-- `takePacket` keeps memory in canonical form. -/
theorem takePacket_memOk (s : State) (c : Nat) (k : IntakeCfg) (idx : Nat) (r : FlowRec) (fwd : Bool)
    (f : IntakeFrame) (hm : s.memOk) : (takePacket s c k idx r fwd f).memOk := by
  unfold takePacket
  dsimp only [drawNat_eq, drawBytes_eq]
  repeat' (first | with_reducible assumption | with_reducible apply completeRec_memOk
                 | with_reducible apply putRec_memOk | split)

/-- `countIntake` keeps memory in canonical form. -/
theorem countIntake_memOk (s : State) (k : Nat) (hm : s.memOk) :
    (countIntake s k).memOk := by
  unfold countIntake
  repeat' (first | with_reducible assumption
                 | with_reducible apply chev_memOk | split | (unfold State.memOk; dsimp only [drawNat_eq, drawBytes_eq]; change State.memOk _))

/-- `modRec` keeps memory in canonical form. -/
theorem modRec_memOk (s : State) (idx : Nat) (f : FlowRec → FlowRec) (hm : s.memOk) : (modRec s idx f).memOk := by
  unfold modRec
  dsimp only [drawNat_eq, drawBytes_eq]
  repeat' (first | with_reducible assumption | split
                 | (unfold State.memOk; dsimp only [drawNat_eq, drawBytes_eq]; change State.memOk _))

/-- `scoreRec` keeps memory in canonical form. -/
theorem scoreRec_memOk (s : State) (c : Nat) (k : IntakeCfg) (idx : Nat) (r : FlowRec) (hm : s.memOk) :
    (scoreRec s c k idx r).memOk := by
  unfold scoreRec
  extract_lets n input a q i s' later
  have hs : s'.memOk := hm
  split
  · exact hs
  · split
    · exact hs
    · next h =>
      have hk := imprimatur_memOk h hs
      exact hk

/-- `answerLoad` keeps memory in canonical form. -/
theorem answerLoad_memOk (s : State) (se : Session) (h : CmdHdr) (status : Nat)
    (hm : s.memOk) : (answerLoad s se h status).memOk := by
  unfold answerLoad
  repeat' (first | with_reducible assumption | with_reducible apply conflictReply_memOk)

/-- `putPart` keeps memory in canonical form. -/
theorem putPart_memOk (s : State) (x : Stage) (off : Nat) (data : Bytes)
    (hm : s.memOk) : (putPart s x off data).memOk := by
  unfold putPart
  dsimp only [drawNat_eq, drawBytes_eq]
  repeat' (first | with_reducible assumption | split
                 | (unfold State.memOk; dsimp only [drawNat_eq, drawBytes_eq]; change State.memOk _))

/-- `laterPart` keeps memory in canonical form. -/
theorem laterPart_memOk (s : State) (se : Session) (h : CmdHdr) (x : Stage) (total off : Nat) (data : Bytes)
    (hm : s.memOk) : (laterPart s se h x total off data).memOk := by
  unfold laterPart
  repeat' (first | with_reducible assumption | with_reducible apply resendReply_memOk
                 | with_reducible apply answerLoad_memOk | with_reducible apply replyLive_memOk
                 | with_reducible apply putPart_memOk | split)

/-- `firstPart` keeps memory in canonical form. -/
theorem firstPart_memOk (s : State) (c : Nat) (h : CmdHdr) (total off : Nat) (data : Bytes)
    (hm : s.memOk) : (firstPart s c h total off data).memOk := by
  unfold firstPart
  dsimp only [drawNat_eq, drawBytes_eq]
  repeat' (first | with_reducible assumption | with_reducible apply rep_memOk | with_reducible apply accept_memOk
                 | with_reducible apply putPart_memOk | split
                 | (unfold State.memOk; dsimp only [drawNat_eq, drawBytes_eq]; change State.memOk _))

/-- `elapse` keeps memory in canonical form. -/
theorem elapse_memOk (s : State) (n : Nat) (hm : s.memOk) :
    (elapse s n).memOk := by
  unfold elapse
  dsimp only [drawNat_eq, drawBytes_eq]
  repeat' (first | with_reducible assumption
                 | (with_reducible apply foldl_memOk; intro _ _ _)
                 | with_reducible apply assertWaiting_memOk | split | (unfold State.memOk; dsimp only [drawNat_eq, drawBytes_eq]; change State.memOk _))

/-- `tick` keeps memory in canonical form. -/
theorem tick_memOk (s : State) (hm : s.memOk) :
    (tick s).memOk := by
  unfold tick
  repeat' (first | with_reducible assumption
                 | with_reducible apply elapse_memOk | split | (unfold State.memOk; dsimp only [drawNat_eq, drawBytes_eq]; change State.memOk _))


/-- `State.withFetchWord` keeps memory in canonical form. -/
theorem State.withFetchWord_memOk (s : State) (nbits w : Nat) (hm : s.memOk) :
    (State.withFetchWord s nbits w).memOk := by
  unfold State.withFetchWord
  repeat' (first | with_reducible assumption | split | (unfold State.memOk; dsimp only [drawNat_eq, drawBytes_eq]; change State.memOk _))

end Sys2Proof.Machine
end

