-- ==== Sys2Proof/Laws/Gate.lean ====
section
/-! SUPPORT. The checks that every host command passes first (`gate`, `hostCmd`): what they keep, and what they come to
for a command that is taken. -/

-- One proof at a time: the package as one text then needs little memory.
set_option Elab.async false

namespace Sys2Proof.Machine

/-- The outcome is a next state, with the queue as it was and the fixed fuses as they were. -/
def Keeps (s : State) (o : Host.Outcome State Fault Refusal) : Prop :=
  ∃ t, o = .next t ∧ t.pending = s.pending ∧ t.fuses.fixed = s.fuses.fixed

/-- What `resendTokens` keeps. -/
@[simp] theorem resendTokens_keeps (fuel : Nat) (s : State) (h : CmdHdr) (target : Nat) (spoiled : Bool) (first : Nat)
    (toks : List Nat) : (resendTokens fuel s h target spoiled first toks).pending = s.pending ∧
      (resendTokens fuel s h target spoiled first toks).fuses.fixed = s.fuses.fixed := by
  induction fuel generalizing s first toks with
  | zero => exact ⟨rfl, rfl⟩
  | succ n ih =>
    unfold resendTokens
    split
    · exact ⟨rfl, rfl⟩
    · exact ⟨(ih ..).1.trans (emitReply_keeps ..).1, (ih ..).2.trans (emitReply_keeps ..).2⟩

/-- What `doubtGranule` keeps. -/
@[simp] theorem doubtGranule_keeps (s : State) (isH : Bool) (pa : Nat) (errs : List (Nat × Byte)) :
    (doubtGranule s isH pa errs).1.pending = s.pending ∧
      (doubtGranule s isH pa errs).1.fuses.fixed = s.fuses.fixed := by
  unfold doubtGranule
  dsimp only
  repeat' (first | (simp; done) | split)

/-- What `decodeGranule` keeps. -/
@[simp] theorem decodeGranule_keeps (s : State) (isH : Bool) (pa : Nat) (o : GranuleOutcome) :
    (decodeGranule s isH pa o).1.pending = s.pending ∧ (decodeGranule s isH pa o).1.fuses.fixed = s.fuses.fixed := by
  have h := fun n : Nat => foldl_keeps (fun s (_ : Unit) => countErr s (if isH then 1 else 2))
    (fun s _ => ⟨by simp, by simp⟩) (List.replicate n ()) s
  unfold decodeGranule
  extract_lets s' errs spoil fresh sure
  rw [← (h o.onDie).1, ← (h o.onDie).2]
  change _ = s'.pending ∧ _ = s'.fuses.fixed
  repeat' (first | (simp; done) | split)

/-- What `accessTries` keeps. -/
@[simp] theorem accessTries_keeps (fuel : Nat) (s : State) (isH : Bool) (pa : Nat) (outs : List GranuleOutcome) :
    (accessTries fuel s isH pa outs).1.pending = s.pending ∧
      (accessTries fuel s isH pa outs).1.fuses.fixed = s.fuses.fixed := by
  induction fuel generalizing s outs with
  | zero => exact ⟨rfl, rfl⟩
  | succ n ih =>
    cases outs with
    | nil => exact ⟨rfl, rfl⟩
    | cons o rest =>
      unfold accessTries
      split
      · exact ⟨(ih ..).1.trans (parityError_keeps ..).1, (ih ..).2.trans (parityError_keeps ..).2⟩
      · exact ⟨rfl, rfl⟩

/-- What `copyBlocks` keeps. -/
@[simp] theorem copyBlocks_keeps (s : State) (fromH toH : Bool) (l : List (Nat × Nat)) :
    (copyBlocks s fromH toH l).pending = s.pending ∧ (copyBlocks s fromH toH l).fuses.fixed = s.fuses.fixed := by
  induction l generalizing s with
  | nil => exact ⟨rfl, rfl⟩
  | cons x r ih => exact ⟨(ih _).1.trans (copyBlock_keeps ..).1, (ih _).2.trans (copyBlock_keeps ..).2⟩

/-- What `readGranule` keeps. -/
@[simp] theorem readGranule_keeps (s : State) (isH : Bool) (pa : Nat) (outs : List GranuleOutcome) :
    (readGranule s isH pa outs).1.pending = s.pending ∧
      (readGranule s isH pa outs).1.fuses.fixed = s.fuses.fixed := by
  have h := accessTries_keeps 4 s isH pa outs
  unfold readGranule
  split
  · simp
  · split
    · next e =>
      rw [e] at h
      exact ⟨(decodeGranule_keeps ..).1.trans h.1, (decodeGranule_keeps ..).2.trans h.2⟩
    · next e => rw [e] at h; exact h

/-- What `fallBack` keeps. -/
theorem fallBack_keeps {s s' : State} {n : Nat} {r : Req} (h : fallBack s n r = some s') :
    s'.pending = s.pending ∧ s'.fuses.fixed = s.fuses.fixed := by
  unfold fallBack at h
  dsimp only at h
  split at h
  · cases h
  · split at h
    · cases h
    · simp only [Option.map_eq_some_iff] at h
      obtain ⟨p, -, rfl⟩ := h
      simp

/-- What `monitor` keeps. -/
theorem monitor_keeps {s s' : State} {n : Nat} {r : Req} {p : Pass} (h : monitor s n r p = some s') :
    s'.pending = s.pending ∧ s'.fuses.fixed = s.fuses.fixed := by
  unfold monitor at h
  split at h
  · cases h
  · split at h
    · exact fallBack_keeps h
    · cases h; simp
    · cases h

/-- Staying as it is keeps everything. -/
theorem keeps_refl (s : State) : Keeps s (.next s) := ⟨s, rfl, rfl, rfl⟩

/-- Holds of the state that the gate answers, refuses with or hands on. -/
def Gate.all (p : State → Prop) : Gate → Prop
  | .ignore => True
  | .answer s => p s
  | .refuse s _ => p s
  | .run s _ => p s

/-- What taking a descriptor keeps. -/
theorem takeDesc_keeps {s s' : State} {h : CmdHdr} {op : Nat} (e : takeDesc s h op = some s') :
    s'.pending = s.pending ∧ s'.fuses.fixed = s.fuses.fixed := by
  unfold takeDesc at e
  repeat' (first | (cases e; done) | (cases e; exact ⟨rfl, rfl⟩) | split at e)

/-- What the checks after the search for a kept reply keep. -/
theorem commonChecks_keeps (s : State) (se : Session) (h : CmdHdr) (sp : CmdSpec) (isNew : Bool) :
    (commonChecks s se h sp isNew).all fun t => t.pending = s.pending ∧ t.fuses.fixed = s.fuses.fixed := by
  unfold commonChecks
  dsimp only
  repeat' (first | (change _ ∧ _; simp; done) | split)

/-- What the common checks keep. -/
theorem gate_keeps (s : State) (h : CmdHdr) (sp : CmdSpec) :
   (gate s h sp).all fun t => t.pending = s.pending ∧ t.fuses.fixed = s.fuses.fixed := by
  unfold gate
  cases ht : takeDesc s h sp.opcode with
  | none => trivial
  | some s =>
    have hm := takeDesc_keeps ht
    rw [← hm.1, ← hm.2]
    clear ht hm
    dsimp only
    repeat' (first
      | exact commonChecks_keeps ..
      | (change _ ∧ _; simp; done)
      | split)

/-- A command of a request keeps what its own effect keeps. -/
theorem requestCmd_keeps {h : CmdHdr} {sp : CmdSpec} {label : Bytes} {run : State → Session → State} {s : State}
    (hr : ∀ s se, (run s se).pending = s.pending ∧ (run s se).fuses.fixed = s.fuses.fixed) :
    Keeps s (requestCmd h sp label run s) := by
  refine ⟨_, rfl, ?_⟩
  have hg := gate_keeps s h sp
  revert hg
  cases gate s h sp with
  | ignore => exact fun _ => ⟨rfl, rfl⟩
  | answer s' => exact fun hg => hg
  | refuse s' r => exact fun hg => ⟨(emitReply_keeps ..).1.trans hg.1, (emitReply_keeps ..).2.trans hg.2⟩
  | run s' se => exact fun hg => ⟨(hr _ _).1.trans hg.1, (hr _ _).2.trans hg.2⟩

/-- A host command keeps what its own effect keeps. -/
theorem hostCmd_keeps {h : CmdHdr} {sp : CmdSpec} {run : State → Session → State} {s : State}
    (hr : ∀ s se, (run s se).pending = s.pending ∧ (run s se).fuses.fixed = s.fuses.fixed) :
    Keeps s (hostCmd h sp run s) := requestCmd_keeps hr

/-- A command that comes in chunks keeps what its own effect keeps. -/
theorem chunkCmd_keeps {h : CmdHdr} {sp : CmdSpec} {off : Nat} {label : Bytes} {run : State → Session → State}
    {s : State} (hr : ∀ s se, (run s se).pending = s.pending ∧ (run s se).fuses.fixed = s.fuses.fixed) :
    Keeps s (chunkCmd h sp off label run s) := by
  refine ⟨_, rfl, ?_⟩
  have hg := gate_keeps s h sp
  revert hg
  cases gate s h sp with
  | ignore => exact fun _ => ⟨rfl, rfl⟩
  | answer s' => exact fun hg => hg
  | refuse s' r =>
    intro hg
    dsimp only
    split
    · exact ⟨(refuseChunk_keeps ..).1.trans hg.1, (refuseChunk_keeps ..).2.trans hg.2⟩
    · exact hg
  | run s' se => exact fun hg => ⟨(hr _ _).1.trans hg.1, (hr _ _).2.trans hg.2⟩

/-- The memory of the state that the gate hands on. -/
theorem takeDesc_memOk {s s' : State} {h : CmdHdr} {op : Nat} (e : takeDesc s h op = some s') (hm : s.memOk) :
    s'.memOk := by
  unfold takeDesc at e
  repeat' (first | (cases e; done) | (cases e; exact hm) | split at e)

/-- The checks after the search for a kept reply keep memory in canonical form. -/
theorem commonChecks_memOk (s : State) (se : Session) (h : CmdHdr) (sp : CmdSpec) (isNew : Bool) (hm : s.memOk) :
    (commonChecks s se h sp isNew).all State.memOk := by
  unfold commonChecks
  dsimp only
  repeat' (first | exact hm | exact violation_memOk _ hm | split)

/-- The common checks keep memory in canonical form. -/
theorem gate_memOk (s : State) (h : CmdHdr) (sp : CmdSpec) (hm : s.memOk) : (gate s h sp).all State.memOk := by
  unfold gate
  cases ht : takeDesc s h sp.opcode with
  | none => trivial
  | some s =>
    have hm := takeDesc_memOk ht hm
    clear ht
    dsimp only
    repeat' (first
      | exact hm
      | exact commonChecks_memOk _ _ _ _ _ hm
      | (change State.memOk _
         first | exact resendReply_memOk _ _ hm | exact conflictReply_memOk _ _ _ hm)
      | split)

/-- A metadata fit keeps memory in canonical form. -/
theorem fitMeta_some_memOk {s s' : State} {c tierNo die : Nat} (h : fitMeta s c tierNo die = some s')
    (hs : s.memOk) : s'.memOk := by
  have hk := fitMeta_memOk (d := s) c tierNo die hs hs
  rw [h] at hk
  exact hk

/-- A command of a request keeps memory in canonical form when its own effect does. -/
theorem requestCmd_memOk {h : CmdHdr} {sp : CmdSpec} {label : Bytes} {run : State → Session → State} {s : State}
    (hr : ∀ s se, s.memOk → (run s se).memOk) (hm : s.memOk) :
    ∃ t, requestCmd h sp label run s = .next t ∧ t.memOk := by
  refine ⟨_, rfl, ?_⟩
  have hg := gate_memOk s h sp hm
  revert hg
  cases gate s h sp with
  | ignore => exact fun _ => hm
  | answer s' => exact fun hg => hg
  | refuse s' r => exact fun hg => emitReply_memOk _ _ hg
  | run s' se => exact fun hg => hr _ _ hg

/-- A host command keeps memory in canonical form when its own effect does. -/
theorem hostCmd_memOk {h : CmdHdr} {sp : CmdSpec} {run : State → Session → State} {s : State}
    (hr : ∀ s se, s.memOk → (run s se).memOk) (hm : s.memOk) : ∃ t, hostCmd h sp run s = .next t ∧ t.memOk :=
  requestCmd_memOk hr hm

/-- A command that comes in chunks keeps memory in canonical form when its own effect does. -/
theorem chunkCmd_memOk {h : CmdHdr} {sp : CmdSpec} {off : Nat} {label : Bytes} {run : State → Session → State}
    {s : State} (hr : ∀ s se, s.memOk → (run s se).memOk) (hm : s.memOk) :
    ∃ t, chunkCmd h sp off label run s = .next t ∧ t.memOk := by
  refine ⟨_, rfl, ?_⟩
  have hg := gate_memOk s h sp hm
  revert hg
  cases gate s h sp with
  | ignore => exact fun _ => hm
  | answer s' => exact fun hg => hg
  | refuse s' r =>
    intro hg
    dsimp only
    split
    · exact refuseChunk_memOk _ _ _ _ _ _ hg
    · exact hg
  | run s' se => exact fun hg => hr _ _ hg

/-- A command that is taken passes the common checks, whatever the length of its reply. -/
theorem gate_of_taken {s s₁ : State} {h : CmdHdr} {op : Nat} {roles : List Role} {oosOk : Bool} {se : Session}
    (t : Taken s h op roles oosOk s₁ se) (z : Nat) : gate s h ⟨op, roles, oosOk, z⟩ = .run s₁ se := by
  have he : entitled se ⟨op, roles, oosOk, z⟩ = true := t.entitled
  have hs : ¬(s₁.boot.state = 5 ∧ oosOk = false) := fun e => by simp [t.served e.1] at e
  have hr : (!isRequestOp op &&
      decide (1024 ≤ s₁.live.countP fun l => l.session == h.session && !l.isRequest)) = false := by
    rcases t.room with e | e
    · simp [e]
    · simp [Nat.not_le.mpr e]
  simp only [gate, commonChecks, t.turn, t.session, t.notLive, t.noFinal, he, t.form, t.noFence, hr, if_neg hs,
    Bool.not_true, Bool.true_and, Bool.false_eq_true, if_false]

/-- A command of a request that is taken has its own effect. -/
theorem requestCmd_of_taken {s s₁ : State} {h : CmdHdr} {op : Nat} {roles : List Role} {oosOk : Bool} {se : Session}
    (t : Taken s h op roles oosOk s₁ se) (z : Nat) (label : Bytes) (run : State → Session → State) :
    requestCmd h ⟨op, roles, oosOk, z⟩ label run s = .next (run s₁ se) := by
  simp only [requestCmd, gate_of_taken t z]

/-- A command that is taken has its own effect. -/
theorem hostCmd_of_taken {s s₁ : State} {h : CmdHdr} {op : Nat} {roles : List Role} {oosOk : Bool} {se : Session}
    (t : Taken s h op roles oosOk s₁ se) (z : Nat) (run : State → Session → State) :
    hostCmd h ⟨op, roles, oosOk, z⟩ run s = .next (run s₁ se) := requestCmd_of_taken t z [] run

/-- A chunk that is taken has its own effect. -/
theorem chunkCmd_of_taken {s s₁ : State} {h : CmdHdr} {op : Nat} {roles : List Role} {oosOk : Bool} {se : Session}
    (t : Taken s h op roles oosOk s₁ se) (z off : Nat) (label : Bytes) (run : State → Session → State) :
    chunkCmd h ⟨op, roles, oosOk, z⟩ off label run s = .next (run s₁ se) := by
  simp only [chunkCmd, gate_of_taken t z]

/-! ### Operations that answer a state among other things -/

/-- What taking a frame keeps. -/
@[simp] theorem takeFrame_keeps (s : State) (ep : Nat) (frame : Bytes) :
    (takeFrame s ep frame).1.pending = s.pending ∧ (takeFrame s ep frame).1.fuses.fixed = s.fuses.fixed := by
  have hv : ∀ {p : HostPort} {k : Sak} {e e' : Eth} {s' : State}, macsecIn s ep p k e = some (s', e') →
      s'.pending = s.pending ∧ s'.fuses.fixed = s.fuses.fixed := by
    intro p k e e' s' h
    unfold macsecIn at h
    obtain ⟨x, -, hx⟩ := Option.map_eq_some_iff.mp h
    cases hx; exact ⟨rfl, rfl⟩
  unfold takeFrame
  extract_lets vlan
  have hl : ∀ t e, (vlan t e).1.pending = t.pending ∧ (vlan t e).1.fuses.fixed = t.fuses.fixed := by
    intro t e
    dsimp only [vlan]
    repeat' (first | (simp; done) | split)
  repeat' (first | exact hl _ _ | (simp; done) | split)
  next h =>
    obtain ⟨k, -, hk⟩ := Option.bind_eq_some_iff.mp h
    exact ⟨(hl _ _).1.trans (hv hk).1, (hl _ _).2.trans (hv hk).2⟩

/-- Taking a frame keeps memory in canonical form. -/
theorem takeFrame_memOk (s : State) (ep : Nat) (frame : Bytes) (hm : s.memOk) : (takeFrame s ep frame).1.memOk := by
  have hv : ∀ {p : HostPort} {k : Sak} {e e' : Eth} {s' : State}, macsecIn s ep p k e = some (s', e') → s'.memOk := by
    intro p k e e' s' h
    unfold macsecIn at h
    obtain ⟨x, -, hx⟩ := Option.map_eq_some_iff.mp h
    cases hx; exact hm
  unfold takeFrame
  extract_lets vlan
  have hl : ∀ t e, t.memOk → (vlan t e).1.memOk := by
    intro t e hm
    dsimp only [vlan]
    repeat' (first | exact hm | exact countDrop_memOk _ _ _ hm | split)
  repeat' (first | exact hl _ _ hm | exact countDrop_memOk _ _ _ hm | split)
  next h =>
    obtain ⟨k, -, hk⟩ := Option.bind_eq_some_iff.mp h
    exact hl _ _ (hv hk)

/-- What the answer to a chunk of an ended command keeps. -/
theorem endedChunk_keeps {s s' : State} {se : Session} {h : CmdHdr} {op off : Nat}
    (e : endedChunk s se h op off = some s') : s'.pending = s.pending ∧ s'.fuses.fixed = s.fuses.fixed := by
  unfold endedChunk at e
  dsimp only at e
  repeat' (first | (cases e; done) | (cases e; simp; done) | split at e)

/-- The answer to a chunk of an ended command keeps memory in canonical form. -/
theorem endedChunk_memOk {s s' : State} {se : Session} {h : CmdHdr} {op off : Nat}
    (e : endedChunk s se h op off = some s') (hm : s.memOk) : s'.memOk := by
  unfold endedChunk at e
  dsimp only at e
  repeat' (first | (cases e; done) | (cases e; exact hm) | (cases e; exact resendReply_memOk _ _ hm)
                 | (cases e; exact conflictReply_memOk _ _ _ hm) | split at e)

/-- What taking the intake's descriptor keeps. -/
theorem takeIntake_keeps {s s' : State} {idx : Nat} (e : takeIntake s = some (idx, s')) :
    s'.pending = s.pending ∧ s'.fuses.fixed = s.fuses.fixed ∧ (s.memOk → s'.memOk) := by
  unfold takeIntake at e
  repeat' (first | (cases e; done) | (cases e; exact ⟨rfl, rfl, id⟩) | split at e)

/-- What reading a chunk keeps. -/
@[simp] theorem readChunk_keeps (s : State) (k : InGalley) (t : TensorCfg) (o : Obj) (off n : Nat) :
    (readChunk s k t o off n).1.pending = s.pending ∧ (readChunk s k t o off n).1.fuses.fixed = s.fuses.fixed := by
  unfold readChunk
  dsimp only
  split <;> simp

/-- Reading a chunk keeps memory in canonical form. -/
theorem readChunk_memOk (s : State) (k : InGalley) (t : TensorCfg) (o : Obj) (off n : Nat) (hm : s.memOk) :
    (readChunk s k t o off n).1.memOk := by
  unfold readChunk
  dsimp only
  exact touchWindow_memOk _ _ _ _ (countLost_memOk _ _ (ite_memOk hm (countSpoiled_memOk _ _ _ hm)))

/-- What a galley's read of a chunk keeps. -/
theorem fetch_keeps {k : InGalley} {s s' : State} {j : Nat} {gs : List Granule} (e : k.fetch s j = .ok (s', gs)) :
    s'.pending = s.pending ∧ s'.fuses.fixed = s.fuses.fixed := by
  unfold InGalley.fetch at e
  dsimp only at e
  split at e
  · cases e; exact ⟨rfl, rfl⟩
  · split at e
    · cases e
    · injection e with e
      have h := readChunk_keeps s k ‹_› ‹_› (j * (k.d.slotg * 64)) (k.chunkLen s j)
      rw [e] at h; exact h

/-- A galley's read of a chunk keeps memory in canonical form. -/
theorem fetch_memOk {k : InGalley} {s s' : State} {j : Nat} {gs : List Granule} (e : k.fetch s j = .ok (s', gs))
    (hm : s.memOk) : s'.memOk := by
  unfold InGalley.fetch at e
  dsimp only at e
  split at e
  · cases e; exact hm
  · split at e
    · cases e
    · injection e with e
      have h := readChunk_memOk s k ‹_› ‹_› (j * (k.d.slotg * 64)) (k.chunkLen s j) hm
      rw [e] at h; exact h

end Sys2Proof.Machine
end

