-- ==== Sys2Proof/Laws/Gcm.lean ====
section
/-! SUPPORT. AES-256-GCM opens what it sealed (R365, R188, R427): the lengths of the cipher's blocks and the stream it adds. -/

namespace Sys2Proof.Laws
open Sys2Proof Sys2Proof.Machine

theorem zeros_length (n : Nat) : (zeros n).length = n := by simp [zeros]

theorem padTo_length (n : Nat) (b : Bytes) : (padTo n b).length = n := by
  simp only [padTo, List.length_append, List.length_take, zeros_length]
  omega

theorem le_length (n v : Nat) : (le n v).length = n := by induction n generalizing v <;> simp [le, *]

theorem be_length (n v : Nat) : (be n v).length = n := by simp [be, le_length]

theorem xorRow_length {a b : List Nat} (h : a.length = b.length) : (xorRow a b).length = a.length := by
  simp [xorRow, h]

theorem aesShift_length (box st : List Nat) : (aesShift box st).length = 16 := by simp [aesShift]

theorem aesMix_length (st : List Nat) : (aesMix st).length = 16 := by simp [aesMix]

/-- The key schedule only adds words of four bytes. -/
theorem aesExpand_words (box : List Nat) (n : Nat) : ∀ (i rc : Nat) (w : List (List Nat)),
    (∀ x ∈ w, x.length = 4) → 8 ≤ w.length →
    (∀ x ∈ aesExpand box n i rc w, x.length = 4) ∧ (aesExpand box n i rc w).length = w.length + n := by
  induction n with
  | zero => exact fun i rc w h _ => ⟨h, rfl⟩
  | succ n ih =>
    intro i rc w h hw
    have at4 : ∀ k, k < 8 → (w.getD k []).length = 4 := fun k hk => by
      rw [List.getD_eq_getElem _ _ (by omega)]
      exact h _ (List.getElem_mem _)
    have h0 := at4 0 (by omega)
    have new : ∀ x ∈ xorRow (w.getD 7 []) (
        if i % 8 = 0 then xorRow ((fun (t : List Nat) => t.map fun b => box.getD b 0)
          ((w.getD 0 []).drop 1 ++ (w.getD 0 []).take 1)) [rc, 0, 0, 0]
        else if i % 8 = 4 then (w.getD 0 []).map fun b => box.getD b 0 else w.getD 0 []) :: w, x.length = 4 := by
      intro x hx
      rcases List.mem_cons.mp hx with rfl | hx
      · rw [xorRow_length] <;> rw [at4 7 (by omega)]
        split
        · simp only [xorRow, List.length_zipWith, List.length_map, List.length_append, List.length_drop, List.length_take,
            List.length_cons, List.length_nil, h0]
          omega
        · split <;> simp only [List.length_map, h0]
      · exact h x hx
    obtain ⟨a, b⟩ := ih (i + 1) (if i % 8 = 0 then aesX rc else rc) _ new (by simp; omega)
    exact ⟨a, b.trans (by simp; omega)⟩

theorem flatten_length_of {n : Nat} : ∀ (l : List (List Nat)), (∀ x ∈ l, x.length = n) → l.flatten.length = n * l.length
  | [], _ => by simp
  | a :: l, h => by
    have := flatten_length_of l fun x hx => h x (List.mem_cons_of_mem _ hx)
    simp only [List.flatten_cons, List.length_append, List.length_cons, this, h a List.mem_cons_self]
    ring

/-- Every round key is 16 bytes long. -/
theorem aesKeys_length (box : List Nat) (key : Bytes) (h : key.length = 32) : ∀ k ∈ aesKeys box key, k.length = 16 := by
  intro k hk
  simp only [aesKeys, List.mem_map, List.mem_range] at hk
  obtain ⟨i, hi, rfl⟩ := hk
  obtain ⟨a, b⟩ := aesExpand_words box 52 8 1
    (((List.range 8).map fun i => ((key.map BitVec.toNat).drop (4 * i)).take 4).reverse)
    (by
      intro x hx
      simp only [List.mem_reverse, List.mem_map, List.mem_range] at hx
      obtain ⟨j, hj, rfl⟩ := hx
      simp only [List.length_take, List.length_drop, List.length_map, h]
      omega)
    (by simp)
  rw [flatten_length_of (n := 4)]
  · simp only [List.length_take, List.length_drop, List.length_reverse, b, List.length_map, List.length_range]
    omega
  · exact fun x hx => a x (List.mem_reverse.mp (List.mem_of_mem_drop (List.mem_of_mem_take hx)))

theorem aesRounds_length (box : List Nat) (ks : List (List Nat)) (h : ∀ k ∈ ks, k.length = 16) (st : List Nat)
    (hs : st.length = 16) : (aesRounds box ks st).length = 16 := by
  induction ks generalizing st with
  | nil => exact hs
  | cons k ks ih =>
    have hk := h k List.mem_cons_self
    cases ks with
    | nil => simp only [aesRounds, xorRow_length, aesShift_length, hk]
    | cons k' ks =>
      refine ih (fun x hx => h x (List.mem_cons_of_mem _ hx)) _ ?_
      rw [xorRow_length] <;> simp only [aesMix_length, hk]

theorem aesBlock_length (box : List Nat) (ks : List (List Nat)) (h : ∀ k ∈ ks, k.length = 16) (b : Bytes)
    (hb : b.length = 16) : (aesBlock box ks b).length = 16 := by
  cases ks with
  | nil => exact hb
  | cons k ks =>
    have hk := h k List.mem_cons_self
    simp only [aesBlock, List.length_map]
    refine aesRounds_length box ks (fun x hx => h x (List.mem_cons_of_mem _ hx)) _ ?_
    rw [xorRow_length] <;> simp [hb, hk]

/-- The stream that the cipher adds to n bytes. -/
def gcmStream (key nonce : Bytes) (n : Nat) : Bytes :=
  (List.range ((n + 15) / 16)).flatMap fun i => aesBlock aesBox (aesKeys aesBox (padTo 32 key)) (padTo 12 nonce ++ be 4 (i + 2))

theorem gcmBlock_length (key nonce : Bytes) (n : Nat) :
    (aesBlock aesBox (aesKeys aesBox (padTo 32 key)) (padTo 12 nonce ++ be 4 n)).length = 16 :=
  aesBlock_length _ _ (aesKeys_length _ _ (padTo_length 32 key)) _ (by simp [padTo_length, be_length])

theorem gcmStream_length (key nonce : Bytes) (n : Nat) : n ≤ (gcmStream key nonce n).length := by
  simp only [gcmStream, List.length_flatMap, gcmBlock_length, List.map_const', List.length_range, List.sum_replicate,
    smul_eq_mul]
  omega

/-- What the cipher seals is the plaintext with the stream added and a tag of 16 bytes. -/
theorem gcmSeal_eq (key nonce aad plain : Bytes) : ∃ tag : Bytes, tag.length = 16 ∧
    gcmSeal key nonce aad plain = plain.zipWith (· ^^^ ·) (gcmStream key nonce plain.length) ++ tag := by
  refine ⟨_, ?_, by unfold gcmSeal; rfl⟩
  rw [List.length_zipWith, be_length, gcmBlock_length]
  rfl

theorem xor_xor (a b : Bytes) (h : a.length ≤ b.length) : (a.zipWith (· ^^^ ·) b).zipWith (· ^^^ ·) b = a := by
  induction a generalizing b with
  | nil => simp
  | cons x a ih =>
    cases b with
    | nil => simp at h
    | cons y b =>
      simp only [List.zipWith_cons_cons, ih b (by simpa using h), List.cons.injEq, and_true]
      rw [BitVec.xor_assoc, BitVec.xor_self, BitVec.xor_zero]

theorem gcmOpen_gcmSeal (key nonce aad plain : Bytes) : gcmOpen key nonce aad (gcmSeal key nonce aad plain) = some plain := by
  obtain ⟨tag, ht, e⟩ := gcmSeal_eq key nonce aad plain
  have hl : (plain.zipWith (· ^^^ ·) (gcmStream key nonce plain.length)).length = plain.length := by
    simp [gcmStream_length]
  obtain ⟨tag', ht', e'⟩ := gcmSeal_eq key nonce aad (plain.zipWith (· ^^^ ·) (gcmStream key nonce plain.length))
  have hc : (gcmSeal key nonce aad plain).take ((gcmSeal key nonce aad plain).length - 16) =
      plain.zipWith (· ^^^ ·) (gcmStream key nonce plain.length) := by
    rw [e]
    simp [ht]
  have hp : (gcmSeal key nonce aad (plain.zipWith (· ^^^ ·) (gcmStream key nonce plain.length))).take
      (plain.zipWith (· ^^^ ·) (gcmStream key nonce plain.length)).length = plain := by
    rw [e', hl, List.take_append_of_le_length (by simp [gcmStream_length]), xor_xor _ _ (gcmStream_length ..),
      List.take_of_length_le (le_refl _)]
  unfold gcmOpen
  simp only [hc, hp]
  rw [if_pos ⟨by rw [e]; simp [ht], trivial⟩]

end Sys2Proof.Laws
end

