-- ==== Sys2Proof/Laws/Link.lean ====
section
/-! SUPPORT. The torus link layer and hub SRAM: a frame's header reads back, a frame under one key opens (R424, R446), and
a read of hub SRAM without errors gives the bytes as they are (R475). -/

namespace Sys2Proof.Machine

theorem ofLe_le (n v : Nat) : ofLe (le n v) = v % 256 ^ n := by
  induction n generalizing v with
  | zero => simp [le, ofLe, Nat.mod_one]
  | succ n ih =>
    simp only [le, ofLe, ih]
    rw [Nat.pow_succ', Nat.mod_mul]
    simp

theorem ofBe_be (n v : Nat) : ofBe (be n v) = v % 256 ^ n := by
  have h : ∀ b : Bytes, b.foldr (fun x y => y * 256 + x.toNat) 0 = ofLe b := fun b => by
    induction b with
    | nil => rfl
    | cons x b ih =>
      simp only [List.foldr_cons, ih, ofLe]
      omega
  rw [ofBe, be, List.foldl_reverse, h, ofLe_le]

/-- Every field of a header reads back within its width (R446). -/
theorem headOf_bytes (h : FrameHead) (x : Bytes) (ht : h.type < 16) (hv : h.vc < 2) (hn : h.nunit < 32)
    (he : h.epoch < 256) (hc : h.credits < 128) (hr : h.crVc < 2) (hp : h.step < 2 ^ 32) (hs : h.seq < 2 ^ 32)
    (ha : h.ack < 2 ^ 32) : headOf (h.bytes ++ x) = h := by
  have hl : h.bytes.length = 16 := by simp [FrameHead.bytes, Laws.be_length]
  unfold headOf
  rw [List.take_left' hl]
  unfold FrameHead.bytes
  rw [ofBe_be]
  obtain ⟨ty, rk, vc, nu, ep, cr, cv, st, sq, ak⟩ := h
  dsimp only at ht hv hn he hc hr hp hs ha
  rw [Nat.mod_eq_of_lt ht, Nat.mod_eq_of_lt hv, Nat.mod_eq_of_lt hn, Nat.mod_eq_of_lt he, Nat.mod_eq_of_lt hc,
    Nat.mod_eq_of_lt hr, Nat.mod_eq_of_lt hp, Nat.mod_eq_of_lt hs, Nat.mod_eq_of_lt ha]
  have hk : b2n rk < 2 := by cases rk <;> decide
  simp only [nbits, nbit, FrameHead.mk.injEq]
  refine ⟨by omega, ?_, by omega, by omega, by omega, by omega, by omega, by omega, by omega, by omega⟩
  have e : ∀ k, k < 2 → (k == 1) = decide (k = 1) := fun k _ => rfl
  cases rk <;> simp only [b2n, beq_iff_eq, beq_eq_false_iff_ne, if_true, if_false, Bool.false_eq_true] <;> omega

/-- A frame opens under the key that sealed it, as what was sealed (R424, R447). -/
theorem openFrame_frameBytes (k : Bytes) (gen : Nat) (h : FrameHead) (data : Bytes) (hd : data.length = 64 * h.nunit)
    (hu : h.nunit ≤ 16) (hh : ∀ x, headOf (h.bytes ++ x) = h) :
    openFrame k gen (frameBytes (some k) gen h data) = some data := by
  have hl : h.bytes.length = 16 := by simp [FrameHead.bytes, Laws.be_length]
  obtain ⟨tag, ht, e⟩ := Laws.gcmSeal_eq k (linkNonce gen h.seq) h.bytes data
  have hs : (gcmSeal k (linkNonce gen h.seq) h.bytes data).length = 64 * h.nunit + 16 := by
    rw [e, List.length_append, ht, List.length_zipWith, hd]
    have := Laws.gcmStream_length k (linkNonce gen h.seq) (64 * h.nunit)
    omega
  simp only [openFrame, frameBytes, hh, List.length_append, hl, hs]
  rw [if_neg (by omega), List.take_left' hl, List.drop_left' hl, Laws.gcmOpen_gcmSeal]

/-! ### Hub SRAM -/

/-- A read that meets no error gives what stands there. -/
@[simp] theorem hubRead_nil (b : List (Byte × Bool)) : hubRead b [] = b := by
  simp [hubRead, List.zipIdx_map_fst]

@[simp] theorem hubRead_length (b : List (Byte × Bool)) (errs : List (Nat × Nat)) : (hubRead b errs).length = b.length := by
  simp [hubRead]

end Sys2Proof.Machine
end

