-- ==== Sys2Proof/Laws/Meanings.lean ====
section
/-! SUPPORT. What the meaning of each command keeps: the queue of waiting commands, the fuses that no ordinary command
blows, and memory's canonical form. -/

-- One proof at a time: the package as one text then needs little memory.
set_option Elab.async false

namespace Sys2Proof.Machine

/-! ### The queue and the fuses -/

/-- What Hello keeps. -/
theorem execHello_keeps (h : CmdHdr) (role chase credId : Nat) (nonce eph : Bytes) (s : State) :
    Keeps s (execHello h role chase credId nonce eph s) := by
  unfold execHello
  refine ⟨_, rfl, ?_⟩
  cases ht : takeDesc s h 0x0001 with
  | none => exact ⟨rfl, rfl⟩
  | some s =>
    have hk := takeDesc_keeps ht
    rw [← hk.1, ← hk.2]
    clear ht hk
    dsimp only [drawNat_eq, drawBytes_eq]
    repeat' (first | (simp; done) | split)

/-- What Prove keeps. -/
theorem execProve_keeps (h : CmdHdr) (sig : Bytes) (s : State) : Keeps s (execProve h sig s) := by
  unfold execProve
  refine hostCmd_keeps fun s se => ?_
  constructor <;> (dsimp only; (repeat' split) <;> simp)

/-- What Close keeps. -/
theorem execClose_keeps (h : CmdHdr) (s : State) : Keeps s (execClose h s) := by
  unfold execClose
  refine hostCmd_keeps fun s se => ?_
  (constructor <;> (repeat' split) <;> simp)

/-- What Ping keeps. -/
theorem execPing_keeps (h : CmdHdr) (data : Bytes) (s : State) : Keeps s (execPing h data s) := by
  unfold execPing
  refine hostCmd_keeps fun s se => ?_
  (constructor <;> (repeat' split) <;> simp)

/-- What SessionInfo keeps. -/
theorem execSessionInfo_keeps (h : CmdHdr) (s : State) : Keeps s (execSessionInfo h s) := by
  unfold execSessionInfo
  refine hostCmd_keeps fun s se => ?_
  (constructor <;> (repeat' split) <;> simp)

/-- CLAIM keeps the queue. -/
theorem execClaim_pending (h : CmdHdr) (pub label : Bytes) (s : State) :
    ∃ t, execClaim h pub label s = .next t ∧ t.pending = s.pending := by
  refine ⟨_, rfl, ?_⟩
  have hg := gate_keeps s h ⟨0x0010, [.own], false, 0⟩
  revert hg
  cases gate s h ⟨0x0010, [.own], false, 0⟩ with
  | ignore => exact fun _ => rfl
  | answer s' => exact fun hg => hg.1
  | refuse s' r => exact fun hg => (emitReply_keeps ..).1.trans hg.1
  | run s' se =>
    intro hg
    rw [← hg.1]
    dsimp only
    repeat' (first | (simp; done) | split)

/-- What PolicySet keeps. -/
theorem execPolicySet_keeps (h : CmdHdr) (entries : List (Nat × Nat)) (s : State) :
    Keeps s (execPolicySet h entries s) := by
  unfold execPolicySet
  refine hostCmd_keeps fun s se => ?_
  (constructor <;> (repeat' split) <;> simp)

/-- What PolicyGet keeps. -/
theorem execPolicyGet_keeps (h : CmdHdr) (ids : List Nat) (s : State) : Keeps s (execPolicyGet h ids s) := by
  unfold execPolicyGet
  refine hostCmd_keeps fun s se => ?_
  (constructor <;> (repeat' split) <;> simp)

/-- What CredSet keeps. -/
theorem execCredSet_keeps (h : CmdHdr) (op role chase credId : Nat) (pub : Bytes) (s : State) :
    Keeps s (execCredSet h op role chase credId pub s) := by
  unfold execCredSet
  refine hostCmd_keeps fun s se => ?_
  (constructor <;> (dsimp only; (repeat' split) <;> simp))

/-- What Readmit keeps. -/
theorem execReadmit_keeps (h : CmdHdr) (s : State) : Keeps s (execReadmit h s) := by
  unfold execReadmit
  refine hostCmd_keeps fun s se => ?_
  (constructor <;> (repeat' split) <;> simp)

/-- What Decommission keeps. -/
theorem execDecommission_keeps (h : CmdHdr) (confirm : Nat) (s : State) : Keeps s (execDecommission h confirm s) := by
  unfold execDecommission
  refine hostCmd_keeps fun s se => ?_
  (constructor <;> (repeat' split) <;> simp)

/-- What RelaySet keeps. -/
theorem execRelaySet_keeps (h : CmdHdr) (entries : List RelayEntry) (s : State) :
    Keeps s (execRelaySet h entries s) := by
  unfold execRelaySet
  refine hostCmd_keeps fun s se => ?_
  (constructor <;> (dsimp only; (repeat' split) <;> simp))

/-- What IntakeSet keeps. -/
theorem execIntakeSet_keeps (h : CmdHdr) (cfg : IntakeCfg) (s : State) : Keeps s (execIntakeSet h cfg s) := by
  unfold execIntakeSet
  refine hostCmd_keeps fun s se => ?_
  (constructor <;> (dsimp only; (repeat' split) <;> simp))

/-- What ChaseCreate keeps. -/
theorem execChaseCreate_keeps (h : CmdHdr) (f : ChaseFields) (s : State) : Keeps s (execChaseCreate h f s) := by
  unfold execChaseCreate
  refine hostCmd_keeps fun s se => ?_
  (constructor <;> (dsimp only; (repeat' split) <;> simp))

/-- What ChaseChange keeps. -/
theorem execChaseChange_keeps (h : CmdHdr) (f : ChaseFields) (s : State) : Keeps s (execChaseChange h f s) := by
  unfold execChaseChange
  refine hostCmd_keeps fun s se => ?_
  (constructor <;> (dsimp only; (repeat' split) <;> simp))

/-- What ChaseRelease keeps. -/
theorem execChaseRelease_keeps (h : CmdHdr) (chase : Nat) (s : State) : Keeps s (execChaseRelease h chase s) := by
  unfold execChaseRelease
  refine hostCmd_keeps fun s se => ?_
  (constructor <;> (dsimp only; (repeat' split) <;> simp))

/-- What ChaseInfo keeps. -/
theorem execChaseInfo_keeps (h : CmdHdr) (chase : Nat) (s : State) : Keeps s (execChaseInfo h chase s) := by
  unfold execChaseInfo
  refine hostCmd_keeps fun s se => ?_
  (constructor <;> (dsimp only; (repeat' split) <;> simp))

/-- What ChaseClaim keeps. -/
theorem execChaseClaim_keeps (h : CmdHdr) (pub : Bytes) (s : State) : Keeps s (execChaseClaim h pub s) := by
  unfold execChaseClaim
  refine hostCmd_keeps fun s se => ?_
  (constructor <;> (dsimp only; (repeat' split) <;> simp))

/-- What FormeLoad keeps. -/
theorem execFormeLoad_keeps (h : CmdHdr) (total offset : Nat) (data : Bytes) (s : State) :
    Keeps s (execFormeLoad h total offset data s) := by
  unfold execFormeLoad
  refine chunkCmd_keeps fun s se => ?_
  split
  · simp
  · split
    · next e => exact endedChunk_keeps e
    · simp

/-- What FormeStage keeps. -/
theorem execFormeStage_keeps (h : CmdHdr) (objId : Nat) (s : State) : Keeps s (execFormeStage h objId s) := by
  unfold execFormeStage
  refine hostCmd_keeps fun s se => ?_
  (constructor <;> (dsimp only; (repeat' split) <;> simp))

/-- What FormeFree keeps. -/
theorem execFormeFree_keeps (h : CmdHdr) (formeId : Nat) (s : State) : Keeps s (execFormeFree h formeId s) := by
  unfold execFormeFree
  refine hostCmd_keeps fun s se => ?_
  (constructor <;> (repeat' split) <;> simp)

/-- What Impose keeps. -/
theorem execImpose_keeps (h : CmdHdr) (ids : List Nat) (s : State) : Keeps s (execImpose h ids s) := by
  unfold execImpose
  refine hostCmd_keeps fun s se => ?_
  (constructor <;> (dsimp only; (repeat' split) <;> simp))

/-- What Change keeps. -/
theorem execChange_keeps (h : CmdHdr) (oldId newId : Nat) (s : State) : Keeps s (execChange h oldId newId s) := by
  unfold execChange
  refine hostCmd_keeps fun s se => ?_
  (constructor <;> (dsimp only; (repeat' split) <;> simp))

/-- What ServeSet keeps. -/
theorem execServeSet_keeps (h : CmdHdr) (op : Nat) (e : ServeFields) (s : State) :
    Keeps s (execServeSet h op e s) := by
  unfold execServeSet
  refine hostCmd_keeps fun s se => ?_
  (constructor <;> (dsimp only; (repeat' split) <;> simp))

/-- What ScanOut keeps. -/
theorem execScanOut_keeps (h : CmdHdr) (tile : Nat) (s : State) : Keeps s (execScanOut h tile s) := by
  unfold execScanOut
  refine hostCmd_keeps fun s se => ?_
  (constructor <;> (repeat' split) <;> simp)

/-- What ScanIn keeps. -/
theorem execScanIn_keeps (h : CmdHdr) (record : Bytes) (s : State) : Keeps s (execScanIn h record s) := by
  unfold execScanIn
  refine hostCmd_keeps fun s se => ?_
  constructor <;> (dsimp only; (repeat' split) <;> simp)

/-- What FormeList keeps. -/
theorem execFormeList_keeps (h : CmdHdr) (s : State) : Keeps s (execFormeList h s) := by
  unfold execFormeList
  refine hostCmd_keeps fun s se => ?_
  (constructor <;> (repeat' split) <;> simp)

/-- What SignkeySet keeps. -/
theorem execSignkeySet_keeps (h : CmdHdr) (op keyId : Nat) (pub : Bytes) (s : State) :
    Keeps s (execSignkeySet h op keyId pub s) := by
  unfold execSignkeySet
  refine hostCmd_keeps fun s se => ?_
  (constructor <;> (dsimp only; (repeat' split) <;> simp))

/-- What FormeKeyGet keeps. -/
theorem execFormeKeyGet_keeps (h : CmdHdr) (s : State) : Keeps s (execFormeKeyGet h s) := by
  unfold execFormeKeyGet
  refine hostCmd_keeps fun s se => ?_
  (constructor <;> (repeat' split) <;> simp)

theorem execObjCreate_keeps (h : CmdHdr) (objId size kind tier die : Nat) (s : State) :
    Keeps s (execObjCreate h objId size kind tier die s) := by
  unfold execObjCreate
  refine hostCmd_keeps ?_
  intro s se
  dsimp only
  repeat' (first | (simp; done) | split)
  next hf => simpa using fitMeta_keeps hf

/-- What Put keeps. -/
theorem execPut_keeps (h : CmdHdr) (objId offset : Nat) (data : Bytes) (s : State) :
    Keeps s (execPut h objId offset data s) := by
  unfold execPut
  refine hostCmd_keeps fun s se => ?_
  (constructor <;> (dsimp only; (repeat' split) <;> simp))

/-- What Seal keeps. -/
theorem execSeal_keeps (h : CmdHdr) (objId : Nat) (s : State) : Keeps s (execSeal h objId s) := by
  unfold execSeal
  refine hostCmd_keeps fun s se => ?_
  (constructor <;> (dsimp only; (repeat' split) <;> simp))

/-- What Get keeps. -/
theorem execGet_keeps (h : CmdHdr) (objId offset len : Nat) (s : State) : Keeps s (execGet h objId offset len s) := by
  unfold execGet
  refine hostCmd_keeps fun s se => ?_
  (constructor <;> (dsimp only; (repeat' split) <;> simp))

/-- What Move keeps. -/
theorem execMove_keeps (h : CmdHdr) (objId tier die : Nat) (s : State) : Keeps s (execMove h objId tier die s) := by
  unfold execMove
  refine hostCmd_keeps fun s se => ?_
  (constructor <;> (dsimp only; (repeat' split) <;> simp))

/-- What ObjFree keeps. -/
theorem execObjFree_keeps (h : CmdHdr) (objId : Nat) (s : State) : Keeps s (execObjFree h objId s) := by
  unfold execObjFree
  refine hostCmd_keeps fun s se => ?_
  (constructor <;> (dsimp only; (repeat' split) <;> simp))

/-- What WindowSet keeps. -/
theorem execWindowSet_keeps (h : CmdHdr) (objId window die : Nat) (s : State) :
    Keeps s (execWindowSet h objId window die s) := by
  unfold execWindowSet
  refine hostCmd_keeps fun s se => ?_
  (constructor <;> (dsimp only; (repeat' split) <;> simp))

/-- What ObjInfo keeps. -/
theorem execObjInfo_keeps (h : CmdHdr) (objId : Nat) (s : State) : Keeps s (execObjInfo h objId s) := by
  unfold execObjInfo
  refine hostCmd_keeps fun s se => ?_
  (constructor <;> (repeat' split) <;> simp)

/-- What Score keeps. -/
theorem execScore_keeps (h : CmdHdr) (formeId deadline : Nat) (label input : Bytes) (s : State) : Keeps s (execScore h formeId deadline label input s) := by
  unfold execScore
  refine requestCmd_keeps fun s se => ?_
  dsimp only [drawNat_eq, drawBytes_eq]
  repeat' (first | exact ⟨rfl, rfl⟩ | (simp; done) | exact ask_keeps _ _ _ _ _ _ fun s n => ⟨rfl, rfl⟩ | (apply foldl_keeps; intro s x) | split)

/-- What Generate keeps. -/
theorem execGenerate_keeps (h : CmdHdr) (p : GenParams) (s : State) : Keeps s (execGenerate h p s) := by
  unfold execGenerate
  refine requestCmd_keeps fun s se => ?_
  dsimp only [drawNat_eq, drawBytes_eq]
  repeat' (first | exact ⟨rfl, rfl⟩ | (simp; done) | exact ask_keeps _ _ _ _ _ _ fun s n => ⟨rfl, rfl⟩ | (apply foldl_keeps; intro s x) | split)

/-- What FileSubmit keeps. -/
theorem execFileSubmit_keeps (h : CmdHdr) (formeId deadline total offset : Nat) (label data : Bytes) (s : State) :
    Keeps s (execFileSubmit h formeId deadline total offset label data s) := by
  unfold execFileSubmit
  refine chunkCmd_keeps fun s se => ?_
  split
  · simp
  · split
    · next e => exact endedChunk_keeps e
    · split <;> simp

/-- What Cancel keeps. -/
theorem execCancel_keeps (h : CmdHdr) (target : Nat) (s : State) : Keeps s (execCancel h target s) := by
  unfold execCancel
  refine hostCmd_keeps fun s se => ?_
  (constructor <;> (repeat' split) <;> simp)

theorem execResend_keeps (h : CmdHdr) (target fromTok : Nat) (s : State) :
    Keeps s (execResend h target fromTok s) := by
  unfold execResend
  refine hostCmd_keeps ?_
  intro s se
  dsimp only
  repeat' (first | (simp [(resendTokens_keeps ..).1, (resendTokens_keeps ..).2]; done) | split)

theorem execJobOpen_keeps (h : CmdHdr) (f : JobFields) (s : State) : Keeps s (execJobOpen h f s) := by
  unfold execJobOpen
  refine hostCmd_keeps ?_
  intro s se
  have hj (s : State) (l : List Nat) := foldl_keeps (fun s n => match (s.torus[n]?).bind TorusPort.join with
            | some m => if m.jobId = f.jobId then takeJoin s f.jobId n m else s
            | none => s) (fun s x => by split <;> [split <;> simp; simp]) l s
  dsimp only
  repeat' (first | (simp; done) | split)
  refine ⟨(finishJoin_keeps ..).1.trans ((hj _ _).1.trans ((sendHeld_keeps ..).1.trans ?_)),
    (finishJoin_keeps ..).2.trans ((hj _ _).2.trans ((sendHeld_keeps ..).2.trans ?_))⟩ <;> simp

/-- What JobStep keeps. -/
theorem execJobStep_keeps (h : CmdHdr) (jobId step formeId deadline : Nat) (label input : Bytes) (s : State) :
    Keeps s (execJobStep h jobId step formeId deadline label input s) := by
  unfold execJobStep
  refine requestCmd_keeps fun s se => ?_
  dsimp only
  repeat' (first | (simp; done) | split)
  exact ask_keeps _ _ _ _ _ _ fun s n => beginStep_keeps ..

/-- What JobRejoin keeps. -/
theorem execJobRejoin_keeps (h : CmdHdr) (jobId step : Nat) (s : State) : Keeps s (execJobRejoin h jobId step s) := by
  unfold execJobRejoin
  refine hostCmd_keeps fun s se => ?_
  (constructor <;> (dsimp only; (repeat' split) <;> simp))

/-- What JobClose keeps. -/
theorem execJobClose_keeps (h : CmdHdr) (jobId : Nat) (s : State) : Keeps s (execJobClose h jobId s) := by
  unfold execJobClose
  refine hostCmd_keeps fun s se => ?_
  (constructor <;> (repeat' split) <;> simp)

/-- What ReadReg keeps. -/
theorem execReadReg_keeps (h : CmdHdr) (addr count : Nat) (s : State) : Keeps s (execReadReg h addr count s) := by
  unfold execReadReg
  refine hostCmd_keeps fun s se => ?_
  (constructor <;> (dsimp only; (repeat' split) <;> simp))

/-- What WriteReg keeps. -/
theorem execWriteReg_keeps (h : CmdHdr) (addr : Nat) (value : Word) (s : State) :
    Keeps s (execWriteReg h addr value s) := by
  unfold execWriteReg
  refine hostCmd_keeps fun s se => ?_
  (constructor <;> (repeat' split) <;> simp)

/-- What ResetReq keeps. -/
theorem execResetReq_keeps (h : CmdHdr) (addr : Nat) (value : Word) (s : State) :
    Keeps s (execResetReq h addr value s) := by
  unfold execResetReq
  split; swap
  · exact keeps_refl _
  refine hostCmd_keeps fun s se => ?_
  (constructor <;> (repeat' split) <;> simp)

/-- What ResetReadmit keeps. -/
theorem execResetReadmit_keeps (h : CmdHdr) (addr : Nat) (value : Word) (s : State) :
    Keeps s (execResetReadmit h addr value s) := by
  unfold execResetReadmit
  split; swap
  · exact keeps_refl _
  refine hostCmd_keeps fun s se => ?_
  (constructor <;> (repeat' split) <;> simp)

/-- What HealthEventsClear keeps. -/
theorem execHealthEventsClear_keeps (h : CmdHdr) (addr : Nat) (value : Word) (s : State) :
    Keeps s (execHealthEventsClear h addr value s) := by
  unfold execHealthEventsClear
  split; swap
  · exact keeps_refl _
  refine hostCmd_keeps fun s se => ?_
  (constructor <;> (repeat' split) <;> simp)

/-- What Colophon keeps. -/
theorem execColophon_keeps (h : CmdHdr) (nonce : Bytes) (s : State) : Keeps s (execColophon h nonce s) := by
  unfold execColophon
  refine hostCmd_keeps fun s se => ?_
  (constructor <;> (repeat' split) <;> simp)

/-- What PowerCap keeps. -/
theorem execPowerCap_keeps (h : CmdHdr) (cap alertCap overdrive : Nat) (s : State) :
    Keeps s (execPowerCap h cap alertCap overdrive s) := by
  unfold execPowerCap
  refine hostCmd_keeps fun s se => ?_
  (constructor <;> (repeat' split) <;> simp)

/-- What PullRead keeps. -/
theorem execPullRead_keeps (h : CmdHdr) (mode pullId offset len : Nat) (errs : List (Nat × Nat)) (s : State) :
    Keeps s (execPullRead h mode pullId offset len errs s) := by
  unfold execPullRead
  refine hostCmd_keeps fun s se => ?_
  (constructor <;> (repeat' split) <;> simp)

/-- What AskestPacket keeps. -/
theorem execAskestPacket_keeps (ep : Nat) (frame : Bytes) (ns : Nat) (s : State) :
    Keeps s (execAskestPacket ep frame ns s) := by
  unfold execAskestPacket
  refine ⟨_, rfl, ?_⟩
  have ht := takeFrame_keeps s ep frame
  split
  · exact ⟨rfl, rfl⟩
  · split
    · next e => rw [e] at ht; exact ht
    · next e =>
      rw [e] at ht
      rw [← ht.1, ← ht.2]
      dsimp only
      repeat' (first | exact ⟨rfl, rfl⟩ | (simp; done) | split)

/-- What ReassemblyTimeout keeps. -/
theorem execReassemblyTimeout_keeps (session opcode reqId : Nat) (s : State) :
    Keeps s (execReassemblyTimeout session opcode reqId s) := by
  unfold execReassemblyTimeout
  refine ⟨_, rfl, ?_⟩
  (constructor <;> (repeat' split) <;> simp)

/-- What SessionPendingTimeout keeps. -/
theorem execSessionPendingTimeout_keeps (session : Nat) (s : State) :
    Keeps s (execSessionPendingTimeout session s) := by
  unfold execSessionPendingTimeout
  refine ⟨_, rfl, ?_⟩
  (constructor <;> (repeat' split) <;> simp)

/-- What SessionIdleTimeout keeps. -/
theorem execSessionIdleTimeout_keeps (session : Nat) (s : State) : Keeps s (execSessionIdleTimeout session s) := by
  unfold execSessionIdleTimeout
  refine ⟨_, rfl, ?_⟩
  (constructor <;> (repeat' split) <;> simp)

/-- What FileIdleTimeout keeps. -/
theorem execFileIdleTimeout_keeps (session reqId : Nat) (s : State) :
    Keeps s (execFileIdleTimeout session reqId s) := by
  unfold execFileIdleTimeout
  refine ⟨_, rfl, ?_⟩
  (constructor <;> (dsimp only; (repeat' split) <;> simp))

/-- What HeldChunkTimeout keeps. -/
theorem execHeldChunkTimeout_keeps (session reqId : Nat) (s : State) : Keeps s (execHeldChunkTimeout session reqId s) := by
  unfold execHeldChunkTimeout
  refine ⟨_, rfl, ?_⟩
  constructor <;> (repeat' split) <;> simp

/-- What PolicyTakeEffect keeps. -/
theorem execPolicyTakeEffect_keeps (id : Nat) (s : State) : Keeps s (execPolicyTakeEffect id s) := by
  unfold execPolicyTakeEffect
  refine ⟨_, rfl, ?_⟩
  (constructor <;> (repeat' split) <;> simp)

/-- What PortRetrain keeps. -/
theorem execPortRetrain_keeps (he : Nat) (trained : Bool) (s : State) : Keeps s (execPortRetrain he trained s) := by
  unfold execPortRetrain
  refine ⟨_, rfl, ?_⟩
  with_reducible exact ⟨rfl, rfl⟩

/-- What ArpRequest keeps. -/
theorem execArpRequest_keeps (ep : Nat) (frame : Bytes) (s : State) :
    Keeps s (execArpRequest ep frame s) := by
  unfold execArpRequest
  refine ⟨_, rfl, ?_⟩
  have ht := takeFrame_keeps s ep frame
  split
  · repeat' (first | exact ⟨rfl, rfl⟩ | (simp; done) | split)
  split
  · exact ⟨rfl, rfl⟩
  split
  · next e => rw [e] at ht; exact ht
  · next e =>
    rw [e] at ht
    rw [← ht.1, ← ht.2]
    dsimp only
    repeat' (first | exact ⟨rfl, rfl⟩ | (simp; done) | split)

/-- What NeighborSolicitation keeps. -/
theorem execNeighborSolicitation_keeps (ep : Nat) (frame : Bytes) (s : State) :
    Keeps s (execNeighborSolicitation ep frame s) := by
  unfold execNeighborSolicitation
  refine ⟨_, rfl, ?_⟩
  have ht := takeFrame_keeps s ep frame
  split
  · repeat' (first | exact ⟨rfl, rfl⟩ | (simp; done) | split)
  split
  · exact ⟨rfl, rfl⟩
  split
  · next e => rw [e] at ht; exact ht
  · next e =>
    rw [e] at ht
    rw [← ht.1, ← ht.2]
    dsimp only
    repeat' (first | exact ⟨rfl, rfl⟩ | (simp; done) | split)

/-- What MkaFrame keeps. -/
theorem execMkaFrame_keeps (ep peerPrio peerSci : Nat) (peerSak : Option Sak) (s : State) : Keeps s (execMkaFrame ep peerPrio peerSci peerSak s) := by
  unfold execMkaFrame
  refine ⟨_, rfl, ?_⟩
  constructor <;> (dsimp only; (repeat' split) <;> simp)

/-- What RelayFrame keeps. -/
theorem execRelayFrame_keeps (port : Nat) (f : RelayFrame) (s : State) : Keeps s (execRelayFrame port f s) := by
  unfold execRelayFrame
  refine ⟨_, rfl, ?_⟩
  (constructor <;> (repeat' split) <;> simp)

/-- What RelayReply keeps. -/
theorem execRelayReply_keeps (f : RelayFrame) (s : State) : Keeps s (execRelayReply f s) := by
  unfold execRelayReply
  refine ⟨_, rfl, ?_⟩
  constructor <;> (repeat' split) <;> simp

/-- What IntakeFrame keeps. -/
theorem execIntakeFrame_keeps (ep : Nat) (frame : Bytes) (s : State) : Keeps s (execIntakeFrame ep frame s) := by
  unfold execIntakeFrame
  refine ⟨_, rfl, ?_⟩
  constructor <;> (dsimp only; (repeat' split) <;> simp)

/-- What FlowIdleExpiry keeps. -/
theorem execFlowIdleExpiry_keeps (idx : Nat) (s : State) : Keeps s (execFlowIdleExpiry idx s) := by
  unfold execFlowIdleExpiry
  refine ⟨_, rfl, ?_⟩
  (constructor <;> (repeat' split) <;> simp)

/-- What FlowActiveExpiry keeps. -/
theorem execFlowActiveExpiry_keeps (idx : Nat) (s : State) : Keeps s (execFlowActiveExpiry idx s) := by
  unfold execFlowActiveExpiry
  refine ⟨_, rfl, ?_⟩
  (constructor <;> (repeat' split) <;> simp)

/-- What IntakeScore keeps. -/
theorem execIntakeScore_keeps (s : State) :
    Keeps s (execIntakeScore s) := by
  unfold execIntakeScore
  refine ⟨_, rfl, ?_⟩
  split
  · exact ⟨rfl, rfl⟩
  · next e =>
    have h := takeIntake_keeps e
    rw [← h.1, ← h.2.1]
    dsimp only
    repeat' (first | (simp; done) | split)

/-- What IntakeRetry keeps. -/
theorem execIntakeRetry_keeps (idx : Nat) (s : State) : Keeps s (execIntakeRetry idx s) := by
  unfold execIntakeRetry
  refine ⟨_, rfl, ?_⟩
  (constructor <;> (repeat' split) <;> simp)

/-- What IntakeResult keeps. -/
theorem execIntakeResult_keeps (idx : Nat) (s : State) : Keeps s (execIntakeResult idx s) := by
  unfold execIntakeResult
  refine ⟨_, rfl, ?_⟩
  (constructor <;> (dsimp only; (repeat' split) <;> simp))

/-- What IntakeNotify keeps. -/
theorem execIntakeNotify_keeps (s : State) : Keeps s (execIntakeNotify s) := by
  unfold execIntakeNotify
  refine ⟨_, rfl, ?_⟩
  (constructor <;> (dsimp only; (repeat' split) <;> simp))

/-- What ImageCheckBegin keeps. -/
theorem execImageCheckBegin_keeps (s : State) : Keeps s (execImageCheckBegin s) := by
  unfold execImageCheckBegin
  refine ⟨_, rfl, ?_⟩
  (constructor <;> (repeat' split) <;> simp)

/-- What ImageCheckDone keeps. -/
theorem execImageCheckDone_keeps (s : State) : Keeps s (execImageCheckDone s) := by
  unfold execImageCheckDone
  refine ⟨_, rfl, ?_⟩
  constructor <;> (dsimp only; (repeat' split) <;> simp)

/-- What FenceDrainDone keeps. -/
theorem execFenceDrainDone_keeps (chase : Nat) (s : State) : Keeps s (execFenceDrainDone chase s) := by
  unfold execFenceDrainDone
  refine ⟨_, rfl, ?_⟩
  (constructor <;> (dsimp only; (repeat' split) <;> simp))

/-- What ScrubDone keeps. -/
theorem execScrubDone_keeps (chase : Nat) (vminFail : List Nat) (s : State) : Keeps s (execScrubDone chase vminFail s) := by
  unfold execScrubDone
  refine ⟨_, rfl, ?_⟩
  constructor <;> (dsimp only; (repeat' split) <;> simp)

/-- What PageLoadDone keeps. -/
theorem execPageLoadDone_keeps (chase : Nat) (s : State) : Keeps s (execPageLoadDone chase s) := by
  unfold execPageLoadDone
  refine ⟨_, rfl, ?_⟩
  (constructor <;> (dsimp only; (repeat' split) <;> simp))

/-- What ShadowLoadDone keeps. -/
theorem execShadowLoadDone_keeps (chase : Nat) (s : State) : Keeps s (execShadowLoadDone chase s) := by
  unfold execShadowLoadDone
  refine ⟨_, rfl, ?_⟩
  (constructor <;> (dsimp only; (repeat' split) <;> simp))

/-- What LockupInject keeps. -/
theorem execLockupInject_keeps (chase : Nat) (s : State) : Keeps s (execLockupInject chase s) := by
  unfold execLockupInject
  refine ⟨_, rfl, ?_⟩
  (constructor <;> (dsimp only; (repeat' split) <;> simp))

/-- What LockupTake keeps. -/
theorem execLockupTake_keeps (tile fu input : Nat) (s : State) : Keeps s (execLockupTake tile fu input s) := by
  unfold execLockupTake
  refine ⟨_, rfl, ?_⟩
  (constructor <;> (dsimp only; (repeat' split) <;> simp))

/-- What TileSwitch keeps. -/
theorem execTileSwitch_keeps (tile : Nat) (s : State) : Keeps s (execTileSwitch tile s) := by
  unfold execTileSwitch
  refine ⟨_, rfl, ?_⟩
  (constructor <;> (dsimp only; (repeat' split) <;> simp))

/-- What PreloadDone keeps. -/
theorem execPreloadDone_keeps (tile : Nat) (s : State) : Keeps s (execPreloadDone tile s) := by
  unfold execPreloadDone
  refine ⟨_, rfl, ?_⟩
  (constructor <;> (dsimp only; (repeat' split) <;> simp))

/-- What ChangeTimeout keeps. -/
theorem execChangeTimeout_keeps (chase : Nat) (s : State) : Keeps s (execChangeTimeout chase s) := by
  unfold execChangeTimeout
  refine ⟨_, rfl, ?_⟩
  (constructor <;> (dsimp only; (repeat' split) <;> simp))

/-- What TokenEject keeps. -/
theorem execTokenEject_keeps (k flip : Nat) (s : State) : Keeps s (execTokenEject k flip s) := by
  unfold execTokenEject
  refine ⟨_, rfl, ?_⟩
  (constructor <;> (dsimp only; (repeat' split) <;> simp))

/-- What TokenTake keeps. -/
theorem execTokenTake_keeps (tile fu input : Nat) (s : State) : Keeps s (execTokenTake tile fu input s) := by
  unfold execTokenTake
  refine ⟨_, rfl, ?_⟩
  (constructor <;> (dsimp only; (repeat' split) <;> simp))

/-- What Fire keeps. -/
theorem execFire_keeps (tile fu : Nat) (errs : List RegError) (s : State) : Keeps s (execFire tile fu errs s) := by
  unfold execFire
  refine ⟨_, rfl, ?_⟩
  constructor <;> (dsimp only; (repeat' split) <;> simp)

/-- What BranchFire keeps. -/
theorem execBranchFire_keeps (tile fu : Nat) (s : State) : Keeps s (execBranchFire tile fu s) := by
  unfold execBranchFire
  refine ⟨_, rfl, ?_⟩
  (constructor <;> (repeat' split) <;> simp)

/-- What SelectFire keeps. -/
theorem execSelectFire_keeps (tile fu : Nat) (s : State) : Keeps s (execSelectFire tile fu s) := by
  unfold execSelectFire
  refine ⟨_, rfl, ?_⟩
  (constructor <;> (repeat' split) <;> simp)

/-- What SteerFire keeps. -/
theorem execSteerFire_keeps (tile fu : Nat) (s : State) : Keeps s (execSteerFire tile fu s) := by
  unfold execSteerFire
  refine ⟨_, rfl, ?_⟩
  (constructor <;> (repeat' split) <;> simp)

/-- What MergeFire keeps. -/
theorem execMergeFire_keeps (tile fu : Nat) (s : State) : Keeps s (execMergeFire tile fu s) := by
  unfold execMergeFire
  refine ⟨_, rfl, ?_⟩
  (constructor <;> (repeat' split) <;> simp)

/-- What LoopFire keeps. -/
theorem execLoopFire_keeps (tile fu : Nat) (s : State) : Keeps s (execLoopFire tile fu s) := by
  unfold execLoopFire
  refine ⟨_, rfl, ?_⟩
  (constructor <;> (repeat' split) <;> simp)

/-- What LoopEmit keeps. -/
theorem execLoopEmit_keeps (tile fu : Nat) (s : State) : Keeps s (execLoopEmit tile fu s) := by
  unfold execLoopEmit
  refine ⟨_, rfl, ?_⟩
  (constructor <;> (dsimp only; (repeat' split) <;> simp))

/-- What Emit keeps. -/
theorem execEmit_keeps (tile fu : Nat) (s : State) : Keeps s (execEmit tile fu s) := by
  unfold execEmit
  refine ⟨_, rfl, ?_⟩
  (constructor <;> (dsimp only; (repeat' split) <;> simp))

/-- What CreditReturn keeps. -/
theorem execCreditReturn_keeps (tile port : Nat) (s : State) : Keeps s (execCreditReturn tile port s) := by
  unfold execCreditReturn
  refine ⟨_, rfl, ?_⟩
  (constructor <;> (dsimp only; (repeat' split) <;> simp))

/-- What GranuleLand keeps. -/
theorem execGranuleLand_keeps (k : Nat) (s : State) : Keeps s (execGranuleLand k s) := by
  unfold execGranuleLand
  refine ⟨_, rfl, ?_⟩
  (constructor <;> (repeat' split) <;> simp)

/-- What BankGrant keeps. -/
theorem execBankGrant_keeps (tile bank : Nat) (reqs : List BankReq) (s : State) :
    Keeps s (execBankGrant tile bank reqs s) := by
  unfold execBankGrant
  refine ⟨_, rfl, ?_⟩
  (constructor <;> (dsimp only; (repeat' split) <;> simp))

theorem execLongGutterRoute_keeps (k : Nat) (s : State) : Keeps s (execLongGutterRoute k s) := by
  unfold execLongGutterRoute
  refine ⟨_, rfl, ?_⟩
  dsimp only
  repeat' (first | (simp; done) | split)
  next hs =>
    have hk := sendUnits_keeps hs
    exact hk

/-- What CreditToken keeps. -/
theorem execCreditToken_keeps (k : Nat) (s : State) : Keeps s (execCreditToken k s) := by
  unfold execCreditToken
  refine ⟨_, rfl, ?_⟩
  (constructor <;> (dsimp only; (repeat' split) <;> simp))

theorem execRemoteCreditFlush_keeps (k : Nat) (s : State) : Keeps s (execRemoteCreditFlush k s) := by
  unfold execRemoteCreditFlush
  refine ⟨_, rfl, ?_⟩
  dsimp only
  repeat' (first | (simp; done) | split)
  next hs =>
    have hk := sendUnits_keeps hs
    exact hk

/-- What MisregEvent keeps. -/
theorem execMisregEvent_keeps (tile fu : Nat) (s : State) : Keeps s (execMisregEvent tile fu s) := by
  unfold execMisregEvent
  refine ⟨_, rfl, ?_⟩
  (constructor <;> (dsimp only; (repeat' split) <;> simp))

/-- What Misreg keeps. -/
theorem execMisreg_keeps (tile fu : Nat) (s : State) : Keeps s (execMisreg tile fu s) := by
  unfold execMisreg
  refine ⟨_, rfl, ?_⟩
  (constructor <;> (repeat' split) <;> simp)

/-- What Mov keeps. -/
theorem execMov_keeps (tile fu : Nat) (s : State) : Keeps s (execMov tile fu s) := by
  unfold execMov
  refine ⟨_, rfl, runSlot_keeps _ _ _ _ _ fun s k => ?_⟩
  with_reducible exact ⟨rfl, rfl⟩

/-- What Ld keeps. -/
theorem execLd_keeps (tile fu : Nat) (s : State) : Keeps s (execLd tile fu s) := by
  unfold execLd
  refine ⟨_, rfl, runSlot_keeps _ _ _ _ _ fun s k => ?_⟩
  (constructor <;> (repeat' split) <;> simp)

/-- What St keeps. -/
theorem execSt_keeps (tile fu : Nat) (s : State) : Keeps s (execSt tile fu s) := by
  unfold execSt
  refine ⟨_, rfl, runSlot_keeps _ _ _ _ _ fun s k => ?_⟩
  (constructor <;> (repeat' split) <;> simp)

/-- What Bcr keeps. -/
theorem execBcr_keeps (tile fu : Nat) (s : State) : Keeps s (execBcr tile fu s) := by
  unfold execBcr
  refine ⟨_, rfl, runSlot_keeps _ _ _ _ _ fun s k => ?_⟩
  with_reducible exact ⟨rfl, rfl⟩

/-- What Bcc keeps. -/
theorem execBcc_keeps (tile fu : Nat) (s : State) : Keeps s (execBcc tile fu s) := by
  unfold execBcc
  refine ⟨_, rfl, runSlot_keeps _ _ _ _ _ fun s k => ?_⟩
  with_reducible exact ⟨rfl, rfl⟩

/-- What Bcs keeps. -/
theorem execBcs_keeps (tile fu : Nat) (s : State) : Keeps s (execBcs tile fu s) := by
  unfold execBcs
  refine ⟨_, rfl, runSlot_keeps _ _ _ _ _ fun s k => ?_⟩
  refine withScalar_keeps _ _ _ fun e => ?_
  with_reducible exact ⟨rfl, rfl⟩

/-- What Extr keeps. -/
theorem execExtr_keeps (tile fu : Nat) (s : State) : Keeps s (execExtr tile fu s) := by
  unfold execExtr
  refine ⟨_, rfl, runSlot_keeps _ _ _ _ _ fun s k => ?_⟩
  (constructor <;> (dsimp only; (repeat' split) <;> simp))

/-- What Ins keeps. -/
theorem execIns_keeps (tile fu : Nat) (s : State) : Keeps s (execIns tile fu s) := by
  unfold execIns
  refine ⟨_, rfl, runSlot_keeps _ _ _ _ _ fun s k => ?_⟩
  refine withScalar_keeps _ _ _ fun e => ?_
  with_reducible exact ⟨rfl, rfl⟩

/-- What Rotr keeps. -/
theorem execRotr_keeps (tile fu : Nat) (s : State) : Keeps s (execRotr tile fu s) := by
  unfold execRotr
  refine ⟨_, rfl, runSlot_keeps _ _ _ _ _ fun s k => ?_⟩
  with_reducible exact ⟨rfl, rfl⟩

/-- What Rotc keeps. -/
theorem execRotc_keeps (tile fu : Nat) (s : State) : Keeps s (execRotc tile fu s) := by
  unfold execRotc
  refine ⟨_, rfl, runSlot_keeps _ _ _ _ _ fun s k => ?_⟩
  with_reducible exact ⟨rfl, rfl⟩

/-- What Trans keeps. -/
theorem execTrans_keeps (tile fu : Nat) (s : State) : Keeps s (execTrans tile fu s) := by
  unfold execTrans
  refine ⟨_, rfl, runSlot_keeps _ _ _ _ _ fun s k => ?_⟩
  with_reducible exact ⟨rfl, rfl⟩

/-- What Bfly keeps. -/
theorem execBfly_keeps (tile fu : Nat) (s : State) : Keeps s (execBfly tile fu s) := by
  unfold execBfly
  refine ⟨_, rfl, runSlot_keeps _ _ _ _ _ fun s k => ?_⟩
  with_reducible exact ⟨rfl, rfl⟩

/-- What Add keeps. -/
theorem execAdd_keeps (tile fu : Nat) (s : State) : Keeps s (execAdd tile fu s) := by
  unfold execAdd
  refine ⟨_, rfl, runSlot_keeps _ _ _ _ _ fun s k => ?_⟩
  with_reducible exact ⟨rfl, rfl⟩

/-- What Sub keeps. -/
theorem execSub_keeps (tile fu : Nat) (s : State) : Keeps s (execSub tile fu s) := by
  unfold execSub
  refine ⟨_, rfl, runSlot_keeps _ _ _ _ _ fun s k => ?_⟩
  with_reducible exact ⟨rfl, rfl⟩

/-- What Mul keeps. -/
theorem execMul_keeps (tile fu : Nat) (s : State) : Keeps s (execMul tile fu s) := by
  unfold execMul
  refine ⟨_, rfl, runSlot_keeps _ _ _ _ _ fun s k => ?_⟩
  with_reducible exact ⟨rfl, rfl⟩

/-- What Fma keeps. -/
theorem execFma_keeps (tile fu : Nat) (s : State) : Keeps s (execFma tile fu s) := by
  unfold execFma
  refine ⟨_, rfl, runSlot_keeps _ _ _ _ _ fun s k => ?_⟩
  with_reducible exact ⟨rfl, rfl⟩

/-- What Div keeps. -/
theorem execDiv_keeps (tile fu : Nat) (s : State) : Keeps s (execDiv tile fu s) := by
  unfold execDiv
  refine ⟨_, rfl, runSlot_keeps _ _ _ _ _ fun s k => ?_⟩
  with_reducible exact ⟨rfl, rfl⟩

/-- What Sqrt keeps. -/
theorem execSqrt_keeps (tile fu : Nat) (s : State) : Keeps s (execSqrt tile fu s) := by
  unfold execSqrt
  refine ⟨_, rfl, runSlot_keeps _ _ _ _ _ fun s k => ?_⟩
  with_reducible exact ⟨rfl, rfl⟩

/-- What Min keeps. -/
theorem execMin_keeps (tile fu : Nat) (s : State) : Keeps s (execMin tile fu s) := by
  unfold execMin
  refine ⟨_, rfl, runSlot_keeps _ _ _ _ _ fun s k => ?_⟩
  with_reducible exact ⟨rfl, rfl⟩

/-- What Max keeps. -/
theorem execMax_keeps (tile fu : Nat) (s : State) : Keeps s (execMax tile fu s) := by
  unfold execMax
  refine ⟨_, rfl, runSlot_keeps _ _ _ _ _ fun s k => ?_⟩
  with_reducible exact ⟨rfl, rfl⟩

/-- What Abs keeps. -/
theorem execAbs_keeps (tile fu : Nat) (s : State) : Keeps s (execAbs tile fu s) := by
  unfold execAbs
  refine ⟨_, rfl, runSlot_keeps _ _ _ _ _ fun s k => ?_⟩
  with_reducible exact ⟨rfl, rfl⟩

/-- What Neg keeps. -/
theorem execNeg_keeps (tile fu : Nat) (s : State) : Keeps s (execNeg tile fu s) := by
  unfold execNeg
  refine ⟨_, rfl, runSlot_keeps _ _ _ _ _ fun s k => ?_⟩
  with_reducible exact ⟨rfl, rfl⟩

/-- What And keeps. -/
theorem execAnd_keeps (tile fu : Nat) (s : State) : Keeps s (execAnd tile fu s) := by
  unfold execAnd
  refine ⟨_, rfl, runSlot_keeps _ _ _ _ _ fun s k => ?_⟩
  with_reducible exact ⟨rfl, rfl⟩

/-- What Or keeps. -/
theorem execOr_keeps (tile fu : Nat) (s : State) : Keeps s (execOr tile fu s) := by
  unfold execOr
  refine ⟨_, rfl, runSlot_keeps _ _ _ _ _ fun s k => ?_⟩
  with_reducible exact ⟨rfl, rfl⟩

/-- What Xor keeps. -/
theorem execXor_keeps (tile fu : Nat) (s : State) : Keeps s (execXor tile fu s) := by
  unfold execXor
  refine ⟨_, rfl, runSlot_keeps _ _ _ _ _ fun s k => ?_⟩
  with_reducible exact ⟨rfl, rfl⟩

/-- What Not keeps. -/
theorem execNot_keeps (tile fu : Nat) (s : State) : Keeps s (execNot tile fu s) := by
  unfold execNot
  refine ⟨_, rfl, runSlot_keeps _ _ _ _ _ fun s k => ?_⟩
  with_reducible exact ⟨rfl, rfl⟩

/-- What Shl keeps. -/
theorem execShl_keeps (tile fu : Nat) (s : State) : Keeps s (execShl tile fu s) := by
  unfold execShl
  refine ⟨_, rfl, runSlot_keeps _ _ _ _ _ fun s k => ?_⟩
  (constructor <;> (repeat' split) <;> simp)

/-- What Shr keeps. -/
theorem execShr_keeps (tile fu : Nat) (s : State) : Keeps s (execShr tile fu s) := by
  unfold execShr
  refine ⟨_, rfl, runSlot_keeps _ _ _ _ _ fun s k => ?_⟩
  (constructor <;> (repeat' split) <;> simp)

/-- What Exp keeps. -/
theorem execExp_keeps (tile fu : Nat) (s : State) : Keeps s (execExp tile fu s) := by
  unfold execExp
  refine ⟨_, rfl, runSlot_keeps _ _ _ _ _ fun s k => ?_⟩
  with_reducible exact ⟨rfl, rfl⟩

/-- What Log keeps. -/
theorem execLog_keeps (tile fu : Nat) (s : State) : Keeps s (execLog tile fu s) := by
  unfold execLog
  refine ⟨_, rfl, runSlot_keeps _ _ _ _ _ fun s k => ?_⟩
  with_reducible exact ⟨rfl, rfl⟩

/-- What Rsqrt keeps. -/
theorem execRsqrt_keeps (tile fu : Nat) (s : State) : Keeps s (execRsqrt tile fu s) := by
  unfold execRsqrt
  refine ⟨_, rfl, runSlot_keeps _ _ _ _ _ fun s k => ?_⟩
  with_reducible exact ⟨rfl, rfl⟩

/-- What Tanh keeps. -/
theorem execTanh_keeps (tile fu : Nat) (s : State) : Keeps s (execTanh tile fu s) := by
  unfold execTanh
  refine ⟨_, rfl, runSlot_keeps _ _ _ _ _ fun s k => ?_⟩
  with_reducible exact ⟨rfl, rfl⟩

/-- What Erf keeps. -/
theorem execErf_keeps (tile fu : Nat) (s : State) : Keeps s (execErf tile fu s) := by
  unfold execErf
  refine ⟨_, rfl, runSlot_keeps _ _ _ _ _ fun s k => ?_⟩
  with_reducible exact ⟨rfl, rfl⟩

/-- What Cmp keeps. -/
theorem execCmp_keeps (tile fu : Nat) (s : State) : Keeps s (execCmp tile fu s) := by
  unfold execCmp
  refine ⟨_, rfl, runSlot_keeps _ _ _ _ _ fun s k => ?_⟩
  with_reducible exact ⟨rfl, rfl⟩

/-- What Sel keeps. -/
theorem execSel_keeps (tile fu : Nat) (s : State) : Keeps s (execSel tile fu s) := by
  unfold execSel
  refine ⟨_, rfl, runSlot_keeps _ _ _ _ _ fun s k => ?_⟩
  with_reducible exact ⟨rfl, rfl⟩

/-- What Cvt keeps. -/
theorem execCvt_keeps (tile fu : Nat) (s : State) : Keeps s (execCvt tile fu s) := by
  unfold execCvt
  refine ⟨_, rfl, runSlot_keeps _ _ _ _ _ fun s k => ?_⟩
  with_reducible exact ⟨rfl, rfl⟩

/-- What Mpop keeps. -/
theorem execMpop_keeps (tile fu : Nat) (s : State) : Keeps s (execMpop tile fu s) := by
  unfold execMpop
  refine ⟨_, rfl, runSlot_keeps _ _ _ _ _ fun s k => ?_⟩
  with_reducible exact ⟨rfl, rfl⟩

/-- What Mand keeps. -/
theorem execMand_keeps (tile fu : Nat) (s : State) : Keeps s (execMand tile fu s) := by
  unfold execMand
  refine ⟨_, rfl, runSlot_keeps _ _ _ _ _ fun s k => ?_⟩
  with_reducible exact ⟨rfl, rfl⟩

/-- What Mor keeps. -/
theorem execMor_keeps (tile fu : Nat) (s : State) : Keeps s (execMor tile fu s) := by
  unfold execMor
  refine ⟨_, rfl, runSlot_keeps _ _ _ _ _ fun s k => ?_⟩
  with_reducible exact ⟨rfl, rfl⟩

/-- What Mxor keeps. -/
theorem execMxor_keeps (tile fu : Nat) (s : State) : Keeps s (execMxor tile fu s) := by
  unfold execMxor
  refine ⟨_, rfl, runSlot_keeps _ _ _ _ _ fun s k => ?_⟩
  with_reducible exact ⟨rfl, rfl⟩

/-- What Mnot keeps. -/
theorem execMnot_keeps (tile fu : Nat) (s : State) : Keeps s (execMnot tile fu s) := by
  unfold execMnot
  refine ⟨_, rfl, runSlot_keeps _ _ _ _ _ fun s k => ?_⟩
  with_reducible exact ⟨rfl, rfl⟩

/-- What Rsum keeps. -/
theorem execRsum_keeps (tile fu : Nat) (s : State) : Keeps s (execRsum tile fu s) := by
  unfold execRsum
  refine ⟨_, rfl, runSlot_keeps _ _ _ _ _ fun s k => ?_⟩
  (constructor <;> (repeat' split) <;> simp)

/-- What Rmax keeps. -/
theorem execRmax_keeps (tile fu : Nat) (s : State) : Keeps s (execRmax tile fu s) := by
  unfold execRmax
  refine ⟨_, rfl, runSlot_keeps _ _ _ _ _ fun s k => ?_⟩
  (constructor <;> (repeat' split) <;> simp)

/-- What Rmin keeps. -/
theorem execRmin_keeps (tile fu : Nat) (s : State) : Keeps s (execRmin tile fu s) := by
  unfold execRmin
  refine ⟨_, rfl, runSlot_keeps _ _ _ _ _ fun s k => ?_⟩
  (constructor <;> (repeat' split) <;> simp)

/-- What Gadd keeps. -/
theorem execGadd_keeps (tile fu : Nat) (s : State) : Keeps s (execGadd tile fu s) := by
  unfold execGadd
  refine ⟨_, rfl, runSlot_keeps _ _ _ _ _ fun s k => ?_⟩
  refine withScalar_keeps _ _ _ fun e => ?_
  with_reducible exact ⟨rfl, rfl⟩

/-- What Vmul keeps. -/
theorem execVmul_keeps (tile fu : Nat) (s : State) : Keeps s (execVmul tile fu s) := by
  unfold execVmul
  refine ⟨_, rfl, runSlot_keeps _ _ _ _ _ fun s k => ?_⟩
  with_reducible exact ⟨rfl, rfl⟩

/-- What Vdiv keeps. -/
theorem execVdiv_keeps (tile fu : Nat) (s : State) : Keeps s (execVdiv tile fu s) := by
  unfold execVdiv
  refine ⟨_, rfl, runSlot_keeps _ _ _ _ _ fun s k => ?_⟩
  with_reducible exact ⟨rfl, rfl⟩

/-- What Frd keeps. -/
theorem execFrd_keeps (tile fu : Nat) (s : State) : Keeps s (execFrd tile fu s) := by
  unfold execFrd
  refine ⟨_, rfl, runSlot_keeps _ _ _ _ _ fun s k => ?_⟩
  with_reducible exact ⟨rfl, rfl⟩

/-- What Fprd keeps. -/
theorem execFprd_keeps (tile fu : Nat) (s : State) : Keeps s (execFprd tile fu s) := by
  unfold execFprd
  refine ⟨_, rfl, runSlot_keeps _ _ _ _ _ fun s k => ?_⟩
  with_reducible exact ⟨rfl, rfl⟩

/-- What Fsum keeps. -/
theorem execFsum_keeps (tile fu : Nat) (s : State) : Keeps s (execFsum tile fu s) := by
  unfold execFsum
  refine ⟨_, rfl, runSlot_keeps _ _ _ _ _ fun s k => ?_⟩
  with_reducible exact ⟨rfl, rfl⟩

/-- What Fclr keeps. -/
theorem execFclr_keeps (tile fu : Nat) (s : State) : Keeps s (execFclr tile fu s) := by
  unfold execFclr
  refine ⟨_, rfl, runSlot_keeps _ _ _ _ _ fun s k => ?_⟩
  with_reducible exact ⟨rfl, rfl⟩

/-- What Pmac keeps. -/
theorem execPmac_keeps (tile fu : Nat) (s : State) :
    Keeps s (execPmac tile fu s) := by
  unfold execPmac
  refine ⟨_, rfl, ?_⟩
  split
  · exact ⟨rfl, rfl⟩
  · refine runSlot_keeps _ _ _ _ _ fun s k => ?_
    simp

/-- What FillStart keeps. -/
theorem execFillStart_keeps (feeder tile tid : Nat) (errs : List (Nat × Nat)) (s : State) :
    Keeps s (execFillStart feeder tile tid errs s) := by
  unfold execFillStart
  refine ⟨_, rfl, ?_⟩
  dsimp only
  repeat' (first | (simp; done) | split)
  all_goals
    have hk := fetch_keeps ‹InGalley.fetch _ _ _ = Except.ok _›
    simp [hk.1, hk.2]

/-- What FillComplete keeps. -/
theorem execFillComplete_keeps (k : Nat) (s : State) :
    Keeps s (execFillComplete k s) := by
  unfold execFillComplete
  refine ⟨_, rfl, ?_⟩
  dsimp only
  split
  · exact ⟨rfl, rfl⟩
  · split
    · exact ⟨rfl, rfl⟩
    · next f _ _ g _ =>
      split
      · simp
      · next p t gs hr =>
        have ht : t.pending = s.pending ∧ t.fuses.fixed = s.fuses.fixed := by
          split at hr
          · cases hr; exact ⟨rfl, rfl⟩
          · exact fetch_keeps hr
        rw [← ht.1, ← ht.2]
        clear hr ht
        have he (s : State) (go : State → State) (hg : ∀ s, (go s).pending = s.pending ∧ (go s).fuses.fixed = s.fuses.fixed) :=
          entryCreditOr_keeps s g go hg
        split
        · refine he { t with fills := _ } _ fun s => ?_
          have hc := injectChunk_keeps s g f.slot f.chunk gs
          rw [← hc.1, ← hc.2]
          generalize injectChunk s g f.slot f.chunk gs = u
          split
          · exact ⟨rfl, rfl⟩
          · split
            · exact ⟨(galleyDone_keeps ..).1.trans rfl, (galleyDone_keeps ..).2.trans rfl⟩
            · exact he u _ fun s => ⟨(injectEnd_keeps ..).1.trans rfl, (injectEnd_keeps ..).2.trans rfl⟩
        · split
          · exact he { t with fills := _ } _ fun s => ⟨(injectEnd_keeps ..).1.trans rfl, (injectEnd_keeps ..).2.trans rfl⟩
          · exact ⟨rfl, rfl⟩

/-- What SlotRelease keeps. -/
theorem execSlotRelease_keeps (tile tid slot : Nat) (s : State) : Keeps s (execSlotRelease tile tid slot s) := by
  unfold execSlotRelease
  refine ⟨_, rfl, ?_⟩
  (constructor <;> (dsimp only; (repeat' split) <;> simp))

theorem execSlipIn_keeps (tile tid : Nat) (errs : List (Nat × Nat)) (s : State) : Keeps s (execSlipIn tile tid errs s) := by
  unfold execSlipIn
  refine ⟨_, rfl, ?_⟩
  dsimp only
  split
  · exact ⟨rfl, rfl⟩
  · split
    · exact ⟨rfl, rfl⟩
    · split
      · exact ⟨rfl, rfl⟩
      · split
        · exact entryCreditOr_keeps _ _ _ fun s => injectEnd_keeps ..
        · split
          · exact ⟨rfl, rfl⟩
          · refine entryCreditOr_keeps _ _ _ fun s => ?_
            refine ⟨(entryCreditOr_keeps _ _ _ fun s => ?_).1.trans (injectChunk_keeps ..).1,
              (entryCreditOr_keeps _ _ _ fun s => ?_).2.trans (injectChunk_keeps ..).2⟩ <;> exact injectEnd_keeps ..

/-- What SlipOut keeps. -/
theorem execSlipOut_keeps (tile tid : Nat) (errs : List (Nat × Nat)) (s : State) : Keeps s (execSlipOut tile tid errs s) := by
  unfold execSlipOut
  refine ⟨_, rfl, ?_⟩
  (constructor <;> (repeat' split) <;> simp)

/-- What DrainTake keeps. -/
theorem execDrainTake_keeps (tile tid : Nat) (s : State) : Keeps s (execDrainTake tile tid s) := by
  unfold execDrainTake
  refine ⟨_, rfl, ?_⟩
  (constructor <;> (dsimp only; (repeat' split) <;> simp))

/-- What DrainWrite keeps. -/
theorem execDrainWrite_keeps (tile tid : Nat) (errs : List (Nat × Nat)) (s : State) : Keeps s (execDrainWrite tile tid errs s) := by
  unfold execDrainWrite
  refine ⟨_, rfl, ?_⟩
  constructor <;> (dsimp only; (repeat' split) <;> simp)

theorem execPassBegin_keeps (chase forme : Nat) (s : State) : Keeps s (execPassBegin chase forme s) := by
  unfold execPassBegin
  refine ⟨_, rfl, ?_⟩
  dsimp only
  repeat' (first | (simp; done) | split)
  next hs => exact monitor_keeps hs

/-- What WalkComplete keeps. -/
theorem execWalkComplete_keeps (req : Nat) (s : State) : Keeps s (execWalkComplete req s) := by
  unfold execWalkComplete
  refine ⟨_, rfl, ?_⟩
  (constructor <;> (repeat' split) <;> simp)

/-- What CompositorRow keeps. -/
theorem execCompositorRow_keeps (die : Nat) (s : State) : Keeps s (execCompositorRow die s) := by
  unfold execCompositorRow
  refine ⟨_, rfl, ?_⟩
  (constructor <;> (dsimp only; (repeat' split) <;> simp))

/-- What Commit keeps. -/
theorem execCommit_keeps (req : Nat) (s : State) : Keeps s (execCommit req s) := by
  unfold execCommit
  refine ⟨_, rfl, ?_⟩
  (constructor <;> (dsimp only; (repeat' split) <;> simp))

/-- What StepHold keeps. -/
theorem execStepHold_keeps (req : Nat) (s : State) : Keeps s (execStepHold req s) := by
  unfold execStepHold
  refine ⟨_, rfl, ?_⟩
  (constructor <;> (repeat' split) <;> simp)

/-- What GranuleRead keeps. -/
theorem execGranuleRead_keeps (isH : Bool) (pa : Nat) (reader : Option Nat) (outs : List GranuleOutcome) (s : State) :
    Keeps s (execGranuleRead isH pa reader outs s) := by
  unfold execGranuleRead
  refine ⟨_, rfl, ?_⟩
  have hr := readGranule_keeps s isH pa outs
  repeat' (first | exact ⟨rfl, rfl⟩ | (simp; done) | split)
  all_goals next e => rw [e] at hr; simpa using hr

/-- What GranuleWrite keeps. -/
theorem execGranuleWrite_keeps (isH : Bool) (pa chase : Nat) (data : Bytes) (strobe : List Bool) (spoiled : Bool) (outs : List GranuleOutcome)
    (s : State) :
    Keeps s (execGranuleWrite isH pa chase data strobe spoiled outs s) := by
  unfold execGranuleWrite
  refine ⟨_, rfl, ?_⟩
  have hr := accessTries_keeps 4 s isH pa outs
  dsimp only
  split
  · exact ⟨rfl, rfl⟩
  · split
    · simp
    · split
      · simp
      · split
        · next e => rw [e] at hr; exact hr
        · next e => rw [e] at hr; dsimp only at hr; split <;> simp [hr.1, hr.2]

/-- What RetrainDone keeps. -/
theorem execRetrainDone_keeps (isH : Bool) (chan : Nat) (ok : Bool) (s : State) :
    Keeps s (execRetrainDone isH chan ok s) := by
  unfold execRetrainDone
  refine ⟨_, rfl, ?_⟩
  (constructor <;> (dsimp only; (repeat' split) <;> simp))

/-- What SoftPpr keeps. -/
theorem execSoftPpr_keeps (isH : Bool) (row : Nat) (spare : Bool) (s : State) : Keeps s (execSoftPpr isH row spare s) := by
  unfold execSoftPpr
  refine ⟨_, rfl, ?_⟩
  constructor <;> (repeat' split) <;> simp

/-- What PatrolRead keeps. -/
theorem execPatrolRead_keeps (isH : Bool) (outs : List GranuleOutcome) (s : State) :
    Keeps s (execPatrolRead isH outs s) := by
  unfold execPatrolRead
  refine ⟨_, rfl, ?_⟩
  have hr := readGranule_keeps s isH (patrolFrom 6 s isH (tier s isH).patrol) outs
  dsimp only
  split
  · exact ⟨rfl, rfl⟩
  · split
    · next e => rw [e] at hr; exact hr
    · next e => rw [e] at hr; simpa using hr

/-- What GranuleJoin keeps. -/
theorem execGranuleJoin_keeps (chase : Nat) (isH : Bool) (g : Nat) (s : State) :
    Keeps s (execGranuleJoin chase isH g s) := by
  unfold execGranuleJoin
  refine ⟨_, rfl, ?_⟩
  (constructor <;> (dsimp only; (repeat' split) <;> simp))

/-- What MoveComplete keeps. -/
theorem execMoveComplete_keeps (chase objId : Nat) (s : State) :
    Keeps s (execMoveComplete chase objId s) := by
  unfold execMoveComplete
  refine ⟨_, rfl, ?_⟩
  dsimp only
  split
  · exact ⟨rfl, rfl⟩
  · split
    · exact ⟨rfl, rfl⟩
    · next o _ _ m _ =>
      split
      · simp
      · have hc := copyBlocks_keeps s o.isH (m.tier == 1) (o.blocks.zip m.blocks)
        rw [← hc.1, ← hc.2]
        generalize copyBlocks s o.isH (m.tier == 1) (o.blocks.zip m.blocks) = t
        refine ⟨(wakeObj_keeps ..).1.trans ((replyCmd_keeps ..).1.trans ?_),
          (wakeObj_keeps ..).2.trans ((replyCmd_keeps ..).2.trans ?_)⟩
        · exact (fitMeta_getD_keeps (s := t) _ _ _ _ _ (modObj_keeps ..) (modObj_keeps ..)).1
        · exact (fitMeta_getD_keeps (s := t) _ _ _ _ _ (modObj_keeps ..) (modObj_keeps ..)).2

/-- What WindowFill keeps. -/
theorem execWindowFill_keeps (chase objId block : Nat) (s : State) :
    Keeps s (execWindowFill chase objId block s) := by
  unfold execWindowFill
  refine ⟨_, rfl, ?_⟩
  (constructor <;> (repeat' split) <;> simp)

/-- What FaultDetect keeps. -/
theorem execFaultDetect_keeps (f : FaultInfo) (s : State) : Keeps s (execFaultDetect f s) := by
  unfold execFaultDetect
  refine ⟨_, rfl, ?_⟩
  (constructor <;> (repeat' split) <;> simp)

/-- What CaptureDone keeps. -/
theorem execCaptureDone_keeps (domain : Nat) (s : State) : Keeps s (execCaptureDone domain s) := by
  unfold execCaptureDone
  refine ⟨_, rfl, ?_⟩
  (constructor <;> (dsimp only; (repeat' split) <;> first | (simp; done) | (simp [apply_ite State.pending, apply_ite State.fuses]; done)))

/-- What PullDrainDone keeps. -/
theorem execPullDrainDone_keeps (domain : Nat) (s : State) : Keeps s (execPullDrainDone domain s) := by
  unfold execPullDrainDone
  refine ⟨_, rfl, ?_⟩
  (constructor <;> (dsimp only; (repeat' split) <;> simp))

/-- What ResetLineAssert keeps. -/
theorem execResetLineAssert_keeps (domain : Nat) (s : State) : Keeps s (execResetLineAssert domain s) := by
  unfold execResetLineAssert
  refine ⟨_, rfl, ?_⟩
  (constructor <;> (dsimp only; (repeat' split) <;> simp))

/-- What DomainResetComplete keeps. -/
theorem execDomainResetComplete_keeps (domain : Nat) (s : State) : Keeps s (execDomainResetComplete domain s) := by
  unfold execDomainResetComplete
  refine ⟨_, rfl, ?_⟩
  (constructor <;> (repeat' split) <;> simp)

/-- What FiringWd keeps. -/
theorem execFiringWd_keeps (tile fu : Nat) (s : State) : Keeps s (execFiringWd tile fu s) := by
  unfold execFiringWd
  refine ⟨_, rfl, ?_⟩
  (constructor <;> (repeat' split) <;> simp)

/-- What Progress keeps. -/
theorem execProgress_keeps (req : Nat) (s : State) : Keeps s (execProgress req s) := by
  unfold execProgress
  refine ⟨_, rfl, ?_⟩
  (constructor <;> (dsimp only; (repeat' split) <;> simp))

/-- What CommandWd keeps. -/
theorem execCommandWd_keeps (kind n : Nat) (s : State) : Keeps s (execCommandWd kind n s) := by
  unfold execCommandWd
  refine ⟨_, rfl, ?_⟩
  (constructor <;> (dsimp only; (repeat' split) <;> simp))

/-- What PackageReset keeps. -/
theorem execPackageReset_keeps (code domain : Nat) (s : State) : Keeps s (execPackageReset code domain s) := by
  unfold execPackageReset
  refine ⟨_, rfl, ?_⟩
  (constructor <;> (repeat' split) <;> simp)

/-- What WearSample keeps. -/
theorem execWearSample_keeps (phys delay : Nat) (s : State) : Keeps s (execWearSample phys delay s) := by
  unfold execWearSample
  refine ⟨_, rfl, ?_⟩
  (constructor <;> (dsimp only; (repeat' split) <;> simp))

/-- What PhaseRetire keeps. -/
theorem execPhaseRetire_keeps (rail phase charge : Nat) (uneven : Bool) (s : State) : Keeps s (execPhaseRetire rail phase charge uneven s) := by
  unfold execPhaseRetire
  refine ⟨_, rfl, ?_⟩
  constructor <;> (dsimp only; (repeat' split) <;> simp)

/-- What DiscoveryMsg keeps. -/
theorem execDiscoveryMsg_keeps (port : Nat) (m : DiscoveryMsg) (s : State) : Keeps s (execDiscoveryMsg port m s) := by
  unfold execDiscoveryMsg
  refine ⟨_, rfl, ?_⟩
  (constructor <;> (repeat' split) <;> simp)

/-- What LinkFrame keeps. -/
theorem execLinkFrame_keeps (port : Nat) (frame : Option Bytes) (side : List (Bool × Bool)) (s : State) : Keeps s (execLinkFrame port frame side s) := by
  unfold execLinkFrame
  refine ⟨_, rfl, ?_⟩
  constructor <;> (dsimp only; (repeat' split) <;> simp)

/-- What FrameNak keeps. -/
theorem execFrameNak_keeps (port seq : Nat) (s : State) : Keeps s (execFrameNak port seq s) := by
  unfold execFrameNak
  refine ⟨_, rfl, ?_⟩
  (constructor <;> (dsimp only; (repeat' split) <;> simp))

/-- What LaneSpareRetrain keeps. -/
theorem execLaneSpareRetrain_keeps (port lane : Nat) (ok : Bool) (s : State) :
    Keeps s (execLaneSpareRetrain port lane ok s) := by
  unfold execLaneSpareRetrain
  refine ⟨_, rfl, ?_⟩
  (constructor <;> (dsimp only; (repeat' split) <;> simp))

/-- What LinkRekey keeps. -/
theorem execLinkRekey_keeps (port : Nat) (s : State) : Keeps s (execLinkRekey port s) := by
  unfold execLinkRekey
  refine ⟨_, rfl, ?_⟩
  (constructor <;> (repeat' split) <;> simp)

/-- What RekeyMsg keeps. -/
theorem execRekeyMsg_keeps (port : Nat) (nonce eph sig : Bytes) (s : State) : Keeps s (execRekeyMsg port nonce eph sig s) := by
  unfold execRekeyMsg
  refine ⟨_, rfl, ?_⟩
  constructor <;> (repeat' split) <;> simp

/-- What SyncMsg keeps. -/
theorem execSyncMsg_keeps (port leader hops t1 t2 t3 : Nat) (s : State) :
    Keeps s (execSyncMsg port leader hops t1 t2 t3 s) := by
  unfold execSyncMsg
  refine ⟨_, rfl, ?_⟩
  (constructor <;> (dsimp only; (repeat' split) <;> simp))

/-- What LossOfSignal keeps. -/
theorem execLossOfSignal_keeps (port : Nat) (s : State) : Keeps s (execLossOfSignal port s) := by
  unfold execLossOfSignal
  refine ⟨_, rfl, ?_⟩
  (constructor <;> (repeat' split) <;> simp)

/-- What JoinMsg keeps. -/
theorem execJoinMsg_keeps (port : Nat) (m : JoinMsg) (s : State) : Keeps s (execJoinMsg port m s) := by
  unfold execJoinMsg
  refine ⟨_, rfl, ?_⟩
  (constructor <;> (dsimp only; (repeat' split) <;> simp))

/-- What JoinTimeout keeps. -/
theorem execJoinTimeout_keeps (jobId : Nat) (s : State) : Keeps s (execJoinTimeout jobId s) := by
  unfold execJoinTimeout
  refine ⟨_, rfl, ?_⟩
  (constructor <;> (repeat' split) <;> simp)

/-- What FenceMsg keeps. -/
theorem execFenceMsg_keeps (port jobId step coord cause : Nat) (s : State) :
    Keeps s (execFenceMsg port jobId step coord cause s) := by
  unfold execFenceMsg
  refine ⟨_, rfl, ?_⟩
  (constructor <;> (dsimp only; (repeat' split) <;> simp))

/-- What RejoinMsg keeps. -/
theorem execRejoinMsg_keeps (port jobId step epoch : Nat) (s : State) :
    Keeps s (execRejoinMsg port jobId step epoch s) := by
  unfold execRejoinMsg
  refine ⟨_, rfl, ?_⟩
  (constructor <;> (dsimp only; (repeat' split) <;> simp))

/-- What RejoinAck keeps. -/
theorem execRejoinAck_keeps (port jobId device detail : Nat) (s : State) :
    Keeps s (execRejoinAck port jobId device detail s) := by
  unfold execRejoinAck
  refine ⟨_, rfl, ?_⟩
  (constructor <;> (repeat' split) <;> simp)

/-- What VinRise keeps. -/
theorem execVinRise_keeps (s : State) : Keeps s (execVinRise s) := by
  unfold execVinRise
  refine ⟨_, rfl, ?_⟩
  (constructor <;> (repeat' split) <;> simp)

/-- What VinUnder keeps. -/
theorem execVinUnder_keeps (s : State) : Keeps s (execVinUnder s) := by
  unfold execVinUnder
  refine ⟨_, rfl, ?_⟩
  (constructor <;> (repeat' split) <;> simp)

/-- What VinOver keeps. -/
theorem execVinOver_keeps (s : State) : Keeps s (execVinOver s) := by
  unfold execVinOver
  refine ⟨_, rfl, ?_⟩
  (constructor <;> (repeat' split) <;> simp)

/-- What EpoN keeps. -/
theorem execEpoN_keeps (s : State) : Keeps s (execEpoN s) := by
  unfold execEpoN
  refine ⟨_, rfl, ?_⟩
  (constructor <;> (repeat' split) <;> simp)

/-- What ThermTripN keeps. -/
theorem execThermTripN_keeps (s : State) : Keeps s (execThermTripN s) := by
  unfold execThermTripN
  refine ⟨_, rfl, ?_⟩
  (constructor <;> (repeat' split) <;> simp)

/-- What ThermTripRelease keeps. -/
theorem execThermTripRelease_keeps (hottest : Nat) (s : State) : Keeps s (execThermTripRelease hottest s) := by
  unfold execThermTripRelease
  refine ⟨_, rfl, ?_⟩
  (constructor <;> (repeat' split) <;> simp)

/-- What ResetN keeps. -/
theorem execResetN_keeps (s : State) : Keeps s (execResetN s) := by
  unfold execResetN
  refine ⟨_, rfl, ?_⟩
  (constructor <;> (repeat' split) <;> simp)

/-- What PwrAlertN keeps. -/
theorem execPwrAlertN_keeps (s : State) : Keeps s (execPwrAlertN s) := by
  unfold execPwrAlertN
  refine ⟨_, rfl, ?_⟩
  (constructor <;> (repeat' split) <;> simp)

/-- What AlertRelease keeps. -/
theorem execAlertRelease_keeps (s : State) : Keeps s (execAlertRelease s) := by
  unfold execAlertRelease
  refine ⟨_, rfl, ?_⟩
  (constructor <;> (repeat' split) <;> simp)

/-- What RefclkLoss keeps. -/
theorem execRefclkLoss_keeps (clk : Nat) (s : State) : Keeps s (execRefclkLoss clk s) := by
  unfold execRefclkLoss
  refine ⟨_, rfl, ?_⟩
  with_reducible exact ⟨rfl, rfl⟩

/-- What RefclkReturn keeps. -/
theorem execRefclkReturn_keeps (clk : Nat) (s : State) : Keeps s (execRefclkReturn clk s) := by
  unfold execRefclkReturn
  refine ⟨_, rfl, ?_⟩
  with_reducible exact ⟨rfl, rfl⟩

/-- What TempSample keeps. -/
theorem execTempSample_keeps (sensors : List Nat) (s : State) : Keeps s (execTempSample sensors s) := by
  unfold execTempSample
  refine ⟨_, rfl, ?_⟩
  (constructor <;> (repeat' split) <;> simp)

/-- What ThermalFloorEnd keeps. -/
theorem execThermalFloorEnd_keeps (s : State) : Keeps s (execThermalFloorEnd s) := by
  unfold execThermalFloorEnd
  refine ⟨_, rfl, ?_⟩
  (constructor <;> (repeat' split) <;> simp)

/-- What CurBinUpdate keeps. -/
theorem execCurBinUpdate_keeps (railsMv : List Nat) (s : State) : Keeps s (execCurBinUpdate railsMv s) := by
  unfold execCurBinUpdate
  refine ⟨_, rfl, ?_⟩
  constructor <;> (repeat' split) <;> simp

/-- What TiFall keeps. -/
theorem execTiFall_keeps (s : State) : Keeps s (execTiFall s) := by
  unfold execTiFall
  refine ⟨_, rfl, ?_⟩
  constructor <;> (dsimp only; (repeat' split) <;> simp)

/-- What RailsSettled keeps. -/
theorem execRailsSettled_keeps (railsMv : List Nat) (s : State) : Keeps s (execRailsSettled railsMv s) := by
  unfold execRailsSettled
  refine ⟨_, rfl, ?_⟩
  constructor <;> (dsimp only; (repeat' split) <;> simp)

/-- What Limiter keeps. -/
theorem execLimiter_keeps (p : PowerSample) (s : State) : Keeps s (execLimiter p s) := by
  unfold execLimiter
  refine ⟨_, rfl, ?_⟩
  (constructor <;> (dsimp only; (repeat' split) <;> simp))

/-- What LimiterHandback keeps. -/
theorem execLimiterHandback_keeps (watts : Nat) (s : State) : Keeps s (execLimiterHandback watts s) := by
  unfold execLimiterHandback
  refine ⟨_, rfl, ?_⟩
  (constructor <;> (dsimp only; (repeat' split) <;> simp))

/-- What ThrottleStep keeps. -/
theorem execThrottleStep_keeps (watts : Nat) (s : State) : Keeps s (execThrottleStep watts s) := by
  unfold execThrottleStep
  refine ⟨_, rfl, ?_⟩
  (constructor <;> (dsimp only; (repeat' split) <;> simp))

/-- What HoldEnd keeps. -/
theorem execHoldEnd_keeps (watts : Nat) (s : State) : Keeps s (execHoldEnd watts s) := by
  unfold execHoldEnd
  refine ⟨_, rfl, ?_⟩
  (constructor <;> (dsimp only; (repeat' split) <;> simp))

/-- What OverdriveEval keeps. -/
theorem execOverdriveEval_keeps (watts : Nat) (s : State) : Keeps s (execOverdriveEval watts s) := by
  unfold execOverdriveEval
  refine ⟨_, rfl, ?_⟩
  (constructor <;> (repeat' split) <;> simp)

/-- What SenseCheck keeps. -/
theorem execSenseCheck_keeps (pair remoteMv localMv : Nat) (s : State) : Keeps s (execSenseCheck pair remoteMv localMv s) := by
  unfold execSenseCheck
  refine ⟨_, rfl, ?_⟩
  constructor <;> (dsimp only; (repeat' split) <;> simp)

/-- What LaneShort keeps. -/
theorem execLaneShort_keeps (kind port lane : Nat) (s : State) : Keeps s (execLaneShort kind port lane s) := by
  unfold execLaneShort
  refine ⟨_, rfl, ?_⟩
  (constructor <;> (repeat' split) <;> simp)

/-- What AonCheck keeps. -/
theorem execAonCheck_keeps (romFail : Nat) (s : State) : Keeps s (execAonCheck romFail s) := by
  unfold execAonCheck
  refine ⟨_, rfl, ?_⟩
  (constructor <;> (repeat' split) <;> simp)

/-- What BootStatus keeps. -/
theorem execBootStatus_keeps (s : State) : Keeps s (execBootStatus s) := by
  unfold execBootStatus
  refine ⟨_, rfl, ?_⟩
  (constructor <;> (repeat' split) <;> simp)

/-- What BootConfig keeps. -/
theorem execBootConfig_keeps (c : BootConfig) (s : State) : Keeps s (execBootConfig c s) := by
  unfold execBootConfig
  refine ⟨_, rfl, ?_⟩
  (constructor <;> (dsimp only; (repeat' split) <;> simp))

/-- What FwChunk keeps. -/
theorem execFwChunk_keeps (offset : Nat) (data : Bytes) (s : State) : Keeps s (execFwChunk offset data s) := by
  unfold execFwChunk
  refine ⟨_, rfl, ?_⟩
  (constructor <;> (repeat' split) <;> simp)

/-- What BootDatagram keeps. -/
theorem execBootDatagram_keeps (frame : Bytes) (s : State) : Keeps s (execBootDatagram frame s) := by
  unfold execBootDatagram
  refine ⟨_, rfl, ?_⟩
  constructor <;> (repeat' split) <;> simp

/-- What FwDeliveryTimeout keeps. -/
theorem execFwDeliveryTimeout_keeps (s : State) : Keeps s (execFwDeliveryTimeout s) := by
  unfold execFwDeliveryTimeout
  refine ⟨_, rfl, ?_⟩
  (constructor <;> (repeat' split) <;> simp)

/-- What FwVerifyDone keeps. -/
theorem execFwVerifyDone_keeps (s : State) :
    Keeps s (execFwVerifyDone s) := by
  unfold execFwVerifyDone
  refine ⟨_, rfl, ?_⟩
  have hp (s : State) (l : List Nat) := foldl_keeps (fun s n => if portUsable s n then modPort s n fun p =>
    { p with state := 1 } else s) (fun s x => by split <;> simp) l s
  dsimp only at hp ⊢
  repeat' (first | (simp; done) | (simp [(hp ..).1, (hp ..).2]; done) | split)

theorem execBringUpDone_keeps (r : BringUpResult) (s : State) : Keeps s (execBringUpDone r s) := by
  unfold execBringUpDone
  refine ⟨_, rfl, ?_⟩
  have ho (s : State) (l : List Nat) := foldl_keeps (fun s d => if nbit r.dieFail d then
    outOfService s (3 * 4096 + d) else s) (fun s x => by split <;> simp) l s
  dsimp only at ho ⊢
  split
  · exact ⟨rfl, rfl⟩
  · split
    · exact ⟨rfl, rfl⟩
    · refine ⟨(updateSust_keeps _).1.trans ?_, (updateSust_keeps _).2.trans ?_⟩
      · exact (applyNet_keeps _).1.trans ((ho _ _).1.trans (by simp))
      · exact (applyNet_keeps _).2.trans ((ho _ _).2.trans (by simp))

/-- The queue is kept. -/
theorem execRollbackBlow_pending (s : State) : ∃ t, execRollbackBlow s = .next t ∧ t.pending = s.pending := by
  unfold execRollbackBlow
  refine ⟨_, rfl, ?_⟩
  dsimp only
  repeat' (first | (simp; done) | split)

/-- What ClaimWindow keeps. -/
theorem execClaimWindow_keeps (seconds : Nat) (s : State) : Keeps s (execClaimWindow seconds s) := by
  unfold execClaimWindow
  refine ⟨_, rfl, ?_⟩
  (constructor <;> (repeat' split) <;> simp)

/-- What ClaimWindowExpiry keeps. -/
theorem execClaimWindowExpiry_keeps (s : State) : Keeps s (execClaimWindowExpiry s) := by
  unfold execClaimWindowExpiry
  refine ⟨_, rfl, ?_⟩
  (constructor <;> (repeat' split) <;> simp)

/-- What GetVersion keeps. -/
theorem execGetVersion_keeps (s : State) : Keeps s (execGetVersion s) := by
  unfold execGetVersion
  refine ⟨_, rfl, ?_⟩
  (constructor <;> (repeat' split) <;> simp)

/-- What GetCapabilities keeps. -/
theorem execGetCapabilities_keeps (s : State) : Keeps s (execGetCapabilities s) := by
  unfold execGetCapabilities
  refine ⟨_, rfl, ?_⟩
  (constructor <;> (repeat' split) <;> simp)

/-- What NegotiateAlgorithms keeps. -/
theorem execNegotiateAlgorithms_keeps (s : State) : Keeps s (execNegotiateAlgorithms s) := by
  unfold execNegotiateAlgorithms
  refine ⟨_, rfl, ?_⟩
  (constructor <;> (repeat' split) <;> simp)

/-- What GetDigests keeps. -/
theorem execGetDigests_keeps (s : State) : Keeps s (execGetDigests s) := by
  unfold execGetDigests
  refine ⟨_, rfl, ?_⟩
  (constructor <;> (repeat' split) <;> simp)

/-- What GetCertificate keeps. -/
theorem execGetCertificate_keeps (slot offset len : Nat) (s : State) :
    Keeps s (execGetCertificate slot offset len s) := by
  unfold execGetCertificate
  refine ⟨_, rfl, ?_⟩
  (constructor <;> (repeat' split) <;> simp)

/-- What Challenge keeps. -/
theorem execChallenge_keeps (slot : Nat) (nonce : Bytes) (s : State) : Keeps s (execChallenge slot nonce s) := by
  unfold execChallenge
  refine ⟨_, rfl, ?_⟩
  (constructor <;> (dsimp only; (repeat' split) <;> simp))

/-- What GetMeasurements keeps. -/
theorem execGetMeasurements_keeps (index : Nat) (nonce : Bytes) (s : State) :
    Keeps s (execGetMeasurements index nonce s) := by
  unfold execGetMeasurements
  refine ⟨_, rfl, ?_⟩
  (constructor <;> (dsimp only; (repeat' split) <;> simp))

/-- What UnsupportedRequest keeps. -/
theorem execUnsupportedRequest_keeps (code : Nat) (s : State) : Keeps s (execUnsupportedRequest code s) := by
  unfold execUnsupportedRequest
  refine ⟨_, rfl, ?_⟩
  (constructor <;> (repeat' split) <;> simp)

/-- What ScanDone keeps. -/
theorem execScanDone_keeps (chase : Nat) (s : State) : Keeps s (execScanDone chase s) := by
  unfold execScanDone
  refine ⟨_, rfl, ?_⟩
  (constructor <;> (dsimp only; (repeat' split) <;> simp))

/-- The queue is kept. -/
theorem execUdsDestroyed_pending (s : State) : ∃ t, execUdsDestroyed s = .next t ∧ t.pending = s.pending := by
  unfold execUdsDestroyed
  refine ⟨_, rfl, ?_⟩
  dsimp only
  repeat' (first | (simp; done) | split)

/-- The queue is kept. -/
theorem execOwnerFusesBlown_pending (s : State) : ∃ t, execOwnerFusesBlown s = .next t ∧ t.pending = s.pending := by
  unfold execOwnerFusesBlown
  refine ⟨_, rfl, ?_⟩
  dsimp only
  repeat' (first | (simp; done) | split)

/-- What TorusPortTrained keeps. -/
theorem execTorusPortTrained_keeps (port : Nat) (failed : List Nat) (s : State) : Keeps s (execTorusPortTrained port failed s) := by
  unfold execTorusPortTrained
  refine ⟨_, rfl, ?_⟩
  constructor <;> (dsimp only; (repeat' split) <;> simp)

/-- What InputPowerLoss keeps. -/
theorem execInputPowerLoss_keeps (s : State) : Keeps s (execInputPowerLoss s) := by
  unfold execInputPowerLoss
  refine ⟨_, rfl, ?_⟩
  (constructor <;> (repeat' split) <;> simp)

/-- What EpoNRelease keeps. -/
theorem execEpoNRelease_keeps (s : State) : Keeps s (execEpoNRelease s) := by
  unfold execEpoNRelease
  refine ⟨_, rfl, ?_⟩
  with_reducible exact ⟨rfl, rfl⟩

/-- What InputOorChange keeps. -/
theorem execInputOorChange_keeps (vin : Nat) (s : State) : Keeps s (execInputOorChange vin s) := by
  unfold execInputOorChange
  refine ⟨_, rfl, ?_⟩
  (constructor <;> (repeat' split) <;> simp)

/-- What JtagInstruction keeps. -/
theorem execJtagInstruction_keeps (code : Nat) (s : State) : Keeps s (execJtagInstruction code s) := by
  unfold execJtagInstruction
  refine ⟨_, rfl, ?_⟩
  (constructor <;> (repeat' split) <;> simp)

/-! ### Memory -/

/-- Hello keeps memory in canonical form. -/
theorem execHello_memOk (h : CmdHdr) (role chase credId : Nat) (nonce eph : Bytes) (s : State) (hm : s.memOk) :
    ∃ t, execHello h role chase credId nonce eph s = .next t ∧ t.memOk := by
  unfold execHello
  refine ⟨_, rfl, ?_⟩
  cases ht : takeDesc s h 0x0001 with
  | none => exact hm
  | some s =>
    have hm := takeDesc_memOk ht hm
    clear ht
    dsimp only [drawNat_eq, drawBytes_eq]
    repeat' (first | exact hm | with_reducible apply clearReply_memOk | split)

/-- Prove keeps memory in canonical form. -/
theorem execProve_memOk (h : CmdHdr) (sig : Bytes) (s : State) (hm : s.memOk) :
    ∃ t, execProve h sig s = .next t ∧ t.memOk := by
  unfold execProve
  refine hostCmd_memOk (fun s se hm => ?_) hm
  repeat' (first | with_reducible assumption | with_reducible apply closeSession_memOk
                 | with_reducible apply rep_memOk | with_reducible apply done_memOk | split | intro _
                 | (unfold State.memOk; dsimp only [drawNat_eq, drawBytes_eq]; change State.memOk _))

/-- Close keeps memory in canonical form. -/
theorem execClose_memOk (h : CmdHdr) (s : State) (hm : s.memOk) : ∃ t, execClose h s = .next t ∧ t.memOk := by
  unfold execClose
  refine hostCmd_memOk (fun s se hm => ?_) hm
  repeat' (first | with_reducible assumption | with_reducible apply closeSession_memOk
                 | with_reducible apply done_memOk)

/-- Ping keeps memory in canonical form. -/
theorem execPing_memOk (h : CmdHdr) (data : Bytes) (s : State) (hm : s.memOk) :
    ∃ t, execPing h data s = .next t ∧ t.memOk := by
  unfold execPing
  refine hostCmd_memOk (fun s se hm => ?_) hm
  repeat' (first | with_reducible assumption | with_reducible apply rep_memOk | with_reducible apply done_memOk
                 | split)

/-- SessionInfo keeps memory in canonical form. -/
theorem execSessionInfo_memOk (h : CmdHdr) (s : State) (hm : s.memOk) :
    ∃ t, execSessionInfo h s = .next t ∧ t.memOk := by
  unfold execSessionInfo
  refine hostCmd_memOk (fun s se hm => ?_) hm
  dsimp only [drawNat_eq, drawBytes_eq]
  repeat' (first | with_reducible assumption | with_reducible apply done_memOk)

/-- Claim keeps memory in canonical form. -/
theorem execClaim_memOk (h : CmdHdr) (pub _label : Bytes) (s : State) (hm : s.memOk) :
    ∃ t, execClaim h pub _label s = .next t ∧ t.memOk := by
  unfold execClaim
  refine hostCmd_memOk (fun s se hm => ?_) hm
  dsimp only [drawNat_eq, drawBytes_eq]
  repeat' (first | with_reducible assumption | with_reducible apply done_memOk | with_reducible apply violation_memOk
                 | with_reducible apply rep_memOk | with_reducible apply closeSession_memOk
                 | with_reducible apply modBoot_memOk | with_reducible apply enlist_memOk | split | intro _
                 | (unfold State.memOk; dsimp only [drawNat_eq, drawBytes_eq]; change State.memOk _))

/-- PolicySet keeps memory in canonical form. -/
theorem execPolicySet_memOk (h : CmdHdr) (entries : List (Nat × Nat)) (s : State) (hm : s.memOk) :
    ∃ t, execPolicySet h entries s = .next t ∧ t.memOk := by
  unfold execPolicySet
  refine hostCmd_memOk (fun s se hm => ?_) hm
  repeat' (first | with_reducible assumption | (with_reducible apply foldl_memOk; intro _ _ _)
                 | with_reducible apply done_memOk | with_reducible apply applyPolicy_memOk
                 | with_reducible apply rep_memOk | split)

/-- PolicyGet keeps memory in canonical form. -/
theorem execPolicyGet_memOk (h : CmdHdr) (ids : List Nat) (s : State) (hm : s.memOk) :
    ∃ t, execPolicyGet h ids s = .next t ∧ t.memOk := by
  unfold execPolicyGet
  refine hostCmd_memOk (fun s se hm => ?_) hm
  dsimp only [drawNat_eq, drawBytes_eq]
  repeat' (first | with_reducible assumption | with_reducible apply rep_memOk | with_reducible apply done_memOk
                 | split)

/-- CredSet keeps memory in canonical form. -/
theorem execCredSet_memOk (h : CmdHdr) (op role chase credId : Nat) (pub : Bytes) (s : State) (hm : s.memOk) :
    ∃ t, execCredSet h op role chase credId pub s = .next t ∧ t.memOk := by
  unfold execCredSet
  refine hostCmd_memOk (fun s se hm => ?_) hm
  dsimp only [drawNat_eq, drawBytes_eq]
  repeat' (first | with_reducible assumption | with_reducible apply done_memOk | with_reducible apply violation_memOk
                 | with_reducible apply rep_memOk | with_reducible apply closeWhere_memOk | split | intro _
                 | (unfold State.memOk; dsimp only [drawNat_eq, drawBytes_eq]; change State.memOk _))

/-- Readmit keeps memory in canonical form. -/
theorem execReadmit_memOk (h : CmdHdr) (s : State) (hm : s.memOk) : ∃ t, execReadmit h s = .next t ∧ t.memOk := by
  unfold execReadmit
  refine hostCmd_memOk (fun s se hm => ?_) hm
  repeat' (first | with_reducible assumption | with_reducible apply done_memOk | with_reducible apply modBoot_memOk
                 | with_reducible apply rep_memOk | split)

/-- Decommission keeps memory in canonical form. -/
theorem execDecommission_memOk (h : CmdHdr) (confirm : Nat) (s : State) (hm : s.memOk) :
    ∃ t, execDecommission h confirm s = .next t ∧ t.memOk := by
  unfold execDecommission
  refine hostCmd_memOk (fun s se hm => ?_) hm
  dsimp only [drawNat_eq, drawBytes_eq]
  repeat' (first | with_reducible assumption | (with_reducible apply foldl_memOk; intro _ _ _)
                 | with_reducible apply rep_memOk | with_reducible apply enlist_memOk
                 | with_reducible apply foldl_memOk | with_reducible apply freeChase_memOk
                 | with_reducible apply scrubChase_memOk | with_reducible apply beginRelease_memOk
                 | with_reducible apply closeSession_memOk | with_reducible apply zeroiseKeys_memOk
                 | with_reducible apply rediscover_memOk | with_reducible apply modBoot_memOk | split | intro _
                 | (unfold State.memOk; dsimp only [drawNat_eq, drawBytes_eq]; change State.memOk _))

/-- RelaySet keeps memory in canonical form. -/
theorem execRelaySet_memOk (h : CmdHdr) (entries : List RelayEntry) (s : State) (hm : s.memOk) :
    ∃ t, execRelaySet h entries s = .next t ∧ t.memOk := by
  unfold execRelaySet
  refine hostCmd_memOk (fun s se hm => ?_) hm
  dsimp only [drawNat_eq, drawBytes_eq]
  repeat' (first | with_reducible assumption | with_reducible apply rep_memOk | with_reducible apply done_memOk
                 | split | intro _
                 | (unfold State.memOk; dsimp only [drawNat_eq, drawBytes_eq]; change State.memOk _))

/-- IntakeSet keeps memory in canonical form. -/
theorem execIntakeSet_memOk (h : CmdHdr) (cfg : IntakeCfg) (s : State) (hm : s.memOk) :
    ∃ t, execIntakeSet h cfg s = .next t ∧ t.memOk := by
  unfold execIntakeSet
  refine hostCmd_memOk (fun s se hm => ?_) hm
  repeat' (first | with_reducible assumption | with_reducible apply rep_memOk
                 | with_reducible apply replyCmd_memOk | with_reducible apply fillIntake_memOk
                 | with_reducible apply enlist_memOk | with_reducible apply done_memOk | split | intro _
                 | (unfold State.memOk; dsimp only [drawNat_eq, drawBytes_eq]; change State.memOk _))

/-- ChaseCreate keeps memory in canonical form. -/
theorem execChaseCreate_memOk (h : CmdHdr) (f : ChaseFields) (s : State) (hm : s.memOk) :
    ∃ t, execChaseCreate h f s = .next t ∧ t.memOk := by
  unfold execChaseCreate
  refine hostCmd_memOk (fun s se hm => ?_) hm
  dsimp only [drawNat_eq, drawBytes_eq]
  repeat' (first | with_reducible assumption | with_reducible apply rep_memOk | with_reducible apply loadSlots_memOk
                 | with_reducible apply replyLive_memOk | with_reducible apply accept_memOk | split | intro _
                 | (unfold State.memOk; dsimp only [drawNat_eq, drawBytes_eq]; change State.memOk _))

/-- ChaseChange keeps memory in canonical form. -/
theorem execChaseChange_memOk (h : CmdHdr) (f : ChaseFields) (s : State) (hm : s.memOk) :
    ∃ t, execChaseChange h f s = .next t ∧ t.memOk := by
  unfold execChaseChange
  refine hostCmd_memOk (fun s se hm => ?_) hm
  dsimp only [drawNat_eq, drawBytes_eq]
  repeat' (first | with_reducible assumption | with_reducible apply rep_memOk
                 | with_reducible apply returnFabric_memOk | with_reducible apply modChase_memOk
                 | with_reducible apply accept_memOk | with_reducible apply loadSlots_memOk
                 | with_reducible apply beginShareFence_memOk | with_reducible apply replyLive_memOk | split)

/-- ChaseRelease keeps memory in canonical form. -/
theorem execChaseRelease_memOk (h : CmdHdr) (chase : Nat) (s : State) (hm : s.memOk) :
    ∃ t, execChaseRelease h chase s = .next t ∧ t.memOk := by
  unfold execChaseRelease
  refine hostCmd_memOk (fun s se hm => ?_) hm
  dsimp only [drawNat_eq, drawBytes_eq]
  repeat' (first | with_reducible assumption | with_reducible apply rep_memOk
                 | with_reducible apply beginRelease_memOk | with_reducible apply accept_memOk | split)

/-- ChaseInfo keeps memory in canonical form. -/
theorem execChaseInfo_memOk (h : CmdHdr) (chase : Nat) (s : State) (hm : s.memOk) :
    ∃ t, execChaseInfo h chase s = .next t ∧ t.memOk := by
  unfold execChaseInfo
  refine hostCmd_memOk (fun s se hm => ?_) hm
  dsimp only [drawNat_eq, drawBytes_eq]
  repeat' (first | with_reducible assumption | with_reducible apply rep_memOk | with_reducible apply done_memOk
                 | split)

/-- ChaseClaim keeps memory in canonical form. -/
theorem execChaseClaim_memOk (h : CmdHdr) (pub : Bytes) (s : State) (hm : s.memOk) :
    ∃ t, execChaseClaim h pub s = .next t ∧ t.memOk := by
  unfold execChaseClaim
  refine hostCmd_memOk (fun s se hm => ?_) hm
  dsimp only [drawNat_eq, drawBytes_eq]
  repeat' (first | with_reducible assumption | with_reducible apply done_memOk | with_reducible apply violation_memOk
                 | with_reducible apply rep_memOk | with_reducible apply closeSession_memOk
                 | with_reducible apply modChase_memOk | split | intro _
                 | (unfold State.memOk; dsimp only [drawNat_eq, drawBytes_eq]; change State.memOk _))

/-- FormeLoad keeps memory in canonical form. -/
theorem execFormeLoad_memOk (h : CmdHdr) (total offset : Nat) (data : Bytes) (s : State) (hm : s.memOk) :
    ∃ t, execFormeLoad h total offset data s = .next t ∧ t.memOk := by
  unfold execFormeLoad
  refine chunkCmd_memOk (fun s se hm => ?_) hm
  split
  · exact laterPart_memOk _ _ _ _ _ _ _ hm
  · split
    · next e => exact endedChunk_memOk e hm
    · exact markChunk_memOk _ _ _ _ (firstPart_memOk _ _ _ _ _ _ hm)

/-- FormeStage keeps memory in canonical form. -/
theorem execFormeStage_memOk (h : CmdHdr) (objId : Nat) (s : State) (hm : s.memOk) :
    ∃ t, execFormeStage h objId s = .next t ∧ t.memOk := by
  unfold execFormeStage
  refine hostCmd_memOk (fun s se hm => ?_) hm
  dsimp only [drawNat_eq, drawBytes_eq]
  repeat' (first | with_reducible assumption | with_reducible apply rep_memOk | with_reducible apply accept_memOk
                 | split | intro _
                 | (unfold State.memOk; dsimp only [drawNat_eq, drawBytes_eq]; change State.memOk _))

/-- FormeFree keeps memory in canonical form. -/
theorem execFormeFree_memOk (h : CmdHdr) (formeId : Nat) (s : State) (hm : s.memOk) :
    ∃ t, execFormeFree h formeId s = .next t ∧ t.memOk := by
  unfold execFormeFree
  refine hostCmd_memOk (fun s se hm => ?_) hm
  repeat' (first | with_reducible assumption | with_reducible apply rep_memOk | with_reducible apply done_memOk
                 | with_reducible apply modChase_memOk | split)

/-- Impose keeps memory in canonical form. -/
theorem execImpose_memOk (h : CmdHdr) (ids : List Nat) (s : State) (hm : s.memOk) :
    ∃ t, execImpose h ids s = .next t ∧ t.memOk := by
  unfold execImpose
  refine hostCmd_memOk (fun s se hm => ?_) hm
  dsimp only [drawNat_eq, drawBytes_eq]
  repeat' (first | with_reducible assumption | with_reducible apply rep_memOk
                 | with_reducible apply returnFabric_memOk | with_reducible apply placeOrder_memOk
                 | with_reducible apply accept_memOk | split)

/-- Change keeps memory in canonical form. -/
theorem execChange_memOk (h : CmdHdr) (oldId newId : Nat) (s : State) (hm : s.memOk) :
    ∃ t, execChange h oldId newId s = .next t ∧ t.memOk := by
  unfold execChange
  refine hostCmd_memOk (fun s se hm => ?_) hm
  dsimp only [drawNat_eq, drawBytes_eq]
  repeat' (first | with_reducible assumption | with_reducible apply rep_memOk | with_reducible apply placeOrder_memOk
                 | with_reducible apply accept_memOk | split)

/-- ServeSet keeps memory in canonical form. -/
theorem execServeSet_memOk (h : CmdHdr) (op : Nat) (e : ServeFields) (s : State) (hm : s.memOk) :
    ∃ t, execServeSet h op e s = .next t ∧ t.memOk := by
  unfold execServeSet
  refine hostCmd_memOk (fun s se hm => ?_) hm
  dsimp only [drawNat_eq, drawBytes_eq]
  repeat' (first | with_reducible assumption | with_reducible apply rep_memOk | with_reducible apply done_memOk
                 | with_reducible apply modChase_memOk | with_reducible apply freeCleared_memOk | split)

/-- ScanOut keeps memory in canonical form. -/
theorem execScanOut_memOk (h : CmdHdr) (tile : Nat) (s : State) (hm : s.memOk) :
    ∃ t, execScanOut h tile s = .next t ∧ t.memOk := by
  unfold execScanOut
  refine hostCmd_memOk (fun s se hm => ?_) hm
  repeat' (first | with_reducible assumption | with_reducible apply placeScan_memOk | with_reducible apply rep_memOk
                 | split)

/-- ScanIn keeps memory in canonical form. -/
theorem execScanIn_memOk (h : CmdHdr) (record : Bytes) (s : State) (hm : s.memOk) :
    ∃ t, execScanIn h record s = .next t ∧ t.memOk := by
  unfold execScanIn
  refine hostCmd_memOk (fun s se hm => ?_) hm
  repeat' (first | with_reducible assumption | with_reducible apply rep_memOk
                 | with_reducible apply placeScan_memOk | split | intro _
                 | (unfold State.memOk; dsimp only [drawNat_eq, drawBytes_eq]; change State.memOk _))

/-- FormeList keeps memory in canonical form. -/
theorem execFormeList_memOk (h : CmdHdr) (s : State) (hm : s.memOk) : ∃ t, execFormeList h s = .next t ∧ t.memOk := by
  unfold execFormeList
  refine hostCmd_memOk (fun s se hm => ?_) hm
  dsimp only [drawNat_eq, drawBytes_eq]
  repeat' (first | with_reducible assumption | with_reducible apply done_memOk)

/-- SignkeySet keeps memory in canonical form. -/
theorem execSignkeySet_memOk (h : CmdHdr) (op keyId : Nat) (pub : Bytes) (s : State) (hm : s.memOk) :
    ∃ t, execSignkeySet h op keyId pub s = .next t ∧ t.memOk := by
  unfold execSignkeySet
  refine hostCmd_memOk (fun s se hm => ?_) hm
  dsimp only [drawNat_eq, drawBytes_eq]
  repeat' (first | with_reducible assumption | with_reducible apply modChase_memOk | with_reducible apply rep_memOk
                 | with_reducible apply done_memOk | split)

/-- FormeKeyGet keeps memory in canonical form. -/
theorem execFormeKeyGet_memOk (h : CmdHdr) (s : State) (hm : s.memOk) :
    ∃ t, execFormeKeyGet h s = .next t ∧ t.memOk := by
  unfold execFormeKeyGet
  refine hostCmd_memOk (fun s se hm => ?_) hm
  dsimp only [drawNat_eq, drawBytes_eq]
  repeat' (first | with_reducible assumption | with_reducible apply done_memOk)

theorem execObjCreate_memOk (h : CmdHdr) (objId size kind tier die : Nat) (s : State) (hm : s.memOk) :
    ∃ t, execObjCreate h objId size kind tier die s = .next t ∧ t.memOk := by
  unfold execObjCreate
  refine hostCmd_memOk ?_ hm
  intro s se hm
  dsimp only
  repeat' (first | with_reducible apply rep_memOk | with_reducible apply done_memOk | with_reducible assumption
                 | split)
  next hf => exact fitMeta_some_memOk hf hm

/-- Put keeps memory in canonical form. -/
theorem execPut_memOk (h : CmdHdr) (objId offset : Nat) (data : Bytes) (s : State) (hm : s.memOk) :
    ∃ t, execPut h objId offset data s = .next t ∧ t.memOk := by
  unfold execPut
  refine hostCmd_memOk (fun s se hm => ?_) hm
  dsimp only [drawNat_eq, drawBytes_eq]
  repeat' (first | with_reducible assumption | with_reducible apply rep_memOk | with_reducible apply atObj_memOk
                 | with_reducible apply enlist_memOk | split)

/-- Seal keeps memory in canonical form. -/
theorem execSeal_memOk (h : CmdHdr) (objId : Nat) (s : State) (hm : s.memOk) :
    ∃ t, execSeal h objId s = .next t ∧ t.memOk := by
  unfold execSeal
  refine hostCmd_memOk (fun s se hm => ?_) hm
  dsimp only [drawNat_eq, drawBytes_eq]
  repeat' (first | with_reducible assumption | with_reducible apply rep_memOk | with_reducible apply done_memOk
                 | with_reducible apply modObj_memOk | split)

/-- Get keeps memory in canonical form. -/
theorem execGet_memOk (h : CmdHdr) (objId offset len : Nat) (s : State) (hm : s.memOk) :
    ∃ t, execGet h objId offset len s = .next t ∧ t.memOk := by
  unfold execGet
  refine hostCmd_memOk (fun s se hm => ?_) hm
  dsimp only [drawNat_eq, drawBytes_eq]
  repeat' (first | with_reducible assumption | with_reducible apply rep_memOk | with_reducible apply atObj_memOk
                 | with_reducible apply enlist_memOk | split)

/-- Move keeps memory in canonical form. -/
theorem execMove_memOk (h : CmdHdr) (objId tier die : Nat) (s : State) (hm : s.memOk) :
    ∃ t, execMove h objId tier die s = .next t ∧ t.memOk := by
  unfold execMove
  refine hostCmd_memOk (fun s se hm => ?_) hm
  dsimp only [drawNat_eq, drawBytes_eq]
  repeat' (first | with_reducible assumption | with_reducible apply rep_memOk | with_reducible apply atObj_memOk
                 | with_reducible apply accept_memOk | split)

/-- ObjFree keeps memory in canonical form. -/
theorem execObjFree_memOk (h : CmdHdr) (objId : Nat) (s : State) (hm : s.memOk) :
    ∃ t, execObjFree h objId s = .next t ∧ t.memOk := by
  unfold execObjFree
  refine hostCmd_memOk (fun s se hm => ?_) hm
  dsimp only [drawNat_eq, drawBytes_eq]
  repeat' (first | with_reducible assumption | with_reducible apply rep_memOk | with_reducible apply done_memOk
                 | with_reducible apply dropObj_memOk | split)

/-- WindowSet keeps memory in canonical form. -/
theorem execWindowSet_memOk (h : CmdHdr) (objId window die : Nat) (s : State) (hm : s.memOk) :
    ∃ t, execWindowSet h objId window die s = .next t ∧ t.memOk := by
  unfold execWindowSet
  refine hostCmd_memOk (fun s se hm => ?_) hm
  dsimp only [drawNat_eq, drawBytes_eq]
  repeat' (first | with_reducible assumption | with_reducible apply rep_memOk | with_reducible apply atObj_memOk
                 | with_reducible apply accept_memOk | split)

/-- ObjInfo keeps memory in canonical form. -/
theorem execObjInfo_memOk (h : CmdHdr) (objId : Nat) (s : State) (hm : s.memOk) :
    ∃ t, execObjInfo h objId s = .next t ∧ t.memOk := by
  unfold execObjInfo
  refine hostCmd_memOk (fun s se hm => ?_) hm
  repeat' (first | with_reducible assumption | with_reducible apply rep_memOk | with_reducible apply done_memOk
                 | split)

/-- Score keeps memory in canonical form. -/
theorem execScore_memOk (h : CmdHdr) (formeId deadline : Nat) (label input : Bytes) (s : State) (hm : s.memOk) :
    ∃ t, execScore h formeId deadline label input s = .next t ∧ t.memOk := by
  unfold execScore
  refine requestCmd_memOk (fun s se hm => ?_) hm
  repeat' (first | with_reducible assumption | with_reducible apply refuseHold_memOk
                 | with_reducible apply ask_memOk | split | intro _
                 | (unfold State.memOk; dsimp only [drawNat_eq, drawBytes_eq]; change State.memOk _))

/-- Generate keeps memory in canonical form. -/
theorem execGenerate_memOk (h : CmdHdr) (p : GenParams) (s : State) (hm : s.memOk) :
    ∃ t, execGenerate h p s = .next t ∧ t.memOk := by
  unfold execGenerate
  refine requestCmd_memOk (fun s se hm => ?_) hm
  repeat' (first | with_reducible assumption | with_reducible apply rep_memOk
                 | with_reducible apply refuseHold_memOk | with_reducible apply ask_memOk | split | intro _
                 | (unfold State.memOk; dsimp only [drawNat_eq, drawBytes_eq]; change State.memOk _))

/-- FileSubmit keeps memory in canonical form. -/
theorem execFileSubmit_memOk (h : CmdHdr) (formeId deadline total offset : Nat) (label data : Bytes) (s : State) (hm : s.memOk) :
    ∃ t, execFileSubmit h formeId deadline total offset label data s = .next t ∧ t.memOk := by
  unfold execFileSubmit
  refine chunkCmd_memOk (fun s se hm => ?_) hm
  split
  · exact laterChunk_memOk _ _ _ _ _ _ hm
  · split
    · next e => exact endedChunk_memOk e hm
    · split
      · exact markChunk_memOk _ _ _ _ (firstChunk_memOk _ _ _ _ _ _ _ _ hm)
      · exact earlyChunk_memOk _ _ _ _ _ hm

/-- Cancel keeps memory in canonical form. -/
theorem execCancel_memOk (h : CmdHdr) (target : Nat) (s : State) (hm : s.memOk) :
    ∃ t, execCancel h target s = .next t ∧ t.memOk := by
  unfold execCancel
  refine hostCmd_memOk (fun s se hm => ?_) hm
  repeat' (first | with_reducible assumption | with_reducible apply done_memOk | with_reducible apply endReq_memOk
                 | with_reducible apply rep_memOk | split)

/-- Resend keeps memory in canonical form. -/
theorem execResend_memOk (h : CmdHdr) (target fromTok : Nat) (s : State) (hm : s.memOk) :
    ∃ t, execResend h target fromTok s = .next t ∧ t.memOk := by
  unfold execResend
  refine hostCmd_memOk (fun s se hm => ?_) hm
  dsimp only [drawNat_eq, drawBytes_eq]
  repeat' (first | with_reducible assumption | with_reducible apply done_memOk
                 | with_reducible apply resendTokens_memOk | with_reducible apply rep_memOk | split)

/-- JobOpen keeps memory in canonical form. -/
theorem execJobOpen_memOk (h : CmdHdr) (f : JobFields) (s : State) (hm : s.memOk) :
    ∃ t, execJobOpen h f s = .next t ∧ t.memOk := by
  unfold execJobOpen
  refine hostCmd_memOk (fun s se hm => ?_) hm
  dsimp only [drawNat_eq, drawBytes_eq]
  repeat' (first | with_reducible assumption | (with_reducible apply foldl_memOk; intro _ _ _)
                 | with_reducible apply rep_memOk | with_reducible apply accept_memOk
                 | with_reducible apply modPort_memOk | with_reducible apply sendHeld_memOk
                 | with_reducible apply takeJoin_memOk | with_reducible apply finishJoin_memOk | split | intro _
                 | (unfold State.memOk; dsimp only [drawNat_eq, drawBytes_eq]; change State.memOk _))

/-- JobStep keeps memory in canonical form. -/
theorem execJobStep_memOk (h : CmdHdr) (jobId step formeId deadline : Nat) (label input : Bytes) (s : State) (hm : s.memOk) :
    ∃ t, execJobStep h jobId step formeId deadline label input s = .next t ∧ t.memOk := by
  unfold execJobStep
  refine requestCmd_memOk (fun s se hm => ?_) hm
  repeat' (first | with_reducible assumption | with_reducible apply refuseHold_memOk
                 | with_reducible apply rep_memOk | with_reducible apply ask_memOk
                 | with_reducible apply beginStep_memOk | split | intro _
                 | (unfold State.memOk; dsimp only [drawNat_eq, drawBytes_eq]; change State.memOk _))

/-- JobRejoin keeps memory in canonical form. -/
theorem execJobRejoin_memOk (h : CmdHdr) (jobId step : Nat) (s : State) (hm : s.memOk) :
    ∃ t, execJobRejoin h jobId step s = .next t ∧ t.memOk := by
  unfold execJobRejoin
  refine hostCmd_memOk (fun s se hm => ?_) hm
  dsimp only [drawNat_eq, drawBytes_eq]
  repeat' (first | with_reducible assumption | with_reducible apply rep_memOk | with_reducible apply accept_memOk
                 | with_reducible apply modJob_memOk | with_reducible apply sendHeld_memOk
                 | with_reducible apply finishRejoin_memOk | split)

/-- JobClose keeps memory in canonical form. -/
theorem execJobClose_memOk (h : CmdHdr) (jobId : Nat) (s : State) (hm : s.memOk) :
    ∃ t, execJobClose h jobId s = .next t ∧ t.memOk := by
  unfold execJobClose
  refine hostCmd_memOk (fun s se hm => ?_) hm
  dsimp only [drawNat_eq, drawBytes_eq]
  repeat' (first | with_reducible assumption | with_reducible apply rep_memOk | with_reducible apply endJobCmds_memOk
                 | with_reducible apply jobFailure_memOk | with_reducible apply done_memOk
                 | with_reducible apply removeJob_memOk | split)

/-- ReadReg keeps memory in canonical form. -/
theorem execReadReg_memOk (h : CmdHdr) (addr count : Nat) (s : State) (hm : s.memOk) :
    ∃ t, execReadReg h addr count s = .next t ∧ t.memOk := by
  unfold execReadReg
  refine hostCmd_memOk (fun s se hm => ?_) hm
  dsimp only [drawNat_eq, drawBytes_eq]
  repeat' (first | with_reducible assumption | (with_reducible apply foldl_memOk; intro _ _ _)
                 | with_reducible apply rep_memOk | with_reducible apply done_memOk | with_reducible apply foldl_memOk
                 | with_reducible apply violation_memOk | split)

/-- WriteReg keeps memory in canonical form. -/
theorem execWriteReg_memOk (h : CmdHdr) (addr : Nat) (value : Word) (s : State) (hm : s.memOk) :
    ∃ t, execWriteReg h addr value s = .next t ∧ t.memOk := by
  unfold execWriteReg
  refine hostCmd_memOk (fun s se hm => ?_) hm
  repeat' (first | with_reducible assumption | with_reducible apply regWrite_memOk)

/-- ResetReq keeps memory in canonical form. -/
theorem execResetReq_memOk (h : CmdHdr) (addr : Nat) (value : Word) (s : State) (hm : s.memOk) :
    ∃ t, execResetReq h addr value s = .next t ∧ t.memOk := by
  unfold execResetReq
  split; swap
  · exact ⟨_, rfl, hm⟩
  refine hostCmd_memOk (fun s se hm => ?_) hm
  repeat' (first | with_reducible assumption | with_reducible apply regWrite_memOk)

/-- ResetReadmit keeps memory in canonical form. -/
theorem execResetReadmit_memOk (h : CmdHdr) (addr : Nat) (value : Word) (s : State) (hm : s.memOk) :
    ∃ t, execResetReadmit h addr value s = .next t ∧ t.memOk := by
  unfold execResetReadmit
  split; swap
  · exact ⟨_, rfl, hm⟩
  refine hostCmd_memOk (fun s se hm => ?_) hm
  repeat' (first | with_reducible assumption | with_reducible apply regWrite_memOk)

/-- HealthEventsClear keeps memory in canonical form. -/
theorem execHealthEventsClear_memOk (h : CmdHdr) (addr : Nat) (value : Word) (s : State) (hm : s.memOk) :
    ∃ t, execHealthEventsClear h addr value s = .next t ∧ t.memOk := by
  unfold execHealthEventsClear
  split; swap
  · exact ⟨_, rfl, hm⟩
  refine hostCmd_memOk (fun s se hm => ?_) hm
  repeat' (first | with_reducible assumption | with_reducible apply regWrite_memOk)

/-- Colophon keeps memory in canonical form. -/
theorem execColophon_memOk (h : CmdHdr) (nonce : Bytes) (s : State) (hm : s.memOk) :
    ∃ t, execColophon h nonce s = .next t ∧ t.memOk := by
  unfold execColophon
  refine hostCmd_memOk (fun s se hm => ?_) hm
  dsimp only [drawNat_eq, drawBytes_eq]
  repeat' (first | with_reducible assumption | with_reducible apply done_memOk)

/-- PowerCap keeps memory in canonical form. -/
theorem execPowerCap_memOk (h : CmdHdr) (cap alertCap overdrive : Nat) (s : State) (hm : s.memOk) :
    ∃ t, execPowerCap h cap alertCap overdrive s = .next t ∧ t.memOk := by
  unfold execPowerCap
  refine hostCmd_memOk (fun s se hm => ?_) hm
  dsimp only [drawNat_eq, drawBytes_eq]
  repeat' (first | with_reducible assumption | with_reducible apply rep_memOk | with_reducible apply done_memOk
                 | with_reducible apply capsChanged_memOk | with_reducible apply endGrant_memOk | split | intro _
                 | (unfold State.memOk; dsimp only [drawNat_eq, drawBytes_eq]; change State.memOk _))

/-- PullRead keeps memory in canonical form. -/
theorem execPullRead_memOk (h : CmdHdr) (mode pullId offset len : Nat) (errs : List (Nat × Nat)) (s : State) (hm : s.memOk) :
    ∃ t, execPullRead h mode pullId offset len errs s = .next t ∧ t.memOk := by
  unfold execPullRead
  refine hostCmd_memOk (fun s se hm => ?_) hm
  dsimp only [drawNat_eq, drawBytes_eq]
  repeat' (first | with_reducible assumption | with_reducible apply rep_memOk | with_reducible apply done_memOk
                 | with_reducible apply emitReply_memOk | with_reducible apply violation_memOk | split | intro _
                 | (unfold State.memOk; dsimp only [drawNat_eq, drawBytes_eq]; change State.memOk _))

/-- AskestPacket keeps memory in canonical form. -/
theorem execAskestPacket_memOk (ep : Nat) (frame : Bytes) (ns : Nat) (s : State) (hm : s.memOk) :
    ∃ t, execAskestPacket ep frame ns s = .next t ∧ t.memOk := by
  unfold execAskestPacket
  refine ⟨_, rfl, ?_⟩
  have ht := takeFrame_memOk s ep frame hm
  split
  · exact hm
  · split
    · next e => rw [e] at ht; exact ht
    · next e =>
      rw [e] at ht
      dsimp only
      repeat' (first | exact ht | with_reducible apply countDrop_memOk | with_reducible apply receive_memOk | with_reducible apply sendRelay_memOk | split)

/-- ReassemblyTimeout keeps memory in canonical form. -/
theorem execReassemblyTimeout_memOk (session opcode reqId : Nat) (s : State) (hm : s.memOk) :
    ∃ t, execReassemblyTimeout session opcode reqId s = .next t ∧ t.memOk := by
  unfold execReassemblyTimeout
  refine ⟨_, rfl, ?_⟩
  dsimp only [drawNat_eq, drawBytes_eq]
  repeat' (first | with_reducible assumption | with_reducible apply portReply_memOk
                 | with_reducible apply countDrop_memOk | split | intro _
                 | (unfold State.memOk; dsimp only [drawNat_eq, drawBytes_eq]; change State.memOk _))

/-- SessionPendingTimeout keeps memory in canonical form. -/
theorem execSessionPendingTimeout_memOk (session : Nat) (s : State) (hm : s.memOk) :
    ∃ t, execSessionPendingTimeout session s = .next t ∧ t.memOk := by
  unfold execSessionPendingTimeout
  refine ⟨_, rfl, ?_⟩
  repeat' (first | with_reducible assumption | with_reducible apply closeSession_memOk | split)

/-- SessionIdleTimeout keeps memory in canonical form. -/
theorem execSessionIdleTimeout_memOk (session : Nat) (s : State) (hm : s.memOk) :
    ∃ t, execSessionIdleTimeout session s = .next t ∧ t.memOk := by
  unfold execSessionIdleTimeout
  refine ⟨_, rfl, ?_⟩
  repeat' (first | with_reducible assumption | with_reducible apply closeSession_memOk | split)

/-- FileIdleTimeout keeps memory in canonical form. -/
theorem execFileIdleTimeout_memOk (session reqId : Nat) (s : State) (hm : s.memOk) :
    ∃ t, execFileIdleTimeout session reqId s = .next t ∧ t.memOk := by
  unfold execFileIdleTimeout
  refine ⟨_, rfl, ?_⟩
  dsimp only [drawNat_eq, drawBytes_eq]
  repeat' (first | with_reducible assumption | with_reducible apply endReq_memOk
                 | with_reducible apply replyLive_memOk | split | intro _
                 | (unfold State.memOk; dsimp only [drawNat_eq, drawBytes_eq]; change State.memOk _))

/-- HeldChunkTimeout keeps memory in canonical form. -/
theorem execHeldChunkTimeout_memOk (session reqId : Nat) (s : State) (hm : s.memOk) :
    ∃ t, execHeldChunkTimeout session reqId s = .next t ∧ t.memOk := by
  unfold execHeldChunkTimeout
  refine ⟨_, rfl, ?_⟩
  repeat' (first | with_reducible assumption | with_reducible apply portReply_memOk | split | intro _
                 | (unfold State.memOk; dsimp only [drawNat_eq, drawBytes_eq]; change State.memOk _))

/-- PolicyTakeEffect keeps memory in canonical form. -/
theorem execPolicyTakeEffect_memOk (id : Nat) (s : State) (hm : s.memOk) :
    ∃ t, execPolicyTakeEffect id s = .next t ∧ t.memOk := by
  unfold execPolicyTakeEffect
  refine ⟨_, rfl, ?_⟩
  repeat' (first | with_reducible assumption | with_reducible apply putPolicy_memOk | split | intro _
                 | (unfold State.memOk; dsimp only [drawNat_eq, drawBytes_eq]; change State.memOk _))

/-- PortRetrain keeps memory in canonical form. -/
theorem execPortRetrain_memOk (he : Nat) (trained : Bool) (s : State) (hm : s.memOk) :
    ∃ t, execPortRetrain he trained s = .next t ∧ t.memOk := by
  unfold execPortRetrain
  refine ⟨_, rfl, ?_⟩
  dsimp only [drawNat_eq, drawBytes_eq]
  repeat' (first | with_reducible assumption | split | intro _
                 | (unfold State.memOk; dsimp only [drawNat_eq, drawBytes_eq]; change State.memOk _))

/-- ArpRequest keeps memory in canonical form. -/
theorem execArpRequest_memOk (ep : Nat) (frame : Bytes) (s : State) (hm : s.memOk) :
    ∃ t, execArpRequest ep frame s = .next t ∧ t.memOk := by
  unfold execArpRequest
  refine ⟨_, rfl, ?_⟩
  have ht := takeFrame_memOk s ep frame hm
  split
  · repeat' (first | exact hm | with_reducible apply sendBoot_memOk | split)
  split
  · exact hm
  split
  · next e => rw [e] at ht; exact ht
  · next e =>
    rw [e] at ht
    repeat' (first | exact ht | with_reducible apply countDrop_memOk | with_reducible apply resolve_memOk | split)

/-- NeighborSolicitation keeps memory in canonical form. -/
theorem execNeighborSolicitation_memOk (ep : Nat) (frame : Bytes) (s : State) (hm : s.memOk) :
    ∃ t, execNeighborSolicitation ep frame s = .next t ∧ t.memOk := by
  unfold execNeighborSolicitation
  refine ⟨_, rfl, ?_⟩
  have ht := takeFrame_memOk s ep frame hm
  split
  · repeat' (first | exact hm | with_reducible apply sendBoot_memOk | split)
  split
  · exact hm
  split
  · next e => rw [e] at ht; exact ht
  · next e =>
    rw [e] at ht
    repeat' (first | exact ht | with_reducible apply countDrop_memOk | with_reducible apply resolve_memOk | split)

/-- MkaFrame keeps memory in canonical form. -/
theorem execMkaFrame_memOk (ep peerPrio peerSci : Nat) (peerSak : Option Sak) (s : State) (hm : s.memOk) :
    ∃ t, execMkaFrame ep peerPrio peerSci peerSak s = .next t ∧ t.memOk := by
  unfold execMkaFrame
  refine ⟨_, rfl, ?_⟩
  dsimp only [drawNat_eq, drawBytes_eq]
  repeat' (first | with_reducible assumption | split | intro _
                 | (unfold State.memOk; dsimp only [drawNat_eq, drawBytes_eq]; change State.memOk _))

/-- RelayFrame keeps memory in canonical form. -/
theorem execRelayFrame_memOk (port : Nat) (f : RelayFrame) (s : State) (hm : s.memOk) :
    ∃ t, execRelayFrame port f s = .next t ∧ t.memOk := by
  unfold execRelayFrame
  refine ⟨_, rfl, ?_⟩
  repeat' (first | with_reducible assumption | with_reducible apply sendRelay_memOk
                 | with_reducible apply receive_memOk | split)

/-- RelayReply keeps memory in canonical form. -/
theorem execRelayReply_memOk (f : RelayFrame) (s : State) (hm : s.memOk) :
    ∃ t, execRelayReply f s = .next t ∧ t.memOk := by
  unfold execRelayReply
  refine ⟨_, rfl, ?_⟩
  repeat' (first | with_reducible assumption | with_reducible apply sendRelay_memOk
                 | with_reducible apply sendEth_memOk | split | intro _
                 | (unfold State.memOk; dsimp only [drawNat_eq, drawBytes_eq]; change State.memOk _))

/-- IntakeFrame keeps memory in canonical form. -/
theorem execIntakeFrame_memOk (ep : Nat) (frame : Bytes) (s : State) (hm : s.memOk) :
    ∃ t, execIntakeFrame ep frame s = .next t ∧ t.memOk := by
  unfold execIntakeFrame
  refine ⟨_, rfl, ?_⟩
  repeat' (first | with_reducible assumption | with_reducible apply countIntake_memOk
                 | with_reducible apply takePacket_memOk | with_reducible apply putRec_memOk
                 | with_reducible apply chev_memOk | split | intro _
                 | (unfold State.memOk; dsimp only [drawNat_eq, drawBytes_eq]; change State.memOk _))

/-- FlowIdleExpiry keeps memory in canonical form. -/
theorem execFlowIdleExpiry_memOk (idx : Nat) (s : State) (hm : s.memOk) :
    ∃ t, execFlowIdleExpiry idx s = .next t ∧ t.memOk := by
  unfold execFlowIdleExpiry
  refine ⟨_, rfl, ?_⟩
  repeat' (first | with_reducible assumption | with_reducible apply completeRec_memOk | split)

/-- FlowActiveExpiry keeps memory in canonical form. -/
theorem execFlowActiveExpiry_memOk (idx : Nat) (s : State) (hm : s.memOk) :
    ∃ t, execFlowActiveExpiry idx s = .next t ∧ t.memOk := by
  unfold execFlowActiveExpiry
  refine ⟨_, rfl, ?_⟩
  repeat' (first | with_reducible assumption | with_reducible apply completeRec_memOk | split)

/-- IntakeScore keeps memory in canonical form. -/
theorem execIntakeScore_memOk (s : State) (hm : s.memOk) :
    ∃ t, execIntakeScore s = .next t ∧ t.memOk := by
  unfold execIntakeScore
  refine ⟨_, rfl, ?_⟩
  split
  · exact hm
  · next e =>
    have h := fillIntake_memOk _ ((takeIntake_keeps e).2.2 hm)
    dsimp only
    repeat' (first | exact h | exact scoreRec_memOk _ _ _ _ _ h | split)

/-- IntakeRetry keeps memory in canonical form. -/
theorem execIntakeRetry_memOk (idx : Nat) (s : State) (hm : s.memOk) :
    ∃ t, execIntakeRetry idx s = .next t ∧ t.memOk := by
  unfold execIntakeRetry
  refine ⟨_, rfl, ?_⟩
  repeat' (first | with_reducible assumption | with_reducible apply queueScore_memOk
                 | with_reducible apply modRec_memOk | with_reducible apply chev_memOk | split | intro _
                 | (unfold State.memOk; dsimp only [drawNat_eq, drawBytes_eq]; change State.memOk _))

/-- IntakeResult keeps memory in canonical form. -/
theorem execIntakeResult_memOk (idx : Nat) (s : State) (hm : s.memOk) :
    ∃ t, execIntakeResult idx s = .next t ∧ t.memOk := by
  unfold execIntakeResult
  refine ⟨_, rfl, ?_⟩
  dsimp only [drawNat_eq, drawBytes_eq]
  repeat' (first | with_reducible assumption | with_reducible apply done_memOk | with_reducible apply putRec_memOk
                 | split | intro _
                 | (unfold State.memOk; dsimp only [drawNat_eq, drawBytes_eq]; change State.memOk _))

/-- IntakeNotify keeps memory in canonical form. -/
theorem execIntakeNotify_memOk (s : State) (hm : s.memOk) : ∃ t, execIntakeNotify s = .next t ∧ t.memOk := by
  unfold execIntakeNotify
  refine ⟨_, rfl, ?_⟩
  dsimp only [drawNat_eq, drawBytes_eq]
  repeat' (first | with_reducible assumption | with_reducible apply replyLive_memOk | split | intro _
                 | (unfold State.memOk; dsimp only [drawNat_eq, drawBytes_eq]; change State.memOk _))

/-- ImageCheckBegin keeps memory in canonical form. -/
theorem execImageCheckBegin_memOk (s : State) (hm : s.memOk) : ∃ t, execImageCheckBegin s = .next t ∧ t.memOk := by
  unfold execImageCheckBegin
  refine ⟨_, rfl, ?_⟩
  dsimp only [drawNat_eq, drawBytes_eq]
  repeat' (first | with_reducible assumption | split | intro _
                 | (unfold State.memOk; dsimp only [drawNat_eq, drawBytes_eq]; change State.memOk _))

/-- ImageCheckDone keeps memory in canonical form. -/
theorem execImageCheckDone_memOk (s : State) (hm : s.memOk) :
    ∃ t, execImageCheckDone s = .next t ∧ t.memOk := by
  unfold execImageCheckDone
  refine ⟨_, rfl, ?_⟩
  repeat' (first | with_reducible assumption | with_reducible apply replyLive_memOk
                 | with_reducible apply modChase_memOk | split | intro _
                 | (unfold State.memOk; dsimp only [drawNat_eq, drawBytes_eq]; change State.memOk _))

/-- FenceDrainDone keeps memory in canonical form. -/
theorem execFenceDrainDone_memOk (chase : Nat) (s : State) (hm : s.memOk) :
    ∃ t, execFenceDrainDone chase s = .next t ∧ t.memOk := by
  unfold execFenceDrainDone
  refine ⟨_, rfl, ?_⟩
  dsimp only [drawNat_eq, drawBytes_eq]
  repeat' (first | with_reducible assumption | with_reducible apply assertWaiting_memOk
                 | with_reducible apply zeroiseLeaving_memOk | with_reducible apply reloadKeys_memOk
                 | with_reducible apply zeroiseChase_memOk | with_reducible apply modChase_memOk | split | intro _
                 | (unfold State.memOk; dsimp only [drawNat_eq, drawBytes_eq]; change State.memOk _))

/-- ScrubDone keeps memory in canonical form. -/
theorem execScrubDone_memOk (chase : Nat) (vminFail : List Nat) (s : State) (hm : s.memOk) :
    ∃ t, execScrubDone chase vminFail s = .next t ∧ t.memOk := by
  unfold execScrubDone
  refine ⟨_, rfl, ?_⟩
  repeat' (first | with_reducible assumption | with_reducible apply freeChase_memOk
                 | with_reducible apply scrubVmin_memOk | with_reducible apply scrubChase_memOk
                 | with_reducible apply replyCmd_memOk | with_reducible apply resumeChase_memOk
                 | with_reducible apply modChase_memOk | with_reducible apply orderEnded_memOk | split | intro _
                 | (unfold State.memOk; dsimp only [drawNat_eq, drawBytes_eq]; change State.memOk _))

/-- PageLoadDone keeps memory in canonical form. -/
theorem execPageLoadDone_memOk (chase : Nat) (s : State) (hm : s.memOk) :
    ∃ t, execPageLoadDone chase s = .next t ∧ t.memOk := by
  unfold execPageLoadDone
  refine ⟨_, rfl, ?_⟩
  dsimp only [drawNat_eq, drawBytes_eq]
  repeat' (first | with_reducible assumption | (with_reducible apply foldl_memOk; intro _ _ _)
                 | with_reducible apply loadForme_memOk | with_reducible apply modChase_memOk
                 | with_reducible apply orderEnded_memOk | with_reducible apply replyCmd_memOk | split)

/-- ShadowLoadDone keeps memory in canonical form. -/
theorem execShadowLoadDone_memOk (chase : Nat) (s : State) (hm : s.memOk) :
    ∃ t, execShadowLoadDone chase s = .next t ∧ t.memOk := by
  unfold execShadowLoadDone
  refine ⟨_, rfl, ?_⟩
  dsimp only [drawNat_eq, drawBytes_eq]
  repeat' (first | with_reducible assumption | (with_reducible apply foldl_memOk; intro _ _ _)
                 | with_reducible apply modTile_memOk | with_reducible apply modChase_memOk
                 | with_reducible apply foldl_memOk | with_reducible apply switchTile_memOk
                 | with_reducible apply finishChange_memOk | split)

/-- LockupInject keeps memory in canonical form. -/
theorem execLockupInject_memOk (chase : Nat) (s : State) (hm : s.memOk) :
    ∃ t, execLockupInject chase s = .next t ∧ t.memOk := by
  unfold execLockupInject
  refine ⟨_, rfl, ?_⟩
  dsimp only [drawNat_eq, drawBytes_eq]
  repeat' (first | with_reducible assumption | (with_reducible apply foldl_memOk; intro _ _ _)
                 | with_reducible apply pushFlight_memOk | with_reducible apply modChase_memOk | split)

/-- LockupTake keeps memory in canonical form. -/
theorem execLockupTake_memOk (tile fu input : Nat) (s : State) (hm : s.memOk) :
    ∃ t, execLockupTake tile fu input s = .next t ∧ t.memOk := by
  unfold execLockupTake
  refine ⟨_, rfl, ?_⟩
  repeat' (first | with_reducible assumption | with_reducible apply tryPass_memOk
                 | with_reducible apply modTile_memOk | with_reducible apply fabricFault_memOk
                 | with_reducible apply giveCredit_memOk | split | intro _
                 | (unfold State.memOk; dsimp only [drawNat_eq, drawBytes_eq]; change State.memOk _))

/-- TileSwitch keeps memory in canonical form. -/
theorem execTileSwitch_memOk (tile : Nat) (s : State) (hm : s.memOk) :
    ∃ t, execTileSwitch tile s = .next t ∧ t.memOk := by
  unfold execTileSwitch
  refine ⟨_, rfl, ?_⟩
  dsimp only [drawNat_eq, drawBytes_eq]
  repeat' (first | with_reducible assumption | with_reducible apply finishChange_memOk
                 | with_reducible apply switchTile_memOk | split)

/-- PreloadDone keeps memory in canonical form. -/
theorem execPreloadDone_memOk (tile : Nat) (s : State) (hm : s.memOk) :
    ∃ t, execPreloadDone tile s = .next t ∧ t.memOk := by
  unfold execPreloadDone
  refine ⟨_, rfl, ?_⟩
  dsimp only [drawNat_eq, drawBytes_eq]
  repeat' (first | with_reducible assumption | with_reducible apply modTile_memOk | split)

/-- ChangeTimeout keeps memory in canonical form. -/
theorem execChangeTimeout_memOk (chase : Nat) (s : State) (hm : s.memOk) :
    ∃ t, execChangeTimeout chase s = .next t ∧ t.memOk := by
  unfold execChangeTimeout
  refine ⟨_, rfl, ?_⟩
  dsimp only [drawNat_eq, drawBytes_eq]
  repeat' (first | with_reducible assumption | with_reducible apply formeFault_memOk | split)

/-- TokenEject keeps memory in canonical form. -/
theorem execTokenEject_memOk (k flip : Nat) (s : State) (hm : s.memOk) :
    ∃ t, execTokenEject k flip s = .next t ∧ t.memOk := by
  unfold execTokenEject
  refine ⟨_, rfl, ?_⟩
  dsimp only [drawNat_eq, drawBytes_eq]
  repeat' (first | with_reducible assumption | with_reducible apply fabricFault_memOk
                 | with_reducible apply enqueue_memOk | split | intro _
                 | (unfold State.memOk; dsimp only [drawNat_eq, drawBytes_eq]; change State.memOk _))

/-- TokenTake keeps memory in canonical form. -/
theorem execTokenTake_memOk (tile fu input : Nat) (s : State) (hm : s.memOk) :
    ∃ t, execTokenTake tile fu input s = .next t ∧ t.memOk := by
  unfold execTokenTake
  refine ⟨_, rfl, ?_⟩
  repeat' (first | with_reducible assumption | with_reducible apply stallOn_memOk
                 | with_reducible apply unstallOn_memOk | with_reducible apply fabricFault_memOk
                 | with_reducible apply modTile_memOk | with_reducible apply giveCredit_memOk
                 | with_reducible apply modGalley_memOk | split | intro _
                 | (unfold State.memOk; dsimp only [drawNat_eq, drawBytes_eq]; change State.memOk _))

/-- Fire keeps memory in canonical form. -/
theorem execFire_memOk (tile fu : Nat) (errs : List RegError) (s : State) (hm : s.memOk) :
    ∃ t, execFire tile fu errs s = .next t ∧ t.memOk := by
  unfold execFire
  refine ⟨_, rfl, ?_⟩
  repeat' (first | with_reducible assumption | (with_reducible apply foldl_memOk; intro _ _ _)
                 | with_reducible apply beginFiring_memOk | with_reducible apply tileEvent_memOk
                 | with_reducible apply modTile_memOk | with_reducible apply releaseRead_memOk
                 | with_reducible apply issueRegs_memOk | with_reducible apply fabricFault_memOk | split
                 | intro _ | (unfold State.memOk; dsimp only [drawNat_eq, drawBytes_eq]; change State.memOk _))

/-- BranchFire keeps memory in canonical form. -/
theorem execBranchFire_memOk (tile fu : Nat) (s : State) (hm : s.memOk) :
    ∃ t, execBranchFire tile fu s = .next t ∧ t.memOk := by
  unfold execBranchFire
  refine ⟨_, rfl, ?_⟩
  repeat' (first | with_reducible assumption | with_reducible apply fireNow_memOk)

/-- SelectFire keeps memory in canonical form. -/
theorem execSelectFire_memOk (tile fu : Nat) (s : State) (hm : s.memOk) :
    ∃ t, execSelectFire tile fu s = .next t ∧ t.memOk := by
  unfold execSelectFire
  refine ⟨_, rfl, ?_⟩
  repeat' (first | with_reducible assumption | with_reducible apply fireNow_memOk)

/-- SteerFire keeps memory in canonical form. -/
theorem execSteerFire_memOk (tile fu : Nat) (s : State) (hm : s.memOk) :
    ∃ t, execSteerFire tile fu s = .next t ∧ t.memOk := by
  unfold execSteerFire
  refine ⟨_, rfl, ?_⟩
  repeat' (first | with_reducible assumption | with_reducible apply fireNow_memOk)

/-- MergeFire keeps memory in canonical form. -/
theorem execMergeFire_memOk (tile fu : Nat) (s : State) (hm : s.memOk) :
    ∃ t, execMergeFire tile fu s = .next t ∧ t.memOk := by
  unfold execMergeFire
  refine ⟨_, rfl, ?_⟩
  dsimp only [drawNat_eq, drawBytes_eq]
  repeat' (first | with_reducible assumption | with_reducible apply modTile_memOk
                 | with_reducible apply emitSome_memOk | split)

/-- LoopFire keeps memory in canonical form. -/
theorem execLoopFire_memOk (tile fu : Nat) (s : State) (hm : s.memOk) :
    ∃ t, execLoopFire tile fu s = .next t ∧ t.memOk := by
  unfold execLoopFire
  refine ⟨_, rfl, ?_⟩
  repeat' (first | with_reducible assumption | with_reducible apply emitSome_memOk
                 | with_reducible apply beginFiring_memOk | split)

/-- LoopEmit keeps memory in canonical form. -/
theorem execLoopEmit_memOk (tile fu : Nat) (s : State) (hm : s.memOk) :
    ∃ t, execLoopEmit tile fu s = .next t ∧ t.memOk := by
  unfold execLoopEmit
  refine ⟨_, rfl, ?_⟩
  dsimp only [drawNat_eq, drawBytes_eq]
  repeat' (first | with_reducible assumption | with_reducible apply emitSome_memOk | split)

/-- Emit keeps memory in canonical form. -/
theorem execEmit_memOk (tile fu : Nat) (s : State) (hm : s.memOk) : ∃ t, execEmit tile fu s = .next t ∧ t.memOk := by
  unfold execEmit
  refine ⟨_, rfl, ?_⟩
  dsimp only [drawNat_eq, drawBytes_eq]
  repeat' (first | with_reducible assumption | with_reducible apply emitSome_memOk | split)

/-- CreditReturn keeps memory in canonical form. -/
theorem execCreditReturn_memOk (tile port : Nat) (s : State) (hm : s.memOk) :
    ∃ t, execCreditReturn tile port s = .next t ∧ t.memOk := by
  unfold execCreditReturn
  refine ⟨_, rfl, ?_⟩
  dsimp only [drawNat_eq, drawBytes_eq]
  repeat' (first | with_reducible assumption | with_reducible apply modTile_memOk | split)

/-- GranuleLand keeps memory in canonical form. -/
theorem execGranuleLand_memOk (k : Nat) (s : State) (hm : s.memOk) :
    ∃ t, execGranuleLand k s = .next t ∧ t.memOk := by
  unfold execGranuleLand
  refine ⟨_, rfl, ?_⟩
  dsimp only [drawNat_eq, drawBytes_eq]
  repeat' (first | with_reducible assumption | with_reducible apply modTile_memOk | split | intro _
                 | (unfold State.memOk; dsimp only [drawNat_eq, drawBytes_eq]; change State.memOk _))

/-- BankGrant keeps memory in canonical form. -/
theorem execBankGrant_memOk (tile bank : Nat) (reqs : List BankReq) (s : State) (hm : s.memOk) :
    ∃ t, execBankGrant tile bank reqs s = .next t ∧ t.memOk := by
  unfold execBankGrant
  refine ⟨_, rfl, ?_⟩
  repeat' (first | with_reducible assumption | with_reducible apply bankWaits_memOk
                 | with_reducible apply modTile_memOk | with_reducible apply bankReadEvents_memOk | split
                 | intro _ | (unfold State.memOk; dsimp only [drawNat_eq, drawBytes_eq]; change State.memOk _))

/-- LongGutterRoute keeps memory in canonical form. -/
theorem execLongGutterRoute_memOk (k : Nat) (s : State) (hm : s.memOk) :
    ∃ t, execLongGutterRoute k s = .next t ∧ t.memOk := by
  unfold execLongGutterRoute
  refine ⟨_, rfl, ?_⟩
  dsimp only
  repeat' (first | exact hm | exact deliverUnit_memOk _ _ _ _ _ hm | exact violation_memOk _ hm | split)
  next hs => exact sendUnits_memOk (s := { s with net := dropAt s.net k }) hs hm

/-- CreditToken keeps memory in canonical form. -/
theorem execCreditToken_memOk (k : Nat) (s : State) (hm : s.memOk) :
    ∃ t, execCreditToken k s = .next t ∧ t.memOk := by
  unfold execCreditToken
  refine ⟨_, rfl, ?_⟩
  dsimp only [drawNat_eq, drawBytes_eq]
  repeat' (first | with_reducible assumption | split | intro _
                 | (unfold State.memOk; dsimp only [drawNat_eq, drawBytes_eq]; change State.memOk _))

/-- RemoteCreditFlush keeps memory in canonical form. -/
theorem execRemoteCreditFlush_memOk (k : Nat) (s : State) (hm : s.memOk) :
    ∃ t, execRemoteCreditFlush k s = .next t ∧ t.memOk := by
  unfold execRemoteCreditFlush
  refine ⟨_, rfl, ?_⟩
  dsimp only
  repeat' (first | exact hm | exact deliverUnit_memOk _ _ _ _ _ hm | exact violation_memOk _ hm | split)
  next hs => exact sendUnits_memOk (s := { s with remoteDue := dropAt s.remoteDue k }) hs hm

/-- MisregEvent keeps memory in canonical form. -/
theorem execMisregEvent_memOk (tile fu : Nat) (s : State) (hm : s.memOk) :
    ∃ t, execMisregEvent tile fu s = .next t ∧ t.memOk := by
  unfold execMisregEvent
  refine ⟨_, rfl, ?_⟩
  dsimp only [drawNat_eq, drawBytes_eq]
  repeat' (first | with_reducible assumption | with_reducible apply foldl_memOk | with_reducible apply modTile_memOk
                 | with_reducible apply chev_memOk | with_reducible apply modChase_memOk | split)

/-- Misreg keeps memory in canonical form. -/
theorem execMisreg_memOk (tile fu : Nat) (s : State) (hm : s.memOk) :
    ∃ t, execMisreg tile fu s = .next t ∧ t.memOk := by
  unfold execMisreg
  refine ⟨_, rfl, ?_⟩
  repeat' (first | with_reducible assumption | with_reducible apply formeFault_memOk | split)

/-- Mov keeps memory in canonical form. -/
theorem execMov_memOk (tile fu : Nat) (s : State) (hm : s.memOk) : ∃ t, execMov tile fu s = .next t ∧ t.memOk := by
  unfold execMov
  refine ⟨_, rfl, runSlot_memOk _ _ _ _ _ (fun s k hm => ?_) hm⟩
  repeat' (first | with_reducible assumption | with_reducible apply runSlot_memOk | with_reducible apply unary_memOk)

/-- Ld keeps memory in canonical form. -/
theorem execLd_memOk (tile fu : Nat) (s : State) (hm : s.memOk) : ∃ t, execLd tile fu s = .next t ∧ t.memOk := by
  unfold execLd
  refine ⟨_, rfl, runSlot_memOk _ _ _ _ _ (fun s k hm => ?_) hm⟩
  dsimp only [drawNat_eq, drawBytes_eq]
  repeat' (first | with_reducible assumption | with_reducible apply runSlot_memOk | with_reducible apply modTile_memOk
                 | with_reducible apply addressFault_memOk)

/-- St keeps memory in canonical form. -/
theorem execSt_memOk (tile fu : Nat) (s : State) (hm : s.memOk) : ∃ t, execSt tile fu s = .next t ∧ t.memOk := by
  unfold execSt
  refine ⟨_, rfl, runSlot_memOk _ _ _ _ _ (fun s k hm => ?_) hm⟩
  dsimp only [drawNat_eq, drawBytes_eq]
  repeat' (first | with_reducible assumption | with_reducible apply runSlot_memOk
                 | with_reducible apply addressFault_memOk | with_reducible apply setTile_memOk)

/-- Bcr keeps memory in canonical form. -/
theorem execBcr_memOk (tile fu : Nat) (s : State) (hm : s.memOk) : ∃ t, execBcr tile fu s = .next t ∧ t.memOk := by
  unfold execBcr
  refine ⟨_, rfl, runSlot_memOk _ _ _ _ _ (fun s k hm => ?_) hm⟩
  repeat' (first | with_reducible assumption | with_reducible apply runSlot_memOk
                 | with_reducible apply permute_memOk)

/-- Bcc keeps memory in canonical form. -/
theorem execBcc_memOk (tile fu : Nat) (s : State) (hm : s.memOk) : ∃ t, execBcc tile fu s = .next t ∧ t.memOk := by
  unfold execBcc
  refine ⟨_, rfl, runSlot_memOk _ _ _ _ _ (fun s k hm => ?_) hm⟩
  repeat' (first | with_reducible assumption | with_reducible apply runSlot_memOk
                 | with_reducible apply permute_memOk)

theorem execBcs_memOk (tile fu : Nat) (s : State) (hm : s.memOk) : ∃ t, execBcs tile fu s = .next t ∧ t.memOk := by
  unfold execBcs
  refine ⟨_, rfl, runSlot_memOk _ _ _ _ _ (fun s k hm => ?_) hm⟩
  exact withScalar_memOk _ _ _ (fun e => modTile_memOk _ _ _ hm) hm

/-- Extr keeps memory in canonical form. -/
theorem execExtr_memOk (tile fu : Nat) (s : State) (hm : s.memOk) : ∃ t, execExtr tile fu s = .next t ∧ t.memOk := by
  unfold execExtr
  refine ⟨_, rfl, runSlot_memOk _ _ _ _ _ (fun s k hm => ?_) hm⟩
  dsimp only [drawNat_eq, drawBytes_eq]
  repeat' (first | with_reducible assumption | with_reducible apply runSlot_memOk
                 | with_reducible apply pushScalar_memOk | split)

theorem execIns_memOk (tile fu : Nat) (s : State) (hm : s.memOk) : ∃ t, execIns tile fu s = .next t ∧ t.memOk := by
  unfold execIns
  refine ⟨_, rfl, runSlot_memOk _ _ _ _ _ (fun s k hm => ?_) hm⟩
  exact withScalar_memOk _ _ _ (fun e => modTile_memOk _ _ _ hm) hm

/-- Rotr keeps memory in canonical form. -/
theorem execRotr_memOk (tile fu : Nat) (s : State) (hm : s.memOk) : ∃ t, execRotr tile fu s = .next t ∧ t.memOk := by
  unfold execRotr
  refine ⟨_, rfl, runSlot_memOk _ _ _ _ _ (fun s k hm => ?_) hm⟩
  dsimp only [drawNat_eq, drawBytes_eq]
  repeat' (first | with_reducible assumption | with_reducible apply runSlot_memOk
                 | with_reducible apply permute_memOk)

/-- Rotc keeps memory in canonical form. -/
theorem execRotc_memOk (tile fu : Nat) (s : State) (hm : s.memOk) : ∃ t, execRotc tile fu s = .next t ∧ t.memOk := by
  unfold execRotc
  refine ⟨_, rfl, runSlot_memOk _ _ _ _ _ (fun s k hm => ?_) hm⟩
  repeat' (first | with_reducible assumption | with_reducible apply runSlot_memOk
                 | with_reducible apply permute_memOk)

/-- Trans keeps memory in canonical form. -/
theorem execTrans_memOk (tile fu : Nat) (s : State) (hm : s.memOk) :
    ∃ t, execTrans tile fu s = .next t ∧ t.memOk := by
  unfold execTrans
  refine ⟨_, rfl, runSlot_memOk _ _ _ _ _ (fun s k hm => ?_) hm⟩
  repeat' (first | with_reducible assumption | with_reducible apply runSlot_memOk
                 | with_reducible apply permute_memOk)

/-- Bfly keeps memory in canonical form. -/
theorem execBfly_memOk (tile fu : Nat) (s : State) (hm : s.memOk) : ∃ t, execBfly tile fu s = .next t ∧ t.memOk := by
  unfold execBfly
  refine ⟨_, rfl, runSlot_memOk _ _ _ _ _ (fun s k hm => ?_) hm⟩
  dsimp only [drawNat_eq, drawBytes_eq]
  repeat' (first | with_reducible assumption | with_reducible apply runSlot_memOk
                 | with_reducible apply permute_memOk)

/-- Add keeps memory in canonical form. -/
theorem execAdd_memOk (tile fu : Nat) (s : State) (hm : s.memOk) : ∃ t, execAdd tile fu s = .next t ∧ t.memOk := by
  unfold execAdd
  refine ⟨_, rfl, runSlot_memOk _ _ _ _ _ (fun s k hm => ?_) hm⟩
  repeat' (first | with_reducible assumption | with_reducible apply runSlot_memOk | with_reducible apply binary_memOk)

/-- Sub keeps memory in canonical form. -/
theorem execSub_memOk (tile fu : Nat) (s : State) (hm : s.memOk) : ∃ t, execSub tile fu s = .next t ∧ t.memOk := by
  unfold execSub
  refine ⟨_, rfl, runSlot_memOk _ _ _ _ _ (fun s k hm => ?_) hm⟩
  repeat' (first | with_reducible assumption | with_reducible apply runSlot_memOk | with_reducible apply binary_memOk)

/-- Mul keeps memory in canonical form. -/
theorem execMul_memOk (tile fu : Nat) (s : State) (hm : s.memOk) : ∃ t, execMul tile fu s = .next t ∧ t.memOk := by
  unfold execMul
  refine ⟨_, rfl, runSlot_memOk _ _ _ _ _ (fun s k hm => ?_) hm⟩
  repeat' (first | with_reducible assumption | with_reducible apply runSlot_memOk | with_reducible apply binary_memOk)

/-- Fma keeps memory in canonical form. -/
theorem execFma_memOk (tile fu : Nat) (s : State) (hm : s.memOk) : ∃ t, execFma tile fu s = .next t ∧ t.memOk := by
  unfold execFma
  refine ⟨_, rfl, runSlot_memOk _ _ _ _ _ (fun s k hm => ?_) hm⟩
  dsimp only [drawNat_eq, drawBytes_eq]
  repeat' (first | with_reducible assumption | with_reducible apply runSlot_memOk
                 | with_reducible apply elementwise_memOk)

/-- Div keeps memory in canonical form. -/
theorem execDiv_memOk (tile fu : Nat) (s : State) (hm : s.memOk) : ∃ t, execDiv tile fu s = .next t ∧ t.memOk := by
  unfold execDiv
  refine ⟨_, rfl, runSlot_memOk _ _ _ _ _ (fun s k hm => ?_) hm⟩
  repeat' (first | with_reducible assumption | with_reducible apply runSlot_memOk | with_reducible apply binary_memOk)

/-- Sqrt keeps memory in canonical form. -/
theorem execSqrt_memOk (tile fu : Nat) (s : State) (hm : s.memOk) : ∃ t, execSqrt tile fu s = .next t ∧ t.memOk := by
  unfold execSqrt
  refine ⟨_, rfl, runSlot_memOk _ _ _ _ _ (fun s k hm => ?_) hm⟩
  repeat' (first | with_reducible assumption | with_reducible apply runSlot_memOk | with_reducible apply unary_memOk)

/-- Min keeps memory in canonical form. -/
theorem execMin_memOk (tile fu : Nat) (s : State) (hm : s.memOk) : ∃ t, execMin tile fu s = .next t ∧ t.memOk := by
  unfold execMin
  refine ⟨_, rfl, runSlot_memOk _ _ _ _ _ (fun s k hm => ?_) hm⟩
  repeat' (first | with_reducible assumption | with_reducible apply runSlot_memOk | with_reducible apply binary_memOk)

/-- Max keeps memory in canonical form. -/
theorem execMax_memOk (tile fu : Nat) (s : State) (hm : s.memOk) : ∃ t, execMax tile fu s = .next t ∧ t.memOk := by
  unfold execMax
  refine ⟨_, rfl, runSlot_memOk _ _ _ _ _ (fun s k hm => ?_) hm⟩
  repeat' (first | with_reducible assumption | with_reducible apply runSlot_memOk | with_reducible apply binary_memOk)

/-- Abs keeps memory in canonical form. -/
theorem execAbs_memOk (tile fu : Nat) (s : State) (hm : s.memOk) : ∃ t, execAbs tile fu s = .next t ∧ t.memOk := by
  unfold execAbs
  refine ⟨_, rfl, runSlot_memOk _ _ _ _ _ (fun s k hm => ?_) hm⟩
  repeat' (first | with_reducible assumption | with_reducible apply runSlot_memOk | with_reducible apply unary_memOk)

/-- Neg keeps memory in canonical form. -/
theorem execNeg_memOk (tile fu : Nat) (s : State) (hm : s.memOk) : ∃ t, execNeg tile fu s = .next t ∧ t.memOk := by
  unfold execNeg
  refine ⟨_, rfl, runSlot_memOk _ _ _ _ _ (fun s k hm => ?_) hm⟩
  repeat' (first | with_reducible assumption | with_reducible apply runSlot_memOk | with_reducible apply unary_memOk)

/-- And keeps memory in canonical form. -/
theorem execAnd_memOk (tile fu : Nat) (s : State) (hm : s.memOk) : ∃ t, execAnd tile fu s = .next t ∧ t.memOk := by
  unfold execAnd
  refine ⟨_, rfl, runSlot_memOk _ _ _ _ _ (fun s k hm => ?_) hm⟩
  repeat' (first | with_reducible assumption | with_reducible apply runSlot_memOk
                 | with_reducible apply bitwise_memOk)

/-- Or keeps memory in canonical form. -/
theorem execOr_memOk (tile fu : Nat) (s : State) (hm : s.memOk) : ∃ t, execOr tile fu s = .next t ∧ t.memOk := by
  unfold execOr
  refine ⟨_, rfl, runSlot_memOk _ _ _ _ _ (fun s k hm => ?_) hm⟩
  repeat' (first | with_reducible assumption | with_reducible apply runSlot_memOk
                 | with_reducible apply bitwise_memOk)

/-- Xor keeps memory in canonical form. -/
theorem execXor_memOk (tile fu : Nat) (s : State) (hm : s.memOk) : ∃ t, execXor tile fu s = .next t ∧ t.memOk := by
  unfold execXor
  refine ⟨_, rfl, runSlot_memOk _ _ _ _ _ (fun s k hm => ?_) hm⟩
  repeat' (first | with_reducible assumption | with_reducible apply runSlot_memOk
                 | with_reducible apply bitwise_memOk)

/-- Not keeps memory in canonical form. -/
theorem execNot_memOk (tile fu : Nat) (s : State) (hm : s.memOk) : ∃ t, execNot tile fu s = .next t ∧ t.memOk := by
  unfold execNot
  refine ⟨_, rfl, runSlot_memOk _ _ _ _ _ (fun s k hm => ?_) hm⟩
  repeat' (first | with_reducible assumption | with_reducible apply runSlot_memOk | with_reducible apply unary_memOk)

/-- Shl keeps memory in canonical form. -/
theorem execShl_memOk (tile fu : Nat) (s : State) (hm : s.memOk) : ∃ t, execShl tile fu s = .next t ∧ t.memOk := by
  unfold execShl
  refine ⟨_, rfl, runSlot_memOk _ _ _ _ _ (fun s k hm => ?_) hm⟩
  repeat' (first | with_reducible assumption | with_reducible apply runSlot_memOk | with_reducible apply shift_memOk)

/-- Shr keeps memory in canonical form. -/
theorem execShr_memOk (tile fu : Nat) (s : State) (hm : s.memOk) : ∃ t, execShr tile fu s = .next t ∧ t.memOk := by
  unfold execShr
  refine ⟨_, rfl, runSlot_memOk _ _ _ _ _ (fun s k hm => ?_) hm⟩
  repeat' (first | with_reducible assumption | with_reducible apply runSlot_memOk | with_reducible apply shift_memOk)

/-- Exp keeps memory in canonical form. -/
theorem execExp_memOk (tile fu : Nat) (s : State) (hm : s.memOk) : ∃ t, execExp tile fu s = .next t ∧ t.memOk := by
  unfold execExp
  refine ⟨_, rfl, runSlot_memOk _ _ _ _ _ (fun s k hm => ?_) hm⟩
  repeat' (first | with_reducible assumption | with_reducible apply runSlot_memOk
                 | with_reducible apply transcSlot_memOk)

/-- Log keeps memory in canonical form. -/
theorem execLog_memOk (tile fu : Nat) (s : State) (hm : s.memOk) : ∃ t, execLog tile fu s = .next t ∧ t.memOk := by
  unfold execLog
  refine ⟨_, rfl, runSlot_memOk _ _ _ _ _ (fun s k hm => ?_) hm⟩
  repeat' (first | with_reducible assumption | with_reducible apply runSlot_memOk
                 | with_reducible apply transcSlot_memOk)

/-- Rsqrt keeps memory in canonical form. -/
theorem execRsqrt_memOk (tile fu : Nat) (s : State) (hm : s.memOk) :
    ∃ t, execRsqrt tile fu s = .next t ∧ t.memOk := by
  unfold execRsqrt
  refine ⟨_, rfl, runSlot_memOk _ _ _ _ _ (fun s k hm => ?_) hm⟩
  repeat' (first | with_reducible assumption | with_reducible apply runSlot_memOk
                 | with_reducible apply transcSlot_memOk)

/-- Tanh keeps memory in canonical form. -/
theorem execTanh_memOk (tile fu : Nat) (s : State) (hm : s.memOk) : ∃ t, execTanh tile fu s = .next t ∧ t.memOk := by
  unfold execTanh
  refine ⟨_, rfl, runSlot_memOk _ _ _ _ _ (fun s k hm => ?_) hm⟩
  repeat' (first | with_reducible assumption | with_reducible apply runSlot_memOk
                 | with_reducible apply transcSlot_memOk)

/-- Erf keeps memory in canonical form. -/
theorem execErf_memOk (tile fu : Nat) (s : State) (hm : s.memOk) : ∃ t, execErf tile fu s = .next t ∧ t.memOk := by
  unfold execErf
  refine ⟨_, rfl, runSlot_memOk _ _ _ _ _ (fun s k hm => ?_) hm⟩
  repeat' (first | with_reducible assumption | with_reducible apply runSlot_memOk
                 | with_reducible apply transcSlot_memOk)

/-- Cmp keeps memory in canonical form. -/
theorem execCmp_memOk (tile fu : Nat) (s : State) (hm : s.memOk) : ∃ t, execCmp tile fu s = .next t ∧ t.memOk := by
  unfold execCmp
  refine ⟨_, rfl, runSlot_memOk _ _ _ _ _ (fun s k hm => ?_) hm⟩
  dsimp only [drawNat_eq, drawBytes_eq]
  repeat' (first | with_reducible assumption | with_reducible apply runSlot_memOk
                 | with_reducible apply modTile_memOk)

/-- Sel keeps memory in canonical form. -/
theorem execSel_memOk (tile fu : Nat) (s : State) (hm : s.memOk) : ∃ t, execSel tile fu s = .next t ∧ t.memOk := by
  unfold execSel
  refine ⟨_, rfl, runSlot_memOk _ _ _ _ _ (fun s k hm => ?_) hm⟩
  dsimp only [drawNat_eq, drawBytes_eq]
  repeat' (first | with_reducible assumption | with_reducible apply runSlot_memOk
                 | with_reducible apply modTile_memOk)

/-- Cvt keeps memory in canonical form. -/
theorem execCvt_memOk (tile fu : Nat) (s : State) (hm : s.memOk) : ∃ t, execCvt tile fu s = .next t ∧ t.memOk := by
  unfold execCvt
  refine ⟨_, rfl, runSlot_memOk _ _ _ _ _ (fun s k hm => ?_) hm⟩
  dsimp only [drawNat_eq, drawBytes_eq]
  repeat' (first | with_reducible assumption | with_reducible apply runSlot_memOk
                 | with_reducible apply elementwise_memOk)

/-- Mpop keeps memory in canonical form. -/
theorem execMpop_memOk (tile fu : Nat) (s : State) (hm : s.memOk) : ∃ t, execMpop tile fu s = .next t ∧ t.memOk := by
  unfold execMpop
  refine ⟨_, rfl, runSlot_memOk _ _ _ _ _ (fun s k hm => ?_) hm⟩
  dsimp only [drawNat_eq, drawBytes_eq]
  repeat' (first | with_reducible assumption | with_reducible apply runSlot_memOk
                 | with_reducible apply pushScalar_memOk)

/-- Mand keeps memory in canonical form. -/
theorem execMand_memOk (tile fu : Nat) (s : State) (hm : s.memOk) : ∃ t, execMand tile fu s = .next t ∧ t.memOk := by
  unfold execMand
  refine ⟨_, rfl, runSlot_memOk _ _ _ _ _ (fun s k hm => ?_) hm⟩
  repeat' (first | with_reducible assumption | with_reducible apply runSlot_memOk | with_reducible apply maskOp_memOk)

/-- Mor keeps memory in canonical form. -/
theorem execMor_memOk (tile fu : Nat) (s : State) (hm : s.memOk) : ∃ t, execMor tile fu s = .next t ∧ t.memOk := by
  unfold execMor
  refine ⟨_, rfl, runSlot_memOk _ _ _ _ _ (fun s k hm => ?_) hm⟩
  repeat' (first | with_reducible assumption | with_reducible apply runSlot_memOk | with_reducible apply maskOp_memOk)

/-- Mxor keeps memory in canonical form. -/
theorem execMxor_memOk (tile fu : Nat) (s : State) (hm : s.memOk) : ∃ t, execMxor tile fu s = .next t ∧ t.memOk := by
  unfold execMxor
  refine ⟨_, rfl, runSlot_memOk _ _ _ _ _ (fun s k hm => ?_) hm⟩
  repeat' (first | with_reducible assumption | with_reducible apply runSlot_memOk | with_reducible apply maskOp_memOk)

/-- Mnot keeps memory in canonical form. -/
theorem execMnot_memOk (tile fu : Nat) (s : State) (hm : s.memOk) : ∃ t, execMnot tile fu s = .next t ∧ t.memOk := by
  unfold execMnot
  refine ⟨_, rfl, runSlot_memOk _ _ _ _ _ (fun s k hm => ?_) hm⟩
  repeat' (first | with_reducible assumption | with_reducible apply runSlot_memOk | with_reducible apply maskOp_memOk)

/-- Rsum keeps memory in canonical form. -/
theorem execRsum_memOk (tile fu : Nat) (s : State) (hm : s.memOk) : ∃ t, execRsum tile fu s = .next t ∧ t.memOk := by
  unfold execRsum
  refine ⟨_, rfl, runSlot_memOk _ _ _ _ _ (fun s k hm => ?_) hm⟩
  repeat' (first | with_reducible assumption | with_reducible apply runSlot_memOk | with_reducible apply reduce_memOk)

/-- Rmax keeps memory in canonical form. -/
theorem execRmax_memOk (tile fu : Nat) (s : State) (hm : s.memOk) : ∃ t, execRmax tile fu s = .next t ∧ t.memOk := by
  unfold execRmax
  refine ⟨_, rfl, runSlot_memOk _ _ _ _ _ (fun s k hm => ?_) hm⟩
  repeat' (first | with_reducible assumption | with_reducible apply runSlot_memOk | with_reducible apply reduce_memOk)

/-- Rmin keeps memory in canonical form. -/
theorem execRmin_memOk (tile fu : Nat) (s : State) (hm : s.memOk) : ∃ t, execRmin tile fu s = .next t ∧ t.memOk := by
  unfold execRmin
  refine ⟨_, rfl, runSlot_memOk _ _ _ _ _ (fun s k hm => ?_) hm⟩
  repeat' (first | with_reducible assumption | with_reducible apply runSlot_memOk | with_reducible apply reduce_memOk)

theorem execGadd_memOk (tile fu : Nat) (s : State) (hm : s.memOk) : ∃ t, execGadd tile fu s = .next t ∧ t.memOk := by
  unfold execGadd
  refine ⟨_, rfl, runSlot_memOk _ _ _ _ _ (fun s k hm => ?_) hm⟩
  exact withScalar_memOk _ _ _ (fun e => modTile_memOk _ _ _ hm) hm

/-- Vmul keeps memory in canonical form. -/
theorem execVmul_memOk (tile fu : Nat) (s : State) (hm : s.memOk) : ∃ t, execVmul tile fu s = .next t ∧ t.memOk := by
  unfold execVmul
  refine ⟨_, rfl, runSlot_memOk _ _ _ _ _ (fun s k hm => ?_) hm⟩
  repeat' (first | with_reducible assumption | with_reducible apply runSlot_memOk | with_reducible apply binary_memOk)

/-- Vdiv keeps memory in canonical form. -/
theorem execVdiv_memOk (tile fu : Nat) (s : State) (hm : s.memOk) : ∃ t, execVdiv tile fu s = .next t ∧ t.memOk := by
  unfold execVdiv
  refine ⟨_, rfl, runSlot_memOk _ _ _ _ _ (fun s k hm => ?_) hm⟩
  repeat' (first | with_reducible assumption | with_reducible apply runSlot_memOk | with_reducible apply binary_memOk)

/-- Frd keeps memory in canonical form. -/
theorem execFrd_memOk (tile fu : Nat) (s : State) (hm : s.memOk) : ∃ t, execFrd tile fu s = .next t ∧ t.memOk := by
  unfold execFrd
  refine ⟨_, rfl, runSlot_memOk _ _ _ _ _ (fun s k hm => ?_) hm⟩
  dsimp only [drawNat_eq, drawBytes_eq]
  repeat' (first | with_reducible assumption | with_reducible apply runSlot_memOk
                 | with_reducible apply modTile_memOk)

/-- Fprd keeps memory in canonical form. -/
theorem execFprd_memOk (tile fu : Nat) (s : State) (hm : s.memOk) : ∃ t, execFprd tile fu s = .next t ∧ t.memOk := by
  unfold execFprd
  refine ⟨_, rfl, runSlot_memOk _ _ _ _ _ (fun s k hm => ?_) hm⟩
  dsimp only [drawNat_eq, drawBytes_eq]
  repeat' (first | with_reducible assumption | with_reducible apply runSlot_memOk
                 | with_reducible apply modTile_memOk)

/-- Fsum keeps memory in canonical form. -/
theorem execFsum_memOk (tile fu : Nat) (s : State) (hm : s.memOk) : ∃ t, execFsum tile fu s = .next t ∧ t.memOk := by
  unfold execFsum
  refine ⟨_, rfl, runSlot_memOk _ _ _ _ _ (fun s k hm => ?_) hm⟩
  repeat' (first | with_reducible assumption | with_reducible apply runSlot_memOk
                 | with_reducible apply pushScalar_memOk)

/-- Fclr keeps memory in canonical form. -/
theorem execFclr_memOk (tile fu : Nat) (s : State) (hm : s.memOk) : ∃ t, execFclr tile fu s = .next t ∧ t.memOk := by
  unfold execFclr
  refine ⟨_, rfl, runSlot_memOk _ _ _ _ _ (fun s k hm => ?_) hm⟩
  repeat' (first | with_reducible assumption | with_reducible apply runSlot_memOk
                 | with_reducible apply modTile_memOk)

/-- Pmac keeps memory in canonical form. -/
theorem execPmac_memOk (tile fu : Nat) (s : State) (hm : s.memOk) :
    ∃ t, execPmac tile fu s = .next t ∧ t.memOk := by
  unfold execPmac
  refine ⟨_, rfl, ite_memOk hm (runSlot_memOk _ _ _ _ _ (fun s k hm => ?_) hm)⟩
  exact pmac_memOk _ _ hm

/-- FillStart keeps memory in canonical form. -/
theorem execFillStart_memOk (feeder tile tid : Nat) (errs : List (Nat × Nat)) (s : State) (hm : s.memOk) :
    ∃ t, execFillStart feeder tile tid errs s = .next t ∧ t.memOk := by
  unfold execFillStart
  refine ⟨_, rfl, ?_⟩
  dsimp only
  repeat' (first | exact hm | with_reducible apply stall_memOk | with_reducible apply unstall_memOk
                 | with_reducible apply grantWindow_memOk | with_reducible apply modReq_memOk | with_reducible apply modGalley_memOk
                 | exact fetch_memOk ‹InGalley.fetch _ _ _ = Except.ok _› hm | split
                 | (unfold State.memOk; dsimp only; change State.memOk _))

/-- FillComplete keeps memory in canonical form. -/
theorem execFillComplete_memOk (k : Nat) (s : State) (hm : s.memOk) :
    ∃ t, execFillComplete k s = .next t ∧ t.memOk := by
  unfold execFillComplete
  refine ⟨_, rfl, ?_⟩
  dsimp only
  split
  · exact hm
  · split
    · exact hm
    · next f _ _ g _ =>
      split
      · exact stall_memOk _ _ _ _ hm
      · next p t gs hr =>
        have ht : t.memOk := by
          split at hr
          · cases hr; exact hm
          · exact fetch_memOk hr hm
        repeat' (first | exact ht | with_reducible assumption | with_reducible apply entryCreditOr_memOk
                         | with_reducible apply injectChunk_memOk | with_reducible apply galleyDone_memOk
                         | with_reducible apply injectEnd_memOk | split | intro _
                         | (unfold State.memOk; dsimp only; change State.memOk _))

/-- SlotRelease keeps memory in canonical form. -/
theorem execSlotRelease_memOk (tile tid slot : Nat) (s : State) (hm : s.memOk) :
    ∃ t, execSlotRelease tile tid slot s = .next t ∧ t.memOk := by
  unfold execSlotRelease
  refine ⟨_, rfl, ?_⟩
  dsimp only [drawNat_eq, drawBytes_eq]
  repeat' (first | with_reducible assumption | with_reducible apply modGalley_memOk | split)

/-- SlipIn keeps memory in canonical form. -/
theorem execSlipIn_memOk (tile tid : Nat) (errs : List (Nat × Nat)) (s : State) (hm : s.memOk) :
    ∃ t, execSlipIn tile tid errs s = .next t ∧ t.memOk := by
  unfold execSlipIn
  refine ⟨_, rfl, ?_⟩
  dsimp only [drawNat_eq, drawBytes_eq]
  repeat' (first | with_reducible assumption | with_reducible apply entryCreditOr_memOk
                 | with_reducible apply injectEnd_memOk | with_reducible apply modReq_memOk
                 | with_reducible apply injectChunk_memOk | with_reducible apply modGalley_memOk | split | intro _)

/-- SlipOut keeps memory in canonical form. -/
theorem execSlipOut_memOk (tile tid : Nat) (errs : List (Nat × Nat)) (s : State) (hm : s.memOk) :
    ∃ t, execSlipOut tile tid errs s = .next t ∧ t.memOk := by
  unfold execSlipOut
  refine ⟨_, rfl, ?_⟩
  dsimp only [drawNat_eq, drawBytes_eq]
  repeat' (first | with_reducible assumption | with_reducible apply toReply_memOk
                 | with_reducible apply outputWritten_memOk | split)

/-- DrainTake keeps memory in canonical form. -/
theorem execDrainTake_memOk (tile tid : Nat) (s : State) (hm : s.memOk) :
    ∃ t, execDrainTake tile tid s = .next t ∧ t.memOk := by
  unfold execDrainTake
  refine ⟨_, rfl, ?_⟩
  dsimp only [drawNat_eq, drawBytes_eq]
  repeat' (first | with_reducible assumption | with_reducible apply drainLockup_memOk
                 | with_reducible apply stall_memOk | with_reducible apply modTile_memOk
                 | with_reducible apply releaseLanding_memOk | with_reducible apply giveCredit_memOk
                 | with_reducible apply unstall_memOk | with_reducible apply fabricFault_memOk
                 | with_reducible apply modGalley_memOk | split)

/-- DrainWrite keeps memory in canonical form. -/
theorem execDrainWrite_memOk (tile tid : Nat) (errs : List (Nat × Nat)) (s : State) (hm : s.memOk) :
    ∃ t, execDrainWrite tile tid errs s = .next t ∧ t.memOk := by
  unfold execDrainWrite
  refine ⟨_, rfl, ?_⟩
  repeat' (first | with_reducible assumption | with_reducible apply stall_memOk
                 | with_reducible apply toReply_memOk | with_reducible apply writeTensor_memOk
                 | with_reducible apply modGalley_memOk | with_reducible apply modTile_memOk
                 | with_reducible apply unstall_memOk | with_reducible apply outputWritten_memOk | split
                 | intro _ | (unfold State.memOk; dsimp only [drawNat_eq, drawBytes_eq]; change State.memOk _))

theorem fallBack_memOk {s s' : State} {n : Nat} {r : Req} (h : fallBack s n r = some s') (hm : s.memOk) :
    s'.memOk := by
  unfold fallBack at h
  dsimp only at h
  split at h
  · cases h
  · split at h
    · cases h
    · simp only [Option.map_eq_some_iff] at h
      obtain ⟨p, -, rfl⟩ := h
      exact readyNext_memOk _ _ (modReq_memOk _ _ _ (dropHolds_memOk _ _ _ _ hm))

theorem monitor_memOk {s s' : State} {n : Nat} {r : Req} {p : Pass} (h : monitor s n r p = some s') (hm : s.memOk) :
    s'.memOk := by
  unfold monitor at h
  split at h
  · cases h
  · split at h
    · exact fallBack_memOk h hm
    · cases h; exact endReq_memOk _ _ _ _ _ _ (modReq_memOk _ _ _ hm)
    · cases h

theorem execPassBegin_memOk (chase forme : Nat) (s : State) (hm : s.memOk) :
    ∃ t, execPassBegin chase forme s = .next t ∧ t.memOk := by
  unfold execPassBegin
  refine ⟨_, rfl, ?_⟩
  dsimp only
  repeat' (first | with_reducible assumption | with_reducible apply beginPass_memOk
                 | with_reducible apply acquire_memOk | split)
  next hs => exact monitor_memOk hs hm

/-- WalkComplete keeps memory in canonical form. -/
theorem execWalkComplete_memOk (req : Nat) (s : State) (hm : s.memOk) :
    ∃ t, execWalkComplete req s = .next t ∧ t.memOk := by
  unfold execWalkComplete
  refine ⟨_, rfl, ?_⟩
  dsimp only [drawNat_eq, drawBytes_eq]
  repeat' (first | with_reducible assumption | with_reducible apply setConc_memOk
                 | with_reducible apply modChase_memOk | with_reducible apply readyNext_memOk
                 | with_reducible apply modReq_memOk | split)

/-- CompositorRow keeps memory in canonical form. -/
theorem execCompositorRow_memOk (die : Nat) (s : State) (hm : s.memOk) :
    ∃ t, execCompositorRow die s = .next t ∧ t.memOk := by
  unfold execCompositorRow
  refine ⟨_, rfl, ?_⟩
  repeat' (first | with_reducible assumption | (with_reducible apply foldl_memOk; intro _ _ _)
                 | with_reducible apply foldl_memOk | with_reducible apply done_memOk
                 | with_reducible apply compWaits_memOk | with_reducible apply drawFor_memOk | split | intro _
                 | (unfold State.memOk; dsimp only [drawNat_eq, drawBytes_eq]; change State.memOk _))

/-- Commit keeps memory in canonical form. -/
theorem execCommit_memOk (req : Nat) (s : State) (hm : s.memOk) : ∃ t, execCommit req s = .next t ∧ t.memOk := by
  unfold execCommit
  refine ⟨_, rfl, ?_⟩
  dsimp only [drawNat_eq, drawBytes_eq]
  repeat' (first | with_reducible assumption | with_reducible apply modReq_memOk | with_reducible apply stopReq_memOk
                 | with_reducible apply sendPartial_memOk | with_reducible apply endRound_memOk | split)

/-- StepHold keeps memory in canonical form. -/
theorem execStepHold_memOk (req : Nat) (s : State) (hm : s.memOk) : ∃ t, execStepHold req s = .next t ∧ t.memOk := by
  unfold execStepHold
  refine ⟨_, rfl, ?_⟩
  repeat' (first | with_reducible assumption | with_reducible apply acquire_memOk | split)

/-- GranuleRead keeps memory in canonical form. -/
theorem execGranuleRead_memOk (isH : Bool) (pa : Nat) (reader : Option Nat) (outs : List GranuleOutcome) (s : State) (hm : s.memOk) :
    ∃ t, execGranuleRead isH pa reader outs s = .next t ∧ t.memOk := by
  unfold execGranuleRead
  refine ⟨_, rfl, ?_⟩
  have hr := readGranule_memOk s isH pa outs hm
  repeat' (first | exact hm | exact hr | exact stallMem_memOk _ _ _ hm | split)
  all_goals next e =>
    rw [e] at hr
    first | exact hr | exact countSpoiled_memOk _ _ _ hr

/-- GranuleWrite keeps memory in canonical form. -/
theorem execGranuleWrite_memOk (isH : Bool) (pa chase : Nat) (data : Bytes) (strobe : List Bool) (spoiled : Bool) (outs : List GranuleOutcome)
    (s : State) (hm : s.memOk) :
    ∃ t, execGranuleWrite isH pa chase data strobe spoiled outs s = .next t ∧ t.memOk := by
  unfold execGranuleWrite
  refine ⟨_, rfl, ?_⟩
  have hr := accessTries_memOk 4 s isH pa outs hm
  have hp : ∀ {s : State} (d : Bytes) (b : Bool), s.memOk →
      (setTier s isH (granulePut (tier s isH) isH (pa / 64 * 64) d b)).memOk := fun _ _ hm =>
    setTier_memOk _ _ _ hm (granulePut_wf _ _ _ _ _ (tier_ok _ isH hm))
  dsimp only
  split
  · exact hm
  · split
    · exact stallMem_memOk _ _ _ hm
    · split
      · exact countMem_memOk _ _ _ _ hm
      · split
        · next e => rw [e] at hr; exact hr
        · next e =>
          rw [e] at hr
          split
          · exact hp _ _ hr
          · exact hp _ _ (decodeGranule_memOk _ _ _ _ hr)

/-- RetrainDone keeps memory in canonical form. -/
theorem execRetrainDone_memOk (isH : Bool) (chan : Nat) (ok : Bool) (s : State) (hm : s.memOk) :
    ∃ t, execRetrainDone isH chan ok s = .next t ∧ t.memOk := by
  unfold execRetrainDone
  refine ⟨_, rfl, ?_⟩
  have hk (m : TierMem) (e : m.bytes = (tier s isH).bytes) : (setTier s isH m).memOk :=
    setTier_memOk _ _ _ hm (by unfold TierMem.ok; rw [e]; exact tier_ok s isH hm)
  dsimp only
  split
  · exact hm
  · exact memResume_memOk _ _ (ite_memOk (healthEvent_memOk _ _ (hk _ rfl)) (ite_memOk (healthEvent_memOk _ _ (hk _ rfl)) (hk _ rfl)))

/-- SoftPpr keeps memory in canonical form. -/
theorem execSoftPpr_memOk (isH : Bool) (row : Nat) (spare : Bool) (s : State) (hm : s.memOk) :
    ∃ t, execSoftPpr isH row spare s = .next t ∧ t.memOk := by
  unfold execSoftPpr
  refine ⟨_, rfl, ?_⟩
  have hk (m : TierMem) (e : m.bytes = (tier s isH).bytes) : (setTier s isH m).memOk :=
    setTier_memOk _ _ _ hm (by unfold TierMem.ok; rw [e]; exact tier_ok s isH hm)
  dsimp only
  split
  · exact hm
  · exact memResume_memOk _ _ (ite_memOk (hk _ rfl) (healthEvent_memOk _ _ (hk _ rfl)))

/-- PatrolRead keeps memory in canonical form. -/
theorem execPatrolRead_memOk (isH : Bool) (outs : List GranuleOutcome) (s : State) (hm : s.memOk) :
    ∃ t, execPatrolRead isH outs s = .next t ∧ t.memOk := by
  unfold execPatrolRead
  refine ⟨_, rfl, ?_⟩
  have hr := readGranule_memOk s isH (patrolFrom 6 s isH (tier s isH).patrol) outs hm
  dsimp only
  split
  · exact hm
  · split
    · next e => rw [e] at hr; exact hr
    · next e => rw [e] at hr; exact setTier_memOk _ _ _ hr (tier_ok _ isH hr)

theorem execGranuleJoin_memOk (chase : Nat) (isH : Bool) (g : Nat) (s : State) (hm : s.memOk) :
    ∃ t, execGranuleJoin chase isH g s = .next t ∧ t.memOk := by
  unfold execGranuleJoin
  refine ⟨_, rfl, ?_⟩
  have hk : (setTier s isH (zeroGranule (tier s isH) isH g)).memOk :=
    setTier_memOk _ _ _ hm (zeroGranule_wf _ _ _ (tier_ok _ isH hm))
  dsimp only
  repeat' (first | with_reducible assumption | with_reducible apply replyCmd_memOk
                 | with_reducible apply beginShareFence_memOk | with_reducible apply modChase_memOk | split)

/-- MoveComplete keeps memory in canonical form. -/
theorem execMoveComplete_memOk (chase objId : Nat) (s : State) (hm : s.memOk) :
    ∃ t, execMoveComplete chase objId s = .next t ∧ t.memOk := by
  unfold execMoveComplete
  refine ⟨_, rfl, ?_⟩
  repeat' (first | with_reducible assumption | with_reducible apply stallMem_memOk
                 | with_reducible apply copyBlocks_memOk | with_reducible apply modObj_memOk
                 | with_reducible apply fitMeta_memOk | with_reducible apply replyCmd_memOk
                 | with_reducible apply wakeObj_memOk | split | intro _
                 | (unfold State.memOk; dsimp only [drawNat_eq, drawBytes_eq]; change State.memOk _))

/-- WindowFill keeps memory in canonical form. -/
theorem execWindowFill_memOk (chase objId block : Nat) (s : State) (hm : s.memOk) :
    ∃ t, execWindowFill chase objId block s = .next t ∧ t.memOk := by
  unfold execWindowFill
  refine ⟨_, rfl, ?_⟩
  repeat' (first | with_reducible assumption | with_reducible apply stallMem_memOk
                 | with_reducible apply copyBlock_memOk | with_reducible apply modObj_memOk | split | intro _
                 | (unfold State.memOk; dsimp only [drawNat_eq, drawBytes_eq]; change State.memOk _))

/-- FaultDetect keeps memory in canonical form. -/
theorem execFaultDetect_memOk (f : FaultInfo) (s : State) (hm : s.memOk) :
    ∃ t, execFaultDetect f s = .next t ∧ t.memOk := by
  unfold execFaultDetect
  refine ⟨_, rfl, ?_⟩
  repeat' (first | with_reducible assumption | with_reducible apply formeFault_memOk
                 | with_reducible apply tileEvent_memOk | with_reducible apply beginReset_memOk | split
                 | intro _ | (unfold State.memOk; dsimp only [drawNat_eq, drawBytes_eq]; change State.memOk _))

/-- CaptureDone keeps memory in canonical form. -/
theorem execCaptureDone_memOk (domain : Nat) (s : State) (hm : s.memOk) :
    ∃ t, execCaptureDone domain s = .next t ∧ t.memOk := by
  unfold execCaptureDone
  refine ⟨_, rfl, ?_⟩
  dsimp only [drawNat_eq, drawBytes_eq]
  repeat' (first | with_reducible assumption | (with_reducible apply foldl_memOk; intro _ _ _)
                 | with_reducible apply foldl_memOk | with_reducible apply modReset_memOk | split | intro _
                 | (unfold State.memOk; dsimp only [drawNat_eq, drawBytes_eq]; change State.memOk _))

/-- PullDrainDone keeps memory in canonical form. -/
theorem execPullDrainDone_memOk (domain : Nat) (s : State) (hm : s.memOk) :
    ∃ t, execPullDrainDone domain s = .next t ∧ t.memOk := by
  unfold execPullDrainDone
  refine ⟨_, rfl, ?_⟩
  dsimp only [drawNat_eq, drawBytes_eq]
  repeat' (first | with_reducible assumption | (with_reducible apply foldl_memOk; intro _ _ _)
                 | with_reducible apply storePull_memOk | with_reducible apply makePull_memOk
                 | with_reducible apply modReset_memOk | split | intro _
                 | (unfold State.memOk; dsimp only [drawNat_eq, drawBytes_eq]; change State.memOk _))

/-- ResetLineAssert keeps memory in canonical form. -/
theorem execResetLineAssert_memOk (domain : Nat) (s : State) (hm : s.memOk) :
    ∃ t, execResetLineAssert domain s = .next t ∧ t.memOk := by
  unfold execResetLineAssert
  refine ⟨_, rfl, ?_⟩
  repeat' (first | with_reducible assumption | with_reducible apply modReset_memOk
                 | with_reducible apply modPort_memOk | split | intro _
                 | (unfold State.memOk; dsimp only [drawNat_eq, drawBytes_eq]; change State.memOk _))

/-- DomainResetComplete keeps memory in canonical form. -/
theorem execDomainResetComplete_memOk (domain : Nat) (s : State) (hm : s.memOk) :
    ∃ t, execDomainResetComplete domain s = .next t ∧ t.memOk := by
  unfold execDomainResetComplete
  refine ⟨_, rfl, ?_⟩
  repeat' (first | with_reducible assumption | (with_reducible apply foldl_memOk; intro _ _ _)
                 | with_reducible apply healthEvent_memOk | with_reducible apply retireTile_memOk
                 | with_reducible apply outOfService_memOk | with_reducible apply depart_memOk
                 | with_reducible apply memResume_memOk | with_reducible apply reloadDieKeys_memOk
                 | with_reducible apply scrubChase_memOk | with_reducible apply resumeChase_memOk | split
                 | intro _ | (unfold State.memOk; dsimp only [drawNat_eq, drawBytes_eq]; change State.memOk _))

/-- FiringWd keeps memory in canonical form. -/
theorem execFiringWd_memOk (tile fu : Nat) (s : State) (hm : s.memOk) :
    ∃ t, execFiringWd tile fu s = .next t ∧ t.memOk := by
  unfold execFiringWd
  refine ⟨_, rfl, ?_⟩
  repeat' (first | with_reducible assumption | with_reducible apply beginReset_memOk | split)

/-- Progress keeps memory in canonical form. -/
theorem execProgress_memOk (req : Nat) (s : State) (hm : s.memOk) : ∃ t, execProgress req s = .next t ∧ t.memOk := by
  unfold execProgress
  refine ⟨_, rfl, ?_⟩
  dsimp only [drawNat_eq, drawBytes_eq]
  repeat' (first | with_reducible assumption | with_reducible apply formeFault_memOk | split)

/-- CommandWd keeps memory in canonical form. -/
theorem execCommandWd_memOk (kind n : Nat) (s : State) (hm : s.memOk) :
    ∃ t, execCommandWd kind n s = .next t ∧ t.memOk := by
  unfold execCommandWd
  refine ⟨_, rfl, ?_⟩
  dsimp only [drawNat_eq, drawBytes_eq]
  repeat' (first | with_reducible assumption | with_reducible apply beginReset_memOk | split)

/-- PackageReset keeps memory in canonical form. -/
theorem execPackageReset_memOk (code domain : Nat) (s : State) (hm : s.memOk) :
    ∃ t, execPackageReset code domain s = .next t ∧ t.memOk := by
  unfold execPackageReset
  refine ⟨_, rfl, ?_⟩
  repeat' (first | with_reducible assumption | with_reducible apply packageReset_memOk | split)

/-- WearSample keeps memory in canonical form. -/
theorem execWearSample_memOk (phys delay : Nat) (s : State) (hm : s.memOk) :
    ∃ t, execWearSample phys delay s = .next t ∧ t.memOk := by
  unfold execWearSample
  refine ⟨_, rfl, ?_⟩
  dsimp only [drawNat_eq, drawBytes_eq]
  repeat' (first | with_reducible assumption | with_reducible apply modSpare_memOk
                 | with_reducible apply retireTile_memOk | split)

/-- PhaseRetire keeps memory in canonical form. -/
theorem execPhaseRetire_memOk (rail phase charge : Nat) (uneven : Bool) (s : State) (hm : s.memOk) :
    ∃ t, execPhaseRetire rail phase charge uneven s = .next t ∧ t.memOk := by
  unfold execPhaseRetire
  refine ⟨_, rfl, ?_⟩
  repeat' (first | with_reducible assumption | with_reducible apply healthEvent_memOk | split | intro _
                 | (unfold State.memOk; dsimp only [drawNat_eq, drawBytes_eq]; change State.memOk _))

/-- DiscoveryMsg keeps memory in canonical form. -/
theorem execDiscoveryMsg_memOk (port : Nat) (m : DiscoveryMsg) (s : State) (hm : s.memOk) :
    ∃ t, execDiscoveryMsg port m s = .next t ∧ t.memOk := by
  unfold execDiscoveryMsg
  refine ⟨_, rfl, ?_⟩
  dsimp only [drawNat_eq, drawBytes_eq]
  repeat' (first | with_reducible assumption | with_reducible apply modPort_memOk | split)

/-- LinkFrame keeps memory in canonical form. -/
theorem execLinkFrame_memOk (port : Nat) (frame : Option Bytes) (side : List (Bool × Bool)) (s : State) (hm : s.memOk) :
    ∃ t, execLinkFrame port frame side s = .next t ∧ t.memOk := by
  unfold execLinkFrame
  refine ⟨_, rfl, ?_⟩
  repeat' (first | with_reducible assumption | with_reducible apply sendCtl_memOk
                 | with_reducible apply badFrame_memOk | with_reducible apply modPort_memOk
                 | with_reducible apply answerFrame_memOk | with_reducible apply takeUnits_memOk
                 | with_reducible apply side_memOk | split | intro _
                 | (unfold State.memOk; dsimp only [drawNat_eq, drawBytes_eq]; change State.memOk _))

/-- FrameNak keeps memory in canonical form. -/
theorem execFrameNak_memOk (port seq : Nat) (s : State) (hm : s.memOk) :
    ∃ t, execFrameNak port seq s = .next t ∧ t.memOk := by
  unfold execFrameNak
  refine ⟨_, rfl, ?_⟩
  dsimp only [drawNat_eq, drawBytes_eq]
  repeat' (first | with_reducible assumption | with_reducible apply modPort_memOk | split)

/-- LaneSpareRetrain keeps memory in canonical form. -/
theorem execLaneSpareRetrain_memOk (port lane : Nat) (ok : Bool) (s : State) (hm : s.memOk) :
    ∃ t, execLaneSpareRetrain port lane ok s = .next t ∧ t.memOk := by
  unfold execLaneSpareRetrain
  refine ⟨_, rfl, ?_⟩
  repeat' (first | with_reducible assumption | with_reducible apply portDown_memOk
                 | with_reducible apply modPort_memOk | with_reducible apply announce_memOk
                 | with_reducible apply pump_memOk | with_reducible apply healthEvent_memOk | split | intro _
                 | (unfold State.memOk; dsimp only [drawNat_eq, drawBytes_eq]; change State.memOk _))

/-- LinkRekey keeps memory in canonical form. -/
theorem execLinkRekey_memOk (port : Nat) (s : State) (hm : s.memOk) :
    ∃ t, execLinkRekey port s = .next t ∧ t.memOk := by
  unfold execLinkRekey
  refine ⟨_, rfl, ?_⟩
  repeat' (first | with_reducible assumption | with_reducible apply sendRekey_memOk | split | intro _
                 | (unfold State.memOk; dsimp only [drawNat_eq, drawBytes_eq]; change State.memOk _))

/-- RekeyMsg keeps memory in canonical form. -/
theorem execRekeyMsg_memOk (port : Nat) (nonce eph sig : Bytes) (s : State) (hm : s.memOk) :
    ∃ t, execRekeyMsg port nonce eph sig s = .next t ∧ t.memOk := by
  unfold execRekeyMsg
  refine ⟨_, rfl, ?_⟩
  repeat' (first | with_reducible assumption | with_reducible apply sendRekey_memOk
                 | with_reducible apply modPort_memOk | with_reducible apply boundaryTx_memOk | split | intro _
                 | (unfold State.memOk; dsimp only [drawNat_eq, drawBytes_eq]; change State.memOk _))

/-- SyncMsg keeps memory in canonical form. -/
theorem execSyncMsg_memOk (port leader hops t1 t2 t3 : Nat) (s : State) (hm : s.memOk) :
    ∃ t, execSyncMsg port leader hops t1 t2 t3 s = .next t ∧ t.memOk := by
  unfold execSyncMsg
  refine ⟨_, rfl, ?_⟩
  repeat' (first | with_reducible assumption | with_reducible apply modPort_memOk
                 | with_reducible apply elapse_memOk | split | intro _
                 | (unfold State.memOk; dsimp only [drawNat_eq, drawBytes_eq]; change State.memOk _))

/-- LossOfSignal keeps memory in canonical form. -/
theorem execLossOfSignal_memOk (port : Nat) (s : State) (hm : s.memOk) :
    ∃ t, execLossOfSignal port s = .next t ∧ t.memOk := by
  unfold execLossOfSignal
  refine ⟨_, rfl, ?_⟩
  dsimp only [drawNat_eq, drawBytes_eq]
  repeat' (first | with_reducible assumption | with_reducible apply modPort_memOk
                 | with_reducible apply jobFailure_memOk | with_reducible apply portDown_memOk | split)

/-- JoinMsg keeps memory in canonical form. -/
theorem execJoinMsg_memOk (port : Nat) (m : JoinMsg) (s : State) (hm : s.memOk) :
    ∃ t, execJoinMsg port m s = .next t ∧ t.memOk := by
  unfold execJoinMsg
  refine ⟨_, rfl, ?_⟩
  dsimp only [drawNat_eq, drawBytes_eq]
  repeat' (first | with_reducible assumption | with_reducible apply modPort_memOk
                 | with_reducible apply takeJoin_memOk | with_reducible apply sendCtl_memOk | split)

/-- JoinTimeout keeps memory in canonical form. -/
theorem execJoinTimeout_memOk (jobId : Nat) (s : State) (hm : s.memOk) :
    ∃ t, execJoinTimeout jobId s = .next t ∧ t.memOk := by
  unfold execJoinTimeout
  refine ⟨_, rfl, ?_⟩
  repeat' (first | with_reducible assumption | with_reducible apply removeJob_memOk
                 | with_reducible apply endJobCmds_memOk | split)

/-- FenceMsg keeps memory in canonical form. -/
theorem execFenceMsg_memOk (port jobId step coord cause : Nat) (s : State) (hm : s.memOk) :
    ∃ t, execFenceMsg port jobId step coord cause s = .next t ∧ t.memOk := by
  unfold execFenceMsg
  refine ⟨_, rfl, ?_⟩
  dsimp only [drawNat_eq, drawBytes_eq]
  repeat' (first | with_reducible assumption | with_reducible apply sendHeld_memOk
                 | with_reducible apply haltJob_memOk | with_reducible apply fenceForFault_memOk | split)

/-- RejoinMsg keeps memory in canonical form. -/
theorem execRejoinMsg_memOk (port jobId step epoch : Nat) (s : State) (hm : s.memOk) :
    ∃ t, execRejoinMsg port jobId step epoch s = .next t ∧ t.memOk := by
  unfold execRejoinMsg
  refine ⟨_, rfl, ?_⟩
  dsimp only [drawNat_eq, drawBytes_eq]
  repeat' (first | with_reducible assumption | with_reducible apply sendHeld_memOk
                 | with_reducible apply sendCtl_memOk | with_reducible apply resumeJob_memOk
                 | with_reducible apply modJob_memOk | split)

/-- RejoinAck keeps memory in canonical form. -/
theorem execRejoinAck_memOk (port jobId device detail : Nat) (s : State) (hm : s.memOk) :
    ∃ t, execRejoinAck port jobId device detail s = .next t ∧ t.memOk := by
  unfold execRejoinAck
  refine ⟨_, rfl, ?_⟩
  dsimp only [drawNat_eq, drawBytes_eq]
  repeat' (first | with_reducible assumption | with_reducible apply sendCtl_memOk
                 | with_reducible apply endJobCmds_memOk | with_reducible apply modJob_memOk
                 | with_reducible apply sendHeld_memOk | with_reducible apply finishRejoin_memOk | split)

/-- VinRise keeps memory in canonical form. -/
theorem execVinRise_memOk (s : State) (hm : s.memOk) : ∃ t, execVinRise s = .next t ∧ t.memOk := by
  unfold execVinRise
  refine ⟨_, rfl, ?_⟩
  dsimp only [drawNat_eq, drawBytes_eq]
  repeat' (first | with_reducible assumption | with_reducible apply startUp_memOk | split | intro _
                 | (unfold State.memOk; dsimp only [drawNat_eq, drawBytes_eq]; change State.memOk _))

/-- VinUnder keeps memory in canonical form. -/
theorem execVinUnder_memOk (s : State) (hm : s.memOk) : ∃ t, execVinUnder s = .next t ∧ t.memOk := by
  unfold execVinUnder
  refine ⟨_, rfl, ?_⟩
  dsimp only [drawNat_eq, drawBytes_eq]
  repeat' (first | with_reducible assumption | with_reducible apply stopDevice_memOk | split | intro _
                 | (unfold State.memOk; dsimp only [drawNat_eq, drawBytes_eq]; change State.memOk _))

/-- VinOver keeps memory in canonical form. -/
theorem execVinOver_memOk (s : State) (hm : s.memOk) : ∃ t, execVinOver s = .next t ∧ t.memOk := by
  unfold execVinOver
  refine ⟨_, rfl, ?_⟩
  repeat' (first | with_reducible assumption | with_reducible apply stopDevice_memOk)

/-- EpoN keeps memory in canonical form. -/
theorem execEpoN_memOk (s : State) (hm : s.memOk) : ∃ t, execEpoN s = .next t ∧ t.memOk := by
  unfold execEpoN
  refine ⟨_, rfl, ?_⟩
  dsimp only [drawNat_eq, drawBytes_eq]
  repeat' (first | with_reducible assumption | with_reducible apply stopDevice_memOk | split | intro _
                 | (unfold State.memOk; dsimp only [drawNat_eq, drawBytes_eq]; change State.memOk _))

/-- ThermTripN keeps memory in canonical form. -/
theorem execThermTripN_memOk (s : State) (hm : s.memOk) : ∃ t, execThermTripN s = .next t ∧ t.memOk := by
  unfold execThermTripN
  refine ⟨_, rfl, ?_⟩
  dsimp only [drawNat_eq, drawBytes_eq]
  repeat' (first | with_reducible assumption | with_reducible apply stopDevice_memOk | split | intro _
                 | (unfold State.memOk; dsimp only [drawNat_eq, drawBytes_eq]; change State.memOk _))

/-- ThermTripRelease keeps memory in canonical form. -/
theorem execThermTripRelease_memOk (hottest : Nat) (s : State) (hm : s.memOk) :
    ∃ t, execThermTripRelease hottest s = .next t ∧ t.memOk := by
  unfold execThermTripRelease
  refine ⟨_, rfl, ?_⟩
  dsimp only [drawNat_eq, drawBytes_eq]
  repeat' (first | with_reducible assumption | split | intro _
                 | (unfold State.memOk; dsimp only [drawNat_eq, drawBytes_eq]; change State.memOk _))

/-- ResetN keeps memory in canonical form. -/
theorem execResetN_memOk (s : State) (hm : s.memOk) : ∃ t, execResetN s = .next t ∧ t.memOk := by
  unfold execResetN
  refine ⟨_, rfl, ?_⟩
  repeat' (first | with_reducible assumption | with_reducible apply startUp_memOk
                 | with_reducible apply packageReset_memOk | split)

/-- PwrAlertN keeps memory in canonical form. -/
theorem execPwrAlertN_memOk (s : State) (hm : s.memOk) : ∃ t, execPwrAlertN s = .next t ∧ t.memOk := by
  unfold execPwrAlertN
  refine ⟨_, rfl, ?_⟩
  dsimp only [drawNat_eq, drawBytes_eq]
  repeat' (first | with_reducible assumption | with_reducible apply capsChanged_memOk
                 | with_reducible apply endGrant_memOk | split | intro _
                 | (unfold State.memOk; dsimp only [drawNat_eq, drawBytes_eq]; change State.memOk _))

/-- AlertRelease keeps memory in canonical form. -/
theorem execAlertRelease_memOk (s : State) (hm : s.memOk) : ∃ t, execAlertRelease s = .next t ∧ t.memOk := by
  unfold execAlertRelease
  refine ⟨_, rfl, ?_⟩
  dsimp only [drawNat_eq, drawBytes_eq]
  repeat' (first | with_reducible assumption | with_reducible apply capsChanged_memOk | split | intro _
                 | (unfold State.memOk; dsimp only [drawNat_eq, drawBytes_eq]; change State.memOk _))

/-- RefclkLoss keeps memory in canonical form. -/
theorem execRefclkLoss_memOk (clk : Nat) (s : State) (hm : s.memOk) :
    ∃ t, execRefclkLoss clk s = .next t ∧ t.memOk := by
  unfold execRefclkLoss
  refine ⟨_, rfl, ?_⟩
  dsimp only [drawNat_eq, drawBytes_eq]
  repeat' (first | with_reducible assumption | split | intro _
                 | (unfold State.memOk; dsimp only [drawNat_eq, drawBytes_eq]; change State.memOk _))

/-- RefclkReturn keeps memory in canonical form. -/
theorem execRefclkReturn_memOk (clk : Nat) (s : State) (hm : s.memOk) :
    ∃ t, execRefclkReturn clk s = .next t ∧ t.memOk := by
  unfold execRefclkReturn
  refine ⟨_, rfl, ?_⟩
  dsimp only [drawNat_eq, drawBytes_eq]
  repeat' (first | with_reducible assumption | split | intro _
                 | (unfold State.memOk; dsimp only [drawNat_eq, drawBytes_eq]; change State.memOk _))

/-- TempSample keeps memory in canonical form. -/
theorem execTempSample_memOk (sensors : List Nat) (s : State) (hm : s.memOk) :
    ∃ t, execTempSample sensors s = .next t ∧ t.memOk := by
  unfold execTempSample
  refine ⟨_, rfl, ?_⟩
  dsimp only [drawNat_eq, drawBytes_eq]
  repeat' (first | with_reducible assumption | with_reducible apply retarget_memOk
                 | with_reducible apply updateSust_memOk | with_reducible apply endGrant_memOk | split | intro _
                 | (unfold State.memOk; dsimp only [drawNat_eq, drawBytes_eq]; change State.memOk _))

/-- ThermalFloorEnd keeps memory in canonical form. -/
theorem execThermalFloorEnd_memOk (s : State) (hm : s.memOk) : ∃ t, execThermalFloorEnd s = .next t ∧ t.memOk := by
  unfold execThermalFloorEnd
  refine ⟨_, rfl, ?_⟩
  dsimp only [drawNat_eq, drawBytes_eq]
  repeat' (first | with_reducible assumption | with_reducible apply retarget_memOk
                 | with_reducible apply updateSust_memOk | split | intro _
                 | (unfold State.memOk; dsimp only [drawNat_eq, drawBytes_eq]; change State.memOk _))

/-- CurBinUpdate keeps memory in canonical form. -/
theorem execCurBinUpdate_memOk (railsMv : List Nat) (s : State) (hm : s.memOk) :
    ∃ t, execCurBinUpdate railsMv s = .next t ∧ t.memOk := by
  unfold execCurBinUpdate
  refine ⟨_, rfl, ?_⟩
  repeat' (first | with_reducible assumption | with_reducible apply followRails_memOk | split | intro _
                 | (unfold State.memOk; dsimp only [drawNat_eq, drawBytes_eq]; change State.memOk _))

/-- TiFall keeps memory in canonical form. -/
theorem execTiFall_memOk (s : State) (hm : s.memOk) : ∃ t, execTiFall s = .next t ∧ t.memOk := by
  unfold execTiFall
  refine ⟨_, rfl, ?_⟩
  dsimp only [drawNat_eq, drawBytes_eq]
  repeat' (first | with_reducible assumption | with_reducible apply retarget_memOk
                 | with_reducible apply updateSust_memOk | split | intro _
                 | (unfold State.memOk; dsimp only [drawNat_eq, drawBytes_eq]; change State.memOk _))

/-- RailsSettled keeps memory in canonical form. -/
theorem execRailsSettled_memOk (railsMv : List Nat) (s : State) (hm : s.memOk) :
    ∃ t, execRailsSettled railsMv s = .next t ∧ t.memOk := by
  unfold execRailsSettled
  refine ⟨_, rfl, ?_⟩
  repeat' (first | with_reducible assumption | with_reducible apply enterHold_memOk
                 | with_reducible apply setBins_memOk | split | intro _
                 | (unfold State.memOk; dsimp only [drawNat_eq, drawBytes_eq]; change State.memOk _))

/-- Limiter keeps memory in canonical form. -/
theorem execLimiter_memOk (p : PowerSample) (s : State) (hm : s.memOk) :
    ∃ t, execLimiter p s = .next t ∧ t.memOk := by
  unfold execLimiter
  refine ⟨_, rfl, ?_⟩
  dsimp only [drawNat_eq, drawBytes_eq]
  repeat' (first | with_reducible assumption | with_reducible apply takeSample_memOk
                 | with_reducible apply retarget_memOk | split | intro _
                 | (unfold State.memOk; dsimp only [drawNat_eq, drawBytes_eq]; change State.memOk _))

/-- LimiterHandback keeps memory in canonical form. -/
theorem execLimiterHandback_memOk (watts : Nat) (s : State) (hm : s.memOk) :
    ∃ t, execLimiterHandback watts s = .next t ∧ t.memOk := by
  unfold execLimiterHandback
  refine ⟨_, rfl, ?_⟩
  dsimp only [drawNat_eq, drawBytes_eq]
  repeat' (first | with_reducible assumption | with_reducible apply takeSample_memOk
                 | with_reducible apply retarget_memOk | split | intro _
                 | (unfold State.memOk; dsimp only [drawNat_eq, drawBytes_eq]; change State.memOk _))

/-- ThrottleStep keeps memory in canonical form. -/
theorem execThrottleStep_memOk (watts : Nat) (s : State) (hm : s.memOk) :
    ∃ t, execThrottleStep watts s = .next t ∧ t.memOk := by
  unfold execThrottleStep
  refine ⟨_, rfl, ?_⟩
  dsimp only [drawNat_eq, drawBytes_eq]
  repeat' (first | with_reducible assumption | with_reducible apply takeSample_memOk | split | intro _
                 | (unfold State.memOk; dsimp only [drawNat_eq, drawBytes_eq]; change State.memOk _))

/-- HoldEnd keeps memory in canonical form. -/
theorem execHoldEnd_memOk (watts : Nat) (s : State) (hm : s.memOk) :
    ∃ t, execHoldEnd watts s = .next t ∧ t.memOk := by
  unfold execHoldEnd
  refine ⟨_, rfl, ?_⟩
  dsimp only [drawNat_eq, drawBytes_eq]
  repeat' (first | with_reducible assumption | with_reducible apply takeSample_memOk
                 | with_reducible apply leaveHold_memOk | split)

/-- OverdriveEval keeps memory in canonical form. -/
theorem execOverdriveEval_memOk (watts : Nat) (s : State) (hm : s.memOk) :
    ∃ t, execOverdriveEval watts s = .next t ∧ t.memOk := by
  unfold execOverdriveEval
  refine ⟨_, rfl, ?_⟩
  dsimp only [drawNat_eq, drawBytes_eq]
  repeat' (first | with_reducible assumption | with_reducible apply takeSample_memOk
                 | with_reducible apply capsChanged_memOk | split | intro _
                 | (unfold State.memOk; dsimp only [drawNat_eq, drawBytes_eq]; change State.memOk _))

/-- SenseCheck keeps memory in canonical form. -/
theorem execSenseCheck_memOk (pair remoteMv localMv : Nat) (s : State) (hm : s.memOk) :
    ∃ t, execSenseCheck pair remoteMv localMv s = .next t ∧ t.memOk := by
  unfold execSenseCheck
  refine ⟨_, rfl, ?_⟩
  repeat' (first | with_reducible assumption | with_reducible apply endGrant_memOk
                 | with_reducible apply followRails_memOk | split | intro _
                 | (unfold State.memOk; dsimp only [drawNat_eq, drawBytes_eq]; change State.memOk _))

/-- LaneShort keeps memory in canonical form. -/
theorem execLaneShort_memOk (kind port lane : Nat) (s : State) (hm : s.memOk) :
    ∃ t, execLaneShort kind port lane s = .next t ∧ t.memOk := by
  unfold execLaneShort
  refine ⟨_, rfl, ?_⟩
  dsimp only [drawNat_eq, drawBytes_eq]
  repeat' (first | with_reducible assumption | split | intro _
                 | (unfold State.memOk; dsimp only [drawNat_eq, drawBytes_eq]; change State.memOk _))

/-- AonCheck keeps memory in canonical form. -/
theorem execAonCheck_memOk (romFail : Nat) (s : State) (hm : s.memOk) :
    ∃ t, execAonCheck romFail s = .next t ∧ t.memOk := by
  unfold execAonCheck
  refine ⟨_, rfl, ?_⟩
  repeat' (first | with_reducible assumption | with_reducible apply modBoot_memOk | split)

/-- BootStatus keeps memory in canonical form. -/
theorem execBootStatus_memOk (s : State) (hm : s.memOk) : ∃ t, execBootStatus s = .next t ∧ t.memOk := by
  unfold execBootStatus
  refine ⟨_, rfl, ?_⟩
  repeat' (first | with_reducible assumption | with_reducible apply side_memOk)

/-- BootConfig keeps memory in canonical form. -/
theorem execBootConfig_memOk (c : BootConfig) (s : State) (hm : s.memOk) :
    ∃ t, execBootConfig c s = .next t ∧ t.memOk := by
  unfold execBootConfig
  refine ⟨_, rfl, ?_⟩
  dsimp only [drawNat_eq, drawBytes_eq]
  repeat' (first | with_reducible assumption | with_reducible apply side_memOk | with_reducible apply modBoot_memOk
                 | with_reducible apply closeWhere_memOk | with_reducible apply discardImage_memOk
                 | with_reducible apply rediscover_memOk | split)

/-- FwChunk keeps memory in canonical form. -/
theorem execFwChunk_memOk (offset : Nat) (data : Bytes) (s : State) (hm : s.memOk) :
    ∃ t, execFwChunk offset data s = .next t ∧ t.memOk := by
  unfold execFwChunk
  refine ⟨_, rfl, ?_⟩
  dsimp only [drawNat_eq, drawBytes_eq]
  repeat' (first | with_reducible assumption | with_reducible apply putImageBytes_memOk
                 | with_reducible apply side_memOk | split)

/-- BootDatagram keeps memory in canonical form. -/
theorem execBootDatagram_memOk (frame : Bytes) (s : State) (hm : s.memOk) :
    ∃ t, execBootDatagram frame s = .next t ∧ t.memOk := by
  unfold execBootDatagram
  refine ⟨_, rfl, ?_⟩
  repeat' (first | with_reducible assumption | with_reducible apply putImageBytes_memOk
                 | with_reducible apply modBoot_memOk | split | intro _
                 | (unfold State.memOk; dsimp only [drawNat_eq, drawBytes_eq]; change State.memOk _))

/-- FwDeliveryTimeout keeps memory in canonical form. -/
theorem execFwDeliveryTimeout_memOk (s : State) (hm : s.memOk) :
    ∃ t, execFwDeliveryTimeout s = .next t ∧ t.memOk := by
  unfold execFwDeliveryTimeout
  refine ⟨_, rfl, ?_⟩
  repeat' (first | with_reducible assumption | with_reducible apply rejectImage_memOk | split)

/-- FwVerifyDone keeps memory in canonical form. -/
theorem execFwVerifyDone_memOk (s : State) (hm : s.memOk) :
    ∃ t, execFwVerifyDone s = .next t ∧ t.memOk := by
  unfold execFwVerifyDone
  refine ⟨_, rfl, ?_⟩
  repeat' (first | with_reducible assumption | (with_reducible apply foldl_memOk; intro _ _ _)
                 | with_reducible apply rejectImage_memOk | with_reducible apply modBoot_memOk
                 | with_reducible apply tellPeer_memOk | with_reducible apply foldl_memOk
                 | with_reducible apply modPort_memOk | split | intro _
                 | (unfold State.memOk; dsimp only [drawNat_eq, drawBytes_eq]; change State.memOk _))

/-- BringUpDone keeps memory in canonical form. -/
theorem execBringUpDone_memOk (r : BringUpResult) (s : State) (hm : s.memOk) :
    ∃ t, execBringUpDone r s = .next t ∧ t.memOk := by
  unfold execBringUpDone
  refine ⟨_, rfl, ?_⟩
  dsimp only [drawNat_eq, drawBytes_eq]
  repeat' (first | with_reducible assumption | (with_reducible apply foldl_memOk; intro _ _ _)
                 | with_reducible apply modBoot_memOk | with_reducible apply applyTests_memOk
                 | with_reducible apply applyFuseMap_memOk | with_reducible apply foldl_memOk
                 | with_reducible apply outOfService_memOk | with_reducible apply updateSust_memOk
                 | with_reducible apply trainPorts_memOk | with_reducible apply applyNet_memOk | split | intro _
                 | (unfold State.memOk; dsimp only [drawNat_eq, drawBytes_eq]; change State.memOk _))

/-- RollbackBlow keeps memory in canonical form. -/
theorem execRollbackBlow_memOk (s : State) (hm : s.memOk) : ∃ t, execRollbackBlow s = .next t ∧ t.memOk := by
  unfold execRollbackBlow
  refine ⟨_, rfl, ?_⟩
  dsimp only [drawNat_eq, drawBytes_eq]
  repeat' (first | with_reducible assumption | split | intro _
                 | (unfold State.memOk; dsimp only [drawNat_eq, drawBytes_eq]; change State.memOk _))

/-- ClaimWindow keeps memory in canonical form. -/
theorem execClaimWindow_memOk (seconds : Nat) (s : State) (hm : s.memOk) :
    ∃ t, execClaimWindow seconds s = .next t ∧ t.memOk := by
  unfold execClaimWindow
  refine ⟨_, rfl, ?_⟩
  dsimp only [drawNat_eq, drawBytes_eq]
  repeat' (first | with_reducible assumption | with_reducible apply side_memOk | with_reducible apply modBoot_memOk
                 | split)

/-- ClaimWindowExpiry keeps memory in canonical form. -/
theorem execClaimWindowExpiry_memOk (s : State) (hm : s.memOk) :
    ∃ t, execClaimWindowExpiry s = .next t ∧ t.memOk := by
  unfold execClaimWindowExpiry
  refine ⟨_, rfl, ?_⟩
  repeat' (first | with_reducible assumption | with_reducible apply modBoot_memOk | split)

/-- GetVersion keeps memory in canonical form. -/
theorem execGetVersion_memOk (s : State) (hm : s.memOk) : ∃ t, execGetVersion s = .next t ∧ t.memOk := by
  unfold execGetVersion
  refine ⟨_, rfl, ?_⟩
  dsimp only [drawNat_eq, drawBytes_eq]
  repeat' (first | with_reducible assumption | with_reducible apply spdmReply_memOk | split | intro _
                 | (unfold State.memOk; dsimp only [drawNat_eq, drawBytes_eq]; change State.memOk _))

/-- GetCapabilities keeps memory in canonical form. -/
theorem execGetCapabilities_memOk (s : State) (hm : s.memOk) : ∃ t, execGetCapabilities s = .next t ∧ t.memOk := by
  unfold execGetCapabilities
  refine ⟨_, rfl, ?_⟩
  repeat' (first | with_reducible assumption | with_reducible apply spdmReply_memOk)

/-- NegotiateAlgorithms keeps memory in canonical form. -/
theorem execNegotiateAlgorithms_memOk (s : State) (hm : s.memOk) :
    ∃ t, execNegotiateAlgorithms s = .next t ∧ t.memOk := by
  unfold execNegotiateAlgorithms
  refine ⟨_, rfl, ?_⟩
  repeat' (first | with_reducible assumption | with_reducible apply spdmReply_memOk)

/-- GetDigests keeps memory in canonical form. -/
theorem execGetDigests_memOk (s : State) (hm : s.memOk) : ∃ t, execGetDigests s = .next t ∧ t.memOk := by
  unfold execGetDigests
  refine ⟨_, rfl, ?_⟩
  repeat' (first | with_reducible assumption | with_reducible apply spdmReply_memOk
                 | with_reducible apply spdmError_memOk | split)

/-- GetCertificate keeps memory in canonical form. -/
theorem execGetCertificate_memOk (slot offset len : Nat) (s : State) (hm : s.memOk) :
    ∃ t, execGetCertificate slot offset len s = .next t ∧ t.memOk := by
  unfold execGetCertificate
  refine ⟨_, rfl, ?_⟩
  repeat' (first | with_reducible assumption | with_reducible apply spdmReply_memOk
                 | with_reducible apply spdmError_memOk | split)

/-- Challenge keeps memory in canonical form. -/
theorem execChallenge_memOk (slot : Nat) (nonce : Bytes) (s : State) (hm : s.memOk) :
    ∃ t, execChallenge slot nonce s = .next t ∧ t.memOk := by
  unfold execChallenge
  refine ⟨_, rfl, ?_⟩
  dsimp only [drawNat_eq, drawBytes_eq]
  repeat' (first | with_reducible assumption | with_reducible apply spdmReply_memOk
                 | with_reducible apply spdmError_memOk | split | intro _
                 | (unfold State.memOk; dsimp only [drawNat_eq, drawBytes_eq]; change State.memOk _))

/-- GetMeasurements keeps memory in canonical form. -/
theorem execGetMeasurements_memOk (index : Nat) (nonce : Bytes) (s : State) (hm : s.memOk) :
    ∃ t, execGetMeasurements index nonce s = .next t ∧ t.memOk := by
  unfold execGetMeasurements
  refine ⟨_, rfl, ?_⟩
  dsimp only [drawNat_eq, drawBytes_eq]
  repeat' (first | with_reducible assumption | with_reducible apply spdmReply_memOk
                 | with_reducible apply spdmError_memOk | split | intro _
                 | (unfold State.memOk; dsimp only [drawNat_eq, drawBytes_eq]; change State.memOk _))

/-- UnsupportedRequest keeps memory in canonical form. -/
theorem execUnsupportedRequest_memOk (code : Nat) (s : State) (hm : s.memOk) :
    ∃ t, execUnsupportedRequest code s = .next t ∧ t.memOk := by
  unfold execUnsupportedRequest
  refine ⟨_, rfl, ?_⟩
  repeat' (first | with_reducible assumption | with_reducible apply side_memOk)

/-- ScanDone keeps memory in canonical form. -/
theorem execScanDone_memOk (chase : Nat) (s : State) (hm : s.memOk) :
    ∃ t, execScanDone chase s = .next t ∧ t.memOk := by
  unfold execScanDone
  refine ⟨_, rfl, ?_⟩
  dsimp only [drawNat_eq, drawBytes_eq]
  repeat' (first | with_reducible assumption | with_reducible apply assertWaiting_memOk
                 | with_reducible apply endScan_memOk | with_reducible apply replyCmd_memOk
                 | with_reducible apply storePull_memOk | with_reducible apply replyLive_memOk
                 | with_reducible apply setTile_memOk | split)

/-- UdsDestroyed keeps memory in canonical form. -/
theorem execUdsDestroyed_memOk (s : State) (hm : s.memOk) : ∃ t, execUdsDestroyed s = .next t ∧ t.memOk := by
  unfold execUdsDestroyed
  refine ⟨_, rfl, ?_⟩
  dsimp only [drawNat_eq, drawBytes_eq]
  repeat' (first | with_reducible assumption | with_reducible apply replyLive_memOk
                 | with_reducible apply modBoot_memOk | with_reducible apply closeSession_memOk | split | intro _
                 | (unfold State.memOk; dsimp only [drawNat_eq, drawBytes_eq]; change State.memOk _))

/-- OwnerFusesBlown keeps memory in canonical form. -/
theorem execOwnerFusesBlown_memOk (s : State) (hm : s.memOk) : ∃ t, execOwnerFusesBlown s = .next t ∧ t.memOk := by
  unfold execOwnerFusesBlown
  refine ⟨_, rfl, ?_⟩
  dsimp only [drawNat_eq, drawBytes_eq]
  repeat' (first | with_reducible assumption | with_reducible apply modBoot_memOk
                 | with_reducible apply rediscover_memOk | with_reducible apply replyLive_memOk | split | intro _
                 | (unfold State.memOk; dsimp only [drawNat_eq, drawBytes_eq]; change State.memOk _))

/-- TorusPortTrained keeps memory in canonical form. -/
theorem execTorusPortTrained_memOk (port : Nat) (failed : List Nat) (s : State) (hm : s.memOk) :
    ∃ t, execTorusPortTrained port failed s = .next t ∧ t.memOk := by
  unfold execTorusPortTrained
  refine ⟨_, rfl, ?_⟩
  repeat' (first | with_reducible assumption | with_reducible apply modPort_memOk
                 | with_reducible apply portDown_memOk | with_reducible apply startDiscovery_memOk | split
                 | intro _ | (unfold State.memOk; dsimp only [drawNat_eq, drawBytes_eq]; change State.memOk _))

theorem execInputPowerLoss_memOk (s : State) : ∃ t, execInputPowerLoss s = .next t ∧ t.memOk :=
  ⟨_, rfl, rfl, rfl⟩

/-- EpoNRelease keeps memory in canonical form. -/
theorem execEpoNRelease_memOk (s : State) (hm : s.memOk) : ∃ t, execEpoNRelease s = .next t ∧ t.memOk := by
  unfold execEpoNRelease
  refine ⟨_, rfl, ?_⟩
  dsimp only [drawNat_eq, drawBytes_eq]
  repeat' (first | with_reducible assumption | split | intro _
                 | (unfold State.memOk; dsimp only [drawNat_eq, drawBytes_eq]; change State.memOk _))

/-- InputOorChange keeps memory in canonical form. -/
theorem execInputOorChange_memOk (vin : Nat) (s : State) (hm : s.memOk) :
    ∃ t, execInputOorChange vin s = .next t ∧ t.memOk := by
  unfold execInputOorChange
  refine ⟨_, rfl, ?_⟩
  dsimp only [drawNat_eq, drawBytes_eq]
  repeat' (first | with_reducible assumption | with_reducible apply endGrant_memOk | split | intro _
                 | (unfold State.memOk; dsimp only [drawNat_eq, drawBytes_eq]; change State.memOk _))

/-- JtagInstruction keeps memory in canonical form. -/
theorem execJtagInstruction_memOk (code : Nat) (s : State) (hm : s.memOk) :
    ∃ t, execJtagInstruction code s = .next t ∧ t.memOk := by
  unfold execJtagInstruction
  refine ⟨_, rfl, ?_⟩
  dsimp only [drawNat_eq, drawBytes_eq]
  repeat' (first | with_reducible assumption | with_reducible apply violation_memOk | split | intro _
                 | (unfold State.memOk; dsimp only [drawNat_eq, drawBytes_eq]; change State.memOk _))








end Sys2Proof.Machine
end

