-- ==== Sys2Proof/Machine/Bodies.lean ====
section
/-! DEFINITION. The bodies of the host commands as bytes (R374, R384 to R390): little-endian, packed in the order listed.
A descriptor in a doorbell is that of a command only with these bytes (R45). -/

namespace Sys2Proof

open Machine

/-- The body of CHASE_CREATE and CHASE_CHANGE (R386). -/
def ChaseFields.body (f : ChaseFields) : Bytes :=
  le 1 f.chase ++ le 1 f.bwMode ++ le 1 f.prioMax ++ le 1 f.compMap ++ le 4 f.pageMap ++ f.hGran.flatMap (le 2) ++
    le 2 f.bGran ++ le 2 f.reqLimit ++ zeros 4 ++ f.betaH.flatMap (le 4) ++ le 4 f.betaB ++ f.store.flatMap (le 4)

/-- The body of SERVE_SET (R387). -/
def ServeFields.body (op : Nat) (e : ServeFields) : Bytes :=
  le 8 e.formeId ++ le 1 op ++ le 1 e.missPolicy ++ le 2 e.passLimit ++ le 4 e.vocab ++ le 2 e.logitTid ++
    le 2 e.maskTid ++ le 2 e.prefillTokens ++ le 2 e.kvClass ++ le 4 e.contextMax ++ le 4 e.folioBytes ++
    le 8 e.poolObj ++ le 8 e.concObj ++ e.eos.flatMap (le 4) ++ le 8 e.draftId ++ le 8 e.draftPool ++
    le 4 e.draftFolioBytes ++ le 2 e.draftPassLimit ++ le 2 e.draftTokens ++ le 2 e.draftLogitTid ++ le 1 e.kInit ++
    le 1 e.kMax ++ le 1 e.probeGap ++ le 1 e.compSharers ++ zeros 2

/-- The body of GENERATE (R388). -/
def GenParams.body (p : GenParams) : Bytes :=
  le 8 p.formeId ++ le 8 p.deadline ++ le 8 p.seed ++ le 4 p.lp ++ le 4 p.maxTokens ++ le 4 p.temp.toNat ++
    le 4 p.topP.toNat ++ le 4 p.minP.toNat ++ le 4 p.repPenalty.toNat ++ le 2 p.topK ++ le 2 p.repWindow ++
    le 1 p.tokenBatch ++ le 1 p.spec ++ le 1 p.label.length ++ zeros 9 ++ p.label ++ p.tokens.flatMap (le 4)

/-- The body of JOB_OPEN (R390). -/
def JobFields.body (f : JobFields) : Bytes :=
  le 8 f.jobId ++ le 1 f.chase ++ [f.ox, f.oy, f.oz, f.ex, f.ey, f.ez].flatMap (le 1) ++ zeros 1

/-- An entry of RELAY_SET (R384); addresses stand in network order. -/
def RelayEntry.body (e : RelayEntry) : Bytes :=
  le 1 e.x ++ le 1 e.y ++ le 1 e.z ++ zeros 1 ++ be 4 e.ipv4 ++ be 16 e.ipv6 ++ zeros 8

/-- The body of INTAKE_SET (R384). -/
def IntakeCfg.body (k : IntakeCfg) : Bytes :=
  le 8 k.tableObj ++ le 8 k.payloadObj ++ le 8 k.formeId ++ le 8 k.deadline ++ le 4 k.nrec ++ le 2 k.capture ++
    le 2 k.idleMs ++ le 4 k.activeMs ++ le 2 k.vxlanPort ++ le 2 k.genevePort ++ le 1 k.notify ++ le 1 k.enable ++ zeros 6

/-- The descriptor and the body of a host command; an event has none. -/
def Instr.message : Instr → Option (CmdHdr × Bytes)
  | .hello h role chase credId nonce eph =>
    some (h, le 1 role ++ le 1 chase ++ zeros 6 ++ le 8 credId ++ nonce ++ eph ++ zeros 7)
  | .prove h sig => some (h, sig)
  | .close h => some (h, [])
  | .ping h data => some (h, data)
  | .sessionInfo h => some (h, [])
  | .claim h pub label => some (h, pub ++ zeros 7 ++ label)
  | .policySet h entries =>
    some (h, le 2 entries.length ++ zeros 6 ++ entries.flatMap fun e => le 2 e.1 ++ zeros 6 ++ le 8 e.2)
  | .policyGet h ids => some (h, le 2 ids.length ++ zeros 6 ++ ids.flatMap (le 2))
  | .credSet h op role chase credId pub =>
    some (h, le 1 op ++ le 1 role ++ le 1 chase ++ zeros 5 ++ le 8 credId ++ pub ++ zeros 7)
  | .readmit h => some (h, [])
  | .decommission h confirm => some (h, le 8 confirm)
  | .relaySet h entries => some (h, le 2 entries.length ++ zeros 6 ++ entries.flatMap RelayEntry.body)
  | .intakeSet h k => some (h, k.body)
  | .chaseCreate h f => some (h, f.body)
  | .chaseChange h f => some (h, f.body)
  | .chaseRelease h chase => some (h, le 1 chase ++ zeros 7)
  | .chaseInfo h chase => some (h, le 1 chase ++ zeros 7)
  | .chaseClaim h pub => some (h, pub ++ zeros 7)
  | .formeLoad h total offset data => some (h, le 8 total ++ le 8 offset ++ data)
  | .formeStage h objId => some (h, le 8 objId)
  | .formeFree h formeId => some (h, le 8 formeId)
  | .impose h ids => some (h, le 1 ids.length ++ zeros 7 ++ ids.flatMap (le 8))
  | .change h oldId newId => some (h, le 8 oldId ++ le 8 newId)
  | .serveSet h op e => some (h, e.body op)
  | .scanOut h tile => some (h, le 2 tile ++ zeros 6)
  | .scanIn h record => some (h, record)
  | .formeList h => some (h, [])
  | .signkeySet h op keyId pub => some (h, le 1 op ++ zeros 3 ++ le 4 keyId ++ pub ++ zeros 7)
  | .formeKeyGet h => some (h, [])
  | .objCreate h objId size kind tier die =>
    some (h, le 8 objId ++ le 8 size ++ le 1 kind ++ le 1 tier ++ le 1 die ++ zeros 5)
  | .put h objId offset data => some (h, le 8 objId ++ le 8 offset ++ data)
  | .seal h objId => some (h, le 8 objId)
  | .get h objId offset len => some (h, le 8 objId ++ le 8 offset ++ le 4 len ++ zeros 4)
  | .move h objId tier die => some (h, le 8 objId ++ le 1 tier ++ le 1 die ++ zeros 6)
  | .objFree h objId => some (h, le 8 objId)
  | .windowSet h objId window die => some (h, le 8 objId ++ le 8 window ++ le 1 die ++ zeros 7)
  | .objInfo h objId => some (h, le 8 objId)
  | .score h formeId deadline label input =>
    some (h, le 8 formeId ++ le 8 deadline ++ le 1 label.length ++ zeros 7 ++ label ++ input)
  | .generate h p => some (h, p.body)
  | .fileSubmit h formeId deadline total offset label data =>
    some (h, le 8 formeId ++ le 8 deadline ++ le 8 total ++ le 8 offset ++ le 1 label.length ++ zeros 7 ++ label ++ data)
  | .cancel h target => some (h, le 4 target ++ zeros 4)
  | .resend h target fromTok => some (h, le 4 target ++ le 4 fromTok)
  | .jobOpen h f => some (h, f.body)
  | .jobStep h jobId step formeId deadline label input =>
    some (h, le 8 jobId ++ le 8 step ++ le 8 formeId ++ le 8 deadline ++ le 1 label.length ++ zeros 7 ++ label ++ input)
  | .jobRejoin h jobId step => some (h, le 8 jobId ++ le 8 step)
  | .jobClose h jobId => some (h, le 8 jobId)
  | .readReg h addr count => some (h, le 4 addr ++ le 2 count ++ zeros 2)
  | .writeReg h addr value => some (h, le 4 addr ++ le 4 value.toNat)
  | .resetReq h addr value => some (h, le 4 addr ++ le 4 value.toNat)
  | .resetReadmit h addr value => some (h, le 4 addr ++ le 4 value.toNat)
  | .healthEventsClear h addr value => some (h, le 4 addr ++ le 4 value.toNat)
  | .colophon h nonce => some (h, nonce)
  | .powerCap h cap alertCap overdrive => some (h, le 2 cap ++ le 2 alertCap ++ le 1 overdrive ++ zeros 3)
  | .pullRead h mode pullId offset len _ => some (h, le 1 mode ++ zeros 3 ++ le 4 pullId ++ le 4 offset ++ le 4 len)
  | _ => none

/-- A command whose body has its form carries the bytes that its fields spell. -/
def Instr.spelled (i : Instr) : Bool :=
  match i.message with
  | some (h, b) => h.form != .ok || h.body == b
  | none => true

end Sys2Proof
end

