-- ==== Sys2Proof/WellFormed.lean ====
section
/-! DEFINITION. Which commands are well formed: every operand lies in the width that the specification gives its field
(R45, R142, R147, R232, R237, R363, R384 to R390, R441, R475, R549). A command that is not well formed has no bytes
on the wire; exec is total all the same. -/

namespace Sys2Proof

/-- A number of w bits. -/
def fits (w n : Nat) : Bool := decide (n < 2 ^ w)

/-- A descriptor's fields (R45, R363). -/
def CmdHdr.wf (h : CmdHdr) : Bool := fits 32 h.session && fits 32 h.reqId && decide (h.ep < 6) && fits 6 h.dscp && fits 64 h.firstNs

/-- The fields of CHASE_CREATE and CHASE_CHANGE (R386). -/
def ChaseFields.wf (f : ChaseFields) : Bool :=
  fits 8 f.chase && fits 8 f.bwMode && fits 8 f.prioMax && fits 8 f.compMap && fits 32 f.pageMap &&
  f.hGran.length == 4 && f.hGran.all (fits 16) && fits 16 f.bGran && fits 16 f.reqLimit && f.betaH.length == 4 &&
  f.betaH.all (fits 32) && fits 32 f.betaB && f.store.length == 4 && f.store.all (fits 32)

/-- The fields of a serving entry (R387). -/
def ServeFields.wf (e : ServeFields) : Bool :=
  fits 64 e.formeId && fits 8 e.missPolicy && fits 16 e.passLimit && fits 32 e.vocab && fits 16 e.logitTid &&
  fits 16 e.maskTid && fits 16 e.prefillTokens && fits 16 e.kvClass && fits 32 e.contextMax && fits 32 e.folioBytes &&
  fits 64 e.poolObj && fits 64 e.concObj && e.eos.length == 4 && e.eos.all (fits 32) && fits 64 e.draftId &&
  fits 64 e.draftPool && fits 32 e.draftFolioBytes && fits 16 e.draftPassLimit && fits 16 e.draftTokens &&
  fits 16 e.draftLogitTid && fits 8 e.kInit && fits 8 e.kMax && fits 8 e.probeGap && fits 8 e.compSharers

/-- The body of GENERATE (R388). -/
def GenParams.wf (p : GenParams) : Bool :=
  fits 64 p.formeId && fits 64 p.deadline && fits 64 p.seed && fits 32 p.lp && fits 32 p.maxTokens && fits 16 p.topK &&
  fits 16 p.repWindow && fits 8 p.tokenBatch && fits 8 p.spec && fits 8 p.label.length && p.tokens.all (fits 32)

/-- The body of JOB_OPEN (R390). -/
def JobFields.wf (f : JobFields) : Bool :=
  fits 64 f.jobId && fits 8 f.chase && [f.ox, f.oy, f.oz, f.ex, f.ey, f.ez].all (fits 8)

/-- An entry of the relay set (R384). -/
def RelayEntry.wf (e : RelayEntry) : Bool := [e.x, e.y, e.z].all (fits 8) && fits 32 e.ipv4 && fits 128 e.ipv6

/-- The body of INTAKE_SET (R384). -/
def IntakeCfg.wf (k : IntakeCfg) : Bool :=
  [k.tableObj, k.payloadObj, k.formeId, k.deadline].all (fits 64) && [k.nrec, k.activeMs].all (fits 32) &&
  [k.capture, k.idleMs, k.vxlanPort, k.genevePort].all (fits 16) && [k.notify, k.enable].all (fits 8)

/-- A packet within a relay frame, and where it goes (R376). -/
def RelayFrame.wf (f : RelayFrame) : Bool :=
  fits 2 f.entryPort && fits 17 f.entry && fits 17 f.target && fits 48 f.mac && fits 64 f.ns

/-- A coordinate of the torus: X and Y of 6 bits, Z of 5 (R17, R441). -/
def coordOk (l : List Nat) : Bool := (l.take 2).all (fits 6) && (l.drop 2).all (fits 5)

/-- A SAK (R361). -/
def Sak.wf (k : Sak) : Bool :=
  k.key.length == 32 && k.salt.length == 12 && fits 2 k.an && fits 64 k.sci && fits 32 k.ssciRx && fits 32 k.ssciTx

/-- A tile coordinate and one of its units, inputs, ports or tensors. -/
def tileOk (t : Nat) : Bool := fits 11 t

/-- A memory granule's address in a tier (R232, R237). -/
def paOk (isH : Bool) (pa : Nat) : Bool := pa % 64 == 0 && decide (pa < if isH then 1152 * 2 ^ 30 else 1024 * 2 ^ 32)

/-- The errors that a tile pair's protection finds: case rows by register and row, with 64 bytes as read; accumulator sets
and gather accumulators (R106, R117, R140). -/
def RegError.wf : RegError → Bool
  | .caseRow reg row asRead => fits 5 reg && fits 4 row && asRead.length == 64
  | .accSet set => fits 1 set
  | .gatherAcc i => fits 5 i

/-- A request at an MT bank (R134, R230). -/
def BankReq.wf (r : BankReq) : Bool :=
  r.data.length == 64 && r.strobe.length == 64 && r.asRead.length == 64 && fits 8 r.singleBit

/-- What a try of a granule access delivers: the places of a code word's symbols (R240). -/
def GranuleOutcome.wf (o : GranuleOutcome) : Bool := o.errs.all fun e => fits 7 e.1

/-- Whether a command's operands lie in their widths. -/
def Instr.widthsOk : Instr → Bool
  | .hello h role chase credId nonce eph =>
    h.wf && fits 8 role && fits 8 chase && fits 64 credId && nonce.length == 32 && eph.length == 97
  | .prove h sig => h.wf && sig.length == 96
  | .close h | .sessionInfo h | .readmit h | .formeList h | .formeKeyGet h => h.wf
  | .ping h data => h.wf && fits 32 data.length
  | .claim h pub label => h.wf && pub.length == 97 && fits 16 label.length
  | .policySet h entries => h.wf && entries.all fun e => fits 16 e.1 && fits 64 e.2
  | .policyGet h ids => h.wf && ids.all (fits 16)
  | .credSet h op role chase credId pub => h.wf && [op, role, chase].all (fits 8) && fits 64 credId && pub.length == 97
  | .decommission h confirm => h.wf && fits 64 confirm
  | .relaySet h entries => h.wf && entries.all RelayEntry.wf
  | .intakeSet h cfg => h.wf && cfg.wf
  | .chaseCreate h f | .chaseChange h f => h.wf && f.wf
  | .chaseRelease h chase | .chaseInfo h chase => h.wf && fits 8 chase
  | .chaseClaim h pub => h.wf && pub.length == 97
  | .formeLoad h total offset data => h.wf && fits 64 total && fits 64 offset && fits 32 data.length
  | .formeStage h objId | .seal h objId | .objFree h objId | .objInfo h objId => h.wf && fits 64 objId
  | .formeFree h formeId => h.wf && fits 64 formeId
  | .impose h ids => h.wf && fits 8 ids.length && ids.all (fits 64)
  | .change h oldId newId => h.wf && fits 64 oldId && fits 64 newId
  | .serveSet h op e => h.wf && fits 8 op && e.wf
  | .scanOut h tile => h.wf && tileOk tile
  | .scanIn h _ => h.wf
  | .signkeySet h op keyId pub => h.wf && fits 8 op && fits 32 keyId && pub.length == 97
  | .objCreate h objId size kind tier die => h.wf && fits 64 objId && fits 64 size && [kind, tier, die].all (fits 8)
  | .put h objId offset data => h.wf && fits 64 objId && fits 64 offset && fits 32 data.length
  | .get h objId offset len => h.wf && fits 64 objId && fits 64 offset && fits 32 len
  | .move h objId tier die => h.wf && fits 64 objId && fits 8 tier && fits 8 die
  | .windowSet h objId window die => h.wf && fits 64 objId && fits 64 window && fits 8 die
  | .score h formeId deadline label input =>
    h.wf && fits 64 formeId && fits 64 deadline && fits 8 label.length && fits 32 input.length
  | .generate h p => h.wf && p.wf
  | .fileSubmit h formeId deadline total offset label data =>
    h.wf && [formeId, deadline, total, offset].all (fits 64) && fits 8 label.length && fits 32 data.length
  | .cancel h target => h.wf && fits 32 target
  | .resend h target fromTok => h.wf && fits 32 target && fits 32 fromTok
  | .jobOpen h f => h.wf && f.wf
  | .jobStep h jobId step formeId deadline label input =>
    h.wf && [jobId, step, formeId, deadline].all (fits 64) && fits 8 label.length && fits 32 input.length
  | .jobRejoin h jobId step => h.wf && fits 64 jobId && fits 64 step
  | .jobClose h jobId => h.wf && fits 64 jobId
  | .readReg h addr count => h.wf && fits 24 addr && fits 16 count
  | .writeReg h addr _ | .resetReq h addr _ | .resetReadmit h addr _ | .healthEventsClear h addr _ => h.wf && fits 24 addr
  | .colophon h nonce => h.wf && nonce.length == 32
  | .powerCap h cap alertCap overdrive => h.wf && fits 16 cap && fits 16 alertCap && fits 8 overdrive
  | .pullRead h mode pullId offset len errs =>
    h.wf && fits 8 mode && fits 32 pullId && fits 64 offset && fits 32 len && errs.all fun e => fits 8 e.2
  | .askestPacket ep _ ns => fits 2 ep && fits 64 ns
  | .reassemblyTimeout session opcode reqId => fits 32 session && fits 16 opcode && fits 32 reqId
  | .sessionPendingTimeout session | .sessionIdleTimeout session => fits 32 session
  | .fileIdleTimeout session reqId | .heldChunkTimeout session reqId => fits 32 session && fits 32 reqId
  | .policyTakeEffect id => fits 16 id
  | .portRetrain he _ => fits 2 he
  | .arpRequest ep _ | .neighborSolicitation ep _ | .intakeFrame ep _ => fits 2 ep
  | .mkaFrame ep prio sci sak => fits 2 ep && fits 8 prio && fits 64 sci && sak.all Sak.wf
  | .relayFrame port f => decide (port < 6) && f.wf
  | .relayReply f => f.wf
  | .flowIdleExpiry idx | .flowActiveExpiry idx | .intakeRetry idx | .intakeResult idx => fits 32 idx
  | .intakeScore | .intakeNotify | .imageCheckBegin => true
  | .imageCheckDone => true
  | .scrubDone chase vminFail => fits 5 chase && vminFail.all tileOk
  | .fenceDrainDone chase | .pageLoadDone chase | .shadowLoadDone chase | .lockupInject chase
  | .changeTimeout chase | .scanDone chase => fits 5 chase
  | .lockupTake tile fu input | .tokenTake tile fu input => tileOk tile && fits 5 fu && fits 2 input
  | .tileSwitch tile | .preloadDone tile => tileOk tile
  | .tokenEject _ flip => fits 64 flip
  | .fire tile fu errs => tileOk tile && fits 5 fu && errs.all RegError.wf
  | .branchFire tile fu | .selectFire tile fu | .steerFire tile fu | .mergeFire tile fu
  | .loopFire tile fu | .loopEmit tile fu | .emit tile fu | .misregEvent tile fu | .misreg tile fu | .firingWd tile fu
  | .mov tile fu | .ld tile fu | .st tile fu | .bcr tile fu | .bcc tile fu | .bcs tile fu | .extr tile fu | .ins tile fu
  | .rotr tile fu | .rotc tile fu | .trans tile fu | .bfly tile fu | .add tile fu | .sub tile fu | .mul tile fu
  | .fma tile fu | .div tile fu | .sqrt tile fu | .min tile fu | .max tile fu | .abs tile fu | .neg tile fu
  | .and tile fu | .or tile fu | .xor tile fu | .not tile fu | .shl tile fu | .shr tile fu | .exp tile fu | .log tile fu
  | .rsqrt tile fu | .tanh tile fu | .erf tile fu | .cmp tile fu | .sel tile fu | .cvt tile fu | .mpop tile fu
  | .mand tile fu | .mor tile fu | .mxor tile fu | .mnot tile fu | .rsum tile fu | .rmax tile fu | .rmin tile fu
  | .gadd tile fu | .vmul tile fu | .vdiv tile fu | .frd tile fu | .fprd tile fu | .fsum tile fu | .fclr tile fu
  | .pmac tile fu => tileOk tile && fits 5 fu
  | .creditReturn tile port => tileOk tile && fits 6 port
  | .granuleLand _ | .longGutterRoute _ | .creditToken _ | .remoteCreditFlush _ | .fillComplete _ => true
  | .bankGrant tile bank reqs => tileOk tile && decide (bank < 17) && reqs.all BankReq.wf
  | .fillStart feeder tile tid errs => fits 6 feeder && tileOk tile && fits 12 tid && errs.all fun e => fits 8 e.2
  | .slotRelease tile tid slot => tileOk tile && fits 12 tid && fits 6 slot
  | .drainTake tile tid => tileOk tile && fits 12 tid
  | .slipIn tile tid errs | .slipOut tile tid errs | .drainWrite tile tid errs =>
    tileOk tile && fits 12 tid && errs.all fun e => fits 8 e.2
  | .passBegin chase forme => fits 5 chase && fits 64 forme
  | .walkComplete req | .commit req | .stepHold req | .progress req => fits 32 req
  | .compositorRow die => fits 2 die
  | .granuleRead isH pa reader outs => paOk isH pa && reader.all (fits 5) && outs.all GranuleOutcome.wf
  | .granuleWrite isH pa chase data strobe _ outs =>
    paOk isH pa && fits 5 chase && data.length == 64 && strobe.length == 64 && outs.all GranuleOutcome.wf
  | .retrainDone isH chan _ => decide (chan < if isH then 512 else 16)
  | .softPpr _ _ _ => true
  | .patrolRead _ outs => outs.all GranuleOutcome.wf
  | .granuleJoin chase isH g => fits 5 chase && decide (g < if isH then 1152 else 1024)
  | .moveComplete chase objId => fits 5 chase && fits 64 objId
  | .windowFill chase objId _ => fits 5 chase && fits 64 objId
  | .faultDetect f => fits 16 f.code && fits 16 f.domain && tileOk f.tile
  | .captureDone domain | .pullDrainDone domain | .resetLineAssert domain | .domainResetComplete domain => fits 16 domain
  | .commandWd kind _ => decide (kind < 3)
  | .packageReset code domain => fits 16 code && fits 16 domain
  | .wearSample phys _ => decide (phys < 4096)
  | .phaseRetire rail phase _ _ => decide (rail < 12) && fits 8 phase
  | .discoveryMsg port m => decide (port < 6) && coordOk [m.x, m.y, m.z] && fits 3 m.port && m.ownerDigest.length == 48 &&
    m.nonce.length == 32 && m.eph.length == 97 && m.sig.length == 96
  | .linkFrame port f side => decide (port < 6) && f.all (fun b => decide (b.length ≤ 1056)) && decide (side.length ≤ 16)
  | .frameNak port seq => decide (port < 6) && fits 32 seq
  | .laneSpareRetrain port lane _ => decide (port < 6) && decide (lane < 10)
  | .linkRekey port | .lossOfSignal port => decide (port < 6)
  | .torusPortTrained port failed => decide (port < 6) && failed.all fun l => decide (l < 10)
  | .rekeyMsg port nonce eph sig => decide (port < 6) && nonce.length == 32 && eph.length == 97 && sig.length == 96
  | .syncMsg port _ hops _ _ _ => decide (port < 6) && fits 7 hops
  | .joinMsg port m => decide (port < 6) && fits 64 m.jobId
  | .joinTimeout jobId => fits 64 jobId
  | .fenceMsg port jobId step _ _ => decide (port < 6) && fits 64 jobId && fits 64 step
  | .rejoinMsg port jobId step epoch => decide (port < 6) && fits 64 jobId && fits 64 step && fits 8 epoch
  | .rejoinAck port jobId _ detail => decide (port < 6) && fits 64 jobId && fits 16 detail
  | .vinRise | .vinUnder | .vinOver | .epoN | .thermTripN | .resetN | .pwrAlertN | .alertRelease | .thermalFloorEnd
  | .tiFall | .bootStatus | .fwDeliveryTimeout | .rollbackBlow | .claimWindowExpiry | .getVersion | .getCapabilities
  | .negotiateAlgorithms | .getDigests | .udsDestroyed | .ownerFusesBlown | .inputPowerLoss | .epoNRelease => true
  | .thermTripRelease hottest => fits 8 hottest
  | .refclkLoss clk | .refclkReturn clk => decide (clk < 6)
  | .tempSample sensors => sensors.length == 72 && sensors.all (fits 8)
  | .curBinUpdate railsMv | .railsSettled railsMv => railsMv.length == 4 && railsMv.all (fits 11)
  | .limiter p => [p.watts, p.mgtAvg, p.ownAvg].all (fits 16) && p.amps.length == 12
  | .limiterHandback watts | .throttleStep watts | .holdEnd watts | .overdriveEval watts => fits 16 watts
  | .senseCheck pair _ _ => decide (pair < 6)
  | .laneShort kind _ _ => decide (kind < 4)
  | .aonCheck romFail => fits 8 romFail
  | .bootConfig c => c.placement.expect.length == 6 && c.placement.reach.length == 6
  | .fwChunk offset _ => fits 32 offset
  | .bootDatagram _ | .fwVerifyDone => true
  | .bringUpDone r => fits 8 r.failCode
  | .claimWindow seconds => fits 16 seconds
  | .getCertificate slot offset len => fits 4 slot && fits 16 offset && fits 16 len
  | .challenge slot nonce => fits 4 slot && nonce.length == 32
  | .getMeasurements index nonce => fits 8 index && nonce.length == 32
  | .unsupportedRequest code => fits 8 code
  | .inputOorChange vin => fits 16 vin
  | .jtagInstruction code => fits 8 code

/-- Whether a command is well formed: its operands lie in their widths, and the body of a host command that has its form
spells them. -/
def Instr.wf (i : Instr) : Bool := i.widthsOk && i.spelled

end Sys2Proof
end

