-- ==== Sys2Proof/Laws/PerInstr.lean ====
section
/-! SUPPORT. Laws of all commands as syntax, one lemma a command. -/

namespace Sys2Proof.Laws
open Sys2Proof Sys2Proof.Machine
namespace HeaderWf

/-- The header that the checks of R373 see of a well-formed command is well formed itself. -/
def Statement (i : Instr) : Prop := i.wf = true → ∀ p, gatedBy i = some p → p.1.wf = true

theorem and_left {a b : Bool} (h : (a && b) = true) : a = true := by cases a <;> simp_all

/-- A command that carries no header has none to check. -/
theorem of_none {i : Instr} (h : gatedBy i = none) : Statement i := fun _ p hp => by rw [h] at hp; cases hp

/-- A command whose header is the one it carries, well formed with it. -/
theorem of_some {i : Instr} {h : CmdHdr} {sp : CmdSpec} (hg : gatedBy i = some (h, sp)) (hw : i.wf = true → h.wf = true) :
    Statement i := fun hi p hp => by rw [hg] at hp; injection hp with hp; subst hp; exact hw hi

theorem hello (h : CmdHdr) (role chase credId : Nat) (nonce eph : Bytes) : Statement (.hello h role chase credId nonce eph) := of_none rfl
theorem prove (h : CmdHdr) (sig : Bytes) : Statement (.prove h sig) :=
  of_some rfl <| fun hw => and_left (and_left hw)
theorem close (h : CmdHdr) : Statement (.close h) :=
  of_some rfl <| fun hw => and_left hw
theorem ping (h : CmdHdr) (data : Bytes) : Statement (.ping h data) :=
  of_some rfl <| fun hw => and_left (and_left hw)
theorem sessionInfo (h : CmdHdr) : Statement (.sessionInfo h) :=
  of_some rfl <| fun hw => and_left hw
theorem claim (h : CmdHdr) (pub label : Bytes) : Statement (.claim h pub label) :=
  of_some rfl <| fun hw => and_left (and_left (and_left hw))
theorem policySet (h : CmdHdr) (entries : List (Nat × Nat)) : Statement (.policySet h entries) :=
  of_some rfl <| fun hw => and_left (and_left hw)
theorem policyGet (h : CmdHdr) (ids : List Nat) : Statement (.policyGet h ids) :=
  of_some rfl <| fun hw => and_left (and_left hw)
theorem credSet (h : CmdHdr) (op role chase credId : Nat) (pub : Bytes) : Statement (.credSet h op role chase credId pub) :=
  of_some rfl <| fun hw => and_left (and_left (and_left (and_left hw)))
theorem readmit (h : CmdHdr) : Statement (.readmit h) :=
  of_some rfl <| fun hw => and_left hw
theorem decommission (h : CmdHdr) (confirm : Nat) : Statement (.decommission h confirm) :=
  of_some rfl <| fun hw => and_left (and_left hw)
theorem relaySet (h : CmdHdr) (entries : List RelayEntry) : Statement (.relaySet h entries) :=
  of_some rfl <| fun hw => and_left (and_left hw)
theorem intakeSet (h : CmdHdr) (cfg : IntakeCfg) : Statement (.intakeSet h cfg) :=
  of_some rfl <| fun hw => and_left (and_left hw)
theorem chaseCreate (h : CmdHdr) (f : ChaseFields) : Statement (.chaseCreate h f) :=
  of_some rfl <| fun hw => and_left (and_left hw)
theorem chaseChange (h : CmdHdr) (f : ChaseFields) : Statement (.chaseChange h f) :=
  of_some rfl <| fun hw => and_left (and_left hw)
theorem chaseRelease (h : CmdHdr) (chase : Nat) : Statement (.chaseRelease h chase) :=
  of_some rfl <| fun hw => and_left (and_left hw)
theorem chaseInfo (h : CmdHdr) (chase : Nat) : Statement (.chaseInfo h chase) :=
  of_some rfl <| fun hw => and_left (and_left hw)
theorem chaseClaim (h : CmdHdr) (pub : Bytes) : Statement (.chaseClaim h pub) :=
  of_some rfl <| fun hw => and_left (and_left hw)
theorem formeLoad (h : CmdHdr) (total offset : Nat) (data : Bytes) : Statement (.formeLoad h total offset data) :=
  of_some rfl <| fun hw => and_left (and_left (and_left (and_left hw)))
theorem formeStage (h : CmdHdr) (objId : Nat) : Statement (.formeStage h objId) :=
  of_some rfl <| fun hw => and_left (and_left hw)
theorem formeFree (h : CmdHdr) (formeId : Nat) : Statement (.formeFree h formeId) :=
  of_some rfl <| fun hw => and_left (and_left hw)
theorem impose (h : CmdHdr) (ids : List Nat) : Statement (.impose h ids) :=
  of_some rfl <| fun hw => and_left (and_left (and_left hw))
theorem change (h : CmdHdr) (oldId newId : Nat) : Statement (.change h oldId newId) :=
  of_some rfl <| fun hw => and_left (and_left (and_left hw))
theorem serveSet (h : CmdHdr) (op : Nat) (e : ServeFields) : Statement (.serveSet h op e) :=
  of_some rfl <| fun hw => and_left (and_left (and_left hw))
theorem scanOut (h : CmdHdr) (tile : Nat) : Statement (.scanOut h tile) :=
  of_some rfl <| fun hw => and_left (and_left hw)
theorem scanIn (h : CmdHdr) (record : Bytes) : Statement (.scanIn h record) :=
  of_some rfl <| fun hw => and_left hw
theorem formeList (h : CmdHdr) : Statement (.formeList h) :=
  of_some rfl <| fun hw => and_left hw
theorem signkeySet (h : CmdHdr) (op keyId : Nat) (pub : Bytes) : Statement (.signkeySet h op keyId pub) :=
  of_some rfl <| fun hw => and_left (and_left (and_left (and_left hw)))
theorem formeKeyGet (h : CmdHdr) : Statement (.formeKeyGet h) :=
  of_some rfl <| fun hw => and_left hw
theorem objCreate (h : CmdHdr) (objId size kind tier die : Nat) : Statement (.objCreate h objId size kind tier die) :=
  of_some rfl <| fun hw => and_left (and_left (and_left (and_left hw)))
theorem put (h : CmdHdr) (objId offset : Nat) (data : Bytes) : Statement (.put h objId offset data) :=
  of_some rfl <| fun hw => and_left (and_left (and_left (and_left hw)))
end HeaderWf
theorem HeaderWf.seal (h : CmdHdr) (objId : Nat) : HeaderWf.Statement (.seal h objId) :=
  HeaderWf.of_some rfl <| fun hw => HeaderWf.and_left (HeaderWf.and_left hw)
namespace HeaderWf
theorem get (h : CmdHdr) (objId offset len : Nat) : Statement (.get h objId offset len) :=
  of_some rfl <| fun hw => and_left (and_left (and_left (and_left hw)))
theorem move (h : CmdHdr) (objId tier die : Nat) : Statement (.move h objId tier die) :=
  of_some rfl <| fun hw => and_left (and_left (and_left (and_left hw)))
theorem objFree (h : CmdHdr) (objId : Nat) : Statement (.objFree h objId) :=
  of_some rfl <| fun hw => and_left (and_left hw)
theorem windowSet (h : CmdHdr) (objId window die : Nat) : Statement (.windowSet h objId window die) :=
  of_some rfl <| fun hw => and_left (and_left (and_left (and_left hw)))
theorem objInfo (h : CmdHdr) (objId : Nat) : Statement (.objInfo h objId) :=
  of_some rfl <| fun hw => and_left (and_left hw)
theorem score (h : CmdHdr) (formeId deadline : Nat) (label input : Bytes) : Statement (.score h formeId deadline label input) :=
  of_some rfl <| fun hw => and_left (and_left (and_left (and_left (and_left hw))))
theorem generate (h : CmdHdr) (p : GenParams) : Statement (.generate h p) :=
  of_some rfl <| fun hw => and_left (and_left hw)
theorem fileSubmit (h : CmdHdr) (formeId deadline total offset : Nat) (label data : Bytes) : Statement (.fileSubmit h formeId deadline total offset label data) :=
  of_some rfl <| fun hw => and_left (and_left (and_left (and_left hw)))
theorem cancel (h : CmdHdr) (target : Nat) : Statement (.cancel h target) :=
  of_some rfl <| fun hw => and_left (and_left hw)
theorem resend (h : CmdHdr) (target fromTok : Nat) : Statement (.resend h target fromTok) :=
  of_some rfl <| fun hw => and_left (and_left (and_left hw))
theorem jobOpen (h : CmdHdr) (f : JobFields) : Statement (.jobOpen h f) :=
  of_some rfl <| fun hw => and_left (and_left hw)
theorem jobStep (h : CmdHdr) (jobId step formeId deadline : Nat) (label input : Bytes) : Statement (.jobStep h jobId step formeId deadline label input) :=
  of_some rfl <| fun hw => and_left (and_left (and_left (and_left hw)))
theorem jobRejoin (h : CmdHdr) (jobId step : Nat) : Statement (.jobRejoin h jobId step) :=
  of_some rfl <| fun hw => and_left (and_left (and_left hw))
theorem jobClose (h : CmdHdr) (jobId : Nat) : Statement (.jobClose h jobId) :=
  of_some rfl <| fun hw => and_left (and_left hw)
theorem readReg (h : CmdHdr) (addr count : Nat) : Statement (.readReg h addr count) :=
  of_some rfl <| fun hw => and_left (and_left (and_left hw))
theorem writeReg (h : CmdHdr) (addr : Nat) (value : Word) : Statement (.writeReg h addr value) :=
  of_some rfl <| fun hw => and_left (and_left hw)
theorem resetReq (h : CmdHdr) (addr : Nat) (value : Word) : Statement (.resetReq h addr value) := by
  intro hw p hp
  simp only [gatedBy] at hp
  split at hp
  · injection hp with hp
    subst hp
    exact and_left (and_left hw)
  · cases hp
theorem resetReadmit (h : CmdHdr) (addr : Nat) (value : Word) : Statement (.resetReadmit h addr value) := by
  intro hw p hp
  simp only [gatedBy] at hp
  split at hp
  · injection hp with hp
    subst hp
    exact and_left (and_left hw)
  · cases hp
theorem healthEventsClear (h : CmdHdr) (addr : Nat) (value : Word) : Statement (.healthEventsClear h addr value) := by
  intro hw p hp
  simp only [gatedBy] at hp
  split at hp
  · injection hp with hp
    subst hp
    exact and_left (and_left hw)
  · cases hp
theorem colophon (h : CmdHdr) (nonce : Bytes) : Statement (.colophon h nonce) :=
  of_some rfl <| fun hw => and_left (and_left hw)
theorem powerCap (h : CmdHdr) (cap alertCap overdrive : Nat) : Statement (.powerCap h cap alertCap overdrive) :=
  of_some rfl <| fun hw => and_left (and_left (and_left (and_left hw)))
theorem pullRead (h : CmdHdr) (mode pullId offset len : Nat) (errs : List (Nat × Nat)) : Statement (.pullRead h mode pullId offset len errs) :=
  of_some rfl <| fun hw => and_left (and_left (and_left (and_left (and_left (and_left hw)))))
theorem askestPacket (ep : Nat) (frame : Bytes) (ns : Nat) : Statement (.askestPacket ep frame ns) := of_none rfl
theorem reassemblyTimeout (session opcode reqId : Nat) : Statement (.reassemblyTimeout session opcode reqId) := of_none rfl
theorem sessionPendingTimeout (session : Nat) : Statement (.sessionPendingTimeout session) := of_none rfl
theorem sessionIdleTimeout (session : Nat) : Statement (.sessionIdleTimeout session) := of_none rfl
theorem fileIdleTimeout (session reqId : Nat) : Statement (.fileIdleTimeout session reqId) := of_none rfl
theorem heldChunkTimeout (session reqId : Nat) : Statement (.heldChunkTimeout session reqId) := of_none rfl
theorem policyTakeEffect (id : Nat) : Statement (.policyTakeEffect id) := of_none rfl
theorem portRetrain (he : Nat) (trained : Bool) : Statement (.portRetrain he trained) := of_none rfl
theorem arpRequest (ep : Nat) (frame : Bytes) : Statement (.arpRequest ep frame) := of_none rfl
theorem neighborSolicitation (ep : Nat) (frame : Bytes) : Statement (.neighborSolicitation ep frame) := of_none rfl
theorem mkaFrame (ep peerPrio peerSci : Nat) (peerSak : Option Sak) : Statement (.mkaFrame ep peerPrio peerSci peerSak) := of_none rfl
theorem relayFrame (port : Nat) (f : RelayFrame) : Statement (.relayFrame port f) := of_none rfl
theorem relayReply (f : RelayFrame) : Statement (.relayReply f) := of_none rfl
theorem intakeFrame (ep : Nat) (frame : Bytes) : Statement (.intakeFrame ep frame) := of_none rfl
theorem flowIdleExpiry (idx : Nat) : Statement (.flowIdleExpiry idx) := of_none rfl
theorem flowActiveExpiry (idx : Nat) : Statement (.flowActiveExpiry idx) := of_none rfl
theorem intakeScore : Statement .intakeScore := of_none rfl
theorem intakeRetry (idx : Nat) : Statement (.intakeRetry idx) := of_none rfl
theorem intakeResult (idx : Nat) : Statement (.intakeResult idx) := of_none rfl
theorem intakeNotify : Statement .intakeNotify := of_none rfl
theorem imageCheckBegin : Statement .imageCheckBegin := of_none rfl
theorem imageCheckDone : Statement .imageCheckDone := of_none rfl
theorem fenceDrainDone (chase : Nat) : Statement (.fenceDrainDone chase) := of_none rfl
theorem scrubDone (chase : Nat) (vminFail : List Nat) : Statement (.scrubDone chase vminFail) := of_none rfl
theorem pageLoadDone (chase : Nat) : Statement (.pageLoadDone chase) := of_none rfl
theorem shadowLoadDone (chase : Nat) : Statement (.shadowLoadDone chase) := of_none rfl
theorem lockupInject (chase : Nat) : Statement (.lockupInject chase) := of_none rfl
theorem lockupTake (tile fu input : Nat) : Statement (.lockupTake tile fu input) := of_none rfl
theorem tileSwitch (tile : Nat) : Statement (.tileSwitch tile) := of_none rfl
theorem preloadDone (tile : Nat) : Statement (.preloadDone tile) := of_none rfl
theorem changeTimeout (chase : Nat) : Statement (.changeTimeout chase) := of_none rfl
theorem tokenEject (k flip : Nat) : Statement (.tokenEject k flip) := of_none rfl
theorem tokenTake (tile fu input : Nat) : Statement (.tokenTake tile fu input) := of_none rfl
theorem fire (tile fu : Nat) (errs : List RegError) : Statement (.fire tile fu errs) := of_none rfl
theorem branchFire (tile fu : Nat) : Statement (.branchFire tile fu) := of_none rfl
theorem selectFire (tile fu : Nat) : Statement (.selectFire tile fu) := of_none rfl
theorem steerFire (tile fu : Nat) : Statement (.steerFire tile fu) := of_none rfl
theorem mergeFire (tile fu : Nat) : Statement (.mergeFire tile fu) := of_none rfl
theorem loopFire (tile fu : Nat) : Statement (.loopFire tile fu) := of_none rfl
theorem loopEmit (tile fu : Nat) : Statement (.loopEmit tile fu) := of_none rfl
theorem emit (tile fu : Nat) : Statement (.emit tile fu) := of_none rfl
theorem creditReturn (tile port : Nat) : Statement (.creditReturn tile port) := of_none rfl
theorem granuleLand (k : Nat) : Statement (.granuleLand k) := of_none rfl
theorem bankGrant (tile bank : Nat) (reqs : List BankReq) : Statement (.bankGrant tile bank reqs) := of_none rfl
theorem longGutterRoute (k : Nat) : Statement (.longGutterRoute k) := of_none rfl
theorem creditToken (k : Nat) : Statement (.creditToken k) := of_none rfl
theorem remoteCreditFlush (k : Nat) : Statement (.remoteCreditFlush k) := of_none rfl
theorem misregEvent (tile fu : Nat) : Statement (.misregEvent tile fu) := of_none rfl
theorem misreg (tile fu : Nat) : Statement (.misreg tile fu) := of_none rfl
theorem mov (tile fu : Nat) : Statement (.mov tile fu) := of_none rfl
theorem ld (tile fu : Nat) : Statement (.ld tile fu) := of_none rfl
theorem st (tile fu : Nat) : Statement (.st tile fu) := of_none rfl
theorem bcr (tile fu : Nat) : Statement (.bcr tile fu) := of_none rfl
theorem bcc (tile fu : Nat) : Statement (.bcc tile fu) := of_none rfl
theorem bcs (tile fu : Nat) : Statement (.bcs tile fu) := of_none rfl
theorem extr (tile fu : Nat) : Statement (.extr tile fu) := of_none rfl
theorem ins (tile fu : Nat) : Statement (.ins tile fu) := of_none rfl
theorem rotr (tile fu : Nat) : Statement (.rotr tile fu) := of_none rfl
theorem rotc (tile fu : Nat) : Statement (.rotc tile fu) := of_none rfl
theorem trans (tile fu : Nat) : Statement (.trans tile fu) := of_none rfl
theorem bfly (tile fu : Nat) : Statement (.bfly tile fu) := of_none rfl
theorem add (tile fu : Nat) : Statement (.add tile fu) := of_none rfl
theorem sub (tile fu : Nat) : Statement (.sub tile fu) := of_none rfl
theorem mul (tile fu : Nat) : Statement (.mul tile fu) := of_none rfl
theorem fma (tile fu : Nat) : Statement (.fma tile fu) := of_none rfl
theorem div (tile fu : Nat) : Statement (.div tile fu) := of_none rfl
theorem sqrt (tile fu : Nat) : Statement (.sqrt tile fu) := of_none rfl
theorem min (tile fu : Nat) : Statement (.min tile fu) := of_none rfl
theorem max (tile fu : Nat) : Statement (.max tile fu) := of_none rfl
theorem abs (tile fu : Nat) : Statement (.abs tile fu) := of_none rfl
theorem neg (tile fu : Nat) : Statement (.neg tile fu) := of_none rfl
theorem and (tile fu : Nat) : Statement (.and tile fu) := of_none rfl
theorem or (tile fu : Nat) : Statement (.or tile fu) := of_none rfl
theorem xor (tile fu : Nat) : Statement (.xor tile fu) := of_none rfl
theorem not (tile fu : Nat) : Statement (.not tile fu) := of_none rfl
theorem shl (tile fu : Nat) : Statement (.shl tile fu) := of_none rfl
theorem shr (tile fu : Nat) : Statement (.shr tile fu) := of_none rfl
theorem exp (tile fu : Nat) : Statement (.exp tile fu) := of_none rfl
theorem log (tile fu : Nat) : Statement (.log tile fu) := of_none rfl
theorem rsqrt (tile fu : Nat) : Statement (.rsqrt tile fu) := of_none rfl
theorem tanh (tile fu : Nat) : Statement (.tanh tile fu) := of_none rfl
theorem erf (tile fu : Nat) : Statement (.erf tile fu) := of_none rfl
theorem cmp (tile fu : Nat) : Statement (.cmp tile fu) := of_none rfl
theorem sel (tile fu : Nat) : Statement (.sel tile fu) := of_none rfl
theorem cvt (tile fu : Nat) : Statement (.cvt tile fu) := of_none rfl
theorem mpop (tile fu : Nat) : Statement (.mpop tile fu) := of_none rfl
theorem mand (tile fu : Nat) : Statement (.mand tile fu) := of_none rfl
theorem mor (tile fu : Nat) : Statement (.mor tile fu) := of_none rfl
theorem mxor (tile fu : Nat) : Statement (.mxor tile fu) := of_none rfl
theorem mnot (tile fu : Nat) : Statement (.mnot tile fu) := of_none rfl
theorem rsum (tile fu : Nat) : Statement (.rsum tile fu) := of_none rfl
theorem rmax (tile fu : Nat) : Statement (.rmax tile fu) := of_none rfl
theorem rmin (tile fu : Nat) : Statement (.rmin tile fu) := of_none rfl
theorem gadd (tile fu : Nat) : Statement (.gadd tile fu) := of_none rfl
theorem vmul (tile fu : Nat) : Statement (.vmul tile fu) := of_none rfl
theorem vdiv (tile fu : Nat) : Statement (.vdiv tile fu) := of_none rfl
theorem frd (tile fu : Nat) : Statement (.frd tile fu) := of_none rfl
theorem fprd (tile fu : Nat) : Statement (.fprd tile fu) := of_none rfl
theorem fsum (tile fu : Nat) : Statement (.fsum tile fu) := of_none rfl
theorem fclr (tile fu : Nat) : Statement (.fclr tile fu) := of_none rfl
theorem pmac (tile fu : Nat) : Statement (.pmac tile fu) := of_none rfl
theorem fillStart (feeder tile tid : Nat) (errs : List (Nat × Nat)) : Statement (.fillStart feeder tile tid errs) := of_none rfl
theorem fillComplete (k : Nat) : Statement (.fillComplete k) := of_none rfl
theorem slotRelease (tile tid slot : Nat) : Statement (.slotRelease tile tid slot) := of_none rfl
theorem slipIn (tile tid : Nat) (errs : List (Nat × Nat)) : Statement (.slipIn tile tid errs) := of_none rfl
theorem slipOut (tile tid : Nat) (errs : List (Nat × Nat)) : Statement (.slipOut tile tid errs) := of_none rfl
theorem drainTake (tile tid : Nat) : Statement (.drainTake tile tid) := of_none rfl
theorem drainWrite (tile tid : Nat) (errs : List (Nat × Nat)) : Statement (.drainWrite tile tid errs) := of_none rfl
theorem passBegin (chase forme : Nat) : Statement (.passBegin chase forme) := of_none rfl
theorem walkComplete (req : Nat) : Statement (.walkComplete req) := of_none rfl
theorem compositorRow (die : Nat) : Statement (.compositorRow die) := of_none rfl
theorem commit (req : Nat) : Statement (.commit req) := of_none rfl
theorem stepHold (req : Nat) : Statement (.stepHold req) := of_none rfl
theorem granuleRead (isH : Bool) (pa : Nat) (reader : Option Nat) (outs : List GranuleOutcome) : Statement (.granuleRead isH pa reader outs) := of_none rfl
theorem granuleWrite (isH : Bool) (pa chase : Nat) (data : Bytes) (strobe : List Bool) (spoiled : Bool) (outs : List GranuleOutcome) : Statement (.granuleWrite isH pa chase data strobe spoiled outs) := of_none rfl
theorem retrainDone (isH : Bool) (chan : Nat) (ok : Bool) : Statement (.retrainDone isH chan ok) := of_none rfl
theorem softPpr (isH : Bool) (row : Nat) (spare : Bool) : Statement (.softPpr isH row spare) := of_none rfl
theorem patrolRead (isH : Bool) (outs : List GranuleOutcome) : Statement (.patrolRead isH outs) := of_none rfl
theorem granuleJoin (chase : Nat) (isH : Bool) (g : Nat) : Statement (.granuleJoin chase isH g) := of_none rfl
theorem moveComplete (chase objId : Nat) : Statement (.moveComplete chase objId) := of_none rfl
theorem windowFill (chase objId block : Nat) : Statement (.windowFill chase objId block) := of_none rfl
theorem faultDetect (f : FaultInfo) : Statement (.faultDetect f) := of_none rfl
theorem captureDone (domain : Nat) : Statement (.captureDone domain) := of_none rfl
theorem pullDrainDone (domain : Nat) : Statement (.pullDrainDone domain) := of_none rfl
theorem resetLineAssert (domain : Nat) : Statement (.resetLineAssert domain) := of_none rfl
theorem domainResetComplete (domain : Nat) : Statement (.domainResetComplete domain) := of_none rfl
theorem firingWd (tile fu : Nat) : Statement (.firingWd tile fu) := of_none rfl
theorem progress (req : Nat) : Statement (.progress req) := of_none rfl
theorem commandWd (kind n : Nat) : Statement (.commandWd kind n) := of_none rfl
theorem packageReset (code domain : Nat) : Statement (.packageReset code domain) := of_none rfl
theorem wearSample (phys delay : Nat) : Statement (.wearSample phys delay) := of_none rfl
theorem phaseRetire (rail phase charge : Nat) (uneven : Bool) : Statement (.phaseRetire rail phase charge uneven) := of_none rfl
theorem discoveryMsg (port : Nat) (m : DiscoveryMsg) : Statement (.discoveryMsg port m) := of_none rfl
theorem linkFrame (port : Nat) (frame : Option Bytes) (side : List (Bool × Bool)) : Statement (.linkFrame port frame side) := of_none rfl
theorem frameNak (port seq : Nat) : Statement (.frameNak port seq) := of_none rfl
theorem laneSpareRetrain (port lane : Nat) (ok : Bool) : Statement (.laneSpareRetrain port lane ok) := of_none rfl
theorem linkRekey (port : Nat) : Statement (.linkRekey port) := of_none rfl
theorem rekeyMsg (port : Nat) (nonce eph sig : Bytes) : Statement (.rekeyMsg port nonce eph sig) := of_none rfl
theorem syncMsg (port leader hops t1 t2 t3 : Nat) : Statement (.syncMsg port leader hops t1 t2 t3) := of_none rfl
theorem lossOfSignal (port : Nat) : Statement (.lossOfSignal port) := of_none rfl
theorem joinMsg (port : Nat) (m : JoinMsg) : Statement (.joinMsg port m) := of_none rfl
theorem joinTimeout (jobId : Nat) : Statement (.joinTimeout jobId) := of_none rfl
theorem fenceMsg (port jobId step coord cause : Nat) : Statement (.fenceMsg port jobId step coord cause) := of_none rfl
theorem rejoinMsg (port jobId step epoch : Nat) : Statement (.rejoinMsg port jobId step epoch) := of_none rfl
theorem rejoinAck (port jobId device detail : Nat) : Statement (.rejoinAck port jobId device detail) := of_none rfl
theorem vinRise : Statement .vinRise := of_none rfl
theorem vinUnder : Statement .vinUnder := of_none rfl
theorem vinOver : Statement .vinOver := of_none rfl
theorem epoN : Statement .epoN := of_none rfl
theorem thermTripN : Statement .thermTripN := of_none rfl
theorem thermTripRelease (hottest : Nat) : Statement (.thermTripRelease hottest) := of_none rfl
theorem resetN : Statement .resetN := of_none rfl
theorem pwrAlertN : Statement .pwrAlertN := of_none rfl
theorem alertRelease : Statement .alertRelease := of_none rfl
theorem refclkLoss (clk : Nat) : Statement (.refclkLoss clk) := of_none rfl
theorem refclkReturn (clk : Nat) : Statement (.refclkReturn clk) := of_none rfl
theorem tempSample (sensors : List Nat) : Statement (.tempSample sensors) := of_none rfl
theorem thermalFloorEnd : Statement .thermalFloorEnd := of_none rfl
theorem curBinUpdate (railsMv : List Nat) : Statement (.curBinUpdate railsMv) := of_none rfl
theorem tiFall : Statement .tiFall := of_none rfl
theorem railsSettled (railsMv : List Nat) : Statement (.railsSettled railsMv) := of_none rfl
theorem limiter (p : PowerSample) : Statement (.limiter p) := of_none rfl
theorem limiterHandback (watts : Nat) : Statement (.limiterHandback watts) := of_none rfl
theorem throttleStep (watts : Nat) : Statement (.throttleStep watts) := of_none rfl
theorem holdEnd (watts : Nat) : Statement (.holdEnd watts) := of_none rfl
theorem overdriveEval (watts : Nat) : Statement (.overdriveEval watts) := of_none rfl
theorem senseCheck (pair remoteMv localMv : Nat) : Statement (.senseCheck pair remoteMv localMv) := of_none rfl
theorem laneShort (kind port lane : Nat) : Statement (.laneShort kind port lane) := of_none rfl
theorem aonCheck (romFail : Nat) : Statement (.aonCheck romFail) := of_none rfl
theorem bootStatus : Statement .bootStatus := of_none rfl
theorem bootConfig (c : BootConfig) : Statement (.bootConfig c) := of_none rfl
theorem fwChunk (offset : Nat) (data : Bytes) : Statement (.fwChunk offset data) := of_none rfl
theorem bootDatagram (frame : Bytes) : Statement (.bootDatagram frame) := of_none rfl
theorem fwDeliveryTimeout : Statement .fwDeliveryTimeout := of_none rfl
theorem fwVerifyDone : Statement .fwVerifyDone := of_none rfl
theorem bringUpDone (r : BringUpResult) : Statement (.bringUpDone r) := of_none rfl
theorem rollbackBlow : Statement .rollbackBlow := of_none rfl
theorem claimWindow (seconds : Nat) : Statement (.claimWindow seconds) := of_none rfl
theorem claimWindowExpiry : Statement .claimWindowExpiry := of_none rfl
theorem getVersion : Statement .getVersion := of_none rfl
theorem getCapabilities : Statement .getCapabilities := of_none rfl
theorem negotiateAlgorithms : Statement .negotiateAlgorithms := of_none rfl
theorem getDigests : Statement .getDigests := of_none rfl
theorem getCertificate (slot offset len : Nat) : Statement (.getCertificate slot offset len) := of_none rfl
theorem challenge (slot : Nat) (nonce : Bytes) : Statement (.challenge slot nonce) := of_none rfl
theorem getMeasurements (index : Nat) (nonce : Bytes) : Statement (.getMeasurements index nonce) := of_none rfl
theorem unsupportedRequest (code : Nat) : Statement (.unsupportedRequest code) := of_none rfl
theorem scanDone (chase : Nat) : Statement (.scanDone chase) := of_none rfl
theorem udsDestroyed : Statement .udsDestroyed := of_none rfl
theorem ownerFusesBlown : Statement .ownerFusesBlown := of_none rfl
theorem torusPortTrained (port : Nat) (failed : List Nat) : Statement (.torusPortTrained port failed) := of_none rfl
theorem inputPowerLoss : Statement .inputPowerLoss := of_none rfl
theorem epoNRelease : Statement .epoNRelease := of_none rfl
theorem inputOorChange (vin : Nat) : Statement (.inputOorChange vin) := of_none rfl
theorem jtagInstruction (code : Nat) : Statement (.jtagInstruction code) := of_none rfl

end HeaderWf
end Sys2Proof.Laws
end

