-- ==== Sys2Proof/Laws/State.lean ====
section
/-! SUPPORT. The frames of the named updates of the state: each leaves every field but its own as it was, one lemma a
field, so that no later proof unfolds a record update; and what a part reads as after its own update. -/

-- One proof at a time: the package as one text then needs little memory.
set_option Elab.async false

namespace Sys2Proof.Machine

/-! ### setTile -/

@[simp] theorem setTile_pending (s : State) (t : Nat) (x : Tile) : (setTile s t x).pending = s.pending := rfl
@[simp] theorem setTile_draws (s : State) (t : Nat) (x : Tile) : (setTile s t x).draws = s.draws := rfl
@[simp] theorem setTile_now (s : State) (t : Nat) (x : Tile) : (setTile s t x).now = s.now := rfl
@[simp] theorem setTile_fuses (s : State) (t : Nat) (x : Tile) : (setTile s t x).fuses = s.fuses := rfl
@[simp] theorem setTile_boot (s : State) (t : Nat) (x : Tile) : (setTile s t x).boot = s.boot := rfl
@[simp] theorem setTile_pins (s : State) (t : Nat) (x : Tile) : (setTile s t x).pins = s.pins := rfl
@[simp] theorem setTile_power (s : State) (t : Nat) (x : Tile) : (setTile s t x).power = s.power := rfl
@[simp] theorem setTile_thermal (s : State) (t : Nat) (x : Tile) : (setTile s t x).thermal = s.thermal := rfl
@[simp] theorem setTile_health (s : State) (t : Nat) (x : Tile) : (setTile s t x).health = s.health := rfl
@[simp] theorem setTile_policies (s : State) (t : Nat) (x : Tile) : (setTile s t x).policies = s.policies := rfl
@[simp] theorem setTile_policyDue (s : State) (t : Nat) (x : Tile) : (setTile s t x).policyDue = s.policyDue := rfl
@[simp] theorem setTile_creds (s : State) (t : Nat) (x : Tile) : (setTile s t x).creds = s.creds := rfl
@[simp] theorem setTile_sessions (s : State) (t : Nat) (x : Tile) : (setTile s t x).sessions = s.sessions := rfl
@[simp] theorem setTile_closedIds (s : State) (t : Nat) (x : Tile) : (setTile s t x).closedIds = s.closedIds := rfl
@[simp] theorem setTile_reasm (s : State) (t : Nat) (x : Tile) : (setTile s t x).reasm = s.reasm := rfl
@[simp] theorem setTile_doorbells (s : State) (t : Nat) (x : Tile) : (setTile s t x).doorbells = s.doorbells := rfl
@[simp] theorem setTile_doorPtr (s : State) (t : Nat) (x : Tile) : (setTile s t x).doorPtr = s.doorPtr := rfl
@[simp] theorem setTile_live (s : State) (t : Nat) (x : Tile) : (setTile s t x).live = s.live := rfl
@[simp] theorem setTile_finals (s : State) (t : Nat) (x : Tile) : (setTile s t x).finals = s.finals := rfl
@[simp] theorem setTile_heldChunks (s : State) (t : Nat) (x : Tile) : (setTile s t x).heldChunks = s.heldChunks := rfl
@[simp] theorem setTile_ports (s : State) (t : Nat) (x : Tile) : (setTile s t x).ports = s.ports := rfl
@[simp] theorem setTile_relaySet (s : State) (t : Nat) (x : Tile) : (setTile s t x).relaySet = s.relaySet := rfl
@[simp] theorem setTile_relayOut (s : State) (t : Nat) (x : Tile) : (setTile s t x).relayOut = s.relayOut := rfl
@[simp] theorem setTile_intake (s : State) (t : Nat) (x : Tile) : (setTile s t x).intake = s.intake := rfl
@[simp] theorem setTile_wire (s : State) (t : Nat) (x : Tile) : (setTile s t x).wire = s.wire := rfl
@[simp] theorem setTile_relayWire (s : State) (t : Nat) (x : Tile) : (setTile s t x).relayWire = s.relayWire := rfl
@[simp] theorem setTile_out (s : State) (t : Nat) (x : Tile) : (setTile s t x).out = s.out := rfl
@[simp] theorem setTile_sbOut (s : State) (t : Nat) (x : Tile) : (setTile s t x).sbOut = s.sbOut := rfl
@[simp] theorem setTile_chases (s : State) (t : Nat) (x : Tile) : (setTile s t x).chases = s.chases := rfl
@[simp] theorem setTile_stages (s : State) (t : Nat) (x : Tile) : (setTile s t x).stages = s.stages := rfl
@[simp] theorem setTile_net (s : State) (t : Nat) (x : Tile) : (setTile s t x).net = s.net := rfl
@[simp] theorem setTile_landings (s : State) (t : Nat) (x : Tile) : (setTile s t x).landings = s.landings := rfl
@[simp] theorem setTile_remoteDue (s : State) (t : Nat) (x : Tile) : (setTile s t x).remoteDue = s.remoteDue := rfl
@[simp] theorem setTile_remoteUsed (s : State) (t : Nat) (x : Tile) : (setTile s t x).remoteUsed = s.remoteUsed := rfl
@[simp] theorem setTile_torusOut (s : State) (t : Nat) (x : Tile) : (setTile s t x).torusOut = s.torusOut := rfl
@[simp] theorem setTile_memH (s : State) (t : Nat) (x : Tile) : (setTile s t x).memH = s.memH := rfl
@[simp] theorem setTile_memB (s : State) (t : Nat) (x : Tile) : (setTile s t x).memB = s.memB := rfl
@[simp] theorem setTile_objs (s : State) (t : Nat) (x : Tile) : (setTile s t x).objs = s.objs := rfl
@[simp] theorem setTile_objWaits (s : State) (t : Nat) (x : Tile) : (setTile s t x).objWaits = s.objWaits := rfl
@[simp] theorem setTile_reqs (s : State) (t : Nat) (x : Tile) : (setTile s t x).reqs = s.reqs := rfl
@[simp] theorem setTile_nextReq (s : State) (t : Nat) (x : Tile) : (setTile s t x).nextReq = s.nextReq := rfl
@[simp] theorem setTile_logs (s : State) (t : Nat) (x : Tile) : (setTile s t x).logs = s.logs := rfl
@[simp] theorem setTile_comps (s : State) (t : Nat) (x : Tile) : (setTile s t x).comps = s.comps := rfl
@[simp] theorem setTile_fills (s : State) (t : Nat) (x : Tile) : (setTile s t x).fills = s.fills := rfl
@[simp] theorem setTile_feederPtr (s : State) (t : Nat) (x : Tile) : (setTile s t x).feederPtr = s.feederPtr := rfl
@[simp] theorem setTile_torus (s : State) (t : Nat) (x : Tile) : (setTile s t x).torus = s.torus := rfl
@[simp] theorem setTile_jobs (s : State) (t : Nat) (x : Tile) : (setTile s t x).jobs = s.jobs := rfl
@[simp] theorem setTile_faults (s : State) (t : Nat) (x : Tile) : (setTile s t x).faults = s.faults := rfl
@[simp] theorem setTile_spares (s : State) (t : Nat) (x : Tile) : (setTile s t x).spares = s.spares := rfl
@[simp] theorem setTile_snap (s : State) (t : Nat) (x : Tile) : (setTile s t x).snap = s.snap := rfl

/-! ### modTile -/

@[simp] theorem modTile_pending (s : State) (t : Nat) (f : Tile → Tile) : (modTile s t f).pending = s.pending := rfl
@[simp] theorem modTile_draws (s : State) (t : Nat) (f : Tile → Tile) : (modTile s t f).draws = s.draws := rfl
@[simp] theorem modTile_now (s : State) (t : Nat) (f : Tile → Tile) : (modTile s t f).now = s.now := rfl
@[simp] theorem modTile_fuses (s : State) (t : Nat) (f : Tile → Tile) : (modTile s t f).fuses = s.fuses := rfl
@[simp] theorem modTile_boot (s : State) (t : Nat) (f : Tile → Tile) : (modTile s t f).boot = s.boot := rfl
@[simp] theorem modTile_pins (s : State) (t : Nat) (f : Tile → Tile) : (modTile s t f).pins = s.pins := rfl
@[simp] theorem modTile_power (s : State) (t : Nat) (f : Tile → Tile) : (modTile s t f).power = s.power := rfl
@[simp] theorem modTile_thermal (s : State) (t : Nat) (f : Tile → Tile) : (modTile s t f).thermal = s.thermal := rfl
@[simp] theorem modTile_health (s : State) (t : Nat) (f : Tile → Tile) : (modTile s t f).health = s.health := rfl
@[simp] theorem modTile_policies (s : State) (t : Nat) (f : Tile → Tile) : (modTile s t f).policies = s.policies := rfl
@[simp] theorem modTile_policyDue (s : State) (t : Nat) (f : Tile → Tile) : (modTile s t f).policyDue = s.policyDue := rfl
@[simp] theorem modTile_creds (s : State) (t : Nat) (f : Tile → Tile) : (modTile s t f).creds = s.creds := rfl
@[simp] theorem modTile_sessions (s : State) (t : Nat) (f : Tile → Tile) : (modTile s t f).sessions = s.sessions := rfl
@[simp] theorem modTile_closedIds (s : State) (t : Nat) (f : Tile → Tile) : (modTile s t f).closedIds = s.closedIds := rfl
@[simp] theorem modTile_reasm (s : State) (t : Nat) (f : Tile → Tile) : (modTile s t f).reasm = s.reasm := rfl
@[simp] theorem modTile_doorbells (s : State) (t : Nat) (f : Tile → Tile) : (modTile s t f).doorbells = s.doorbells := rfl
@[simp] theorem modTile_doorPtr (s : State) (t : Nat) (f : Tile → Tile) : (modTile s t f).doorPtr = s.doorPtr := rfl
@[simp] theorem modTile_live (s : State) (t : Nat) (f : Tile → Tile) : (modTile s t f).live = s.live := rfl
@[simp] theorem modTile_finals (s : State) (t : Nat) (f : Tile → Tile) : (modTile s t f).finals = s.finals := rfl
@[simp] theorem modTile_heldChunks (s : State) (t : Nat) (f : Tile → Tile) : (modTile s t f).heldChunks = s.heldChunks := rfl
@[simp] theorem modTile_ports (s : State) (t : Nat) (f : Tile → Tile) : (modTile s t f).ports = s.ports := rfl
@[simp] theorem modTile_relaySet (s : State) (t : Nat) (f : Tile → Tile) : (modTile s t f).relaySet = s.relaySet := rfl
@[simp] theorem modTile_relayOut (s : State) (t : Nat) (f : Tile → Tile) : (modTile s t f).relayOut = s.relayOut := rfl
@[simp] theorem modTile_intake (s : State) (t : Nat) (f : Tile → Tile) : (modTile s t f).intake = s.intake := rfl
@[simp] theorem modTile_wire (s : State) (t : Nat) (f : Tile → Tile) : (modTile s t f).wire = s.wire := rfl
@[simp] theorem modTile_relayWire (s : State) (t : Nat) (f : Tile → Tile) : (modTile s t f).relayWire = s.relayWire := rfl
@[simp] theorem modTile_out (s : State) (t : Nat) (f : Tile → Tile) : (modTile s t f).out = s.out := rfl
@[simp] theorem modTile_sbOut (s : State) (t : Nat) (f : Tile → Tile) : (modTile s t f).sbOut = s.sbOut := rfl
@[simp] theorem modTile_chases (s : State) (t : Nat) (f : Tile → Tile) : (modTile s t f).chases = s.chases := rfl
@[simp] theorem modTile_stages (s : State) (t : Nat) (f : Tile → Tile) : (modTile s t f).stages = s.stages := rfl
@[simp] theorem modTile_net (s : State) (t : Nat) (f : Tile → Tile) : (modTile s t f).net = s.net := rfl
@[simp] theorem modTile_landings (s : State) (t : Nat) (f : Tile → Tile) : (modTile s t f).landings = s.landings := rfl
@[simp] theorem modTile_remoteDue (s : State) (t : Nat) (f : Tile → Tile) : (modTile s t f).remoteDue = s.remoteDue := rfl
@[simp] theorem modTile_remoteUsed (s : State) (t : Nat) (f : Tile → Tile) : (modTile s t f).remoteUsed = s.remoteUsed := rfl
@[simp] theorem modTile_torusOut (s : State) (t : Nat) (f : Tile → Tile) : (modTile s t f).torusOut = s.torusOut := rfl
@[simp] theorem modTile_memH (s : State) (t : Nat) (f : Tile → Tile) : (modTile s t f).memH = s.memH := rfl
@[simp] theorem modTile_memB (s : State) (t : Nat) (f : Tile → Tile) : (modTile s t f).memB = s.memB := rfl
@[simp] theorem modTile_objs (s : State) (t : Nat) (f : Tile → Tile) : (modTile s t f).objs = s.objs := rfl
@[simp] theorem modTile_objWaits (s : State) (t : Nat) (f : Tile → Tile) : (modTile s t f).objWaits = s.objWaits := rfl
@[simp] theorem modTile_reqs (s : State) (t : Nat) (f : Tile → Tile) : (modTile s t f).reqs = s.reqs := rfl
@[simp] theorem modTile_nextReq (s : State) (t : Nat) (f : Tile → Tile) : (modTile s t f).nextReq = s.nextReq := rfl
@[simp] theorem modTile_logs (s : State) (t : Nat) (f : Tile → Tile) : (modTile s t f).logs = s.logs := rfl
@[simp] theorem modTile_comps (s : State) (t : Nat) (f : Tile → Tile) : (modTile s t f).comps = s.comps := rfl
@[simp] theorem modTile_fills (s : State) (t : Nat) (f : Tile → Tile) : (modTile s t f).fills = s.fills := rfl
@[simp] theorem modTile_feederPtr (s : State) (t : Nat) (f : Tile → Tile) : (modTile s t f).feederPtr = s.feederPtr := rfl
@[simp] theorem modTile_torus (s : State) (t : Nat) (f : Tile → Tile) : (modTile s t f).torus = s.torus := rfl
@[simp] theorem modTile_jobs (s : State) (t : Nat) (f : Tile → Tile) : (modTile s t f).jobs = s.jobs := rfl
@[simp] theorem modTile_faults (s : State) (t : Nat) (f : Tile → Tile) : (modTile s t f).faults = s.faults := rfl
@[simp] theorem modTile_spares (s : State) (t : Nat) (f : Tile → Tile) : (modTile s t f).spares = s.spares := rfl
@[simp] theorem modTile_snap (s : State) (t : Nat) (f : Tile → Tile) : (modTile s t f).snap = s.snap := rfl

/-! ### modFiring -/

@[simp] theorem modFiring_pending (s : State) (t u : Nat) (f : Firing → Firing) : (modFiring s t u f).pending = s.pending := rfl
@[simp] theorem modFiring_draws (s : State) (t u : Nat) (f : Firing → Firing) : (modFiring s t u f).draws = s.draws := rfl
@[simp] theorem modFiring_now (s : State) (t u : Nat) (f : Firing → Firing) : (modFiring s t u f).now = s.now := rfl
@[simp] theorem modFiring_fuses (s : State) (t u : Nat) (f : Firing → Firing) : (modFiring s t u f).fuses = s.fuses := rfl
@[simp] theorem modFiring_boot (s : State) (t u : Nat) (f : Firing → Firing) : (modFiring s t u f).boot = s.boot := rfl
@[simp] theorem modFiring_pins (s : State) (t u : Nat) (f : Firing → Firing) : (modFiring s t u f).pins = s.pins := rfl
@[simp] theorem modFiring_power (s : State) (t u : Nat) (f : Firing → Firing) : (modFiring s t u f).power = s.power := rfl
@[simp] theorem modFiring_thermal (s : State) (t u : Nat) (f : Firing → Firing) : (modFiring s t u f).thermal = s.thermal := rfl
@[simp] theorem modFiring_health (s : State) (t u : Nat) (f : Firing → Firing) : (modFiring s t u f).health = s.health := rfl
@[simp] theorem modFiring_policies (s : State) (t u : Nat) (f : Firing → Firing) : (modFiring s t u f).policies = s.policies := rfl
@[simp] theorem modFiring_policyDue (s : State) (t u : Nat) (f : Firing → Firing) : (modFiring s t u f).policyDue = s.policyDue := rfl
@[simp] theorem modFiring_creds (s : State) (t u : Nat) (f : Firing → Firing) : (modFiring s t u f).creds = s.creds := rfl
@[simp] theorem modFiring_sessions (s : State) (t u : Nat) (f : Firing → Firing) : (modFiring s t u f).sessions = s.sessions := rfl
@[simp] theorem modFiring_closedIds (s : State) (t u : Nat) (f : Firing → Firing) : (modFiring s t u f).closedIds = s.closedIds := rfl
@[simp] theorem modFiring_reasm (s : State) (t u : Nat) (f : Firing → Firing) : (modFiring s t u f).reasm = s.reasm := rfl
@[simp] theorem modFiring_doorbells (s : State) (t u : Nat) (f : Firing → Firing) : (modFiring s t u f).doorbells = s.doorbells := rfl
@[simp] theorem modFiring_doorPtr (s : State) (t u : Nat) (f : Firing → Firing) : (modFiring s t u f).doorPtr = s.doorPtr := rfl
@[simp] theorem modFiring_live (s : State) (t u : Nat) (f : Firing → Firing) : (modFiring s t u f).live = s.live := rfl
@[simp] theorem modFiring_finals (s : State) (t u : Nat) (f : Firing → Firing) : (modFiring s t u f).finals = s.finals := rfl
@[simp] theorem modFiring_heldChunks (s : State) (t u : Nat) (f : Firing → Firing) : (modFiring s t u f).heldChunks = s.heldChunks := rfl
@[simp] theorem modFiring_ports (s : State) (t u : Nat) (f : Firing → Firing) : (modFiring s t u f).ports = s.ports := rfl
@[simp] theorem modFiring_relaySet (s : State) (t u : Nat) (f : Firing → Firing) : (modFiring s t u f).relaySet = s.relaySet := rfl
@[simp] theorem modFiring_relayOut (s : State) (t u : Nat) (f : Firing → Firing) : (modFiring s t u f).relayOut = s.relayOut := rfl
@[simp] theorem modFiring_intake (s : State) (t u : Nat) (f : Firing → Firing) : (modFiring s t u f).intake = s.intake := rfl
@[simp] theorem modFiring_wire (s : State) (t u : Nat) (f : Firing → Firing) : (modFiring s t u f).wire = s.wire := rfl
@[simp] theorem modFiring_relayWire (s : State) (t u : Nat) (f : Firing → Firing) : (modFiring s t u f).relayWire = s.relayWire := rfl
@[simp] theorem modFiring_out (s : State) (t u : Nat) (f : Firing → Firing) : (modFiring s t u f).out = s.out := rfl
@[simp] theorem modFiring_sbOut (s : State) (t u : Nat) (f : Firing → Firing) : (modFiring s t u f).sbOut = s.sbOut := rfl
@[simp] theorem modFiring_chases (s : State) (t u : Nat) (f : Firing → Firing) : (modFiring s t u f).chases = s.chases := rfl
@[simp] theorem modFiring_stages (s : State) (t u : Nat) (f : Firing → Firing) : (modFiring s t u f).stages = s.stages := rfl
@[simp] theorem modFiring_net (s : State) (t u : Nat) (f : Firing → Firing) : (modFiring s t u f).net = s.net := rfl
@[simp] theorem modFiring_landings (s : State) (t u : Nat) (f : Firing → Firing) : (modFiring s t u f).landings = s.landings := rfl
@[simp] theorem modFiring_remoteDue (s : State) (t u : Nat) (f : Firing → Firing) : (modFiring s t u f).remoteDue = s.remoteDue := rfl
@[simp] theorem modFiring_remoteUsed (s : State) (t u : Nat) (f : Firing → Firing) : (modFiring s t u f).remoteUsed = s.remoteUsed := rfl
@[simp] theorem modFiring_torusOut (s : State) (t u : Nat) (f : Firing → Firing) : (modFiring s t u f).torusOut = s.torusOut := rfl
@[simp] theorem modFiring_memH (s : State) (t u : Nat) (f : Firing → Firing) : (modFiring s t u f).memH = s.memH := rfl
@[simp] theorem modFiring_memB (s : State) (t u : Nat) (f : Firing → Firing) : (modFiring s t u f).memB = s.memB := rfl
@[simp] theorem modFiring_objs (s : State) (t u : Nat) (f : Firing → Firing) : (modFiring s t u f).objs = s.objs := rfl
@[simp] theorem modFiring_objWaits (s : State) (t u : Nat) (f : Firing → Firing) : (modFiring s t u f).objWaits = s.objWaits := rfl
@[simp] theorem modFiring_reqs (s : State) (t u : Nat) (f : Firing → Firing) : (modFiring s t u f).reqs = s.reqs := rfl
@[simp] theorem modFiring_nextReq (s : State) (t u : Nat) (f : Firing → Firing) : (modFiring s t u f).nextReq = s.nextReq := rfl
@[simp] theorem modFiring_logs (s : State) (t u : Nat) (f : Firing → Firing) : (modFiring s t u f).logs = s.logs := rfl
@[simp] theorem modFiring_comps (s : State) (t u : Nat) (f : Firing → Firing) : (modFiring s t u f).comps = s.comps := rfl
@[simp] theorem modFiring_fills (s : State) (t u : Nat) (f : Firing → Firing) : (modFiring s t u f).fills = s.fills := rfl
@[simp] theorem modFiring_feederPtr (s : State) (t u : Nat) (f : Firing → Firing) : (modFiring s t u f).feederPtr = s.feederPtr := rfl
@[simp] theorem modFiring_torus (s : State) (t u : Nat) (f : Firing → Firing) : (modFiring s t u f).torus = s.torus := rfl
@[simp] theorem modFiring_jobs (s : State) (t u : Nat) (f : Firing → Firing) : (modFiring s t u f).jobs = s.jobs := rfl
@[simp] theorem modFiring_faults (s : State) (t u : Nat) (f : Firing → Firing) : (modFiring s t u f).faults = s.faults := rfl
@[simp] theorem modFiring_spares (s : State) (t u : Nat) (f : Firing → Firing) : (modFiring s t u f).spares = s.spares := rfl
@[simp] theorem modFiring_snap (s : State) (t u : Nat) (f : Firing → Firing) : (modFiring s t u f).snap = s.snap := rfl

/-! ### modGalley -/

@[simp] theorem modGalley_pending (s : State) (t tid : Nat) (f : Galley → Galley) : (modGalley s t tid f).pending = s.pending := rfl
@[simp] theorem modGalley_draws (s : State) (t tid : Nat) (f : Galley → Galley) : (modGalley s t tid f).draws = s.draws := rfl
@[simp] theorem modGalley_now (s : State) (t tid : Nat) (f : Galley → Galley) : (modGalley s t tid f).now = s.now := rfl
@[simp] theorem modGalley_fuses (s : State) (t tid : Nat) (f : Galley → Galley) : (modGalley s t tid f).fuses = s.fuses := rfl
@[simp] theorem modGalley_boot (s : State) (t tid : Nat) (f : Galley → Galley) : (modGalley s t tid f).boot = s.boot := rfl
@[simp] theorem modGalley_pins (s : State) (t tid : Nat) (f : Galley → Galley) : (modGalley s t tid f).pins = s.pins := rfl
@[simp] theorem modGalley_power (s : State) (t tid : Nat) (f : Galley → Galley) : (modGalley s t tid f).power = s.power := rfl
@[simp] theorem modGalley_thermal (s : State) (t tid : Nat) (f : Galley → Galley) : (modGalley s t tid f).thermal = s.thermal := rfl
@[simp] theorem modGalley_health (s : State) (t tid : Nat) (f : Galley → Galley) : (modGalley s t tid f).health = s.health := rfl
@[simp] theorem modGalley_policies (s : State) (t tid : Nat) (f : Galley → Galley) : (modGalley s t tid f).policies = s.policies := rfl
@[simp] theorem modGalley_policyDue (s : State) (t tid : Nat) (f : Galley → Galley) : (modGalley s t tid f).policyDue = s.policyDue := rfl
@[simp] theorem modGalley_creds (s : State) (t tid : Nat) (f : Galley → Galley) : (modGalley s t tid f).creds = s.creds := rfl
@[simp] theorem modGalley_sessions (s : State) (t tid : Nat) (f : Galley → Galley) : (modGalley s t tid f).sessions = s.sessions := rfl
@[simp] theorem modGalley_closedIds (s : State) (t tid : Nat) (f : Galley → Galley) : (modGalley s t tid f).closedIds = s.closedIds := rfl
@[simp] theorem modGalley_reasm (s : State) (t tid : Nat) (f : Galley → Galley) : (modGalley s t tid f).reasm = s.reasm := rfl
@[simp] theorem modGalley_doorbells (s : State) (t tid : Nat) (f : Galley → Galley) : (modGalley s t tid f).doorbells = s.doorbells := rfl
@[simp] theorem modGalley_doorPtr (s : State) (t tid : Nat) (f : Galley → Galley) : (modGalley s t tid f).doorPtr = s.doorPtr := rfl
@[simp] theorem modGalley_live (s : State) (t tid : Nat) (f : Galley → Galley) : (modGalley s t tid f).live = s.live := rfl
@[simp] theorem modGalley_finals (s : State) (t tid : Nat) (f : Galley → Galley) : (modGalley s t tid f).finals = s.finals := rfl
@[simp] theorem modGalley_heldChunks (s : State) (t tid : Nat) (f : Galley → Galley) : (modGalley s t tid f).heldChunks = s.heldChunks := rfl
@[simp] theorem modGalley_ports (s : State) (t tid : Nat) (f : Galley → Galley) : (modGalley s t tid f).ports = s.ports := rfl
@[simp] theorem modGalley_relaySet (s : State) (t tid : Nat) (f : Galley → Galley) : (modGalley s t tid f).relaySet = s.relaySet := rfl
@[simp] theorem modGalley_relayOut (s : State) (t tid : Nat) (f : Galley → Galley) : (modGalley s t tid f).relayOut = s.relayOut := rfl
@[simp] theorem modGalley_intake (s : State) (t tid : Nat) (f : Galley → Galley) : (modGalley s t tid f).intake = s.intake := rfl
@[simp] theorem modGalley_wire (s : State) (t tid : Nat) (f : Galley → Galley) : (modGalley s t tid f).wire = s.wire := rfl
@[simp] theorem modGalley_relayWire (s : State) (t tid : Nat) (f : Galley → Galley) : (modGalley s t tid f).relayWire = s.relayWire := rfl
@[simp] theorem modGalley_out (s : State) (t tid : Nat) (f : Galley → Galley) : (modGalley s t tid f).out = s.out := rfl
@[simp] theorem modGalley_sbOut (s : State) (t tid : Nat) (f : Galley → Galley) : (modGalley s t tid f).sbOut = s.sbOut := rfl
@[simp] theorem modGalley_chases (s : State) (t tid : Nat) (f : Galley → Galley) : (modGalley s t tid f).chases = s.chases := rfl
@[simp] theorem modGalley_stages (s : State) (t tid : Nat) (f : Galley → Galley) : (modGalley s t tid f).stages = s.stages := rfl
@[simp] theorem modGalley_net (s : State) (t tid : Nat) (f : Galley → Galley) : (modGalley s t tid f).net = s.net := rfl
@[simp] theorem modGalley_landings (s : State) (t tid : Nat) (f : Galley → Galley) : (modGalley s t tid f).landings = s.landings := rfl
@[simp] theorem modGalley_remoteDue (s : State) (t tid : Nat) (f : Galley → Galley) : (modGalley s t tid f).remoteDue = s.remoteDue := rfl
@[simp] theorem modGalley_remoteUsed (s : State) (t tid : Nat) (f : Galley → Galley) : (modGalley s t tid f).remoteUsed = s.remoteUsed := rfl
@[simp] theorem modGalley_torusOut (s : State) (t tid : Nat) (f : Galley → Galley) : (modGalley s t tid f).torusOut = s.torusOut := rfl
@[simp] theorem modGalley_memH (s : State) (t tid : Nat) (f : Galley → Galley) : (modGalley s t tid f).memH = s.memH := rfl
@[simp] theorem modGalley_memB (s : State) (t tid : Nat) (f : Galley → Galley) : (modGalley s t tid f).memB = s.memB := rfl
@[simp] theorem modGalley_objs (s : State) (t tid : Nat) (f : Galley → Galley) : (modGalley s t tid f).objs = s.objs := rfl
@[simp] theorem modGalley_objWaits (s : State) (t tid : Nat) (f : Galley → Galley) : (modGalley s t tid f).objWaits = s.objWaits := rfl
@[simp] theorem modGalley_reqs (s : State) (t tid : Nat) (f : Galley → Galley) : (modGalley s t tid f).reqs = s.reqs := rfl
@[simp] theorem modGalley_nextReq (s : State) (t tid : Nat) (f : Galley → Galley) : (modGalley s t tid f).nextReq = s.nextReq := rfl
@[simp] theorem modGalley_logs (s : State) (t tid : Nat) (f : Galley → Galley) : (modGalley s t tid f).logs = s.logs := rfl
@[simp] theorem modGalley_comps (s : State) (t tid : Nat) (f : Galley → Galley) : (modGalley s t tid f).comps = s.comps := rfl
@[simp] theorem modGalley_fills (s : State) (t tid : Nat) (f : Galley → Galley) : (modGalley s t tid f).fills = s.fills := rfl
@[simp] theorem modGalley_feederPtr (s : State) (t tid : Nat) (f : Galley → Galley) : (modGalley s t tid f).feederPtr = s.feederPtr := rfl
@[simp] theorem modGalley_torus (s : State) (t tid : Nat) (f : Galley → Galley) : (modGalley s t tid f).torus = s.torus := rfl
@[simp] theorem modGalley_jobs (s : State) (t tid : Nat) (f : Galley → Galley) : (modGalley s t tid f).jobs = s.jobs := rfl
@[simp] theorem modGalley_faults (s : State) (t tid : Nat) (f : Galley → Galley) : (modGalley s t tid f).faults = s.faults := rfl
@[simp] theorem modGalley_spares (s : State) (t tid : Nat) (f : Galley → Galley) : (modGalley s t tid f).spares = s.spares := rfl
@[simp] theorem modGalley_snap (s : State) (t tid : Nat) (f : Galley → Galley) : (modGalley s t tid f).snap = s.snap := rfl

/-! ### modChase -/

@[simp] theorem modChase_pending (s : State) (c : Nat) (f : Chase → Chase) : (modChase s c f).pending = s.pending := rfl
@[simp] theorem modChase_draws (s : State) (c : Nat) (f : Chase → Chase) : (modChase s c f).draws = s.draws := rfl
@[simp] theorem modChase_now (s : State) (c : Nat) (f : Chase → Chase) : (modChase s c f).now = s.now := rfl
@[simp] theorem modChase_fuses (s : State) (c : Nat) (f : Chase → Chase) : (modChase s c f).fuses = s.fuses := rfl
@[simp] theorem modChase_boot (s : State) (c : Nat) (f : Chase → Chase) : (modChase s c f).boot = s.boot := rfl
@[simp] theorem modChase_pins (s : State) (c : Nat) (f : Chase → Chase) : (modChase s c f).pins = s.pins := rfl
@[simp] theorem modChase_power (s : State) (c : Nat) (f : Chase → Chase) : (modChase s c f).power = s.power := rfl
@[simp] theorem modChase_thermal (s : State) (c : Nat) (f : Chase → Chase) : (modChase s c f).thermal = s.thermal := rfl
@[simp] theorem modChase_health (s : State) (c : Nat) (f : Chase → Chase) : (modChase s c f).health = s.health := rfl
@[simp] theorem modChase_policies (s : State) (c : Nat) (f : Chase → Chase) : (modChase s c f).policies = s.policies := rfl
@[simp] theorem modChase_policyDue (s : State) (c : Nat) (f : Chase → Chase) : (modChase s c f).policyDue = s.policyDue := rfl
@[simp] theorem modChase_creds (s : State) (c : Nat) (f : Chase → Chase) : (modChase s c f).creds = s.creds := rfl
@[simp] theorem modChase_sessions (s : State) (c : Nat) (f : Chase → Chase) : (modChase s c f).sessions = s.sessions := rfl
@[simp] theorem modChase_closedIds (s : State) (c : Nat) (f : Chase → Chase) : (modChase s c f).closedIds = s.closedIds := rfl
@[simp] theorem modChase_reasm (s : State) (c : Nat) (f : Chase → Chase) : (modChase s c f).reasm = s.reasm := rfl
@[simp] theorem modChase_doorbells (s : State) (c : Nat) (f : Chase → Chase) : (modChase s c f).doorbells = s.doorbells := rfl
@[simp] theorem modChase_doorPtr (s : State) (c : Nat) (f : Chase → Chase) : (modChase s c f).doorPtr = s.doorPtr := rfl
@[simp] theorem modChase_live (s : State) (c : Nat) (f : Chase → Chase) : (modChase s c f).live = s.live := rfl
@[simp] theorem modChase_finals (s : State) (c : Nat) (f : Chase → Chase) : (modChase s c f).finals = s.finals := rfl
@[simp] theorem modChase_heldChunks (s : State) (c : Nat) (f : Chase → Chase) : (modChase s c f).heldChunks = s.heldChunks := rfl
@[simp] theorem modChase_ports (s : State) (c : Nat) (f : Chase → Chase) : (modChase s c f).ports = s.ports := rfl
@[simp] theorem modChase_relaySet (s : State) (c : Nat) (f : Chase → Chase) : (modChase s c f).relaySet = s.relaySet := rfl
@[simp] theorem modChase_relayOut (s : State) (c : Nat) (f : Chase → Chase) : (modChase s c f).relayOut = s.relayOut := rfl
@[simp] theorem modChase_intake (s : State) (c : Nat) (f : Chase → Chase) : (modChase s c f).intake = s.intake := rfl
@[simp] theorem modChase_wire (s : State) (c : Nat) (f : Chase → Chase) : (modChase s c f).wire = s.wire := rfl
@[simp] theorem modChase_relayWire (s : State) (c : Nat) (f : Chase → Chase) : (modChase s c f).relayWire = s.relayWire := rfl
@[simp] theorem modChase_out (s : State) (c : Nat) (f : Chase → Chase) : (modChase s c f).out = s.out := rfl
@[simp] theorem modChase_sbOut (s : State) (c : Nat) (f : Chase → Chase) : (modChase s c f).sbOut = s.sbOut := rfl
@[simp] theorem modChase_stages (s : State) (c : Nat) (f : Chase → Chase) : (modChase s c f).stages = s.stages := rfl
@[simp] theorem modChase_tiles (s : State) (c : Nat) (f : Chase → Chase) : (modChase s c f).tiles = s.tiles := rfl
@[simp] theorem modChase_net (s : State) (c : Nat) (f : Chase → Chase) : (modChase s c f).net = s.net := rfl
@[simp] theorem modChase_landings (s : State) (c : Nat) (f : Chase → Chase) : (modChase s c f).landings = s.landings := rfl
@[simp] theorem modChase_remoteDue (s : State) (c : Nat) (f : Chase → Chase) : (modChase s c f).remoteDue = s.remoteDue := rfl
@[simp] theorem modChase_remoteUsed (s : State) (c : Nat) (f : Chase → Chase) : (modChase s c f).remoteUsed = s.remoteUsed := rfl
@[simp] theorem modChase_torusOut (s : State) (c : Nat) (f : Chase → Chase) : (modChase s c f).torusOut = s.torusOut := rfl
@[simp] theorem modChase_memH (s : State) (c : Nat) (f : Chase → Chase) : (modChase s c f).memH = s.memH := rfl
@[simp] theorem modChase_memB (s : State) (c : Nat) (f : Chase → Chase) : (modChase s c f).memB = s.memB := rfl
@[simp] theorem modChase_objs (s : State) (c : Nat) (f : Chase → Chase) : (modChase s c f).objs = s.objs := rfl
@[simp] theorem modChase_objWaits (s : State) (c : Nat) (f : Chase → Chase) : (modChase s c f).objWaits = s.objWaits := rfl
@[simp] theorem modChase_reqs (s : State) (c : Nat) (f : Chase → Chase) : (modChase s c f).reqs = s.reqs := rfl
@[simp] theorem modChase_nextReq (s : State) (c : Nat) (f : Chase → Chase) : (modChase s c f).nextReq = s.nextReq := rfl
@[simp] theorem modChase_logs (s : State) (c : Nat) (f : Chase → Chase) : (modChase s c f).logs = s.logs := rfl
@[simp] theorem modChase_comps (s : State) (c : Nat) (f : Chase → Chase) : (modChase s c f).comps = s.comps := rfl
@[simp] theorem modChase_fills (s : State) (c : Nat) (f : Chase → Chase) : (modChase s c f).fills = s.fills := rfl
@[simp] theorem modChase_feederPtr (s : State) (c : Nat) (f : Chase → Chase) : (modChase s c f).feederPtr = s.feederPtr := rfl
@[simp] theorem modChase_torus (s : State) (c : Nat) (f : Chase → Chase) : (modChase s c f).torus = s.torus := rfl
@[simp] theorem modChase_jobs (s : State) (c : Nat) (f : Chase → Chase) : (modChase s c f).jobs = s.jobs := rfl
@[simp] theorem modChase_faults (s : State) (c : Nat) (f : Chase → Chase) : (modChase s c f).faults = s.faults := rfl
@[simp] theorem modChase_spares (s : State) (c : Nat) (f : Chase → Chase) : (modChase s c f).spares = s.spares := rfl
@[simp] theorem modChase_snap (s : State) (c : Nat) (f : Chase → Chase) : (modChase s c f).snap = s.snap := rfl

/-! ### chev -/

@[simp] theorem chev_pending (s : State) (c j : Nat) : (chev s c j).pending = s.pending := rfl
@[simp] theorem chev_draws (s : State) (c j : Nat) : (chev s c j).draws = s.draws := rfl
@[simp] theorem chev_now (s : State) (c j : Nat) : (chev s c j).now = s.now := rfl
@[simp] theorem chev_fuses (s : State) (c j : Nat) : (chev s c j).fuses = s.fuses := rfl
@[simp] theorem chev_boot (s : State) (c j : Nat) : (chev s c j).boot = s.boot := rfl
@[simp] theorem chev_pins (s : State) (c j : Nat) : (chev s c j).pins = s.pins := rfl
@[simp] theorem chev_power (s : State) (c j : Nat) : (chev s c j).power = s.power := rfl
@[simp] theorem chev_thermal (s : State) (c j : Nat) : (chev s c j).thermal = s.thermal := rfl
@[simp] theorem chev_health (s : State) (c j : Nat) : (chev s c j).health = s.health := rfl
@[simp] theorem chev_policies (s : State) (c j : Nat) : (chev s c j).policies = s.policies := rfl
@[simp] theorem chev_policyDue (s : State) (c j : Nat) : (chev s c j).policyDue = s.policyDue := rfl
@[simp] theorem chev_creds (s : State) (c j : Nat) : (chev s c j).creds = s.creds := rfl
@[simp] theorem chev_sessions (s : State) (c j : Nat) : (chev s c j).sessions = s.sessions := rfl
@[simp] theorem chev_closedIds (s : State) (c j : Nat) : (chev s c j).closedIds = s.closedIds := rfl
@[simp] theorem chev_reasm (s : State) (c j : Nat) : (chev s c j).reasm = s.reasm := rfl
@[simp] theorem chev_doorbells (s : State) (c j : Nat) : (chev s c j).doorbells = s.doorbells := rfl
@[simp] theorem chev_doorPtr (s : State) (c j : Nat) : (chev s c j).doorPtr = s.doorPtr := rfl
@[simp] theorem chev_live (s : State) (c j : Nat) : (chev s c j).live = s.live := rfl
@[simp] theorem chev_finals (s : State) (c j : Nat) : (chev s c j).finals = s.finals := rfl
@[simp] theorem chev_heldChunks (s : State) (c j : Nat) : (chev s c j).heldChunks = s.heldChunks := rfl
@[simp] theorem chev_ports (s : State) (c j : Nat) : (chev s c j).ports = s.ports := rfl
@[simp] theorem chev_relaySet (s : State) (c j : Nat) : (chev s c j).relaySet = s.relaySet := rfl
@[simp] theorem chev_relayOut (s : State) (c j : Nat) : (chev s c j).relayOut = s.relayOut := rfl
@[simp] theorem chev_intake (s : State) (c j : Nat) : (chev s c j).intake = s.intake := rfl
@[simp] theorem chev_wire (s : State) (c j : Nat) : (chev s c j).wire = s.wire := rfl
@[simp] theorem chev_relayWire (s : State) (c j : Nat) : (chev s c j).relayWire = s.relayWire := rfl
@[simp] theorem chev_out (s : State) (c j : Nat) : (chev s c j).out = s.out := rfl
@[simp] theorem chev_sbOut (s : State) (c j : Nat) : (chev s c j).sbOut = s.sbOut := rfl
@[simp] theorem chev_stages (s : State) (c j : Nat) : (chev s c j).stages = s.stages := rfl
@[simp] theorem chev_tiles (s : State) (c j : Nat) : (chev s c j).tiles = s.tiles := rfl
@[simp] theorem chev_net (s : State) (c j : Nat) : (chev s c j).net = s.net := rfl
@[simp] theorem chev_landings (s : State) (c j : Nat) : (chev s c j).landings = s.landings := rfl
@[simp] theorem chev_remoteDue (s : State) (c j : Nat) : (chev s c j).remoteDue = s.remoteDue := rfl
@[simp] theorem chev_remoteUsed (s : State) (c j : Nat) : (chev s c j).remoteUsed = s.remoteUsed := rfl
@[simp] theorem chev_torusOut (s : State) (c j : Nat) : (chev s c j).torusOut = s.torusOut := rfl
@[simp] theorem chev_memH (s : State) (c j : Nat) : (chev s c j).memH = s.memH := rfl
@[simp] theorem chev_memB (s : State) (c j : Nat) : (chev s c j).memB = s.memB := rfl
@[simp] theorem chev_objs (s : State) (c j : Nat) : (chev s c j).objs = s.objs := rfl
@[simp] theorem chev_objWaits (s : State) (c j : Nat) : (chev s c j).objWaits = s.objWaits := rfl
@[simp] theorem chev_reqs (s : State) (c j : Nat) : (chev s c j).reqs = s.reqs := rfl
@[simp] theorem chev_nextReq (s : State) (c j : Nat) : (chev s c j).nextReq = s.nextReq := rfl
@[simp] theorem chev_logs (s : State) (c j : Nat) : (chev s c j).logs = s.logs := rfl
@[simp] theorem chev_comps (s : State) (c j : Nat) : (chev s c j).comps = s.comps := rfl
@[simp] theorem chev_fills (s : State) (c j : Nat) : (chev s c j).fills = s.fills := rfl
@[simp] theorem chev_feederPtr (s : State) (c j : Nat) : (chev s c j).feederPtr = s.feederPtr := rfl
@[simp] theorem chev_torus (s : State) (c j : Nat) : (chev s c j).torus = s.torus := rfl
@[simp] theorem chev_jobs (s : State) (c j : Nat) : (chev s c j).jobs = s.jobs := rfl
@[simp] theorem chev_faults (s : State) (c j : Nat) : (chev s c j).faults = s.faults := rfl
@[simp] theorem chev_spares (s : State) (c j : Nat) : (chev s c j).spares = s.spares := rfl
@[simp] theorem chev_snap (s : State) (c j : Nat) : (chev s c j).snap = s.snap := rfl

/-! ### modReq -/

@[simp] theorem modReq_pending (s : State) (n : Nat) (f : Req → Req) : (modReq s n f).pending = s.pending := rfl
@[simp] theorem modReq_draws (s : State) (n : Nat) (f : Req → Req) : (modReq s n f).draws = s.draws := rfl
@[simp] theorem modReq_now (s : State) (n : Nat) (f : Req → Req) : (modReq s n f).now = s.now := rfl
@[simp] theorem modReq_fuses (s : State) (n : Nat) (f : Req → Req) : (modReq s n f).fuses = s.fuses := rfl
@[simp] theorem modReq_boot (s : State) (n : Nat) (f : Req → Req) : (modReq s n f).boot = s.boot := rfl
@[simp] theorem modReq_pins (s : State) (n : Nat) (f : Req → Req) : (modReq s n f).pins = s.pins := rfl
@[simp] theorem modReq_power (s : State) (n : Nat) (f : Req → Req) : (modReq s n f).power = s.power := rfl
@[simp] theorem modReq_thermal (s : State) (n : Nat) (f : Req → Req) : (modReq s n f).thermal = s.thermal := rfl
@[simp] theorem modReq_health (s : State) (n : Nat) (f : Req → Req) : (modReq s n f).health = s.health := rfl
@[simp] theorem modReq_policies (s : State) (n : Nat) (f : Req → Req) : (modReq s n f).policies = s.policies := rfl
@[simp] theorem modReq_policyDue (s : State) (n : Nat) (f : Req → Req) : (modReq s n f).policyDue = s.policyDue := rfl
@[simp] theorem modReq_creds (s : State) (n : Nat) (f : Req → Req) : (modReq s n f).creds = s.creds := rfl
@[simp] theorem modReq_sessions (s : State) (n : Nat) (f : Req → Req) : (modReq s n f).sessions = s.sessions := rfl
@[simp] theorem modReq_closedIds (s : State) (n : Nat) (f : Req → Req) : (modReq s n f).closedIds = s.closedIds := rfl
@[simp] theorem modReq_reasm (s : State) (n : Nat) (f : Req → Req) : (modReq s n f).reasm = s.reasm := rfl
@[simp] theorem modReq_doorbells (s : State) (n : Nat) (f : Req → Req) : (modReq s n f).doorbells = s.doorbells := rfl
@[simp] theorem modReq_doorPtr (s : State) (n : Nat) (f : Req → Req) : (modReq s n f).doorPtr = s.doorPtr := rfl
@[simp] theorem modReq_live (s : State) (n : Nat) (f : Req → Req) : (modReq s n f).live = s.live := rfl
@[simp] theorem modReq_finals (s : State) (n : Nat) (f : Req → Req) : (modReq s n f).finals = s.finals := rfl
@[simp] theorem modReq_heldChunks (s : State) (n : Nat) (f : Req → Req) : (modReq s n f).heldChunks = s.heldChunks := rfl
@[simp] theorem modReq_ports (s : State) (n : Nat) (f : Req → Req) : (modReq s n f).ports = s.ports := rfl
@[simp] theorem modReq_relaySet (s : State) (n : Nat) (f : Req → Req) : (modReq s n f).relaySet = s.relaySet := rfl
@[simp] theorem modReq_relayOut (s : State) (n : Nat) (f : Req → Req) : (modReq s n f).relayOut = s.relayOut := rfl
@[simp] theorem modReq_intake (s : State) (n : Nat) (f : Req → Req) : (modReq s n f).intake = s.intake := rfl
@[simp] theorem modReq_wire (s : State) (n : Nat) (f : Req → Req) : (modReq s n f).wire = s.wire := rfl
@[simp] theorem modReq_relayWire (s : State) (n : Nat) (f : Req → Req) : (modReq s n f).relayWire = s.relayWire := rfl
@[simp] theorem modReq_out (s : State) (n : Nat) (f : Req → Req) : (modReq s n f).out = s.out := rfl
@[simp] theorem modReq_sbOut (s : State) (n : Nat) (f : Req → Req) : (modReq s n f).sbOut = s.sbOut := rfl
@[simp] theorem modReq_chases (s : State) (n : Nat) (f : Req → Req) : (modReq s n f).chases = s.chases := rfl
@[simp] theorem modReq_stages (s : State) (n : Nat) (f : Req → Req) : (modReq s n f).stages = s.stages := rfl
@[simp] theorem modReq_tiles (s : State) (n : Nat) (f : Req → Req) : (modReq s n f).tiles = s.tiles := rfl
@[simp] theorem modReq_net (s : State) (n : Nat) (f : Req → Req) : (modReq s n f).net = s.net := rfl
@[simp] theorem modReq_landings (s : State) (n : Nat) (f : Req → Req) : (modReq s n f).landings = s.landings := rfl
@[simp] theorem modReq_remoteDue (s : State) (n : Nat) (f : Req → Req) : (modReq s n f).remoteDue = s.remoteDue := rfl
@[simp] theorem modReq_remoteUsed (s : State) (n : Nat) (f : Req → Req) : (modReq s n f).remoteUsed = s.remoteUsed := rfl
@[simp] theorem modReq_torusOut (s : State) (n : Nat) (f : Req → Req) : (modReq s n f).torusOut = s.torusOut := rfl
@[simp] theorem modReq_memH (s : State) (n : Nat) (f : Req → Req) : (modReq s n f).memH = s.memH := rfl
@[simp] theorem modReq_memB (s : State) (n : Nat) (f : Req → Req) : (modReq s n f).memB = s.memB := rfl
@[simp] theorem modReq_objs (s : State) (n : Nat) (f : Req → Req) : (modReq s n f).objs = s.objs := rfl
@[simp] theorem modReq_objWaits (s : State) (n : Nat) (f : Req → Req) : (modReq s n f).objWaits = s.objWaits := rfl
@[simp] theorem modReq_nextReq (s : State) (n : Nat) (f : Req → Req) : (modReq s n f).nextReq = s.nextReq := rfl
@[simp] theorem modReq_logs (s : State) (n : Nat) (f : Req → Req) : (modReq s n f).logs = s.logs := rfl
@[simp] theorem modReq_comps (s : State) (n : Nat) (f : Req → Req) : (modReq s n f).comps = s.comps := rfl
@[simp] theorem modReq_fills (s : State) (n : Nat) (f : Req → Req) : (modReq s n f).fills = s.fills := rfl
@[simp] theorem modReq_feederPtr (s : State) (n : Nat) (f : Req → Req) : (modReq s n f).feederPtr = s.feederPtr := rfl
@[simp] theorem modReq_torus (s : State) (n : Nat) (f : Req → Req) : (modReq s n f).torus = s.torus := rfl
@[simp] theorem modReq_jobs (s : State) (n : Nat) (f : Req → Req) : (modReq s n f).jobs = s.jobs := rfl
@[simp] theorem modReq_faults (s : State) (n : Nat) (f : Req → Req) : (modReq s n f).faults = s.faults := rfl
@[simp] theorem modReq_spares (s : State) (n : Nat) (f : Req → Req) : (modReq s n f).spares = s.spares := rfl
@[simp] theorem modReq_snap (s : State) (n : Nat) (f : Req → Req) : (modReq s n f).snap = s.snap := rfl

/-! ### modObj -/

@[simp] theorem modObj_pending (s : State) (c id : Nat) (f : Obj → Obj) : (modObj s c id f).pending = s.pending := rfl
@[simp] theorem modObj_draws (s : State) (c id : Nat) (f : Obj → Obj) : (modObj s c id f).draws = s.draws := rfl
@[simp] theorem modObj_now (s : State) (c id : Nat) (f : Obj → Obj) : (modObj s c id f).now = s.now := rfl
@[simp] theorem modObj_fuses (s : State) (c id : Nat) (f : Obj → Obj) : (modObj s c id f).fuses = s.fuses := rfl
@[simp] theorem modObj_boot (s : State) (c id : Nat) (f : Obj → Obj) : (modObj s c id f).boot = s.boot := rfl
@[simp] theorem modObj_pins (s : State) (c id : Nat) (f : Obj → Obj) : (modObj s c id f).pins = s.pins := rfl
@[simp] theorem modObj_power (s : State) (c id : Nat) (f : Obj → Obj) : (modObj s c id f).power = s.power := rfl
@[simp] theorem modObj_thermal (s : State) (c id : Nat) (f : Obj → Obj) : (modObj s c id f).thermal = s.thermal := rfl
@[simp] theorem modObj_health (s : State) (c id : Nat) (f : Obj → Obj) : (modObj s c id f).health = s.health := rfl
@[simp] theorem modObj_policies (s : State) (c id : Nat) (f : Obj → Obj) : (modObj s c id f).policies = s.policies := rfl
@[simp] theorem modObj_policyDue (s : State) (c id : Nat) (f : Obj → Obj) : (modObj s c id f).policyDue = s.policyDue := rfl
@[simp] theorem modObj_creds (s : State) (c id : Nat) (f : Obj → Obj) : (modObj s c id f).creds = s.creds := rfl
@[simp] theorem modObj_sessions (s : State) (c id : Nat) (f : Obj → Obj) : (modObj s c id f).sessions = s.sessions := rfl
@[simp] theorem modObj_closedIds (s : State) (c id : Nat) (f : Obj → Obj) : (modObj s c id f).closedIds = s.closedIds := rfl
@[simp] theorem modObj_reasm (s : State) (c id : Nat) (f : Obj → Obj) : (modObj s c id f).reasm = s.reasm := rfl
@[simp] theorem modObj_doorbells (s : State) (c id : Nat) (f : Obj → Obj) : (modObj s c id f).doorbells = s.doorbells := rfl
@[simp] theorem modObj_doorPtr (s : State) (c id : Nat) (f : Obj → Obj) : (modObj s c id f).doorPtr = s.doorPtr := rfl
@[simp] theorem modObj_live (s : State) (c id : Nat) (f : Obj → Obj) : (modObj s c id f).live = s.live := rfl
@[simp] theorem modObj_finals (s : State) (c id : Nat) (f : Obj → Obj) : (modObj s c id f).finals = s.finals := rfl
@[simp] theorem modObj_heldChunks (s : State) (c id : Nat) (f : Obj → Obj) : (modObj s c id f).heldChunks = s.heldChunks := rfl
@[simp] theorem modObj_ports (s : State) (c id : Nat) (f : Obj → Obj) : (modObj s c id f).ports = s.ports := rfl
@[simp] theorem modObj_relaySet (s : State) (c id : Nat) (f : Obj → Obj) : (modObj s c id f).relaySet = s.relaySet := rfl
@[simp] theorem modObj_relayOut (s : State) (c id : Nat) (f : Obj → Obj) : (modObj s c id f).relayOut = s.relayOut := rfl
@[simp] theorem modObj_intake (s : State) (c id : Nat) (f : Obj → Obj) : (modObj s c id f).intake = s.intake := rfl
@[simp] theorem modObj_wire (s : State) (c id : Nat) (f : Obj → Obj) : (modObj s c id f).wire = s.wire := rfl
@[simp] theorem modObj_relayWire (s : State) (c id : Nat) (f : Obj → Obj) : (modObj s c id f).relayWire = s.relayWire := rfl
@[simp] theorem modObj_out (s : State) (c id : Nat) (f : Obj → Obj) : (modObj s c id f).out = s.out := rfl
@[simp] theorem modObj_sbOut (s : State) (c id : Nat) (f : Obj → Obj) : (modObj s c id f).sbOut = s.sbOut := rfl
@[simp] theorem modObj_chases (s : State) (c id : Nat) (f : Obj → Obj) : (modObj s c id f).chases = s.chases := rfl
@[simp] theorem modObj_stages (s : State) (c id : Nat) (f : Obj → Obj) : (modObj s c id f).stages = s.stages := rfl
@[simp] theorem modObj_tiles (s : State) (c id : Nat) (f : Obj → Obj) : (modObj s c id f).tiles = s.tiles := rfl
@[simp] theorem modObj_net (s : State) (c id : Nat) (f : Obj → Obj) : (modObj s c id f).net = s.net := rfl
@[simp] theorem modObj_landings (s : State) (c id : Nat) (f : Obj → Obj) : (modObj s c id f).landings = s.landings := rfl
@[simp] theorem modObj_remoteDue (s : State) (c id : Nat) (f : Obj → Obj) : (modObj s c id f).remoteDue = s.remoteDue := rfl
@[simp] theorem modObj_remoteUsed (s : State) (c id : Nat) (f : Obj → Obj) : (modObj s c id f).remoteUsed = s.remoteUsed := rfl
@[simp] theorem modObj_torusOut (s : State) (c id : Nat) (f : Obj → Obj) : (modObj s c id f).torusOut = s.torusOut := rfl
@[simp] theorem modObj_memH (s : State) (c id : Nat) (f : Obj → Obj) : (modObj s c id f).memH = s.memH := rfl
@[simp] theorem modObj_memB (s : State) (c id : Nat) (f : Obj → Obj) : (modObj s c id f).memB = s.memB := rfl
@[simp] theorem modObj_objWaits (s : State) (c id : Nat) (f : Obj → Obj) : (modObj s c id f).objWaits = s.objWaits := rfl
@[simp] theorem modObj_reqs (s : State) (c id : Nat) (f : Obj → Obj) : (modObj s c id f).reqs = s.reqs := rfl
@[simp] theorem modObj_nextReq (s : State) (c id : Nat) (f : Obj → Obj) : (modObj s c id f).nextReq = s.nextReq := rfl
@[simp] theorem modObj_logs (s : State) (c id : Nat) (f : Obj → Obj) : (modObj s c id f).logs = s.logs := rfl
@[simp] theorem modObj_comps (s : State) (c id : Nat) (f : Obj → Obj) : (modObj s c id f).comps = s.comps := rfl
@[simp] theorem modObj_fills (s : State) (c id : Nat) (f : Obj → Obj) : (modObj s c id f).fills = s.fills := rfl
@[simp] theorem modObj_feederPtr (s : State) (c id : Nat) (f : Obj → Obj) : (modObj s c id f).feederPtr = s.feederPtr := rfl
@[simp] theorem modObj_torus (s : State) (c id : Nat) (f : Obj → Obj) : (modObj s c id f).torus = s.torus := rfl
@[simp] theorem modObj_jobs (s : State) (c id : Nat) (f : Obj → Obj) : (modObj s c id f).jobs = s.jobs := rfl
@[simp] theorem modObj_faults (s : State) (c id : Nat) (f : Obj → Obj) : (modObj s c id f).faults = s.faults := rfl
@[simp] theorem modObj_spares (s : State) (c id : Nat) (f : Obj → Obj) : (modObj s c id f).spares = s.spares := rfl
@[simp] theorem modObj_snap (s : State) (c id : Nat) (f : Obj → Obj) : (modObj s c id f).snap = s.snap := rfl

/-! ### modBoot -/

@[simp] theorem modBoot_pending (s : State) (f : Boot → Boot) : (modBoot s f).pending = s.pending := rfl
@[simp] theorem modBoot_draws (s : State) (f : Boot → Boot) : (modBoot s f).draws = s.draws := rfl
@[simp] theorem modBoot_now (s : State) (f : Boot → Boot) : (modBoot s f).now = s.now := rfl
@[simp] theorem modBoot_fuses (s : State) (f : Boot → Boot) : (modBoot s f).fuses = s.fuses := rfl
@[simp] theorem modBoot_pins (s : State) (f : Boot → Boot) : (modBoot s f).pins = s.pins := rfl
@[simp] theorem modBoot_power (s : State) (f : Boot → Boot) : (modBoot s f).power = s.power := rfl
@[simp] theorem modBoot_thermal (s : State) (f : Boot → Boot) : (modBoot s f).thermal = s.thermal := rfl
@[simp] theorem modBoot_health (s : State) (f : Boot → Boot) : (modBoot s f).health = s.health := rfl
@[simp] theorem modBoot_policies (s : State) (f : Boot → Boot) : (modBoot s f).policies = s.policies := rfl
@[simp] theorem modBoot_policyDue (s : State) (f : Boot → Boot) : (modBoot s f).policyDue = s.policyDue := rfl
@[simp] theorem modBoot_creds (s : State) (f : Boot → Boot) : (modBoot s f).creds = s.creds := rfl
@[simp] theorem modBoot_sessions (s : State) (f : Boot → Boot) : (modBoot s f).sessions = s.sessions := rfl
@[simp] theorem modBoot_closedIds (s : State) (f : Boot → Boot) : (modBoot s f).closedIds = s.closedIds := rfl
@[simp] theorem modBoot_reasm (s : State) (f : Boot → Boot) : (modBoot s f).reasm = s.reasm := rfl
@[simp] theorem modBoot_doorbells (s : State) (f : Boot → Boot) : (modBoot s f).doorbells = s.doorbells := rfl
@[simp] theorem modBoot_doorPtr (s : State) (f : Boot → Boot) : (modBoot s f).doorPtr = s.doorPtr := rfl
@[simp] theorem modBoot_live (s : State) (f : Boot → Boot) : (modBoot s f).live = s.live := rfl
@[simp] theorem modBoot_finals (s : State) (f : Boot → Boot) : (modBoot s f).finals = s.finals := rfl
@[simp] theorem modBoot_heldChunks (s : State) (f : Boot → Boot) : (modBoot s f).heldChunks = s.heldChunks := rfl
@[simp] theorem modBoot_ports (s : State) (f : Boot → Boot) : (modBoot s f).ports = s.ports := rfl
@[simp] theorem modBoot_relaySet (s : State) (f : Boot → Boot) : (modBoot s f).relaySet = s.relaySet := rfl
@[simp] theorem modBoot_relayOut (s : State) (f : Boot → Boot) : (modBoot s f).relayOut = s.relayOut := rfl
@[simp] theorem modBoot_intake (s : State) (f : Boot → Boot) : (modBoot s f).intake = s.intake := rfl
@[simp] theorem modBoot_wire (s : State) (f : Boot → Boot) : (modBoot s f).wire = s.wire := rfl
@[simp] theorem modBoot_relayWire (s : State) (f : Boot → Boot) : (modBoot s f).relayWire = s.relayWire := rfl
@[simp] theorem modBoot_out (s : State) (f : Boot → Boot) : (modBoot s f).out = s.out := rfl
@[simp] theorem modBoot_sbOut (s : State) (f : Boot → Boot) : (modBoot s f).sbOut = s.sbOut := rfl
@[simp] theorem modBoot_chases (s : State) (f : Boot → Boot) : (modBoot s f).chases = s.chases := rfl
@[simp] theorem modBoot_stages (s : State) (f : Boot → Boot) : (modBoot s f).stages = s.stages := rfl
@[simp] theorem modBoot_tiles (s : State) (f : Boot → Boot) : (modBoot s f).tiles = s.tiles := rfl
@[simp] theorem modBoot_net (s : State) (f : Boot → Boot) : (modBoot s f).net = s.net := rfl
@[simp] theorem modBoot_landings (s : State) (f : Boot → Boot) : (modBoot s f).landings = s.landings := rfl
@[simp] theorem modBoot_remoteDue (s : State) (f : Boot → Boot) : (modBoot s f).remoteDue = s.remoteDue := rfl
@[simp] theorem modBoot_remoteUsed (s : State) (f : Boot → Boot) : (modBoot s f).remoteUsed = s.remoteUsed := rfl
@[simp] theorem modBoot_torusOut (s : State) (f : Boot → Boot) : (modBoot s f).torusOut = s.torusOut := rfl
@[simp] theorem modBoot_memH (s : State) (f : Boot → Boot) : (modBoot s f).memH = s.memH := rfl
@[simp] theorem modBoot_memB (s : State) (f : Boot → Boot) : (modBoot s f).memB = s.memB := rfl
@[simp] theorem modBoot_objs (s : State) (f : Boot → Boot) : (modBoot s f).objs = s.objs := rfl
@[simp] theorem modBoot_objWaits (s : State) (f : Boot → Boot) : (modBoot s f).objWaits = s.objWaits := rfl
@[simp] theorem modBoot_reqs (s : State) (f : Boot → Boot) : (modBoot s f).reqs = s.reqs := rfl
@[simp] theorem modBoot_nextReq (s : State) (f : Boot → Boot) : (modBoot s f).nextReq = s.nextReq := rfl
@[simp] theorem modBoot_logs (s : State) (f : Boot → Boot) : (modBoot s f).logs = s.logs := rfl
@[simp] theorem modBoot_comps (s : State) (f : Boot → Boot) : (modBoot s f).comps = s.comps := rfl
@[simp] theorem modBoot_fills (s : State) (f : Boot → Boot) : (modBoot s f).fills = s.fills := rfl
@[simp] theorem modBoot_feederPtr (s : State) (f : Boot → Boot) : (modBoot s f).feederPtr = s.feederPtr := rfl
@[simp] theorem modBoot_torus (s : State) (f : Boot → Boot) : (modBoot s f).torus = s.torus := rfl
@[simp] theorem modBoot_jobs (s : State) (f : Boot → Boot) : (modBoot s f).jobs = s.jobs := rfl
@[simp] theorem modBoot_faults (s : State) (f : Boot → Boot) : (modBoot s f).faults = s.faults := rfl
@[simp] theorem modBoot_spares (s : State) (f : Boot → Boot) : (modBoot s f).spares = s.spares := rfl
@[simp] theorem modBoot_snap (s : State) (f : Boot → Boot) : (modBoot s f).snap = s.snap := rfl

/-! ### modPort -/

@[simp] theorem modPort_pending (s : State) (n : Nat) (f : TorusPort → TorusPort) : (modPort s n f).pending = s.pending := rfl
@[simp] theorem modPort_draws (s : State) (n : Nat) (f : TorusPort → TorusPort) : (modPort s n f).draws = s.draws := rfl
@[simp] theorem modPort_now (s : State) (n : Nat) (f : TorusPort → TorusPort) : (modPort s n f).now = s.now := rfl
@[simp] theorem modPort_fuses (s : State) (n : Nat) (f : TorusPort → TorusPort) : (modPort s n f).fuses = s.fuses := rfl
@[simp] theorem modPort_boot (s : State) (n : Nat) (f : TorusPort → TorusPort) : (modPort s n f).boot = s.boot := rfl
@[simp] theorem modPort_pins (s : State) (n : Nat) (f : TorusPort → TorusPort) : (modPort s n f).pins = s.pins := rfl
@[simp] theorem modPort_power (s : State) (n : Nat) (f : TorusPort → TorusPort) : (modPort s n f).power = s.power := rfl
@[simp] theorem modPort_thermal (s : State) (n : Nat) (f : TorusPort → TorusPort) : (modPort s n f).thermal = s.thermal := rfl
@[simp] theorem modPort_health (s : State) (n : Nat) (f : TorusPort → TorusPort) : (modPort s n f).health = s.health := rfl
@[simp] theorem modPort_policies (s : State) (n : Nat) (f : TorusPort → TorusPort) : (modPort s n f).policies = s.policies := rfl
@[simp] theorem modPort_policyDue (s : State) (n : Nat) (f : TorusPort → TorusPort) : (modPort s n f).policyDue = s.policyDue := rfl
@[simp] theorem modPort_creds (s : State) (n : Nat) (f : TorusPort → TorusPort) : (modPort s n f).creds = s.creds := rfl
@[simp] theorem modPort_sessions (s : State) (n : Nat) (f : TorusPort → TorusPort) : (modPort s n f).sessions = s.sessions := rfl
@[simp] theorem modPort_closedIds (s : State) (n : Nat) (f : TorusPort → TorusPort) : (modPort s n f).closedIds = s.closedIds := rfl
@[simp] theorem modPort_reasm (s : State) (n : Nat) (f : TorusPort → TorusPort) : (modPort s n f).reasm = s.reasm := rfl
@[simp] theorem modPort_doorbells (s : State) (n : Nat) (f : TorusPort → TorusPort) : (modPort s n f).doorbells = s.doorbells := rfl
@[simp] theorem modPort_doorPtr (s : State) (n : Nat) (f : TorusPort → TorusPort) : (modPort s n f).doorPtr = s.doorPtr := rfl
@[simp] theorem modPort_live (s : State) (n : Nat) (f : TorusPort → TorusPort) : (modPort s n f).live = s.live := rfl
@[simp] theorem modPort_finals (s : State) (n : Nat) (f : TorusPort → TorusPort) : (modPort s n f).finals = s.finals := rfl
@[simp] theorem modPort_heldChunks (s : State) (n : Nat) (f : TorusPort → TorusPort) : (modPort s n f).heldChunks = s.heldChunks := rfl
@[simp] theorem modPort_ports (s : State) (n : Nat) (f : TorusPort → TorusPort) : (modPort s n f).ports = s.ports := rfl
@[simp] theorem modPort_relaySet (s : State) (n : Nat) (f : TorusPort → TorusPort) : (modPort s n f).relaySet = s.relaySet := rfl
@[simp] theorem modPort_relayOut (s : State) (n : Nat) (f : TorusPort → TorusPort) : (modPort s n f).relayOut = s.relayOut := rfl
@[simp] theorem modPort_intake (s : State) (n : Nat) (f : TorusPort → TorusPort) : (modPort s n f).intake = s.intake := rfl
@[simp] theorem modPort_wire (s : State) (n : Nat) (f : TorusPort → TorusPort) : (modPort s n f).wire = s.wire := rfl
@[simp] theorem modPort_relayWire (s : State) (n : Nat) (f : TorusPort → TorusPort) : (modPort s n f).relayWire = s.relayWire := rfl
@[simp] theorem modPort_out (s : State) (n : Nat) (f : TorusPort → TorusPort) : (modPort s n f).out = s.out := rfl
@[simp] theorem modPort_sbOut (s : State) (n : Nat) (f : TorusPort → TorusPort) : (modPort s n f).sbOut = s.sbOut := rfl
@[simp] theorem modPort_chases (s : State) (n : Nat) (f : TorusPort → TorusPort) : (modPort s n f).chases = s.chases := rfl
@[simp] theorem modPort_stages (s : State) (n : Nat) (f : TorusPort → TorusPort) : (modPort s n f).stages = s.stages := rfl
@[simp] theorem modPort_tiles (s : State) (n : Nat) (f : TorusPort → TorusPort) : (modPort s n f).tiles = s.tiles := rfl
@[simp] theorem modPort_net (s : State) (n : Nat) (f : TorusPort → TorusPort) : (modPort s n f).net = s.net := rfl
@[simp] theorem modPort_landings (s : State) (n : Nat) (f : TorusPort → TorusPort) : (modPort s n f).landings = s.landings := rfl
@[simp] theorem modPort_remoteDue (s : State) (n : Nat) (f : TorusPort → TorusPort) : (modPort s n f).remoteDue = s.remoteDue := rfl
@[simp] theorem modPort_remoteUsed (s : State) (n : Nat) (f : TorusPort → TorusPort) : (modPort s n f).remoteUsed = s.remoteUsed := rfl
@[simp] theorem modPort_torusOut (s : State) (n : Nat) (f : TorusPort → TorusPort) : (modPort s n f).torusOut = s.torusOut := rfl
@[simp] theorem modPort_memH (s : State) (n : Nat) (f : TorusPort → TorusPort) : (modPort s n f).memH = s.memH := rfl
@[simp] theorem modPort_memB (s : State) (n : Nat) (f : TorusPort → TorusPort) : (modPort s n f).memB = s.memB := rfl
@[simp] theorem modPort_objs (s : State) (n : Nat) (f : TorusPort → TorusPort) : (modPort s n f).objs = s.objs := rfl
@[simp] theorem modPort_objWaits (s : State) (n : Nat) (f : TorusPort → TorusPort) : (modPort s n f).objWaits = s.objWaits := rfl
@[simp] theorem modPort_reqs (s : State) (n : Nat) (f : TorusPort → TorusPort) : (modPort s n f).reqs = s.reqs := rfl
@[simp] theorem modPort_nextReq (s : State) (n : Nat) (f : TorusPort → TorusPort) : (modPort s n f).nextReq = s.nextReq := rfl
@[simp] theorem modPort_logs (s : State) (n : Nat) (f : TorusPort → TorusPort) : (modPort s n f).logs = s.logs := rfl
@[simp] theorem modPort_comps (s : State) (n : Nat) (f : TorusPort → TorusPort) : (modPort s n f).comps = s.comps := rfl
@[simp] theorem modPort_fills (s : State) (n : Nat) (f : TorusPort → TorusPort) : (modPort s n f).fills = s.fills := rfl
@[simp] theorem modPort_feederPtr (s : State) (n : Nat) (f : TorusPort → TorusPort) : (modPort s n f).feederPtr = s.feederPtr := rfl
@[simp] theorem modPort_jobs (s : State) (n : Nat) (f : TorusPort → TorusPort) : (modPort s n f).jobs = s.jobs := rfl
@[simp] theorem modPort_faults (s : State) (n : Nat) (f : TorusPort → TorusPort) : (modPort s n f).faults = s.faults := rfl
@[simp] theorem modPort_spares (s : State) (n : Nat) (f : TorusPort → TorusPort) : (modPort s n f).spares = s.spares := rfl
@[simp] theorem modPort_snap (s : State) (n : Nat) (f : TorusPort → TorusPort) : (modPort s n f).snap = s.snap := rfl

/-! ### modJob -/

@[simp] theorem modJob_pending (s : State) (id : Nat) (f : Job → Job) : (modJob s id f).pending = s.pending := rfl
@[simp] theorem modJob_draws (s : State) (id : Nat) (f : Job → Job) : (modJob s id f).draws = s.draws := rfl
@[simp] theorem modJob_now (s : State) (id : Nat) (f : Job → Job) : (modJob s id f).now = s.now := rfl
@[simp] theorem modJob_fuses (s : State) (id : Nat) (f : Job → Job) : (modJob s id f).fuses = s.fuses := rfl
@[simp] theorem modJob_boot (s : State) (id : Nat) (f : Job → Job) : (modJob s id f).boot = s.boot := rfl
@[simp] theorem modJob_pins (s : State) (id : Nat) (f : Job → Job) : (modJob s id f).pins = s.pins := rfl
@[simp] theorem modJob_power (s : State) (id : Nat) (f : Job → Job) : (modJob s id f).power = s.power := rfl
@[simp] theorem modJob_thermal (s : State) (id : Nat) (f : Job → Job) : (modJob s id f).thermal = s.thermal := rfl
@[simp] theorem modJob_health (s : State) (id : Nat) (f : Job → Job) : (modJob s id f).health = s.health := rfl
@[simp] theorem modJob_policies (s : State) (id : Nat) (f : Job → Job) : (modJob s id f).policies = s.policies := rfl
@[simp] theorem modJob_policyDue (s : State) (id : Nat) (f : Job → Job) : (modJob s id f).policyDue = s.policyDue := rfl
@[simp] theorem modJob_creds (s : State) (id : Nat) (f : Job → Job) : (modJob s id f).creds = s.creds := rfl
@[simp] theorem modJob_sessions (s : State) (id : Nat) (f : Job → Job) : (modJob s id f).sessions = s.sessions := rfl
@[simp] theorem modJob_closedIds (s : State) (id : Nat) (f : Job → Job) : (modJob s id f).closedIds = s.closedIds := rfl
@[simp] theorem modJob_reasm (s : State) (id : Nat) (f : Job → Job) : (modJob s id f).reasm = s.reasm := rfl
@[simp] theorem modJob_doorbells (s : State) (id : Nat) (f : Job → Job) : (modJob s id f).doorbells = s.doorbells := rfl
@[simp] theorem modJob_doorPtr (s : State) (id : Nat) (f : Job → Job) : (modJob s id f).doorPtr = s.doorPtr := rfl
@[simp] theorem modJob_live (s : State) (id : Nat) (f : Job → Job) : (modJob s id f).live = s.live := rfl
@[simp] theorem modJob_finals (s : State) (id : Nat) (f : Job → Job) : (modJob s id f).finals = s.finals := rfl
@[simp] theorem modJob_heldChunks (s : State) (id : Nat) (f : Job → Job) : (modJob s id f).heldChunks = s.heldChunks := rfl
@[simp] theorem modJob_ports (s : State) (id : Nat) (f : Job → Job) : (modJob s id f).ports = s.ports := rfl
@[simp] theorem modJob_relaySet (s : State) (id : Nat) (f : Job → Job) : (modJob s id f).relaySet = s.relaySet := rfl
@[simp] theorem modJob_relayOut (s : State) (id : Nat) (f : Job → Job) : (modJob s id f).relayOut = s.relayOut := rfl
@[simp] theorem modJob_intake (s : State) (id : Nat) (f : Job → Job) : (modJob s id f).intake = s.intake := rfl
@[simp] theorem modJob_wire (s : State) (id : Nat) (f : Job → Job) : (modJob s id f).wire = s.wire := rfl
@[simp] theorem modJob_relayWire (s : State) (id : Nat) (f : Job → Job) : (modJob s id f).relayWire = s.relayWire := rfl
@[simp] theorem modJob_out (s : State) (id : Nat) (f : Job → Job) : (modJob s id f).out = s.out := rfl
@[simp] theorem modJob_sbOut (s : State) (id : Nat) (f : Job → Job) : (modJob s id f).sbOut = s.sbOut := rfl
@[simp] theorem modJob_chases (s : State) (id : Nat) (f : Job → Job) : (modJob s id f).chases = s.chases := rfl
@[simp] theorem modJob_stages (s : State) (id : Nat) (f : Job → Job) : (modJob s id f).stages = s.stages := rfl
@[simp] theorem modJob_tiles (s : State) (id : Nat) (f : Job → Job) : (modJob s id f).tiles = s.tiles := rfl
@[simp] theorem modJob_net (s : State) (id : Nat) (f : Job → Job) : (modJob s id f).net = s.net := rfl
@[simp] theorem modJob_landings (s : State) (id : Nat) (f : Job → Job) : (modJob s id f).landings = s.landings := rfl
@[simp] theorem modJob_remoteDue (s : State) (id : Nat) (f : Job → Job) : (modJob s id f).remoteDue = s.remoteDue := rfl
@[simp] theorem modJob_remoteUsed (s : State) (id : Nat) (f : Job → Job) : (modJob s id f).remoteUsed = s.remoteUsed := rfl
@[simp] theorem modJob_torusOut (s : State) (id : Nat) (f : Job → Job) : (modJob s id f).torusOut = s.torusOut := rfl
@[simp] theorem modJob_memH (s : State) (id : Nat) (f : Job → Job) : (modJob s id f).memH = s.memH := rfl
@[simp] theorem modJob_memB (s : State) (id : Nat) (f : Job → Job) : (modJob s id f).memB = s.memB := rfl
@[simp] theorem modJob_objs (s : State) (id : Nat) (f : Job → Job) : (modJob s id f).objs = s.objs := rfl
@[simp] theorem modJob_objWaits (s : State) (id : Nat) (f : Job → Job) : (modJob s id f).objWaits = s.objWaits := rfl
@[simp] theorem modJob_reqs (s : State) (id : Nat) (f : Job → Job) : (modJob s id f).reqs = s.reqs := rfl
@[simp] theorem modJob_nextReq (s : State) (id : Nat) (f : Job → Job) : (modJob s id f).nextReq = s.nextReq := rfl
@[simp] theorem modJob_logs (s : State) (id : Nat) (f : Job → Job) : (modJob s id f).logs = s.logs := rfl
@[simp] theorem modJob_comps (s : State) (id : Nat) (f : Job → Job) : (modJob s id f).comps = s.comps := rfl
@[simp] theorem modJob_fills (s : State) (id : Nat) (f : Job → Job) : (modJob s id f).fills = s.fills := rfl
@[simp] theorem modJob_feederPtr (s : State) (id : Nat) (f : Job → Job) : (modJob s id f).feederPtr = s.feederPtr := rfl
@[simp] theorem modJob_torus (s : State) (id : Nat) (f : Job → Job) : (modJob s id f).torus = s.torus := rfl
@[simp] theorem modJob_faults (s : State) (id : Nat) (f : Job → Job) : (modJob s id f).faults = s.faults := rfl
@[simp] theorem modJob_spares (s : State) (id : Nat) (f : Job → Job) : (modJob s id f).spares = s.spares := rfl
@[simp] theorem modJob_snap (s : State) (id : Nat) (f : Job → Job) : (modJob s id f).snap = s.snap := rfl

/-! ### modSpare -/

@[simp] theorem modSpare_pending (s : State) (i : Nat) (f : TileSpare → TileSpare) : (modSpare s i f).pending = s.pending := rfl
@[simp] theorem modSpare_draws (s : State) (i : Nat) (f : TileSpare → TileSpare) : (modSpare s i f).draws = s.draws := rfl
@[simp] theorem modSpare_now (s : State) (i : Nat) (f : TileSpare → TileSpare) : (modSpare s i f).now = s.now := rfl
@[simp] theorem modSpare_fuses (s : State) (i : Nat) (f : TileSpare → TileSpare) : (modSpare s i f).fuses = s.fuses := rfl
@[simp] theorem modSpare_boot (s : State) (i : Nat) (f : TileSpare → TileSpare) : (modSpare s i f).boot = s.boot := rfl
@[simp] theorem modSpare_pins (s : State) (i : Nat) (f : TileSpare → TileSpare) : (modSpare s i f).pins = s.pins := rfl
@[simp] theorem modSpare_power (s : State) (i : Nat) (f : TileSpare → TileSpare) : (modSpare s i f).power = s.power := rfl
@[simp] theorem modSpare_thermal (s : State) (i : Nat) (f : TileSpare → TileSpare) : (modSpare s i f).thermal = s.thermal := rfl
@[simp] theorem modSpare_health (s : State) (i : Nat) (f : TileSpare → TileSpare) : (modSpare s i f).health = s.health := rfl
@[simp] theorem modSpare_policies (s : State) (i : Nat) (f : TileSpare → TileSpare) : (modSpare s i f).policies = s.policies := rfl
@[simp] theorem modSpare_policyDue (s : State) (i : Nat) (f : TileSpare → TileSpare) : (modSpare s i f).policyDue = s.policyDue := rfl
@[simp] theorem modSpare_creds (s : State) (i : Nat) (f : TileSpare → TileSpare) : (modSpare s i f).creds = s.creds := rfl
@[simp] theorem modSpare_sessions (s : State) (i : Nat) (f : TileSpare → TileSpare) : (modSpare s i f).sessions = s.sessions := rfl
@[simp] theorem modSpare_closedIds (s : State) (i : Nat) (f : TileSpare → TileSpare) : (modSpare s i f).closedIds = s.closedIds := rfl
@[simp] theorem modSpare_reasm (s : State) (i : Nat) (f : TileSpare → TileSpare) : (modSpare s i f).reasm = s.reasm := rfl
@[simp] theorem modSpare_doorbells (s : State) (i : Nat) (f : TileSpare → TileSpare) : (modSpare s i f).doorbells = s.doorbells := rfl
@[simp] theorem modSpare_doorPtr (s : State) (i : Nat) (f : TileSpare → TileSpare) : (modSpare s i f).doorPtr = s.doorPtr := rfl
@[simp] theorem modSpare_live (s : State) (i : Nat) (f : TileSpare → TileSpare) : (modSpare s i f).live = s.live := rfl
@[simp] theorem modSpare_finals (s : State) (i : Nat) (f : TileSpare → TileSpare) : (modSpare s i f).finals = s.finals := rfl
@[simp] theorem modSpare_heldChunks (s : State) (i : Nat) (f : TileSpare → TileSpare) : (modSpare s i f).heldChunks = s.heldChunks := rfl
@[simp] theorem modSpare_ports (s : State) (i : Nat) (f : TileSpare → TileSpare) : (modSpare s i f).ports = s.ports := rfl
@[simp] theorem modSpare_relaySet (s : State) (i : Nat) (f : TileSpare → TileSpare) : (modSpare s i f).relaySet = s.relaySet := rfl
@[simp] theorem modSpare_relayOut (s : State) (i : Nat) (f : TileSpare → TileSpare) : (modSpare s i f).relayOut = s.relayOut := rfl
@[simp] theorem modSpare_intake (s : State) (i : Nat) (f : TileSpare → TileSpare) : (modSpare s i f).intake = s.intake := rfl
@[simp] theorem modSpare_wire (s : State) (i : Nat) (f : TileSpare → TileSpare) : (modSpare s i f).wire = s.wire := rfl
@[simp] theorem modSpare_relayWire (s : State) (i : Nat) (f : TileSpare → TileSpare) : (modSpare s i f).relayWire = s.relayWire := rfl
@[simp] theorem modSpare_out (s : State) (i : Nat) (f : TileSpare → TileSpare) : (modSpare s i f).out = s.out := rfl
@[simp] theorem modSpare_sbOut (s : State) (i : Nat) (f : TileSpare → TileSpare) : (modSpare s i f).sbOut = s.sbOut := rfl
@[simp] theorem modSpare_chases (s : State) (i : Nat) (f : TileSpare → TileSpare) : (modSpare s i f).chases = s.chases := rfl
@[simp] theorem modSpare_stages (s : State) (i : Nat) (f : TileSpare → TileSpare) : (modSpare s i f).stages = s.stages := rfl
@[simp] theorem modSpare_tiles (s : State) (i : Nat) (f : TileSpare → TileSpare) : (modSpare s i f).tiles = s.tiles := rfl
@[simp] theorem modSpare_net (s : State) (i : Nat) (f : TileSpare → TileSpare) : (modSpare s i f).net = s.net := rfl
@[simp] theorem modSpare_landings (s : State) (i : Nat) (f : TileSpare → TileSpare) : (modSpare s i f).landings = s.landings := rfl
@[simp] theorem modSpare_remoteDue (s : State) (i : Nat) (f : TileSpare → TileSpare) : (modSpare s i f).remoteDue = s.remoteDue := rfl
@[simp] theorem modSpare_remoteUsed (s : State) (i : Nat) (f : TileSpare → TileSpare) : (modSpare s i f).remoteUsed = s.remoteUsed := rfl
@[simp] theorem modSpare_torusOut (s : State) (i : Nat) (f : TileSpare → TileSpare) : (modSpare s i f).torusOut = s.torusOut := rfl
@[simp] theorem modSpare_memH (s : State) (i : Nat) (f : TileSpare → TileSpare) : (modSpare s i f).memH = s.memH := rfl
@[simp] theorem modSpare_memB (s : State) (i : Nat) (f : TileSpare → TileSpare) : (modSpare s i f).memB = s.memB := rfl
@[simp] theorem modSpare_objs (s : State) (i : Nat) (f : TileSpare → TileSpare) : (modSpare s i f).objs = s.objs := rfl
@[simp] theorem modSpare_objWaits (s : State) (i : Nat) (f : TileSpare → TileSpare) : (modSpare s i f).objWaits = s.objWaits := rfl
@[simp] theorem modSpare_reqs (s : State) (i : Nat) (f : TileSpare → TileSpare) : (modSpare s i f).reqs = s.reqs := rfl
@[simp] theorem modSpare_nextReq (s : State) (i : Nat) (f : TileSpare → TileSpare) : (modSpare s i f).nextReq = s.nextReq := rfl
@[simp] theorem modSpare_logs (s : State) (i : Nat) (f : TileSpare → TileSpare) : (modSpare s i f).logs = s.logs := rfl
@[simp] theorem modSpare_comps (s : State) (i : Nat) (f : TileSpare → TileSpare) : (modSpare s i f).comps = s.comps := rfl
@[simp] theorem modSpare_fills (s : State) (i : Nat) (f : TileSpare → TileSpare) : (modSpare s i f).fills = s.fills := rfl
@[simp] theorem modSpare_feederPtr (s : State) (i : Nat) (f : TileSpare → TileSpare) : (modSpare s i f).feederPtr = s.feederPtr := rfl
@[simp] theorem modSpare_torus (s : State) (i : Nat) (f : TileSpare → TileSpare) : (modSpare s i f).torus = s.torus := rfl
@[simp] theorem modSpare_jobs (s : State) (i : Nat) (f : TileSpare → TileSpare) : (modSpare s i f).jobs = s.jobs := rfl
@[simp] theorem modSpare_faults (s : State) (i : Nat) (f : TileSpare → TileSpare) : (modSpare s i f).faults = s.faults := rfl
@[simp] theorem modSpare_snap (s : State) (i : Nat) (f : TileSpare → TileSpare) : (modSpare s i f).snap = s.snap := rfl

/-! ### modReset -/

@[simp] theorem modReset_pending (s : State) (domain : Nat) (f : ResetOp → ResetOp) : (modReset s domain f).pending = s.pending := rfl
@[simp] theorem modReset_draws (s : State) (domain : Nat) (f : ResetOp → ResetOp) : (modReset s domain f).draws = s.draws := rfl
@[simp] theorem modReset_now (s : State) (domain : Nat) (f : ResetOp → ResetOp) : (modReset s domain f).now = s.now := rfl
@[simp] theorem modReset_fuses (s : State) (domain : Nat) (f : ResetOp → ResetOp) : (modReset s domain f).fuses = s.fuses := rfl
@[simp] theorem modReset_boot (s : State) (domain : Nat) (f : ResetOp → ResetOp) : (modReset s domain f).boot = s.boot := rfl
@[simp] theorem modReset_pins (s : State) (domain : Nat) (f : ResetOp → ResetOp) : (modReset s domain f).pins = s.pins := rfl
@[simp] theorem modReset_power (s : State) (domain : Nat) (f : ResetOp → ResetOp) : (modReset s domain f).power = s.power := rfl
@[simp] theorem modReset_thermal (s : State) (domain : Nat) (f : ResetOp → ResetOp) : (modReset s domain f).thermal = s.thermal := rfl
@[simp] theorem modReset_health (s : State) (domain : Nat) (f : ResetOp → ResetOp) : (modReset s domain f).health = s.health := rfl
@[simp] theorem modReset_policies (s : State) (domain : Nat) (f : ResetOp → ResetOp) : (modReset s domain f).policies = s.policies := rfl
@[simp] theorem modReset_policyDue (s : State) (domain : Nat) (f : ResetOp → ResetOp) : (modReset s domain f).policyDue = s.policyDue := rfl
@[simp] theorem modReset_creds (s : State) (domain : Nat) (f : ResetOp → ResetOp) : (modReset s domain f).creds = s.creds := rfl
@[simp] theorem modReset_sessions (s : State) (domain : Nat) (f : ResetOp → ResetOp) : (modReset s domain f).sessions = s.sessions := rfl
@[simp] theorem modReset_closedIds (s : State) (domain : Nat) (f : ResetOp → ResetOp) : (modReset s domain f).closedIds = s.closedIds := rfl
@[simp] theorem modReset_reasm (s : State) (domain : Nat) (f : ResetOp → ResetOp) : (modReset s domain f).reasm = s.reasm := rfl
@[simp] theorem modReset_doorbells (s : State) (domain : Nat) (f : ResetOp → ResetOp) : (modReset s domain f).doorbells = s.doorbells := rfl
@[simp] theorem modReset_doorPtr (s : State) (domain : Nat) (f : ResetOp → ResetOp) : (modReset s domain f).doorPtr = s.doorPtr := rfl
@[simp] theorem modReset_live (s : State) (domain : Nat) (f : ResetOp → ResetOp) : (modReset s domain f).live = s.live := rfl
@[simp] theorem modReset_finals (s : State) (domain : Nat) (f : ResetOp → ResetOp) : (modReset s domain f).finals = s.finals := rfl
@[simp] theorem modReset_heldChunks (s : State) (domain : Nat) (f : ResetOp → ResetOp) : (modReset s domain f).heldChunks = s.heldChunks := rfl
@[simp] theorem modReset_ports (s : State) (domain : Nat) (f : ResetOp → ResetOp) : (modReset s domain f).ports = s.ports := rfl
@[simp] theorem modReset_relaySet (s : State) (domain : Nat) (f : ResetOp → ResetOp) : (modReset s domain f).relaySet = s.relaySet := rfl
@[simp] theorem modReset_relayOut (s : State) (domain : Nat) (f : ResetOp → ResetOp) : (modReset s domain f).relayOut = s.relayOut := rfl
@[simp] theorem modReset_intake (s : State) (domain : Nat) (f : ResetOp → ResetOp) : (modReset s domain f).intake = s.intake := rfl
@[simp] theorem modReset_wire (s : State) (domain : Nat) (f : ResetOp → ResetOp) : (modReset s domain f).wire = s.wire := rfl
@[simp] theorem modReset_relayWire (s : State) (domain : Nat) (f : ResetOp → ResetOp) : (modReset s domain f).relayWire = s.relayWire := rfl
@[simp] theorem modReset_out (s : State) (domain : Nat) (f : ResetOp → ResetOp) : (modReset s domain f).out = s.out := rfl
@[simp] theorem modReset_sbOut (s : State) (domain : Nat) (f : ResetOp → ResetOp) : (modReset s domain f).sbOut = s.sbOut := rfl
@[simp] theorem modReset_chases (s : State) (domain : Nat) (f : ResetOp → ResetOp) : (modReset s domain f).chases = s.chases := rfl
@[simp] theorem modReset_stages (s : State) (domain : Nat) (f : ResetOp → ResetOp) : (modReset s domain f).stages = s.stages := rfl
@[simp] theorem modReset_tiles (s : State) (domain : Nat) (f : ResetOp → ResetOp) : (modReset s domain f).tiles = s.tiles := rfl
@[simp] theorem modReset_net (s : State) (domain : Nat) (f : ResetOp → ResetOp) : (modReset s domain f).net = s.net := rfl
@[simp] theorem modReset_landings (s : State) (domain : Nat) (f : ResetOp → ResetOp) : (modReset s domain f).landings = s.landings := rfl
@[simp] theorem modReset_remoteDue (s : State) (domain : Nat) (f : ResetOp → ResetOp) : (modReset s domain f).remoteDue = s.remoteDue := rfl
@[simp] theorem modReset_remoteUsed (s : State) (domain : Nat) (f : ResetOp → ResetOp) : (modReset s domain f).remoteUsed = s.remoteUsed := rfl
@[simp] theorem modReset_torusOut (s : State) (domain : Nat) (f : ResetOp → ResetOp) : (modReset s domain f).torusOut = s.torusOut := rfl
@[simp] theorem modReset_memH (s : State) (domain : Nat) (f : ResetOp → ResetOp) : (modReset s domain f).memH = s.memH := rfl
@[simp] theorem modReset_memB (s : State) (domain : Nat) (f : ResetOp → ResetOp) : (modReset s domain f).memB = s.memB := rfl
@[simp] theorem modReset_objs (s : State) (domain : Nat) (f : ResetOp → ResetOp) : (modReset s domain f).objs = s.objs := rfl
@[simp] theorem modReset_objWaits (s : State) (domain : Nat) (f : ResetOp → ResetOp) : (modReset s domain f).objWaits = s.objWaits := rfl
@[simp] theorem modReset_reqs (s : State) (domain : Nat) (f : ResetOp → ResetOp) : (modReset s domain f).reqs = s.reqs := rfl
@[simp] theorem modReset_nextReq (s : State) (domain : Nat) (f : ResetOp → ResetOp) : (modReset s domain f).nextReq = s.nextReq := rfl
@[simp] theorem modReset_logs (s : State) (domain : Nat) (f : ResetOp → ResetOp) : (modReset s domain f).logs = s.logs := rfl
@[simp] theorem modReset_comps (s : State) (domain : Nat) (f : ResetOp → ResetOp) : (modReset s domain f).comps = s.comps := rfl
@[simp] theorem modReset_fills (s : State) (domain : Nat) (f : ResetOp → ResetOp) : (modReset s domain f).fills = s.fills := rfl
@[simp] theorem modReset_feederPtr (s : State) (domain : Nat) (f : ResetOp → ResetOp) : (modReset s domain f).feederPtr = s.feederPtr := rfl
@[simp] theorem modReset_torus (s : State) (domain : Nat) (f : ResetOp → ResetOp) : (modReset s domain f).torus = s.torus := rfl
@[simp] theorem modReset_jobs (s : State) (domain : Nat) (f : ResetOp → ResetOp) : (modReset s domain f).jobs = s.jobs := rfl
@[simp] theorem modReset_spares (s : State) (domain : Nat) (f : ResetOp → ResetOp) : (modReset s domain f).spares = s.spares := rfl
@[simp] theorem modReset_snap (s : State) (domain : Nat) (f : ResetOp → ResetOp) : (modReset s domain f).snap = s.snap := rfl

/-! ### violation -/

@[simp] theorem violation_pending (s : State) : (violation s).pending = s.pending := rfl
@[simp] theorem violation_draws (s : State) : (violation s).draws = s.draws := rfl
@[simp] theorem violation_now (s : State) : (violation s).now = s.now := rfl
@[simp] theorem violation_fuses (s : State) : (violation s).fuses = s.fuses := rfl
@[simp] theorem violation_boot (s : State) : (violation s).boot = s.boot := rfl
@[simp] theorem violation_pins (s : State) : (violation s).pins = s.pins := rfl
@[simp] theorem violation_power (s : State) : (violation s).power = s.power := rfl
@[simp] theorem violation_thermal (s : State) : (violation s).thermal = s.thermal := rfl
@[simp] theorem violation_policies (s : State) : (violation s).policies = s.policies := rfl
@[simp] theorem violation_policyDue (s : State) : (violation s).policyDue = s.policyDue := rfl
@[simp] theorem violation_creds (s : State) : (violation s).creds = s.creds := rfl
@[simp] theorem violation_sessions (s : State) : (violation s).sessions = s.sessions := rfl
@[simp] theorem violation_closedIds (s : State) : (violation s).closedIds = s.closedIds := rfl
@[simp] theorem violation_reasm (s : State) : (violation s).reasm = s.reasm := rfl
@[simp] theorem violation_doorbells (s : State) : (violation s).doorbells = s.doorbells := rfl
@[simp] theorem violation_doorPtr (s : State) : (violation s).doorPtr = s.doorPtr := rfl
@[simp] theorem violation_live (s : State) : (violation s).live = s.live := rfl
@[simp] theorem violation_finals (s : State) : (violation s).finals = s.finals := rfl
@[simp] theorem violation_heldChunks (s : State) : (violation s).heldChunks = s.heldChunks := rfl
@[simp] theorem violation_ports (s : State) : (violation s).ports = s.ports := rfl
@[simp] theorem violation_relaySet (s : State) : (violation s).relaySet = s.relaySet := rfl
@[simp] theorem violation_relayOut (s : State) : (violation s).relayOut = s.relayOut := rfl
@[simp] theorem violation_intake (s : State) : (violation s).intake = s.intake := rfl
@[simp] theorem violation_wire (s : State) : (violation s).wire = s.wire := rfl
@[simp] theorem violation_relayWire (s : State) : (violation s).relayWire = s.relayWire := rfl
@[simp] theorem violation_out (s : State) : (violation s).out = s.out := rfl
@[simp] theorem violation_sbOut (s : State) : (violation s).sbOut = s.sbOut := rfl
@[simp] theorem violation_chases (s : State) : (violation s).chases = s.chases := rfl
@[simp] theorem violation_stages (s : State) : (violation s).stages = s.stages := rfl
@[simp] theorem violation_tiles (s : State) : (violation s).tiles = s.tiles := rfl
@[simp] theorem violation_net (s : State) : (violation s).net = s.net := rfl
@[simp] theorem violation_landings (s : State) : (violation s).landings = s.landings := rfl
@[simp] theorem violation_remoteDue (s : State) : (violation s).remoteDue = s.remoteDue := rfl
@[simp] theorem violation_remoteUsed (s : State) : (violation s).remoteUsed = s.remoteUsed := rfl
@[simp] theorem violation_torusOut (s : State) : (violation s).torusOut = s.torusOut := rfl
@[simp] theorem violation_memH (s : State) : (violation s).memH = s.memH := rfl
@[simp] theorem violation_memB (s : State) : (violation s).memB = s.memB := rfl
@[simp] theorem violation_objs (s : State) : (violation s).objs = s.objs := rfl
@[simp] theorem violation_objWaits (s : State) : (violation s).objWaits = s.objWaits := rfl
@[simp] theorem violation_reqs (s : State) : (violation s).reqs = s.reqs := rfl
@[simp] theorem violation_nextReq (s : State) : (violation s).nextReq = s.nextReq := rfl
@[simp] theorem violation_logs (s : State) : (violation s).logs = s.logs := rfl
@[simp] theorem violation_comps (s : State) : (violation s).comps = s.comps := rfl
@[simp] theorem violation_fills (s : State) : (violation s).fills = s.fills := rfl
@[simp] theorem violation_feederPtr (s : State) : (violation s).feederPtr = s.feederPtr := rfl
@[simp] theorem violation_torus (s : State) : (violation s).torus = s.torus := rfl
@[simp] theorem violation_jobs (s : State) : (violation s).jobs = s.jobs := rfl
@[simp] theorem violation_faults (s : State) : (violation s).faults = s.faults := rfl
@[simp] theorem violation_spares (s : State) : (violation s).spares = s.spares := rfl
@[simp] theorem violation_snap (s : State) : (violation s).snap = s.snap := rfl

/-! ### healthEvent -/

@[simp] theorem healthEvent_pending (s : State) (mask : Nat) : (healthEvent s mask).pending = s.pending := rfl
@[simp] theorem healthEvent_draws (s : State) (mask : Nat) : (healthEvent s mask).draws = s.draws := rfl
@[simp] theorem healthEvent_now (s : State) (mask : Nat) : (healthEvent s mask).now = s.now := rfl
@[simp] theorem healthEvent_fuses (s : State) (mask : Nat) : (healthEvent s mask).fuses = s.fuses := rfl
@[simp] theorem healthEvent_boot (s : State) (mask : Nat) : (healthEvent s mask).boot = s.boot := rfl
@[simp] theorem healthEvent_pins (s : State) (mask : Nat) : (healthEvent s mask).pins = s.pins := rfl
@[simp] theorem healthEvent_power (s : State) (mask : Nat) : (healthEvent s mask).power = s.power := rfl
@[simp] theorem healthEvent_thermal (s : State) (mask : Nat) : (healthEvent s mask).thermal = s.thermal := rfl
@[simp] theorem healthEvent_policies (s : State) (mask : Nat) : (healthEvent s mask).policies = s.policies := rfl
@[simp] theorem healthEvent_policyDue (s : State) (mask : Nat) : (healthEvent s mask).policyDue = s.policyDue := rfl
@[simp] theorem healthEvent_creds (s : State) (mask : Nat) : (healthEvent s mask).creds = s.creds := rfl
@[simp] theorem healthEvent_sessions (s : State) (mask : Nat) : (healthEvent s mask).sessions = s.sessions := rfl
@[simp] theorem healthEvent_closedIds (s : State) (mask : Nat) : (healthEvent s mask).closedIds = s.closedIds := rfl
@[simp] theorem healthEvent_reasm (s : State) (mask : Nat) : (healthEvent s mask).reasm = s.reasm := rfl
@[simp] theorem healthEvent_doorbells (s : State) (mask : Nat) : (healthEvent s mask).doorbells = s.doorbells := rfl
@[simp] theorem healthEvent_doorPtr (s : State) (mask : Nat) : (healthEvent s mask).doorPtr = s.doorPtr := rfl
@[simp] theorem healthEvent_live (s : State) (mask : Nat) : (healthEvent s mask).live = s.live := rfl
@[simp] theorem healthEvent_finals (s : State) (mask : Nat) : (healthEvent s mask).finals = s.finals := rfl
@[simp] theorem healthEvent_heldChunks (s : State) (mask : Nat) : (healthEvent s mask).heldChunks = s.heldChunks := rfl
@[simp] theorem healthEvent_ports (s : State) (mask : Nat) : (healthEvent s mask).ports = s.ports := rfl
@[simp] theorem healthEvent_relaySet (s : State) (mask : Nat) : (healthEvent s mask).relaySet = s.relaySet := rfl
@[simp] theorem healthEvent_relayOut (s : State) (mask : Nat) : (healthEvent s mask).relayOut = s.relayOut := rfl
@[simp] theorem healthEvent_intake (s : State) (mask : Nat) : (healthEvent s mask).intake = s.intake := rfl
@[simp] theorem healthEvent_wire (s : State) (mask : Nat) : (healthEvent s mask).wire = s.wire := rfl
@[simp] theorem healthEvent_relayWire (s : State) (mask : Nat) : (healthEvent s mask).relayWire = s.relayWire := rfl
@[simp] theorem healthEvent_out (s : State) (mask : Nat) : (healthEvent s mask).out = s.out := rfl
@[simp] theorem healthEvent_sbOut (s : State) (mask : Nat) : (healthEvent s mask).sbOut = s.sbOut := rfl
@[simp] theorem healthEvent_chases (s : State) (mask : Nat) : (healthEvent s mask).chases = s.chases := rfl
@[simp] theorem healthEvent_stages (s : State) (mask : Nat) : (healthEvent s mask).stages = s.stages := rfl
@[simp] theorem healthEvent_tiles (s : State) (mask : Nat) : (healthEvent s mask).tiles = s.tiles := rfl
@[simp] theorem healthEvent_net (s : State) (mask : Nat) : (healthEvent s mask).net = s.net := rfl
@[simp] theorem healthEvent_landings (s : State) (mask : Nat) : (healthEvent s mask).landings = s.landings := rfl
@[simp] theorem healthEvent_remoteDue (s : State) (mask : Nat) : (healthEvent s mask).remoteDue = s.remoteDue := rfl
@[simp] theorem healthEvent_remoteUsed (s : State) (mask : Nat) : (healthEvent s mask).remoteUsed = s.remoteUsed := rfl
@[simp] theorem healthEvent_torusOut (s : State) (mask : Nat) : (healthEvent s mask).torusOut = s.torusOut := rfl
@[simp] theorem healthEvent_memH (s : State) (mask : Nat) : (healthEvent s mask).memH = s.memH := rfl
@[simp] theorem healthEvent_memB (s : State) (mask : Nat) : (healthEvent s mask).memB = s.memB := rfl
@[simp] theorem healthEvent_objs (s : State) (mask : Nat) : (healthEvent s mask).objs = s.objs := rfl
@[simp] theorem healthEvent_objWaits (s : State) (mask : Nat) : (healthEvent s mask).objWaits = s.objWaits := rfl
@[simp] theorem healthEvent_reqs (s : State) (mask : Nat) : (healthEvent s mask).reqs = s.reqs := rfl
@[simp] theorem healthEvent_nextReq (s : State) (mask : Nat) : (healthEvent s mask).nextReq = s.nextReq := rfl
@[simp] theorem healthEvent_logs (s : State) (mask : Nat) : (healthEvent s mask).logs = s.logs := rfl
@[simp] theorem healthEvent_comps (s : State) (mask : Nat) : (healthEvent s mask).comps = s.comps := rfl
@[simp] theorem healthEvent_fills (s : State) (mask : Nat) : (healthEvent s mask).fills = s.fills := rfl
@[simp] theorem healthEvent_feederPtr (s : State) (mask : Nat) : (healthEvent s mask).feederPtr = s.feederPtr := rfl
@[simp] theorem healthEvent_torus (s : State) (mask : Nat) : (healthEvent s mask).torus = s.torus := rfl
@[simp] theorem healthEvent_jobs (s : State) (mask : Nat) : (healthEvent s mask).jobs = s.jobs := rfl
@[simp] theorem healthEvent_faults (s : State) (mask : Nat) : (healthEvent s mask).faults = s.faults := rfl
@[simp] theorem healthEvent_spares (s : State) (mask : Nat) : (healthEvent s mask).spares = s.spares := rfl
@[simp] theorem healthEvent_snap (s : State) (mask : Nat) : (healthEvent s mask).snap = s.snap := rfl

/-! ### setTier -/

@[simp] theorem setTier_pending (s : State) (isH : Bool) (m : TierMem) : (setTier s isH m).pending = s.pending := by
  cases isH <;> rfl
@[simp] theorem setTier_draws (s : State) (isH : Bool) (m : TierMem) : (setTier s isH m).draws = s.draws := by
  cases isH <;> rfl
@[simp] theorem setTier_now (s : State) (isH : Bool) (m : TierMem) : (setTier s isH m).now = s.now := by
  cases isH <;> rfl
@[simp] theorem setTier_fuses (s : State) (isH : Bool) (m : TierMem) : (setTier s isH m).fuses = s.fuses := by
  cases isH <;> rfl
@[simp] theorem setTier_boot (s : State) (isH : Bool) (m : TierMem) : (setTier s isH m).boot = s.boot := by
  cases isH <;> rfl
@[simp] theorem setTier_pins (s : State) (isH : Bool) (m : TierMem) : (setTier s isH m).pins = s.pins := by
  cases isH <;> rfl
@[simp] theorem setTier_power (s : State) (isH : Bool) (m : TierMem) : (setTier s isH m).power = s.power := by
  cases isH <;> rfl
@[simp] theorem setTier_thermal (s : State) (isH : Bool) (m : TierMem) : (setTier s isH m).thermal = s.thermal := by
  cases isH <;> rfl
@[simp] theorem setTier_health (s : State) (isH : Bool) (m : TierMem) : (setTier s isH m).health = s.health := by
  cases isH <;> rfl
@[simp] theorem setTier_policies (s : State) (isH : Bool) (m : TierMem) : (setTier s isH m).policies = s.policies := by
  cases isH <;> rfl
@[simp] theorem setTier_policyDue (s : State) (isH : Bool) (m : TierMem) : (setTier s isH m).policyDue = s.policyDue := by
  cases isH <;> rfl
@[simp] theorem setTier_creds (s : State) (isH : Bool) (m : TierMem) : (setTier s isH m).creds = s.creds := by
  cases isH <;> rfl
@[simp] theorem setTier_sessions (s : State) (isH : Bool) (m : TierMem) : (setTier s isH m).sessions = s.sessions := by
  cases isH <;> rfl
@[simp] theorem setTier_closedIds (s : State) (isH : Bool) (m : TierMem) : (setTier s isH m).closedIds = s.closedIds := by
  cases isH <;> rfl
@[simp] theorem setTier_reasm (s : State) (isH : Bool) (m : TierMem) : (setTier s isH m).reasm = s.reasm := by
  cases isH <;> rfl
@[simp] theorem setTier_doorbells (s : State) (isH : Bool) (m : TierMem) : (setTier s isH m).doorbells = s.doorbells := by
  cases isH <;> rfl
@[simp] theorem setTier_doorPtr (s : State) (isH : Bool) (m : TierMem) : (setTier s isH m).doorPtr = s.doorPtr := by
  cases isH <;> rfl
@[simp] theorem setTier_live (s : State) (isH : Bool) (m : TierMem) : (setTier s isH m).live = s.live := by
  cases isH <;> rfl
@[simp] theorem setTier_finals (s : State) (isH : Bool) (m : TierMem) : (setTier s isH m).finals = s.finals := by
  cases isH <;> rfl
@[simp] theorem setTier_heldChunks (s : State) (isH : Bool) (m : TierMem) : (setTier s isH m).heldChunks = s.heldChunks := by
  cases isH <;> rfl
@[simp] theorem setTier_ports (s : State) (isH : Bool) (m : TierMem) : (setTier s isH m).ports = s.ports := by
  cases isH <;> rfl
@[simp] theorem setTier_relaySet (s : State) (isH : Bool) (m : TierMem) : (setTier s isH m).relaySet = s.relaySet := by
  cases isH <;> rfl
@[simp] theorem setTier_relayOut (s : State) (isH : Bool) (m : TierMem) : (setTier s isH m).relayOut = s.relayOut := by
  cases isH <;> rfl
@[simp] theorem setTier_intake (s : State) (isH : Bool) (m : TierMem) : (setTier s isH m).intake = s.intake := by
  cases isH <;> rfl
@[simp] theorem setTier_wire (s : State) (isH : Bool) (m : TierMem) : (setTier s isH m).wire = s.wire := by
  cases isH <;> rfl
@[simp] theorem setTier_relayWire (s : State) (isH : Bool) (m : TierMem) : (setTier s isH m).relayWire = s.relayWire := by
  cases isH <;> rfl
@[simp] theorem setTier_out (s : State) (isH : Bool) (m : TierMem) : (setTier s isH m).out = s.out := by
  cases isH <;> rfl
@[simp] theorem setTier_sbOut (s : State) (isH : Bool) (m : TierMem) : (setTier s isH m).sbOut = s.sbOut := by
  cases isH <;> rfl
@[simp] theorem setTier_chases (s : State) (isH : Bool) (m : TierMem) : (setTier s isH m).chases = s.chases := by
  cases isH <;> rfl
@[simp] theorem setTier_stages (s : State) (isH : Bool) (m : TierMem) : (setTier s isH m).stages = s.stages := by
  cases isH <;> rfl
@[simp] theorem setTier_tiles (s : State) (isH : Bool) (m : TierMem) : (setTier s isH m).tiles = s.tiles := by
  cases isH <;> rfl
@[simp] theorem setTier_net (s : State) (isH : Bool) (m : TierMem) : (setTier s isH m).net = s.net := by
  cases isH <;> rfl
@[simp] theorem setTier_landings (s : State) (isH : Bool) (m : TierMem) : (setTier s isH m).landings = s.landings := by
  cases isH <;> rfl
@[simp] theorem setTier_remoteDue (s : State) (isH : Bool) (m : TierMem) : (setTier s isH m).remoteDue = s.remoteDue := by
  cases isH <;> rfl
@[simp] theorem setTier_remoteUsed (s : State) (isH : Bool) (m : TierMem) : (setTier s isH m).remoteUsed = s.remoteUsed := by
  cases isH <;> rfl
@[simp] theorem setTier_torusOut (s : State) (isH : Bool) (m : TierMem) : (setTier s isH m).torusOut = s.torusOut := by
  cases isH <;> rfl
@[simp] theorem setTier_objs (s : State) (isH : Bool) (m : TierMem) : (setTier s isH m).objs = s.objs := by
  cases isH <;> rfl
@[simp] theorem setTier_objWaits (s : State) (isH : Bool) (m : TierMem) : (setTier s isH m).objWaits = s.objWaits := by
  cases isH <;> rfl
@[simp] theorem setTier_reqs (s : State) (isH : Bool) (m : TierMem) : (setTier s isH m).reqs = s.reqs := by
  cases isH <;> rfl
@[simp] theorem setTier_nextReq (s : State) (isH : Bool) (m : TierMem) : (setTier s isH m).nextReq = s.nextReq := by
  cases isH <;> rfl
@[simp] theorem setTier_logs (s : State) (isH : Bool) (m : TierMem) : (setTier s isH m).logs = s.logs := by
  cases isH <;> rfl
@[simp] theorem setTier_comps (s : State) (isH : Bool) (m : TierMem) : (setTier s isH m).comps = s.comps := by
  cases isH <;> rfl
@[simp] theorem setTier_fills (s : State) (isH : Bool) (m : TierMem) : (setTier s isH m).fills = s.fills := by
  cases isH <;> rfl
@[simp] theorem setTier_feederPtr (s : State) (isH : Bool) (m : TierMem) : (setTier s isH m).feederPtr = s.feederPtr := by
  cases isH <;> rfl
@[simp] theorem setTier_torus (s : State) (isH : Bool) (m : TierMem) : (setTier s isH m).torus = s.torus := by
  cases isH <;> rfl
@[simp] theorem setTier_jobs (s : State) (isH : Bool) (m : TierMem) : (setTier s isH m).jobs = s.jobs := by
  cases isH <;> rfl
@[simp] theorem setTier_faults (s : State) (isH : Bool) (m : TierMem) : (setTier s isH m).faults = s.faults := by
  cases isH <;> rfl
@[simp] theorem setTier_spares (s : State) (isH : Bool) (m : TierMem) : (setTier s isH m).spares = s.spares := by
  cases isH <;> rfl
@[simp] theorem setTier_snap (s : State) (isH : Bool) (m : TierMem) : (setTier s isH m).snap = s.snap := by
  cases isH <;> rfl

/-! ### What a part reads as after its update -/

@[simp] theorem tier_setTier (s : State) (isH : Bool) (m : TierMem) : tier (setTier s isH m) isH = m := by cases isH <;> rfl

@[simp] theorem tier_setTier_other (s : State) (isH : Bool) (m : TierMem) : tier (setTier s isH m) (!isH) = tier s (!isH) := by
  cases isH <;> rfl

@[simp] theorem modBoot_boot (s : State) (f : Boot → Boot) : (modBoot s f).boot = f s.boot := rfl

@[simp] theorem tile_setTile (s : State) (t : Nat) (x : Tile) : tile (setTile s t x) t = x := by
  simp [tile, setTile, kgetD, kget_kset_same]

@[simp] theorem tile_modTile (s : State) (t : Nat) (f : Tile → Tile) : tile (modTile s t f) t = f (tile s t) := by
  simp [modTile]

theorem tile_modTile_other (s : State) (t u : Nat) (f : Tile → Tile) (h : u ≠ t) : tile (modTile s t f) u = tile s u := by
  simp only [tile, modTile, setTile, kgetD, kget_kset_ne _ _ _ _ h]

@[simp] theorem chase_modChase (s : State) (c : Nat) (f : Chase → Chase) : chase (modChase s c f) c = f (chase s c) := by
  simp [chase, modChase, kgetD, kget_kset_same]

theorem chase_modChase_other (s : State) (c d : Nat) (f : Chase → Chase) (h : d ≠ c) :
    chase (modChase s c f) d = chase s d := by
  simp only [chase, modChase, kgetD, kget_kset_ne _ _ _ _ h]

theorem modPort_get (s : State) (n : Nat) (f : TorusPort → TorusPort) (p : TorusPort) (h : s.torus[n]? = some p) :
    (modPort s n f).torus[n]? = some (f p) := by
  simp [modPort, lmod, h, List.getElem?_modify]

/-- A reset in progress after an update of it that keeps its domain. -/
theorem resetOf_modReset (s : State) (d : Nat) (f : ResetOp → ResetOp) (op : ResetOp) (hf : ∀ r, (f r).domain = r.domain)
    (h : resetOf s d = some op) : resetOf (modReset s d f) d = some (f op) := by
  simp only [resetOf, modReset] at *
  revert h
  generalize s.faults.resets = l
  induction l with
  | nil => simp
  | cons a r ih =>
    intro h
    rw [List.map_cons, List.find?_cons]
    rw [List.find?_cons] at h
    by_cases k : a.domain = d
    · simp only [k, beq_self_eq_true] at h
      injection h with h
      subst h
      simp [k, hf]
    · have k' : (a.domain == d) = false := by simpa using k
      simp only [k'] at h
      simp only [k, if_false, k']
      exact ih h

/-! ### Slots and events in terms of what they run -/

/-- A live firing at a slot runs the slot's operation and goes on to its next slot. -/
theorem runSlot_of {s : State} {t fu opc : Nat} {k : SlotCtx} {op : State → SlotCtx → State} (h : AtSlot s t fu opc k) :
    runSlot s t fu opc op = slotDone (op s k) k.c t fu k.u := by
  simp only [runSlot, h.1, h.2, if_true]

/-- The context of a slot names the tile pair and unit it was asked of. -/
theorem slotAt_place {s : State} {t fu opc : Nat} {k : SlotCtx} (h : slotAt s t fu opc = some k) : k.t = t ∧ k.fu = fu := by
  simp only [slotAt] at h
  split at h
  · split at h
    · injection h with h
      subst h
      exact ⟨rfl, rfl⟩
    · cases h
  · cases h

/-- A slot with a scalar operand takes it. -/
theorem withScalar_of {s : State} {k : SlotCtx} {op : Elt → State} (h : k.scalarIn.kind = 1) :
    withScalar s k op = op (k.scalarIn.payload.toNat % 2 ^ fmtBits k.v.fmt, k.scalarIn.spoil) := by
  simp only [withScalar, h, ne_eq, not_true, if_false]

/-- Adding the bit of place i to a number below 2^i. -/
theorem testBit_add_pow (m i j : Nat) (hm : m < 2 ^ i) : (m + 2 ^ i).testBit j = (m.testBit j || decide (j = i)) := by
  have h : m + 2 ^ i = 2 ^ i * 1 + m := by omega
  rw [h, Nat.testBit_two_pow_mul_add _ hm]
  by_cases hj : j < i
  · simp [hj]; omega
  · have : m.testBit j = false := Nat.testBit_lt_two_pow (Nat.lt_of_lt_of_le hm (Nat.pow_le_pow_right (by omega) (by omega)))
    simp only [hj, if_false, this, Bool.false_or]
    rw [show (1 : Nat) = 2 ^ 0 by rfl, Nat.testBit_two_pow]
    simp; omega

/-- The bits of a number built from a list, one place an element. -/
theorem bits_fold {α : Type} (p : α × Nat → Bool) (l : List α) (i m : Nat) (hm : m < 2 ^ i) (j : Nat) :
    ((l.zipIdx i).foldl (fun (m : Nat) e => if p e then m + 2 ^ e.2 else m) m).testBit j =
      (m.testBit j || (decide (i ≤ j) && (match l[j - i]? with | some a => p (a, j) | none => false))) := by
  induction l generalizing i m with
  | nil => simp
  | cons a r ih =>
    simp only [List.zipIdx_cons, List.foldl_cons]
    have k1 : (if p (a, i) then m + 2 ^ i else m) < 2 ^ (i + 1) := by split <;> omega
    have k2 : (if p (a, i) then m + 2 ^ i else m).testBit j = (m.testBit j || (p (a, i) && decide (j = i))) := by
      split
      · rename_i hp; rw [testBit_add_pow _ _ _ hm, hp]; simp
      · rename_i hp; simp [hp]
    rw [ih _ _ k1, k2]
    rcases Nat.lt_trichotomy j i with h | h | h
    · simp [show ¬ i + 1 ≤ j by omega, show ¬ i ≤ j by omega, show ¬ j = i by omega]
    · subst h; simp
    · have : j - i = (j - (i + 1)) + 1 := by omega
      rw [this, List.getElem?_cons_succ]
      simp [show i + 1 ≤ j by omega, show i ≤ j by omega, show ¬ j = i by omega]

/-- Element j of the columns of some lists. -/
theorem columns_get (n : Nat) (ls : List (List Elt)) (j : Nat) (h : j < n) :
    (columns n ls)[j]? = some (ls.map fun l => l.getD j (0, false)) := by
  induction n generalizing ls j with
  | zero => omega
  | succ n ih =>
    cases j with
    | zero =>
      simp only [columns, List.getElem?_cons_zero, Option.some.injEq]
      exact List.map_congr_left fun l _ => by cases l <;> rfl
    | succ j =>
      simp only [columns, List.getElem?_cons_succ]
      rw [ih _ _ (by omega)]
      simp

end Sys2Proof.Machine
end

