-- ==== Sys2Proof/Laws/Transc.lean ====
section
/-! SUPPORT. What the free value of a transcendental function can do (R122). -/

namespace Sys2Proof.Machine

/-- Whatever the free value, the FP32 magnitude delivered is the nearest one or lies within the bound of R122. -/
theorem transcCode_cases (opc m : Nat) (e : Int) (near : Nat) (free : Int) :
    transcCode opc m e near free = near ∨
      ∃ mag : Nat, transcWithin opc m e mag = true ∧ transcCode opc m e near free = near - near % 2 ^ 31 + mag := by
  unfold transcCode
  dsimp only
  split
  · next h => exact .inr ⟨_, h.2.2, rfl⟩
  · exact .inl rfl

end Sys2Proof.Machine
end

