-- ==== Sys2Proof/Tests/Slice0.lean ====
section
/-! SUPPORT. Tests: operands that the well-formedness checks refuse, states that meet the hypotheses of the statements,
and a few steps whose results the specification gives in numbers. -/

set_option Elab.async false

namespace Sys2Proof.Tests
open Sys2Proof Sys2Proof.Machine

/-! ### Small states -/

/-- The device in service (R532), with the largest grid of one device. -/
def up : State := { State.reset with
  boot := { Boot.reset with
    state := 4
    cfg := some (default : BootConfig) } }

/-- An open session of a role. -/
def sess (r : Role) (c : Nat) : Session := { (default : Session) with
  isOpen := true
  role := r
  chase := c
  credId := 1 }

def prov (r : Role) (c : Nat) (sig : Option Bytes) : Session := { sess r c with
  credId := 0
  provisional := true
  keptSig := sig }

def on (s : State) (se : Session) : State := { s with sessions := [(7, se)] }

def hdr : CmdHdr := ⟨7, 1, 0, 0, 0, .ok, default, none, []⟩

/-- The state with chase 1 as given. -/
def withChase (ch : Chase) : State := { up with chases := [(1, ch)] }

def claimed : Chase := { (default : Chase) with state := .claimed }

def ten : Session := sess .ten 1

/-- A command that the checks common to all pass: its state, with nothing queued, live or kept, holds one session. -/
def passes (s : State) (se : Session) (op : Nat) (roles : List Role) (oos : Bool) : Bool :=
  s.doorbells == List.replicate 6 [] && s.live == [] && s.finals == [] && entitled se ⟨op, roles, oos, 0⟩ &&
  !fenceAnswers (on s se) se op && (s.boot.state == 4 || oos)

/-- Such a command is taken, and what else a statement asks of its state may be checked beside it. -/
theorem taken_and {s : State} {se : Session} {op : Nat} {roles : List Role} {oos : Bool} {P : Prop}
    (h : passes s se op roles oos = true ∧ P) : Taken (on s se) hdr op roles oos (on s se) se ∧ P := by
  obtain ⟨h, hp⟩ := h
  simp only [passes, Bool.and_eq_true, Bool.or_eq_true, beq_iff_eq, Bool.not_eq_true'] at h
  obtain ⟨⟨⟨⟨⟨hd, hl⟩, hf⟩, he⟩, hr⟩, hb⟩ := h
  refine ⟨⟨by simp [takeDesc, on, hd], rfl, by simp [liveOf, on, hl], by simp [keptFinal, on, hf], he, hr,
    fun h => hb.resolve_left fun h' => by simp [on, h'] at h, rfl, Or.inr (by simp [on, hl])⟩, hp⟩

/-! ### Well-formedness refuses -/

def okChase : ChaseFields := ⟨0, 0, 0, 0, 1, [0, 0, 0, 0], 0, 1, [0, 0, 0, 0], 0, [0, 0, 0, 0]⟩
def okServe : ServeFields := { (default : ServeFields) with eos := [0, 0, 0, 0] }
def okGen : GenParams := default
def okJob : JobFields := default
def okRelay : RelayEntry := default
def okIntake : IntakeCfg := default
def okMsg : DiscoveryMsg := { (default : DiscoveryMsg) with
  ownerDigest := zeros 48, nonce := zeros 32, eph := zeros 97, sig := zeros 96 }

/-- What the refused terms below differ from is well formed. -/
theorem test_wellFormed_accepted : okChase.wf && okServe.wf && okGen.wf && okJob.wf && okRelay.wf && okIntake.wf &&
    hdr.wf && Instr.wf (.linkFrame 0 none []) && Instr.wf (.discoveryMsg 0 { okMsg with z := 31 }) && Instr.wf (.ping hdr []) &&
    Instr.wf (.bankGrant 0 16 []) && Instr.wf (.tempSample (List.replicate 72 40)) = true := by decide +kernel

/-- A body of the right form spells the operands (R45). -/
theorem test_illFormed_body : Instr.wf (.ping hdr [1]) = false ∧ Instr.wf (.ping { hdr with body := [1] } [1]) = true := by
  decide +kernel

/-- A descriptor field out of its width (R45, R363). -/
theorem test_illFormed_header : ∀ x ∈ ([
    { hdr with session := (2 ^ 32) },
    { hdr with reqId := (2 ^ 32) },
    { hdr with ep := 6 },
    { hdr with dscp := 64 },
    { hdr with firstNs := (2 ^ 64) }] : List CmdHdr), x.wf = false := by decide +kernel

/-- A field of CHASE_CREATE out of its width or count (R386). -/
theorem test_illFormed_chase : ∀ x ∈ ([
    { okChase with chase := 256 },
    { okChase with bwMode := 256 },
    { okChase with prioMax := 256 },
    { okChase with compMap := 256 },
    { okChase with pageMap := (2 ^ 32) },
    { okChase with hGran := [] },
    { okChase with hGran := [65536, 0, 0, 0] },
    { okChase with bGran := (2 ^ 16) },
    { okChase with reqLimit := (2 ^ 16) },
    { okChase with betaH := [] },
    { okChase with betaH := [2 ^ 32, 0, 0, 0] },
    { okChase with betaB := (2 ^ 32) },
    { okChase with store := [] },
    { okChase with store := [2 ^ 32, 0, 0, 0] }] : List ChaseFields), x.wf = false := by decide +kernel

/-- A field of SERVE_SET out of its width or count (R387). -/
theorem test_illFormed_serve : ∀ x ∈ ([
    { okServe with formeId := (2 ^ 64) },
    { okServe with missPolicy := 256 },
    { okServe with passLimit := (2 ^ 16) },
    { okServe with vocab := (2 ^ 32) },
    { okServe with logitTid := (2 ^ 16) },
    { okServe with maskTid := (2 ^ 16) },
    { okServe with prefillTokens := (2 ^ 16) },
    { okServe with kvClass := (2 ^ 16) },
    { okServe with contextMax := (2 ^ 32) },
    { okServe with folioBytes := (2 ^ 32) },
    { okServe with poolObj := (2 ^ 64) },
    { okServe with concObj := (2 ^ 64) },
    { okServe with eos := [] },
    { okServe with eos := [2 ^ 32, 0, 0, 0] },
    { okServe with draftId := (2 ^ 64) },
    { okServe with draftPool := (2 ^ 64) },
    { okServe with draftFolioBytes := (2 ^ 32) },
    { okServe with draftPassLimit := (2 ^ 16) },
    { okServe with draftTokens := (2 ^ 16) },
    { okServe with draftLogitTid := (2 ^ 16) },
    { okServe with kInit := 256 },
    { okServe with kMax := 256 },
    { okServe with probeGap := 256 },
    { okServe with compSharers := 256 }] : List ServeFields), x.wf = false := by decide +kernel

/-- A field of GENERATE out of its width (R388). -/
theorem test_illFormed_generate : ∀ x ∈ ([
    { okGen with formeId := (2 ^ 64) },
    { okGen with deadline := (2 ^ 64) },
    { okGen with seed := (2 ^ 64) },
    { okGen with lp := (2 ^ 32) },
    { okGen with maxTokens := (2 ^ 32) },
    { okGen with topK := (2 ^ 32) },
    { okGen with repWindow := (2 ^ 32) },
    { okGen with tokenBatch := (2 ^ 16) },
    { okGen with spec := 256 },
    { okGen with label := List.replicate 256 0 },
    { okGen with tokens := [2 ^ 32] }] : List GenParams), x.wf = false := by decide +kernel

/-- A field of JOB_OPEN out of its width (R390). -/
theorem test_illFormed_job : ∀ x ∈ ([
    { okJob with jobId := (2 ^ 64) },
    { okJob with chase := 256 },
    { okJob with ox := 256 },
    { okJob with oy := 256 },
    { okJob with oz := 256 },
    { okJob with ex := 256 },
    { okJob with ey := 256 },
    { okJob with ez := 256 }] : List JobFields), x.wf = false := by decide +kernel

/-- A relay entry out of its widths (R384). -/
theorem test_illFormed_relay : ∀ x ∈ ([
    { okRelay with x := 256 },
    { okRelay with y := 256 },
    { okRelay with z := 256 },
    { okRelay with ipv4 := (2 ^ 32) },
    { okRelay with ipv6 := 2 ^ 128 }] : List RelayEntry), x.wf = false := by decide +kernel

/-- A field of INTAKE_SET out of its width (R384). -/
theorem test_illFormed_intake : ∀ x ∈ ([
    { okIntake with tableObj := (2 ^ 64) },
    { okIntake with payloadObj := (2 ^ 64) },
    { okIntake with formeId := (2 ^ 64) },
    { okIntake with deadline := (2 ^ 64) },
    { okIntake with nrec := (2 ^ 32) },
    { okIntake with capture := (2 ^ 32) },
    { okIntake with idleMs := (2 ^ 32) },
    { okIntake with activeMs := (2 ^ 32) },
    { okIntake with vxlanPort := (2 ^ 16) },
    { okIntake with genevePort := (2 ^ 16) },
    { okIntake with notify := 256 },
    { okIntake with enable := 256 }] : List IntakeCfg), x.wf = false := by decide +kernel

/-- Host commands with one operand out of its width or length (R384 to R390). -/
theorem test_illFormed_hostCommands : ∀ x ∈ ([
    .close { hdr with ep := 6 },
    .hello hdr 256 0 0 (List.replicate 32 0) (List.replicate 97 0),
    .hello hdr 0 256 0 (List.replicate 32 0) (List.replicate 97 0),
    .hello hdr 0 0 (2 ^ 64) (List.replicate 32 0) (List.replicate 97 0),
    .hello hdr 1 255 1 [] (List.replicate 97 0),
    .hello hdr 1 255 1 (List.replicate 32 0) [],
    .prove hdr [],
    .claim hdr [] [],
    .policySet hdr [(2 ^ 16, 0)],
    .policySet hdr [(0, 2 ^ 64)],
    .policyGet hdr [2 ^ 16],
    .credSet hdr 256 0 0 0 (List.replicate 97 0),
    .credSet hdr 0 0 0 (2 ^ 64) (List.replicate 97 0),
    .credSet hdr 0 0 0 0 [],
    .decommission hdr (2 ^ 64),
    .relaySet hdr [{ okRelay with x := 256 }],
    .intakeSet hdr { okIntake with notify := 256 },
    .chaseCreate hdr { okChase with chase := 256 },
    .chaseRelease hdr 256,
    .chaseClaim hdr [],
    .formeLoad hdr (2 ^ 64) 0 [],
    .formeLoad hdr 0 (2 ^ 64) [],
    .formeStage hdr (2 ^ 64),
    .formeFree hdr (2 ^ 64),
    .impose hdr (List.replicate 256 0),
    .impose hdr [2 ^ 64],
    .change hdr (2 ^ 64) 0,
    .change hdr 0 (2 ^ 64),
    .serveSet hdr 256 okServe,
    .serveSet hdr 0 { okServe with vocab := 2 ^ 32 },
    .scanOut hdr 2048,
    .signkeySet hdr 256 0 (List.replicate 97 0),
    .signkeySet hdr 0 (2 ^ 32) (List.replicate 97 0),
    .signkeySet hdr 0 0 [],
    .objCreate hdr (2 ^ 64) 0 0 0 0,
    .objCreate hdr 0 (2 ^ 64) 0 0 0,
    .objCreate hdr 0 0 256 0 0,
    .put hdr (2 ^ 64) 0 [],
    .put hdr 0 (2 ^ 64) [],
    .get hdr 0 0 (2 ^ 32),
    .move hdr 0 256 0,
    .windowSet hdr 0 (2 ^ 64) 0,
    .windowSet hdr 0 0 256,
    .score hdr (2 ^ 64) 0 [] [],
    .score hdr 0 (2 ^ 64) [] [],
    .score hdr 0 0 (List.replicate 256 0) [],
    .generate hdr { okGen with topK := 2 ^ 32 },
    .fileSubmit hdr 0 0 (2 ^ 64) 0 [] [],
    .fileSubmit hdr 0 0 0 0 (List.replicate 256 0) [],
    .cancel hdr (2 ^ 32),
    .resend hdr 0 (2 ^ 32),
    .jobOpen hdr { okJob with ex := 256 },
    .jobStep hdr (2 ^ 64) 0 0 0 [] [],
    .jobRejoin hdr 0 (2 ^ 64),
    .jobClose hdr (2 ^ 64),
    .readReg hdr (2 ^ 24) 1,
    .readReg hdr 0 (2 ^ 16),
    .writeReg hdr (2 ^ 24) 0,
    .colophon hdr [],
    .powerCap hdr (2 ^ 16) 0 0,
    .powerCap hdr 0 0 256,
    .pullRead hdr 256 0 0 0 [],
    .pullRead hdr 0 (2 ^ 32) 0 0 [],
    .pullRead hdr 1 0 0 0 [(0, 256)]] : List Instr), x.widthsOk = false := by decide +kernel

/-- Events with one operand out of its width, range or length. -/
theorem test_illFormed_events : ∀ x ∈ ([
    .askestPacket 4 [] 0,
    .askestPacket 0 [] (2 ^ 64),
    .reassemblyTimeout (2 ^ 32) 0 0,
    .reassemblyTimeout 0 (2 ^ 16) 0,
    .sessionPendingTimeout (2 ^ 32),
    .fileIdleTimeout 0 (2 ^ 32),
    .policyTakeEffect (2 ^ 16),
    .portRetrain 4 true,
    .arpRequest 4 [],
    .neighborSolicitation 4 [],
    .mkaFrame 4 0 0 none,
    .mkaFrame 0 256 0 none,
    .mkaFrame 0 0 (2 ^ 64) none,
    .mkaFrame 0 0 0 (some default),
    .relayFrame 6 default,
    .relayFrame 0 { (default : RelayFrame) with entryPort := 4 },
    .relayReply { (default : RelayFrame) with mac := 2 ^ 48 },
    .intakeFrame 4 [],
    .flowIdleExpiry (2 ^ 32),
    .fenceDrainDone 32,
    .lockupTake 2048 0 0,
    .tokenTake 0 32 0,
    .tokenTake 0 0 4,
    .tileSwitch 2048,
    .tokenEject 0 (2 ^ 64),
    .fire 2048 0 [],
    .fire 0 0 [.caseRow 32 0 (List.replicate 64 0)],
    .fire 0 0 [.accSet 2],
    .add 0 32,
    .creditReturn 0 64,
    .bankGrant 0 17 [],
    .bankGrant 0 0 [default],
    .fillStart 64 0 0 [],
    .fillStart 0 0 4096 [],
    .fillStart 0 0 0 [(0, 256)],
    .slotRelease 0 0 64,
    .slipIn 0 4096 [],
    .passBegin 32 0,
    .passBegin 0 (2 ^ 64),
    .walkComplete (2 ^ 32),
    .compositorRow 4,
    .granuleRead true 1 none [],
    .granuleRead true (1152 * 2 ^ 30) none [],
    .granuleRead false (1024 * 2 ^ 32) none [],
    .granuleRead true 0 (some 32) [],
    .granuleRead true 0 none [{ (default : GranuleOutcome) with errs := [(128, 1)] }],
    .granuleWrite true 0 0 [] (List.replicate 64 true) false [],
    .granuleWrite true 0 0 (List.replicate 64 0) [] false [],
    .retrainDone true 512 true,
    .retrainDone false 16 true,
    .granuleJoin 0 true 1152,
    .granuleJoin 0 false 1024,
    .moveComplete 32 0,
    .windowFill 0 (2 ^ 64) 0,
    .faultDetect ⟨2 ^ 16, 0, 0⟩,
    .faultDetect ⟨0, 2 ^ 16, 0⟩,
    .faultDetect ⟨0, 0, 2048⟩,
    .captureDone (2 ^ 16),
    .commandWd 3 0,
    .packageReset (2 ^ 16) 0,
    .wearSample 4096 0,
    .phaseRetire 12 0 0 true,
    .phaseRetire 0 256 0 true,
    .scrubDone 32 [],
    .discoveryMsg 6 okMsg,
    .discoveryMsg 0 { okMsg with x := 64 },
    .discoveryMsg 0 { okMsg with z := 32 },
    .discoveryMsg 0 { okMsg with port := 8 },
    .discoveryMsg 0 { okMsg with nonce := zeros 31 },
    .linkFrame 6 none [],
    .linkFrame 0 none (List.replicate 17 (false, false)),
    .frameNak 0 (2 ^ 32),
    .laneSpareRetrain 0 10 true,
    .linkRekey 6,
    .rekeyMsg 6 (zeros 32) (zeros 97) (zeros 96),
    .rekeyMsg 0 (zeros 31) (zeros 97) (zeros 96),
    .torusPortTrained 0 [10],
    .syncMsg 0 0 128 0 0 0,
    .joinMsg 6 default,
    .joinTimeout (2 ^ 64),
    .fenceMsg 0 0 (2 ^ 64) 0 0,
    .rejoinMsg 0 0 0 256,
    .rejoinAck 0 0 0 (2 ^ 16),
    .thermTripRelease 256,
    .refclkLoss 6,
    .tempSample [],
    .tempSample (List.replicate 72 256),
    .curBinUpdate [2048, 0, 0, 0],
    .railsSettled [],
    .limiter ⟨2 ^ 16, List.replicate 12 0, 0, 0⟩,
    .holdEnd (2 ^ 16),
    .senseCheck 6 0 0,
    .laneShort 4 0 0,
    .aonCheck 256,
    .bootConfig default,
    .fwChunk (2 ^ 32) [],
    .bringUpDone { (default : BringUpResult) with failCode := 256 },
    .claimWindow (2 ^ 16),
    .getCertificate 16 0 0,
    .getCertificate 0 (2 ^ 16) 0,
    .challenge 0 [],
    .getMeasurements 256 (List.replicate 32 0),
    .unsupportedRequest 256,
    .inputOorChange (2 ^ 16),
    .jtagInstruction 256] : List Instr), x.widthsOk = false := by decide +kernel

/-! ### States that meet the hypotheses of the statements about the machine as a whole -/

theorem witness_StepRunsFrontCommand : { up with pending := [.epoN, .resetN] }.pending = .epoN :: [.resetN] := rfl

theorem witness_EmptyQueueTicks : up.pending = [] := rfl

theorem witness_StepKeeps : State.reset.memOk ∧ step State.reset = .next (tick State.reset) :=
  ⟨⟨by decide, by decide⟩, rfl⟩

/-- The state with a descriptor of the command `op` in doorbell queue 0. -/
def queued (s : State) (op : Nat) : State := { s with doorbells := [[⟨7, op, 1, 0, default, none, 0, 0, []⟩], [], [], [], [], []] }

def liveAs (op : Nat) : LiveCmd := ⟨7, 1, op, 0, 255, false, none, 0⟩

/-- Each way in which the common checks of GateAnswers turn a PING, or another command, away. -/
theorem witness_GateAnswers :
    takeDesc { queued up 3 with doorPtr := 0 } hdr 4 = some (queued up 3) ∧
    takeDesc { queued up 4 with doorbells := [[⟨7, 3, 1, 0, default, none, 0, 0, []⟩, ⟨7, 4, 1, 0, default, none, 0, 0, []⟩], [], [], [], [], []] } hdr 4 = none ∧
    (takeDesc (queued up 4) hdr 4).isSome = true ∧ kget up.sessions 7 = none ∧
    (kget (on up (sess .own 255)).sessions 7 = some (sess .own 255) ∧
      liveOf { on up (sess .own 255) with live := [liveAs 4] } 7 1 = some (liveAs 4) ∧ isChunked 4 = false) ∧
    liveOf { on up (sess .own 255) with live := [liveAs 3] } 7 1 = some (liveAs 3) ∧
    (liveOf { up with finals := [⟨0, mkReply 0 7 4 1 0 0 [], []⟩] } 7 1 = none ∧
      keptFinal { up with finals := [⟨0, mkReply 0 7 4 1 0 0 [], []⟩], now := 1000000000 } 7 4 1 =
        some ⟨0, mkReply 0 7 4 1 0 0 [], []⟩) ∧
    keptFinal { up with finals := [⟨0, mkReply 0 7 4 1 0 0 [], []⟩], now := 1000000001 } 7 4 1 = none ∧
    entitled ten ⟨0x0010, [.own], false, 0⟩ = false ∧
    (entitled ten ⟨0x0032, [.ten], false, 0⟩ = true ∧
      fenceAnswers (withChase { claimed with state := .releasing }) ten 0x0032 = true) ∧
    ((1024 : Nat) ≤ (List.replicate 1024 (liveAs 0x0044)).countP fun l => l.session == 7 && !l.isRequest) := by
  decide +kernel

theorem witness_ViolationHasNoEffect :
    gatedBy (.claim hdr [] []) = some (hdr, ⟨0x0010, [.own], false, 0⟩) ∧
    takeDesc (on up ten) hdr 0x0010 = some (on up ten) ∧ kget (on up ten).sessions 7 = some ten ∧
    liveOf (on up ten) 7 1 = none ∧ keptFinal (on up ten) 7 0x0010 1 = none ∧
    entitled ten ⟨0x0010, [.own], false, 0⟩ = false := by decide +kernel

theorem witness_DoorbellsRoundRobin :
    (∃ q ∈ (queued up 4).doorbells, ∃ d ∈ q, d.isOf hdr 4 = true) ∧ ((up.doorbells.getD 5 []).length < 1024) :=
  ⟨⟨_, List.mem_cons_self, _, List.mem_cons_self, rfl⟩, by decide⟩

/-- The window's ends: the highest accepted number, the lowest within 1,024 below it, and the one under that. -/
theorem witness_ReplayWindow :
    let se : Session := { (default : Session) with
      rxHigh := 2000
      rxSeen := [2000, 1000] }
    se.rxHigh < 2001 ∧ (se.rxHigh < 977 + 1024 ∧ 977 ∉ se.rxSeen) ∧ 976 + 1024 ≤ se.rxHigh ∧ seqOk se 1000 = false := by decide

theorem witness_FlowKeyHasNoDirection :
    let f : IntakeFrame := { (default : IntakeFrame) with
      srcAddr := 1
      srcPort := 2
      dstAddr := 3
      dstPort := 4 }
    let g : IntakeFrame := { f with
      srcAddr := 3
      srcPort := 4
      dstAddr := 1
      dstPort := 2 }
    g.srcAddr = f.dstAddr ∧ g.srcPort = f.dstPort ∧ g.dstAddr = f.srcAddr ∧ g.dstPort = f.srcPort ∧ g.vlan = f.vlan ∧
      g.vni = f.vni ∧ g.v6 = f.v6 ∧ g.proto = f.proto := by decide

theorem witness_TokenHeader :
    let k : Token := ⟨15, 65535, 15, true, true, true, 255, 2047, 63, 15, 0⟩
    (k.kind < 16 ∧ k.tag < 65536 ∧ k.imp < 16 ∧ k.route < 256 ∧ k.tile < 2048 ∧ k.port < 64 ∧ k.fmt < 16) ∧
      headerOk (tokenHeader k) = true := by decide +kernel

theorem witness_Integers : intRange F.int32 = some (-(2 ^ 31), 2 ^ 31 - 1) ∧ decodeInt F.int32 0x80000000 = -(2 ^ 31) ∧
    decodeInt F.int32 0 = 0 ∧ intRange F.fp32 = none ∧ decode F.fp32 0x7FC00000 = .nan := by decide +kernel

theorem witness_TorusCoordinates :
    let p : Placement := { (default : Placement) with
      nx := 1
      ny := 2
      nz := 2
      y := 1 }
    axisDim p 0 = 1 ∧ axisDim p 2 = 2 ∧ axisDim p 5 = 2 ∧ p.x < p.nx ∧ p.y < p.ny ∧ p.z < p.nz := by decide

def stopped : State := { up with boot := { up.boot with state := 7 } }

theorem witness_ResetLeavesStopped :
    stopped.boot.underVolt = false ∧ stopped.boot.state = 7 ∧ stopped.pins.epoN = true ∧ stopped.pins.thermTripN = true ∧
    { stopped with pins := { stopped.pins with epoN := false } }.pins.epoN = false ∧
    { stopped with pins := { stopped.pins with thermTripN := false } }.pins.thermTripN = false ∧ up.boot.state ≠ 7 := by decide

/-- K at its ends: full acceptance below and at K_MAX, partial and no acceptance, and plain passes about PROBE_GAP. -/
theorem witness_DraftLength :
    let r : Req := { (default : Req) with
      gen := some { (default : GenParams) with spec := 1 }
      draftPosn := some 0
      k := 4
      accepted := 4
      plain := 6
      entry := { (default : ServeFields) with
        kMax := 4
        probeGap := 8 } }
    r.drafting = true ∧ (r.accepted = r.k) ∧ { r with accepted := 3 }.accepted < r.k ∧ r.k ≠ 0 ∧
      r.plain + 1 < r.entry.probeGap ∧ r.entry.probeGap ≤ { r with plain := 7 }.plain + 1 := by decide +kernel

theorem witness_GranuleReadsBack :
    Memory.wf State.reset.memH.bytes = true ∧ (List.replicate 64 (1 : Byte)).length = 64 ∧ 64 % 64 = 0 ∧
      isLost State.reset.memH true 64 = false := by decide +kernel

/-! ### Operation slots and tile pairs -/

def anyTok (kind : Nat) : QTok := ⟨⟨kind, 0, 0, true, false, false, 0, 0, 0, 0, 0⟩, none, true, none, 0, none⟩

/-- A galley of tile 0: inbound 1 or outbound 2, two slots of one granule, moving the tensor `gtid` at a port. -/
def galleyDesc (kind gtid tid gport : Nat) : TensorCfg := { (default : TensorCfg) with
  tid := tid
  offset := 2 ^ 19 + 2 * 2 ^ 33
  objId := 16 * 2 ^ 12 + gport * 2 ^ 44 + gtid * 2 ^ 50 + kind * 2 ^ 62 }

/-- A forme of chase 1 on page 0, with a queue of depth 2 at each of ports 0 to 3 of tile 0 and galleys for the input and
the output, in service. -/
def forme : FormeBody := { (default : FormeBody) with
  formeId := 9
  maxInput := 1024
  tensors := [galleyDesc 1 0xFFF 5 2, galleyDesc 2 0xFFF 6 3]
  pageMap := 1
  guardLimit := 256
  routes := [2 ^ 31, 2 ^ 31 + 2 ^ 25]
  queues := (List.range 4).map fun p => ⟨false, 1, 4096 * p, false, 2, 0, p⟩ }

def image : Image := ⟨9, .inService, forme, [], false⟩

def chase1 : Chase := { claimed with
  cfg := { (default : ChaseFields) with
    chase := 1
    pageMap := 1
    reqLimit := 1 }
  images := [image] }

/-- Tile 0 of chase 1: unit 0 of function `func` with inputs at ports 0 to 3, one slot of opcode `opc`, and what else
`f` gives the unit. -/
def unitState (func opc : Nat) (f : FuState → FuState) : State := { withChase chase1 with
  tiles := [(0, { Tile.fresh with
    active := some { (default : TileCfg) with
      slots := [(0, BitVec.ofNat 64 (opc * 2 ^ 56))]
      units := [(0, { (default : UnitCfg) with
        en := true
        func := func
        nin := 1
        ins := [0, 1, 2, 3]
        slotCount := 1 })] }
    fus := [(0, f FuState.idle)] })] }

/-- A firing that matched scalar tokens, at its first slot. -/
def firing (kind : Nat) (live : Bool) : Firing := { (default : Firing) with
  live := live
  ins := [some (anyTok kind), some (anyTok kind), none, none]
  emits := true
  held := some 0 }

def slotState (opc kind : Nat) (live : Bool) : State := unitState 0 opc fun f => { f with firing := some (firing kind live) }

/-- Every opcode of R119 stands at a slot of a live firing whose operands are scalar tokens. -/
theorem witness_Slots : ∀ x ∈ slotOps, ∃ k, AtSlot (slotState x.2 1 true) 0 0 x.2 k ∧ k.scalarIn.kind = 1 := by
  have h : ∀ n ∈ slotOps.map Prod.snd,
      ((slotAt (slotState n 1 true) 0 0 n).any fun k => k.f.live && k.scalarIn.kind == 1) = true := by decide +kernel
  intro x hx
  have h := h x.2 (List.mem_map_of_mem hx)
  obtain ⟨k, hk, h⟩ := (Option.any_eq_true _ _).mp h
  simp only [Bool.and_eq_true, beq_iff_eq] at h
  exact ⟨k, ⟨hk, h.1⟩, h.2⟩

/-- So does every opcode in a void firing, and BCS, INS and GADD with an operand that is no scalar. -/
theorem witness_VoidSlots :
    (∀ n ∈ slotOps.map Prod.snd, ((slotAt (slotState n 1 false) 0 0 n).any fun k => !k.f.live) = true) ∧
    ∀ n ∈ [0x08, 0x0A, 0x4B], ((slotAt (slotState n 0 true) 0 0 n).any fun k => k.f.live && k.scalarIn.kind != 1) = true := by
  decide +kernel

theorem witness_AddressFault : AccFx.ok.outside = false ∧ AccFx.ok.fault = false := ⟨rfl, rfl⟩

theorem witness_CompareRule : decode F.fp32 0x7FC00000 = .nan ∧
    (decode F.fp32 0x3F800000).compare (decode F.fp32 0x40000000) = some .lt ∧ (decode F.fp32 0x80000000).isZero = true ∧
    (decode F.fp32 0).isZero = true := by decide +kernel

/-- The last granule of the memory, its last byte, and the first write strobe. -/
theorem witness_BankWriteLands :
    let s := slotState 1 1 true
    let r : BankReq := ⟨0, .unit 0, true, 511, List.replicate 64 1, true :: List.replicate 63 false, false, 0, false, zeros 64⟩
    chaseOfTile s 0 = some 1 ∧ (chase s 1).fenced = false ∧ 524287 < 524288 ∧ r.row = 524287 / 1024 ∧ r.write = true ∧ r.user ≠ .config ∧
      Memory.wf (tile s 0).mt = true ∧ r.strobe.getD 0 false = true ∧ r.strobe.getD 63 false = false := by decide +kernel

/-! ### Host commands -/

/-- The public key of RFC 6979, A.2.6, whose private half signed the texts below. -/
def ecPub : Bytes := [0x04] ++
  be 48 0xec3a4e415b4e19a4568618029f427fa5da9a8bc4ae92e02e06aae5286b300c64def8f0ea9055866064a254515480bc13 ++
  be 48 0x8015d9b72d7d57244ea8ef9ac0c621896708a59367f9dfb9f54ca84b3f1c9db1288b231c3ae0d4fe7344fd2533264720

/-- The first half of every signature by that key here. -/
def sigR : Bytes :=
  be 48 0xe86b995e350e4d312a95a6b7d5d8cdcdb4682f588800a1cd6c972e1dcb2a5ac38d90046951b03ccb3b179a89fda88b1b

/-- Its signature over the prefix of R366 and an empty transcript. -/
def proveSig : Bytes := sigR ++
  be 48 0xa3993961f199c2f2f266dfe16d1da3f578e9f22bf78cfe0ebac9c4da0133286ad75409d1048a58a5f4ae6a92aae5b53e

theorem witness_proveSig : ecdsaOk ecPub (sha384 (ascii "Z9 askest prove")) proveSig = true := by decide +kernel

theorem witness_keptSig (r : Role) (c : Nat) : keptSigOk (prov r c (some proveSig)) ecPub = true := witness_proveSig

theorem witness_SessionCommands :
    (takeDesc up hdr 0x0001 = some up ∧ up.boot.state = 4 ∧ hdr.form = .ok ∧ Role.ofCode 1 = some Role.own ∧
      p384Valid ecPub = true ∧ (up.sessions.countP fun e => e.2.isOpen) < 4096 ∧
      (up.sessions.countP fun e => !e.2.isOpen) < 256) ∧
    (let se : Session := { prov .own 255 none with isOpen := false }
     Taken (on up se) hdr 0x0002 allRoles true (on up se) se ∧ roleAdmitted (on up se) se.role se.credId = true ∧ se.credId = 0) ∧
    (let se : Session := { sess .obs 255 with isOpen := false }
     let s := { up with
       creds := [⟨.obs, 255, 1, ecPub⟩]
       fuses := { up.fuses with lifecycle := 2 } }
     Taken (on s se) hdr 0x0002 allRoles true (on s se) se ∧ roleAdmitted (on s se) se.role se.credId = true ∧
      credKey (on s se) se.role se.chase se.credId = some ecPub ∧ se.th = []) ∧
    (∀ op ∈ [0x0003, 0x0004, 0x0005], Taken (on up (sess .own 255)) hdr op allRoles true (on up (sess .own 255)) (sess .own 255) ∧
      (List.replicate 64 (0 : Byte)).length ≤ 64) := by
  refine ⟨by decide +kernel, taken_and (by decide +kernel), taken_and (by decide +kernel), ?_⟩
  intro op h
  fin_cases h <;> exact taken_and (by decide +kernel)

def owner : Session := sess .own 255

/-- An unowned device with its claim window open, its boot configuration naming no expected owner. -/
def claimable : State := { up with
  boot := { up.boot with claimEnd := some 5 }
  thermal := { up.thermal with vin := 3200 } }

/-- A device OUT_OF_SERVICE. -/
def outOfService : State := { up with boot := { up.boot with state := 5 } }

/-- A device of a torus of 2 x 1 x 1. -/
def place : Placement := { (default : Placement) with
  nx := 2
  ny := 1
  nz := 1 }

def placed : State := { up with boot := { up.boot with cfg := some { (default : BootConfig) with placement := place } } }

theorem witness_OwnerCommands :
    (let se := prov .own 255 (some proveSig)
     Taken (on claimable se) hdr 0x0010 [.own] false (on claimable se) se ∧ se.provisional = true ∧
      claimCheck (on claimable se) se ecPub = none) ∧
    (Taken (on up owner) hdr 0x0011 [.own] false (on up owner) owner ∧
      ∀ e ∈ [(0x0101, 1), (0x0101, 65535), (0x0303, 8)], policyOk e.1 e.2 = true) ∧
    (Taken (on up owner) hdr 0x0012 [.own] true (on up owner) owner ∧ ∀ id ∈ [0x0101, 0x0305], (policyDefault id).isSome = true) ∧
    (Taken (on outOfService owner) hdr 0x0014 [.own] true (on outOfService owner) owner ∧ outOfService.boot.state = 5) ∧
    (Taken (on up owner) hdr 0x0015 [.own] false (on up owner) owner ∧ True) ∧
    (let e : RelayEntry := ⟨1, 0, 0, 1, 0⟩
     Taken (on placed owner) hdr 0x0016 [.own] false (on placed owner) owner ∧ (List.replicate 512 e).length ≤ 512 ∧
      e.x < place.nx ∧ e.y < place.ny ∧ e.z < place.nz ∧ ¬(e.x = place.x ∧ e.y = place.y ∧ e.z = place.z)) :=
  ⟨taken_and (by decide +kernel), taken_and (by decide +kernel), taken_and (by decide +kernel), taken_and (by decide +kernel),
    taken_and (by decide +kernel), taken_and (by decide +kernel)⟩

theorem witness_CredentialCommands :
    (let s : State := { up with creds := [⟨.obs, 255, 1, []⟩] }
     Taken (on s owner) hdr 0x0013 [.own, .ten] false (on s owner) owner ∧ (owner.role = .own ∧
      (s.creds.any fun e => e.role == .obs && e.chase == 255 && e.credId == 1) = true) ∧
      (s.creds.any fun e => e.role == .obs && e.chase == 255 && e.credId == 2) = false ∧
      (s.creds.countP fun e => e.role == .obs && e.chase == 255) < 64) ∧
    (Taken (on up ten) hdr 0x0013 [.own, .ten] false (on up ten) ten ∧ ten.role = .ten ∧ (1 : Nat) = ten.chase) ∧
    (let s := withChase { (default : Chase) with state := .unclaimed }
     let se := prov .ten 1 (some proveSig)
     Taken (on s se) hdr 0x0024 [.ten] false (on s se) se ∧ se.provisional = true ∧ (chase (on s se) 1).state = .unclaimed ∧
      keptSigOk se ecPub = true) ∧
    (let s := withChase { claimed with signKeys := [(5, [1])] }
     Taken (on s ten) hdr 0x0039 [.ten] false (on s ten) ten ∧ (kget (chase (on s ten) 1).signKeys 5).isSome = true ∧
      (kget (chase (on s ten) 1).signKeys 6).isSome = false ∧ (chase (on s ten) 1).signKeys.length < 16) ∧
    (Taken (on (withChase claimed) ten) hdr 0x003A [.ten] false (on (withChase claimed) ten) ten ∧ True) :=
  ⟨taken_and (by decide +kernel), taken_and (by decide +kernel), taken_and (by decide +kernel), taken_and (by decide +kernel),
    taken_and (by decide +kernel)⟩

/-- The smallest share: one page and one request, no memory. -/
def share : ChaseFields := { okChase with
  chase := 2
  compMap := 1
  pageMap := 2 }

theorem witness_ChaseCommands :
    (Taken (on up owner) hdr 0x0020 [.own] false (on up owner) owner ∧ fieldsOk (on up owner) share = true ∧
      (chase (on up owner) 2).held = false ∧ shareRefusal (on up owner) 2 (chase (on up owner) 2) share = none ∧
      granNew (on up owner) (chase (on up owner) 2) share = some []) ∧
    (let s : State := { up with chases := [(2, { claimed with cfg := share })] }
     ∀ f ∈ [{ share with reqLimit := 65535 }, { share with pageMap := 6 }],
      Taken (on s owner) hdr 0x0021 [.own] false (on s owner) owner ∧ fieldsOk (on s owner) f = true ∧
      (chase (on s owner) f.chase).state = .claimed ∧ shareRefusal (on s owner) f.chase (chase (on s owner) f.chase) f = none ∧
      granNew (on s owner) (chase (on s owner) f.chase) f = some [] ∧
      (altersLayout (chase (on s owner) f.chase).cfg f = decide (f.pageMap = 6)) ∧
      imposing (chase (on s owner) f.chase) = false) ∧
    (let s : State := { up with chases := [(31, claimed)] }
     Taken (on s owner) hdr 0x0022 [.own] false (on s owner) owner ∧ 31 ≤ 31 ∧ (chase (on s owner) 31).state = .claimed) ∧
    (Taken (on (withChase claimed) ten) hdr 0x0023 [.own, .ten] false (on (withChase claimed) ten) ten ∧
      (chase (on (withChase claimed) ten) 1).state ≠ .free) := by
  refine ⟨taken_and (by decide +kernel), ?_, taken_and (by decide +kernel), taken_and (by decide +kernel)⟩
  intro s f h
  fin_cases h <;> exact taken_and (by decide +kernel)

def other : Image := ⟨8, .resident, { forme with formeId := 8 }, [], false⟩

def entry9 : ServeFields := { (default : ServeFields) with
  formeId := 9
  passLimit := 1 }

/-- Chase 1 with forme 9 in service and forme 8 resident, and a serving entry for forme 9. -/
def serving : Chase := { chase1 with
  images := [image, other]
  serving := [entry9] }

/-- A scan record of tile pair 0 and the pull record that seals it under the key [1] (R225, R427). -/
def scanBody : Bytes := le 4 0x5A395343 ++ le 2 1 ++ zeros 10 ++ le 2 0 ++ zeros 251886

def pullHead : Bytes := le 4 0x5A39504C ++ le 2 1 ++ zeros 34 ++ le 8 251904

def pullRecord : Bytes := pullHead ++ gcmSeal [1] (zeros 12) pullHead scanBody

theorem slice_append (a b : Bytes) (i n : Nat) (h : i + n ≤ a.length) : slice (a ++ b) i n = slice a i n := by
  refine List.map_congr_left fun k hk => ?_
  rw [List.getD_append _ _ _ _ (by have := List.mem_range.mp hk; omega)]

theorem field_append (a b : Bytes) (i n : Nat) (h : i + n ≤ a.length) : field (a ++ b) i n = field a i n := by
  rw [field, field, List.drop_append_of_le_length (by omega), List.take_append_of_le_length (by simp; omega)]

theorem pullHead_length : pullHead.length = 48 := by decide

/-- A chase with that key opens the record, whose fields SCAN_IN accepts (R225, R227). -/
theorem witness_ScanIn (ch : Chase) (h : ch.pullKey = some [1]) : openPull ch pullRecord = some scanBody ∧
    field pullRecord 0 4 = 0x5A39504C ∧ field pullRecord 4 2 = 1 ∧ field pullRecord 40 8 = scanBody.length ∧
    field scanBody 0 4 = 0x5A395343 ∧ field scanBody 4 2 = 1 ∧ 251904 ≤ scanBody.length ∧ field scanBody 16 2 = 0 := by
  have l : scanBody.length = 251904 := by simp only [scanBody, List.length_append, Laws.le_length, Laws.zeros_length]
  have p := pullHead_length
  refine ⟨?_, ?_, ?_, ?_, ?_, ?_, l.ge, ?_⟩
  · simp only [openPull, h, pullRecord]
    rw [slice_append _ _ _ _ (by omega), List.take_left' p, List.drop_left' p,
      show slice pullHead 24 12 = zeros 12 by decide, Laws.gcmOpen_gcmSeal]
  · rw [pullRecord, field_append _ _ _ _ (by omega)]
    decide
  · rw [pullRecord, field_append _ _ _ _ (by omega)]
    decide
  · rw [pullRecord, field_append _ _ _ _ (by omega), l]
    decide
  all_goals
    rw [scanBody, field_append _ _ _ _ (by simp [Laws.le_length, Laws.zeros_length])]
    decide

def openObj : Obj := { (default : Obj) with
  chase := 1
  objId := 3
  tier := 1
  size := 4096
  state := .isOpen
  blocks := [0] }

def withObj (o : Obj) : State := { withChase serving with objs := [o] }

theorem witness_FormeCommands :
    (let s := withChase { claimed with cfg := { (default : ChaseFields) with store := [64, 64, 64, 64] } }
     Taken (on s ten) hdr 0x0030 [.ten] false (on s ten) ten ∧
      ((on s ten).stages.find? fun x => x.isOf 7 1) = none ∧ ([0] : Bytes) ≠ [] ∧ 0 + ([0] : Bytes).length ≤ 144 ∧
      storeUseAll (on s ten) 1 + storeReserved (on s ten) 1 + 144 ≤ storeGrant (chase (on s ten) 1).cfg) ∧
    (let s := withObj { openObj with state := .sealed }
     Taken (on s ten) hdr 0x0031 [.ten] false (on s ten) ten ∧ findObj (on s ten) 1 3 = some { openObj with state := .sealed } ∧
      intakeHolds (on s ten) 1 3 = false) ∧
    (let s := on (withChase serving) ten
     Taken s hdr 0x0032 [.ten] false s ten ∧ imageOf (chase s 1) 8 = some other ∧ freeRefused (chase s 1) other = false) ∧
    (let s := on (withChase { serving with images := [{ image with state := .resident }, other] }) ten
     Taken s hdr 0x0033 [.ten] false s ten ∧ [8].map (imageOf (chase s 1)) = [other].map some ∧ disjointMaps [1] = true ∧
      imposing (chase s 1) = false ∧ formeAllowed s other.body = true ∧ s.faults.oos.contains (4 * 4096 + 1) = false) ∧
    (let s := on (withChase serving) ten
     Taken s hdr 0x0034 [.ten] false s ten ∧ imageOf (chase s 1) 9 = some image ∧ imageOf (chase s 1) 8 = some other ∧
      imposing (chase s 1) = false ∧ image.state = .inService ∧ other.state = .resident ∧
      changeAllowed image.body other.body = true) ∧
    (let s := on (withChase serving) ten
     Taken s hdr 0x0035 [.ten] false s ten ∧ serveRefusal s 1 { entry9 with passLimit := 1024 } = none ∧
      fieldWidths { entry9 with passLimit := 1024 } = true ∧
      ((chase s 1).serving.any fun x => x.formeId == 9) = true) ∧
    (let s := on (withChase serving) ten
     Taken s hdr 0x0036 [.ten] false s ten ∧ chaseOfTile s 63 = some 1) ∧
    (let s := on (withChase serving) ten
     Taken s hdr 0x0037 [.ten] false s ten ∧ chaseOfTile s (0 % 2048) = some 1) ∧
    (let s := on (withChase serving) ten
     Taken s hdr 0x0038 [.ten] false s ten ∧ True) :=
  ⟨taken_and (by decide +kernel), taken_and (by decide +kernel), taken_and (by decide +kernel), taken_and (by decide +kernel),
    taken_and (by decide +kernel), taken_and (by decide +kernel), taken_and (by decide +kernel), taken_and (by decide +kernel),
    taken_and (by decide +kernel)⟩

theorem witness_ObjectCommands :
    (let s := on (withChase { serving with granH := [0] }) ten
     Taken s hdr 0x0040 [.ten] false s ten ∧ findObj s 1 5 = none ∧ (s.objs.countP fun o => o.chase == 1) < 65536 ∧
      pickBlocks s 1 true 0 (ceilDiv 4096 blockBytes) = some [0] ∧ (fitMeta s 1 1 (metaDie 1 0 [0])).isSome = true) ∧
    (∀ op ∈ [0x0041, 0x0042, 0x0043], Taken (on (withObj openObj) ten) hdr op [.ten] false (on (withObj openObj) ten) ten ∧
      findObj (on (withObj openObj) ten) 1 3 = some openObj ∧ openObj.state = .isOpen ∧
      intakeHolds (on (withObj openObj) ten) 1 3 = false ∧ 4095 + 1 ≤ openObj.size) ∧
    (let o := { openObj with state := .idle, isMutable := true }
     ∀ op ∈ [0x0044, 0x0045, 0x0046, 0x0047], Taken (on (withObj o) ten) hdr op [.ten] false (on (withObj o) ten) ten ∧
      findObj (on (withObj o) ten) 1 3 = some o ∧ o.readers = [] ∧ objServes (on (withObj o) ten) 1 3 = false ∧
      windowFilling (on (withObj o) ten) o = false ∧ intakeHolds (on (withObj o) ten) 1 3 = false ∧
      (2 : Nat) ^ 21 % blockBytes = 0) ∧
    (let s := withObj { openObj with tier := 2 }
     let w : ObjWait := ⟨(1, 3), hdr, 0x43, 0, 4096, []⟩
     waitStall s w = none ∧
      (waitStall { s with memB := { s.memB with retraining := [0, 1] } } w).isSome = true) := by
  refine ⟨taken_and (by decide +kernel), ?_, ?_, by decide +kernel⟩
  · intro op h
    fin_cases h <;> exact taken_and (by decide +kernel)
  · intro o op h
    fin_cases h <;> exact taken_and (by decide +kernel)

/-- A forme of class 1 in service, for GENERATE. -/
def genForme : Image := ⟨10, .inService, { (default : FormeBody) with
  formeId := 10
  cls := 1
  maxOutput := 4 }, [], false⟩

def genEntry : ServeFields := { (default : ServeFields) with
  formeId := 10
  passLimit := 1
  vocab := 16
  prefillTokens := 16
  contextMax := 64
  compSharers := 1
  folioBytes := 4096
  poolObj := 3
  eos := [7, 7, 7, 7] }

def genParams : GenParams := { (default : GenParams) with
  formeId := 10
  lp := 1
  maxTokens := 1
  topP := 0x3F800000
  repPenalty := 0x3F800000
  tokenBatch := 64
  tokens := [3] }

def wide : Chase := { serving with
  cfg := { chase1.cfg with
    reqLimit := 4
    compMap := 1 }
  images := [image, other, genForme]
  serving := [entry9, genEntry] }

/-- A live request of chase 1 as number 5, a SCORE on forme 9 with its pass ready. -/
def score5 : Req := { (default : Req) with
  session := 7
  reqId := 2
  opcode := 0x0050
  chase := 1
  forme := 9
  kind := .score
  state := .running
  entry := entry9
  total := 16
  input := [(0, List.replicate 16 1)]
  pass := some ⟨.score, 9, 1, 0, 0, false⟩ }

def withReq (r : Req) : State := { withChase wide with reqs := [(5, r)] }

def admits (s : State) (r : Req) : Bool := match imprimatur s r with | .admitted _ _ => true | .refused _ _ _ => false

/-- A file of total bytes whose first byte came is admitted, and its request can be found. -/
def admitsFile (s : State) (total : Nat) : Bool :=
  match imprimatur s { newReq hdr 0x0052 1 (priority s 1 hdr) .file 9 0 [] with total := total, ahead := total - 1 } with
  | .admitted t n => (req (takeHeld (putChunk (enlist t hdr 0x0052 1 true) n 0 [0]) ten hdr n []) n).isSome
  | .refused _ _ _ => false

theorem admitted_of {s : State} {r : Req} (h : admits s r = true) : ∃ t n, imprimatur s r = .admitted t n := by
  unfold admits at h
  split at h
  · exact ⟨_, _, ‹_›⟩
  · cases h

theorem witness_RequestCommands :
    (let s := on (withChase wide) ten
     (Taken s hdr 0x0050 [.ten] false s ten ∧ s.power.hold = false) ∧
      ∃ t n, imprimatur s { newReq hdr 0x0050 1 (priority s 1 hdr) .score 9 0 [] with
        total := 1024, input := [(0, List.replicate 1024 0)] } = .admitted t n) ∧
    (let s := on { withChase wide with objs := [{ openObj with isMutable := true }] } ten
     (Taken s hdr 0x0051 [.ten] false s ten ∧ s.power.hold = false ∧ genParams.tokens.length = genParams.lp) ∧
      ∃ t n, imprimatur s { newReq hdr 0x0051 1 (priority s 1 hdr) .generate 10 0 [] with gen := some genParams } = .admitted t n) ∧
    (let s := on (withChase wide) ten
     Taken s hdr 0x0052 [.ten] false s ten ∧ liveReq s 7 1 = none ∧ s.heldChunks = [] ∧ s.power.hold = false ∧
      4194303 + ([0] : Bytes).length ≤ 4194304 ∧ admitsFile s 1024 = true) ∧
    (let r : Req := { score5 with
       reqId := 1
       opcode := 0x0052
       kind := .file
       state := .receiving
       total := 1024
       windowEnd := 1024 }
     let s := { on (withReq r) ten with live := [⟨7, 1, 0x0052, 0, 1, true, none, 0⟩] }
     takeDesc s hdr 0x0052 = some s ∧ liveOf s 7 1 = some ⟨7, 1, 0x0052, 0, 1, true, none, 0⟩ ∧ liveReq s 7 1 = some (5, r) ∧
      entitled ten ⟨0x0052, [.ten], false, 0⟩ = true ∧ fenceAnswers s ten 0x0052 = false ∧
      (req (putChunk s 5 16 (zeros 1008)) 5).isSome = true ∧ kget r.input 16 = none ∧ (∀ e ∈ r.input, overlap 16 1008 e.1 e.2.length = false)) ∧
    (let s := on (withReq score5) ten
     Taken s hdr 0x0053 [.ten] false s ten ∧ liveReq s 7 2 = some (5, score5)) ∧
    (let r := { score5 with kind := .generate }
     let s := on (withReq r) ten
     Taken s hdr 0x0054 [.ten] false s ten ∧ liveReq s 7 2 = some (5, r) ∧ liveReq s 7 3 = none) ∧
    (let l : TokenLog := ⟨7, 3, 0, [1], false⟩
     let s : State := { withChase wide with
       logs := [l]
       now := 1000000000 }
     Taken (on s ten) hdr 0x0054 [.ten] false (on s ten) ten ∧ ((on s ten).logs.find? fun l => l.session == 7 && l.reqId == 3 &&
      decide ((on s ten).now ≤ l.endNs + 1000000000)) = some l) ∧
    (let j : Job := { (default : Job) with
       fields := { (default : JobFields) with
         jobId := 4
         chase := 1 }
       state := .ready }
     let s := on { withChase wide with jobs := [j] } ten
     (Taken s hdr 0x0061 [.ten] false s ten ∧ findJob s 4 = some j) ∧
      ∃ t n, imprimatur s { newReq hdr 0x0061 1 (priority s 1 hdr) .score 9 0 [] with
        total := 16, input := [(0, List.replicate 16 0)], job := some (4, j.next) } = .admitted t n) :=
  ⟨⟨taken_and (by decide +kernel), admitted_of (by decide +kernel)⟩, ⟨taken_and (by decide +kernel), admitted_of (by decide +kernel)⟩,
    taken_and (by decide +kernel), by decide +kernel, taken_and (by decide +kernel),
    taken_and (by decide +kernel), taken_and (by decide +kernel), ⟨taken_and (by decide +kernel), admitted_of (by decide +kernel)⟩⟩

/-- The largest block of `place`, for a job of chase 1. -/
def jobFields : JobFields := ⟨4, 1, 0, 0, 0, 2, 1, 1⟩

def job (st : JobState) : Job := { (default : Job) with
  fields := jobFields
  state := st }

def withJob (st : JobState) : State := { placed with
  chases := [(1, wide)]
  jobs := [job st] }

theorem witness_JobCommands :
    (let s := on { placed with chases := [(1, wide)] } owner
     Taken s hdr 0x0060 [.own] false s owner ∧ inBlock place jobFields 0 0 0 = true ∧ (chase s 1).state = .claimed ∧
      jobOfChase s 1 = none ∧ findJob s 4 = none ∧ blockPorts place jobFields = [0, 1] ∧
      (∀ n ∈ [0, 1], (s.torus[n]?).bind TorusPort.job = none)) ∧
    (let s := on (withJob .halted) owner
     Taken s hdr 0x0062 [.own, .ten] false s owner ∧ findJob s 4 = some (job .halted) ∧ rejoinDetail s (job .halted) 0 = 0) ∧
    (let s := on (withJob .rejoining) owner
     Taken s hdr 0x0062 [.own, .ten] false s owner ∧ findJob s 4 = some (job .rejoining) ∧
      rejoinDetail s (job .rejoining) 0 = 0) ∧
    (let s := on (withJob .forming) owner
     Taken s hdr 0x0063 [.own] false s owner ∧ findJob s 4 = some (job .forming)) ∧
    (let s := on (withJob .ready) owner
     Taken s hdr 0x0063 [.own] false s owner ∧ findJob s 4 = some (job .ready)) :=
  ⟨taken_and (by decide +kernel), taken_and (by decide +kernel), taken_and (by decide +kernel), taken_and (by decide +kernel),
    taken_and (by decide +kernel)⟩

theorem witness_RegisterCommands :
    (let s := on up owner
     Taken s hdr 0x0070 allRoles true s owner ∧ (((List.range 1).map fun i => regWord s owner (4 * i)).all Option.isSome) = true) ∧
    (let s := on up owner
     Taken s hdr 0x0071 allRoles false s owner ∧
      (∀ a ∈ [0x00000000, 0x00090000, 0x00090004, 0x00040000], ((regWord s owner a).any fun w => !regHidden w .own) = true)) ∧
    (let se := sess .mgt 255
     let s := on up se
     Taken s hdr 0x0071 allRoles false s se ∧ ((regWord s se 0x00040004).any fun w => !regHidden w .mgt) = true) ∧
    (let s := on up owner
     Taken s hdr 0x0080 [.own, .ten, .mgt, .vnd] true s owner ∧ True) ∧
    (let s := on up owner
     Taken s hdr 0x0090 [.own, .mgt] true s owner ∧ 3200 ≤ 3200) ∧
    (let p : Pull := ⟨1, 1, 0, 0, [1], 1⟩
     let s := on { withChase claimed with faults := { up.faults with pulls := [p] } } ten
     Taken s hdr 0x00A0 [.own, .ten] true s ten ∧
      (s.faults.pulls.find? fun p => p.pullId == 1 && p.chase == ten.chase) = some p) :=
  ⟨taken_and (by decide +kernel), taken_and (by decide +kernel), taken_and (by decide +kernel), taken_and (by decide +kernel),
    taken_and (by decide +kernel), taken_and (by decide +kernel)⟩

def cfg17 : IntakeCfg := { (default : IntakeCfg) with
  tableObj := 3
  payloadObj := 4
  formeId := 9
  nrec := 1
  capture := 1024
  notify := 1
  enable := 1 }

def tableObj (id : Nat) : Obj := { openObj with
  objId := id
  isMutable := true
  state := .idle }

theorem witness_IntakeSetCompletes :
    let s := on { withChase wide with
      policies := [(0x010F, 1)]
      objs := [tableObj 3, tableObj 4] } ten
    Taken s hdr 0x0017 [.ten] false s ten ∧ ten.chase = policy s 0x010F ∧ nrecOk cfg17.nrec = true ∧ cfg17.capture ≤ 1024 ∧
      cfg17.capture % 64 = 0 ∧ cfg17.notify ≤ 1 ∧ findObj s 1 3 = some (tableObj 3) ∧ findObj s 1 4 = some (tableObj 4) ∧
      (tableObj 3).isH = true ∧ 256 * cfg17.nrec ≤ (tableObj 3).size ∧ 2 * cfg17.capture * cfg17.nrec ≤ (tableObj 4).size :=
  taken_and (by decide +kernel)

/-! ### Events -/

/-- Port EP_0 up in a mode; the device's address is 9, and 8 is that of the relay set, in both versions of IP. -/
def onPort (mode : Nat) : State := { withChase wide with
  ports := { HostPort.reset with
    linkUp := true
    mode := mode } :: List.replicate 3 HostPort.reset
  policies := [(0x0103, 9), (0x0105, 9), (0x010F, 1)]
  relaySet := [⟨1, 0, 0, 8, 8⟩] }

/-- A frame from MAC address 2 to MAC address 1 (R358). -/
def ethFrame (kind : Nat) (body : Bytes) : Bytes := frameOut (be 6 1 ++ be 6 2 ++ be 2 kind ++ body)

/-- A datagram of one PING packet from address 3 to a destination. -/
def pingTo (v6 : Bool) (dst port : Nat) : Datagram := ⟨v6, 3, dst, 0, 4, port, askestHeader 0 4 0 7 1 1 0 0 0 ++ zeros 16⟩

/-- What the checks of a frame leave of a datagram: its destination, its port, and whether it holds a packet. -/
def taken (s : State) (d : Datagram) : Option (Nat × Nat × Bool) :=
  (takeFrame s 0 (ethFrame (ipKind d.v6) d.packet)).2.bind fun e =>
    (datagramOf d.v6 e.body).map fun d => (d.dst, d.dstPort, (packetOf d e.src 0).isSome)

def arpFor (ip : Nat) : Bytes := ethFrame 0x0806 (be 8 0x0001080006040001 ++ be 6 2 ++ be 4 3 ++ zeros 6 ++ be 4 ip)

def solicitFor (ip : Nat) : Bytes :=
  let addrs := be 16 3 ++ be 16 ip
  let m (c : Nat) : Bytes := [135, 0] ++ be 2 c ++ zeros 4 ++ be 16 ip
  ethFrame 0x86DD ([0x60, 0, 0, 0, 0, 24, 58, 255] ++ addrs ++ m (checksum (pseudoSum addrs 58 24 + wordSum (m 0))))

theorem witness_PortEvents :
    (let s := onPort 1
     (takeFrame s 0 []).2.isNone = true ∧ ∀ v6 ∈ [false, true],
      ownAddr s v6 = some 9 ∧ (relayOf s v6 9).isSome = false ∧ (relayOf s v6 8).isSome = true ∧
      (relayOf s v6 7).isSome = false ∧ ∀ d ∈ [9, 8, 7], s.boot.state = 4 ∧ portServes s 0 1 = true ∧
      taken s (pingTo v6 d 41952) = some (d, policy s 0x0101, true) ∧ taken s (pingTo v6 d 5) = some (d, 5, true)) ∧
    (let p : TorusPort := { TorusPort.reset with state := 4 }
     let s : State := { up with torus := [p] }
     let f : RelayFrame := ⟨5, 0, 0, 2, false, (pingTo false 9 41952).packet, 0⟩
     s.torus[0]? = some p ∧ 4 ≤ p.state ∧ { f with target := 5 }.target ≠ myIndex s ∧ f.target = myIndex s ∧
      (datagramOf f.v6 f.packet).any (fun d => (packetOf d f.mac f.ns).isSome) = true) ∧
    (let f : RelayFrame := ⟨0, 0, 1, 2, false, [], 0⟩
     let s := onPort 1
     f ∈ { s with relayWire := [f] }.relayWire ∧ f ∉ s.relayWire ∧ f.entry = myIndex s ∧ portServes s f.entryPort 1 = true ∧
      (s.relaySet.any fun e => coordIndex e.x e.y e.z == f.target) = true ∧ { f with entry := 5 }.entry ≠ myIndex s) ∧
    (let p : HostPort := { HostPort.reset with retraining := true }
     let s : State := { up with ports := [p] }
     s.ports[0]? = some p ∧ 0 / 2 = 0 ∧ p.retraining = true) ∧
    (let s := onPort 1
     ∀ ip ∈ [9, 8, 7], ((takeFrame s 0 (arpFor ip)).2.bind arpOf) = some (2, 3, ip) ∧
      ((takeFrame s 0 (solicitFor ip)).2.bind solicitOf) = some (3, ip) ∧
      (answersFor s false ip = decide (ip ≠ 7)) ∧ (answersFor s true ip = decide (ip ≠ 7))) ∧
    (let p : HostPort := { HostPort.reset with
       linkUp := true
       mode := 1
       cak := some []
       mac := 5 }
     let s : State := { up with
       ports := [p]
       policies := [(0x010A, 1 + 3 * 2 ^ 24)] }
     s.ports[0]? = some p ∧ portServes s 0 1 = true ∧ macsecOn s 0 = true ∧ p.cak.isSome = true ∧
      nbits (policy s 0x010A) 24 8 < 4 ∧ (nbits (policy s 0x010A) 24 8 = 3 ∧ p.mac * 65536 + 1 < 6 * 65536 + 1) ∧
      ¬(nbits (policy s 0x010A) 24 8 < 2 ∨ nbits (policy s 0x010A) 24 8 = 2)) := by
  refine ⟨?_, ?_, ?_, ?_, ?_, ?_⟩ <;> decide +kernel

/-- Every timer at the first nanosecond that it is due. -/
theorem witness_SessionTimers :
    (let x : Reasm := ⟨7, 4, 1, 0, 5, 0, default, none, [], none⟩
     let s : State := { up with
       reasm := [x]
       now := 10000005 }
     (s.reasm.find? fun x => x.session == 7 && x.opcode == 4 && x.reqId == 1) = some x ∧ x.firstNs + 10000000 ≤ s.now) ∧
    (let se := { sess .own 255 with isOpen := false }
     let s := { on up se with now := 100000000 }
     kget s.sessions 7 = some se ∧ se.helloNs + 100000000 ≤ s.now) ∧
    (let s := { on up owner with now := 300000000000 }
     kget s.sessions 7 = some owner ∧ owner.isOpen = true ∧ owner.lastNs + policy s 0x0106 * 1000000000 ≤ s.now ∧
      (∀ l ∈ s.live, l.session ≠ 7)) ∧
    (let r := { score5 with state := .receiving }
     let s := { withReq r with now := 1000000000 }
     liveReq s 7 2 = some (5, r) ∧ r.state = .receiving ∧ r.chunkNs + policy s 0x0107 * 1000000 ≤ s.now) ∧
    (let x : Stage := ⟨7, 1, 0x0030, 1, 144, [], 0, 0, false, none⟩
     let s := { up with
       stages := [x]
       heldChunks := [(7, 1, 0, 16, [])]
       now := 1000000000 }
     liveReq s 7 1 = none ∧ (s.stages.find? fun x => x.session == 7 && x.reqId == 1 && !x.ready) = some x ∧
      x.lastNs + policy s 0x0107 * 1000000 ≤ s.now ∧
      s.heldChunks.find? (isHeldOf 7 1) = some (7, 1, 0, 16, []) ∧
      0 + policy s 0x0107 * 1000000 ≤ s.now) ∧
    (let s : State := { up with
       policyDue := [(0x0101, 1, 0)]
       now := 10000000 }
     (s.policyDue.find? fun e => e.1 == 0x0101 && decide (e.2.2 + 10000000 ≤ s.now)) = some (0x0101, 1, 0)) := by
  refine ⟨?_, ?_, ?_, ?_, ?_, ?_⟩ <;> decide +kernel

/-- A TCP segment of ten bytes from port `port` of address 1 to port 0 of address 2. -/
def flowFrame (port : Nat) : Bytes :=
  ethFrame 0x0800 ([0x45, 0] ++ be 2 50 ++ zeros 4 ++ [64, 6] ++ be 2 (checksum (wordSum
    ([0x45, 0] ++ be 2 50 ++ zeros 4 ++ [64, 6, 0, 0] ++ be 4 1 ++ be 4 2))) ++ be 4 1 ++ be 4 2 ++
    be 2 port ++ zeros 10 ++ [0x50, 0x10] ++ zeros 6 ++ List.replicate 10 7)

/-- What the intake reads of it. -/
def flowOf (port : Nat) : IntakeFrame := ((intakeOf 4789 6081 (flowFrame port)).getD default)

def record (state : Nat) : FlowRec := { (default : FlowRec) with
  state := state
  key := flowOf 1 }

def intake (recs : KMap FlowRec) : State := { onPort 2 with
  intake := { Intake.reset with
    cfg := some { cfg17 with
      vxlanPort := 4789
      genevePort := 6081
      idleMs := 1
      activeMs := 1 }
    recs := recs }
  now := 1000000 }

def bucketFind (s : State) (port : Nat) : Option Nat × Option Nat :=
  let idxs := bucketRecs 1 0
  (idxs.find? fun i => match kget s.intake.recs i with | some r => flowKey r.key == flowKey (flowOf port) | none => false,
   idxs.find? fun i => match kget s.intake.recs i with | some r => r.state == 3 || r.state == 4 | none => true)

/-- With one record a bucket is that record, whatever the hash. -/
theorem witness_IntakeEvents :
    (let s := intake []
     portServes s 0 2 = true ∧ intakeOf (tunnelPorts s).1 (tunnelPorts s).2 [] = none ∧
      (∀ port ∈ [1, 2], (intakeOf (tunnelPorts s).1 (tunnelPorts s).2 (flowFrame port)).isSome = true ∧
        (flowOf port).srcPort = port ∧ (flowOf port).payload = List.replicate 10 7) ∧
      (intakeOn s).isSome = true ∧ (∀ h ∈ [0, 1, 5], bucketRecs 1 h = bucketRecs 1 0) ∧ bucketFind s 1 = (none, some 0)) ∧
    bucketFind (intake [(0, record 1)]) 1 = (some 0, none) ∧ bucketFind (intake [(0, record 1)]) 2 = (none, none) ∧
    (let s := intake [(0, record 1)]
     kget s.intake.recs 0 = some (record 1) ∧ (record 1).lastNs + 1 * 1000000 ≤ s.now ∧
      (record 1).firstNs + 1 * 1000000 ≤ s.now) ∧
    (let d : Descriptor := { (default : Descriptor) with reqId := 0 }
     let s := { intake [(0, record 2)] with doorbells := List.replicate 5 [] ++ [[d]] }
     let t := fillIntake { s with
       doorbells := lset s.doorbells 5 []
       doorPtr := 0 }
     nextQueue s = some 5 ∧ s.doorbells.getD 5 [] = [d] ∧ (intakeOn t).isSome = true ∧
      kget t.intake.recs 0 = some (record 2) ∧ (record 2).req = 0) ∧
    (let r := { record 2 with retryAt := some 1000000 }
     let s := intake [(0, r)]
     (intakeOn s).isSome = true ∧ kget s.intake.recs 0 = some r ∧ 1000000 ≤ s.now) ∧
    (let s : State := { intake [(0, { record 2 with req := 5 })] with reqs := [(5, { score5 with state := .done })] }
     req s 5 = some { score5 with state := .done } ∧ ReqState.done.final = true ∧ inArray s 1 5 = false) ∧
    (let s : State := { up with intake := { Intake.reset with
       notifyTo := some (7, 1)
       unreported := List.replicate 32 (0, []) } }
     s.intake.unreported ≠ [] ∧ 32 ≤ s.intake.unreported.length) ∧
    (let s : State := { up with
       intake := { Intake.reset with
         notifyTo := some (7, 1)
         unreported := [(0, [])] }
       now := 100000 }
     s.intake.unreported ≠ [] ∧ s.intake.unreportedNs + 100000 ≤ s.now) := by
  refine ⟨?_, ?_, ?_, ?_, ?_, ?_, ?_, ?_, ?_⟩ <;> decide +kernel

def stage (op : Nat) (begun : Option Nat) : Stage := ⟨7, 1, op, 1, 144, [(0, [])], 0, 3, true, begun⟩

def acting (a : Activity) : State := withChase { serving with
  act := a
  fenced := true }

theorem witness_ImpositionEvents :
    (∀ op ∈ [0x0030, 0x0031], let s : State := { withObj { openObj with state := .sealed } with stages := [stage op none] }
     (∀ y ∈ s.stages, y.begun = none) ∧ s.faults.buffers = [] ∧ (s.stages.find? fun y => y.ready) = some (stage op none)) ∧
    (let s : State := { withObj { openObj with state := .sealed } with stages := [stage 0x0031 none] }
     (stageLen s (stage 0x0031 none)).isSome = true ∧ (stageImage s (stage 0x0031 none)).isSome = true) ∧
    (chase (assertWaiting (acting (.impose .tenant .draining [9] none)) 1) 1).act = .impose .tenant .draining [9] none ∧
    (∀ c ∈ [ImposeCause.release, .recovery, .tenant],
      (chase (acting (.impose c .scrubbing [9] none)) 1).act = .impose c .scrubbing [9] none) ∧
    imposeChecks (scrubChase (acting (.impose .tenant .scrubbing [9] none)) 1) 1 [9] = none ∧
    (chase (acting (.impose .tenant .loading [9] none)) 1).act = .impose .tenant .loading [9] none := by
  refine ⟨?_, ?_, ?_, ?_, ?_, ?_⟩ <;> decide +kernel

/-- Chase 1 in a running change from forme 9 to forme 8, and unit 0 of tile 0 with a LOCKUP token at its input A. -/
def changing (loaded injected : Bool) (timer : KMap Nat) : State :=
  { unitState 0 1 (fun f => { f with passed := true }) with
    chases := [(1, { serving with
      images := [{ image with body := { forme with tiles := [(0, default)] } }, other]
      act := .change 9 8 loaded injected timer none })] }

theorem witness_ChangeEvents :
    (let s := changing false false []
     (imageOf (chase s 1) 9).isSome = true ∧ imageOf (chase s 1) 8 = some other) ∧
    (let s := changing true false []
     (chase s 1).fenced = false ∧ s.power.hold = false ∧ passesEntered s 1 9 = true ∧ entryQueues forme = []) ∧
    (let s := changing true true []
     liveTile s 0 = some 1 ∧ (unitCfg (tile s 0) 0).any (fun u => decide (0 ≤ u.nin)) = true ∧
      (fuOf (tile s 0) 0).lockups.contains 0 = false ∧ (tile s 0).switched = false ∧
      (changeTiles { forme with tiles := [(0, default)] } other.body).contains 0 = true ∧
      mayswitch { forme with tiles := [(0, default)] } (tile s 0) 0 = true) ∧
    (let s := unitState 0 1 fun f => { f with lockups := [0] }
     (fuOf (tile s 0) 0).lockups.contains 0 = true) ∧
    (let s := modTile (unitState 0 1 id) 0 fun x => setPortQ x 0 { portQ x 0 with toks := [anyTok 4] }
     (portQ (tile s 0) 0).toks = [anyTok 4] ∧ (anyTok 4).tok.imp ≠ 1 ∧ (tile s 0).imp = (anyTok 4).tok.imp ∧ liveTile s 0 = some 1) ∧
    (tile (modTile (unitState 0 1 id) 0 fun x => { x with imp := 1 }) 0).imp ≠ (anyTok 4).tok.imp ∧
    (let s := modTile (unitState 0 1 id) 0 fun x => { x with preloading := true }
     (tile s 0).active.isSome = true ∧ (tile s 0).preloading = true) ∧
    pacesReach [(1000, 4096)] (16 * forme.guardLimit) = true := by
  refine ⟨?_, ?_, ?_, ?_, ?_, ?_, ?_, ?_⟩ <;> decide +kernel

/-- A scalar for port 0 of tile 0 on the network, and a handle of one granule that goes on to land. -/
def flight (kind : Nat) (payload : DWord) (gs : List Granule) : Flight :=
  { (default : Flight) with
    src := (1, 0, 0)
    chase := 1
    tile := 0
    port := 0
    header := tokenHeader ⟨kind, 0, 0, true, false, false, 0, 0, 0, 0, 0⟩
    payload := payload
    granules := gs }

def flying (f : Flight) (depthUsed : Nat) : State := modTile { unitState 0 1 id with net := [f] } 0 fun x =>
  setPortQ x 0 { portQ x 0 with toks := List.replicate depthUsed (anyTok 1) }

def ejects (f : Flight) (flip used : Nat) : Bool × Bool × Bool × Bool × Bool × Bool :=
  let s := flying f used
  let header := f.header ^^^ BitVec.ofNat 64 flip
  let tok := tokenOf header f.payload
  let gone := { s with net := dropAt s.net 0 }
  (headerOk header, kindReserved tok.kind, handleOk tok.kind f.payload, portTakes gone f.chase f.tile f.port,
    (queueAt gone f.tile f.port).any fun q => !f.lands tok || decide (f.granules.length ≤ q.slotsz),
    (queueAt gone f.tile f.port).any fun q => decide ((portQ (tile gone f.tile) f.port).toks.length < q.depth))

/-- Each check of an ejection, passed and failed: the last credit of a queue of depth 2 is free, then none is. -/
theorem witness_Ejection :
    (let s := flying (flight 1 0 []) 1
     s.net[0]? = some (flight 1 0 []) ∧ (chase s 1).fenced = false ∧ (flight 1 0 []).isRemote = false ∧
      behind s.net 0 (flight 1 0 []) = false) ∧
    ejects (flight 1 0 []) 0 1 = (true, false, true, true, true, true) ∧
    ejects (flight 3 0 [default]) 0 1 = (true, false, true, true, true, true) ∧
    (ejects (flight 1 0 []) (2 ^ 63) 1).1 = false ∧ ejects (flight 5 0 []) 0 1 = (true, true, true, true, true, true) ∧
    ejects (flight 2 128 []) 0 1 = (true, false, false, true, true, true) ∧
    ejects { flight 1 0 [] with port := 9 } 0 1 = (true, false, true, false, false, false) ∧
    ejects (flight 3 (2 ^ 19) [default, default]) 0 1 = (true, false, true, true, false, true) ∧
    ejects (flight 1 0 []) 0 2 = (true, false, true, true, true, false) := by
  refine ⟨?_, ?_, ?_, ?_, ?_, ?_, ?_, ?_, ?_⟩ <;> decide +kernel

theorem witness_TokenEvents :
    (let s := flying (flight 1 0 []) 1
     (unitCfg (tile s 0) 0).isSome = true ∧ (portQ (tile s 0) 0).toks = [anyTok 1] ∧ (anyTok 1).landed = true ∧
      (unitCfg (tile s 0) 0).any (fun u => takeDecision (tile s 0) (fuOf (tile s 0) 0) u (isZw5 s 1 0) 0 (anyTok 1).tok == .join &&
        !passedOver s 1 0 0 u 0) = true) ∧
    (let s := modTile up 0 fun x => setPortQ x 0 { portQ x 0 with returning := 1 }
     (portQ (tile s 0) 0).returning ≠ 0) ∧
    (let s := { unitState 0 1 id with landings := [⟨0, 0, 0, [default]⟩] }
     s.landings[0]? = some ⟨0, 0, 0, [default]⟩ ∧ chaseOfTile s 0 = some 1 ∧ (queueAt s 0 0).isSome = true ∧ (chase s 1).fenced = false) ∧
    (let a : BankReq := { (default : BankReq) with requester := 1 }
     let b : BankReq := { (default : BankReq) with requester := 3 }
     nextReq 1 false false [a, b] = some b ∧ nextReq 3 false false [b, a] = some a ∧
      chaseOfTile (slotState 1 1 true) 0 = some 1) ∧
    (let f := flight 6 5 []
     let s := flying f 0
     s.net[0]? = some f ∧ f.isRemote = false ∧ (tokenOf f.header f.payload).kind = 6) ∧
    (∀ route ∈ [0, 1], let f := { flight 1 0 [] with header := tokenHeader ⟨1, 0, 0, true, false, true, route, 0, 0, 0, 0⟩ }
     let s : State := { flying f 0 with
       boot := placed.boot
       jobs := [job .stepping]
       torus := List.replicate 6 { TorusPort.reset with
         state := 5
         job := some 4 } }
     f.isRemote = true ∧ behind s.net 0 f = false ∧ f.route = route ∧
      (gutterDevice s 1 f.src.1 f.route).any (fun d => d.2 == route && (d.2 == myIndex s) == (route == 0)) = true ∧
      (sendUnits s (job .stepping) 1 (routeDie (routeWord s 1 f.src.1 1)) (0, 0) (f.header, f.payload, [])).isSome = true) ∧
    (let r : RemoteCredit := ⟨1, 1, 0, 0, 8, 0⟩
     let s : State := { withJob .ready with
       remoteDue := [r]
       torus := List.replicate 6 { TorusPort.reset with
         state := 5
         job := some 4 } }
     s.remoteDue[0]? = some r ∧ 8 ≤ r.due ∧ jobOfChase s 1 = some (job .ready) ∧
      { r with device := 0 }.device = myIndex s ∧ r.device ≠ myIndex s ∧
      (sendUnits { s with remoteDue := [] } (job .ready) 1 (r.tile / 512) (0, 0) (tokenHeader (creditTokenOf r), (creditTokenOf r).payload, [])).isSome = true) := by
  refine ⟨?_, ?_, ?_, ?_, ?_, ?_, ?_⟩ <;> decide +kernel

def matched2 : MatchEntry := ⟨0, [some (anyTok 1), some (anyTok 1), none, none], 0, some 0⟩

theorem witness_Firing :
    (∀ n ∈ [0, 1, 2, 3, 4, 5], (mayFire (unitState n 1 fun f => { f with store := [matched2] }) 0 0 n).any
      (fun m => m.1 == 1 && !m.2.1.hen) = true) ∧
    (∀ n ∈ [1, 5], liveTile (unitState n 1 fun f => { f with firing := some (firing 1 true) }) 0 = some 1) ∧
    (let s := unitState 0 1 fun f => { f with firing := some { firing 1 true with pc := 1 } }
     (unitCfg (tile s 0) 0).any (fun u => decide (u.func = 0 ∧ u.slotCount ≤ 1)) = true) ∧
    (let s := modTile (unitState 0 1 fun f => { f with
         store := List.replicate 64 { matched2 with ready := none }
         guard := [(1000, 256)] }) 0 fun x => setPortQ x 0 { portQ x 0 with toks := [anyTok 1, anyTok 1] }
     misregistered s 0 0 = some (0, 1) ∧ (fuOf (tile s 0) 0).recorded = false ∧
      pacesReach (fuOf (tile s 0) 0).guard (guardLimit s 1 0) = true) ∧
    (let s := modTile (unitState 0 1 fun f => { f with
         store := List.replicate 64 { matched2 with ready := none }
         guard := [(1000, 4096)] }) 0 fun x => setPortQ x 0 { portQ x 0 with toks := [anyTok 1, anyTok 1] }
     misregistered s 0 0 = some (0, 1) ∧ pacesReach (fuOf (tile s 0) 0).guard (16 * guardLimit s 1 0) = true) := by
  refine ⟨?_, ?_, ?_, ?_, ?_⟩ <;> decide +kernel

/-! ### Galleys and serving -/

def pass9 : Pass := ⟨.score, 9, 1, 0, 0, true⟩

def array9 : ArrayPass := { (default : ArrayPass) with
  req := 5
  pass := pass9 }

/-- Chase 1 with request 5's pass in forme 9's array, its input `n` bytes, and galleys 5 (inbound) and 6 (outbound) of tile
0 as given; `gtid` is the tensor that both move. -/
def moving (gtid n : Nat) (i o : Galley) : State :=
  let f : FormeBody := { forme with tensors := [galleyDesc 1 gtid 5 2, galleyDesc 2 gtid 6 3, { (default : TensorCfg) with
    tid := 7
    tier := 1
    objId := 3
    format := 2
    ext := [16, 1, 1, 1]
    stride := [1, 0, 0, 0] }] }
  { unitState 0 1 id with
    chases := [(1, { wide with
      images := [{ image with body := f }]
      array := [(9, [array9])] })]
    reqs := [(5, { score5 with
      total := n
      input := [(0, List.replicate n 1)]
      pass := some pass9 })]
    objs := [{ openObj with state := .sealed }]
    tiles := [(0, { Tile.fresh with galleys := [(5, i), (6, o)] })] }

def inG : Galley := { Galley.fresh 2 with pass := some 5 }

def inOf (s : State) : Bool := (inGalley s 0 5).isSome

theorem witness_Galleys :
    (let s := moving 0xFFF 128 inG inG
     (inGalley s 0 5).any (fun k => k.d.gtid == 0xFFF && k.n == 5) = true ∧ feederOf 0 = 0 ∧ s.fills = [] ∧
      nextCyclic (kgetD s.feederPtr 0 0) (feederGalleys s 0) = some (4096 * 0 + 5) ∧ (req s 5).isSome = true) ∧
    (let s := moving 7 0 inG inG
     (inGalley s 0 5).any (fun k => k.d.gtid == 7 && (k.source s).isSome && (k.fetch s k.g.chunk).isOk) = true ∧
      (let v := { s with faults := { s.faults with resets := [{ (default : ResetOp) with domain := 0x3000 }] } }
       (inGalley v 0 5).any (fun k => (k.source v).isSome && !(k.fetch v k.g.chunk).isOk) = true) ∧
      nextCyclic (kgetD s.feederPtr 0 0) (feederGalleys s 0) = some (4096 * 0 + 5)) ∧
    (let s : State := { moving 0xFFF 128 inG inG with fills := [⟨0, 1, 0, 5, 0, 0, some [default]⟩] }
     (inGalley s 0 5).any (fun g => creditFree s g.d.stile g.d.gport && g.g.inject == 0 && chunkCount g.d (g.stream s).1 == 2) = true) ∧
    (let s : State := { moving 7 0 inG inG with fills := [⟨0, 1, 0, 5, 0, 0, some [default]⟩] }
     (inGalley s 0 5).any (fun g => creditFree s g.d.stile g.d.gport && g.g.inject == 0 && chunkCount g.d (g.stream s).1 == 1 &&
      g.d.gtid != 0xFFF) = true) ∧
    (let s := moving 0xFFF 64 { inG with slots := [.taken, .empty] } inG
     liveTile s 0 = some 1 ∧ (galley (tile s 0) 5).any (fun g => g.slots[0]? == some .taken) = true ∧
      slotNamed (tile s 0) 5 0 = false) ∧
    (∀ n ∈ [0, 64], let s := moving 0xFFF n inG inG
     (inGalley s 0 5).any (fun k => k.slips s && decide ((k.stream s).1 ≤ (k.stream s).2) && decide ((k.stream s).1 = n) &&
      k.g.inject != 1 && k.g.slots[k.g.head]? == some .empty && creditFree s k.d.stile k.d.gport) = true) ∧
    (let s := moving 0xFFF 64 { inG with inject := 1 } inG
     (inGalley s 0 5).any (fun k => k.slips s && k.g.inject == 1) = true) ∧
    (let s := moving 0xFFF 64 inG { inG with
       appended := 16
       staged := List.replicate 16 (1, false) }
     (outGalley s 0 6).any (fun k => k.a.isSome && k.slips && outputWhole k.size.2 k.g) = true) ∧
    (let s := modTile (moving 0xFFF 64 inG inG) 0 fun x => setPortQ x 3 { portQ x 3 with toks := [anyTok 1] }
     (outGalley s 0 6).any (fun k => k.a.isSome && !k.g.lockup && !outputWhole k.size.2 k.g &&
       k.g.rest.isEmpty && decide (k.g.full.length < k.ring.2) &&
       !(appendToken s 0 k.ring k.g (anyTok 1).tok).overfull k.size) = true ∧ (portQ (tile s 0) 3).toks = [anyTok 1]) ∧
    (let s := modTile (moving 0xFFF 64 inG inG) 0 fun x => setPortQ x 3 { portQ x 3 with toks := [anyTok 4] }
     (outGalley s 0 6).any (fun k => !k.g.lockup) = true ∧ (portQ (tile s 0) 3).toks = [anyTok 4] ∧ (anyTok 4).landed = true) ∧
    (∀ gtid ∈ [0xFFF, 7], let s := moving gtid 64 inG { inG with full := [(0, [(1, false)])] }
     (outGalley s 0 6).any (fun k => k.a.any (fun a => !reqEnded s a.req) && k.g.full == [(0, [(1, false)])] &&
        k.d.gtid == gtid && (gtid == 0xFFF || (tensorOf k.forme.body 7).any fun d => (findObj s 1 d.objId).any fun o =>
          (writeGrans (elemWrites d k.part 0 [(1, false)])).all fun g => (accessStall s o.isH (objPA o (64 * g))).isNone)) =
      true) := by
  refine ⟨?_, ?_, ?_, ?_, ?_, ?_, ?_, ?_, ?_, ?_, ?_⟩ <;> decide +kernel

theorem witness_Serving :
    (let s := withReq { score5 with holdsDone := true }
     (chase s 1).fenced = false ∧ s.power.hold = false ∧ kget (chase s 1).injecting 9 = none ∧ formeEnters s (chase s 1) image = true ∧
      nextCyclic (kgetD (chase s 1).lastServed (8 * 9 + 0) 0) ((readyOn s 1 9 forme).map Prod.fst) = some 5 ∧
      (monitor s 5 { score5 with holdsDone := true } ⟨.score, 9, 1, 0, 0, false⟩).isNone = true) ∧
    (let r := { score5 with state := .walking }
     req (withReq r) 5 = some r ∧ r.state = .walking) ∧
    (let s := { withReq { score5 with state := .decoding } with comps := [⟨0, [(1, 5, 0)]⟩] }
     s.comps[0]? = some ⟨0, [(1, 5, 0)]⟩ ∧ nextCyclic 0 ([1].foldl nset []) = some 1 ∧ score5.drawn = none ∧
      score5.pass.isSome = true ∧ ReqState.decoding.final = false) ∧
    (∀ tok ∈ [7, 8], let r := { score5 with
       kind := .generate
       state := .decoding
       entry := genEntry
       gen := some { genParams with maxTokens := 2 }
       drawn := some (tok, false, true) }
     let q := { r with tokens := [(tok, false)] }
     req (withReq r) 5 = some r ∧ r.drawn = some (tok, false, true) ∧ (stopReason q tok = 0 ↔ tok = 8)) ∧
    (let s := withReq score5
     req s 5 = some score5 ∧ score5.holdsDone = false ∧ (chase s 1).fenced = false ∧
      score5.pass.any (fun p => !p.begun) = true ∧ score5.state ≠ .walking) := by
  refine ⟨?_, ?_, ?_, ?_, ?_⟩ <;> decide +kernel

/-! ### Memory and faults -/

/-- Chase 1 with granule 0 of each tier, tier B being one module of 256 GiB in service. -/
def mem : State := { withChase { wide with
    granH := [0]
    granB := [0] } with
  health := { up.health with
    bInService := true
    modGib := 256 } }

/-- An access without a parity error. -/
def clean : GranuleOutcome := ⟨false, [], 0⟩

theorem witness_Memory :
    (∀ isH ∈ [true, false], paExists mem isH 0 = true ∧ chaseOfGranule mem isH (granuleOf isH 0) = some 1 ∧
      (tier mem isH).retraining.contains (channelOf isH 0) = false ∧ isLost (tier mem isH) isH 0 = false ∧
      granuleHeld mem isH 0 = false ∧ accessStall mem isH 0 = none ∧
      (accessTries 4 mem isH 0 [{ clean with parityError := true }, clean]).2 = some clean) ∧
    paExists mem true (1152 * 2 ^ 30 - 64) = true ∧ paExists mem true (1152 * 2 ^ 30) = false ∧
    (let s : State := { mem with memB := { mem.memB with lost := [0] } }
     accessStall s false 0 = none ∧ isLost (tier s false) false 0 = true) ∧
    (let s : State := { mem with memB := { mem.memB with retraining := [0] } }
     (accessStall s false 0).isSome = true) ∧
    (let m := { mem.memH with retraining := [511] }
     let s : State := { mem with memH := m }
     (tier s true).retraining.contains 511 = true ∧ (m.shorted.countP fun x => x.1 == 511) = 0 ∧
      0 < ({ m with shorted := [(511, 3)] }.shorted.countP fun (x : Nat × Nat) => x.1 == 511)) ∧
    (let s : State := { mem with memH := { mem.memH with rowEvents := [⟨3, [0], true, 0, false⟩] } }
     rowDue s true 3 = true) ∧
    (let s : State := { mem with boot := { mem.boot with patrolKey := some [] } }
     let t : State := { s with memH := { s.memH with patrol := 288 * 2 ^ 30 } }
     patrolFrom 6 t true (tier t true).patrol = 288 * 2 ^ 30 ∧ patrolled t true (288 * 2 ^ 30) = true ∧
      granuleHeld t true (288 * 2 ^ 30) = false ∧ accessStall t true (288 * 2 ^ 30) = none ∧
      (granKeys t true (granuleOf true (288 * 2 ^ 30))).isSome = true ∧
      (readGranule t true (288 * 2 ^ 30) [clean]).2.isSome = true) ∧
    (let s := withChase { claimed with creating := [(1, 5)] }
     (chase s 1).creating.contains (if true then 1 else 2, 5) = true) ∧
    (let o := { openObj with
       state := .moving
       move := some ⟨2, 0, [0], (7, 1)⟩ }
     findObj (withObj o) 1 3 = some o ∧ o.move.isSome = true) ∧
    (let o := { openObj with
       tier := 2
       state := .sealed
       win := [(0, none, 0)] }
     findObj (withObj o) 1 3 = some o ∧ 0 < o.blocks.length ∧ (∀ e ∈ o.win, e.2.1 ≠ some 0) ∧
      (chase (withObj o) 1).fenced = false ∧ fillSlot o.win = some 0) := by
  refine ⟨?_, ?_, ?_, ?_, ?_, ?_, ?_, ?_, ?_, ?_, ?_⟩ <;> decide +kernel

def resetOp (domain : Nat) (captured drained line : Bool) : ResetOp := { (default : ResetOp) with
  domain := domain
  chases := [1]
  captured := captured
  drained := drained
  line := line }

def resetting (op : ResetOp) : State := { withChase wide with
  faults := { up.faults with resets := [op] }
  now := 200 }

theorem witness_Faults :
    (∀ f ∈ ([⟨0x0101, 0x4001, 0⟩, ⟨0x010D, 0x4001, 0⟩, ⟨0x0202, 0x1000, 0⟩, ⟨0x0401, 0x3000, 0⟩, ⟨0x0704, 0x7000, 0⟩] : List FaultInfo),
      classOfCode f.code = some (f.domain / 4096)) ∧
    (∀ d ∈ [0x1000, 0x4001], let s := resetting (resetOp d false false false)
     resetOf s d = some (resetOp d false false false) ∧ 1 ≤ d / 4096 ∧ d / 4096 ≤ 4 ∧ (∀ c ∈ (resetOp d false false false).chases, draining s c = false)) ∧
    (∀ d ∈ [0x1000, 0x4001, 0x2000, 0x3000], let s := resetting (resetOp d true (decide (d / 4096 = 2 ∨ d / 4096 = 3)) false)
     (resetOf s d).any (fun r => !r.line && r.captured && (decide (d / 4096 = 1 ∨ d / 4096 = 4) || r.drained)) = true) ∧
    (let s := resetting (resetOp 0x1000 true false false)
     (resetOf s 0x1000).any (fun r => r.captured && !r.drained) = true) ∧
    (∀ d ∈ [0x5003, 0x6005], (resetOf (resetting (resetOp d false false false)) d).any
      (fun r => !r.line && decide (r.ns + 200 ≤ 200)) = true) ∧
    (resetOf (resetting (resetOp 0x1000 true true true)) 0x1000).any (fun r => r.line) = true ∧
    (let s : State := { slotState 1 1 true with now := 2000 }
     chaseOfTile s 0 = some 1 ∧ (chase s 1).waiting = [] ∧ (chase s 1).fenced = false ∧
      (fuOf (tile s 0) 0).firing.any (fun f => decide (f.beganNs + 2000 ≤ s.now)) = true) ∧
    (let s : State := { moving 0xFFF 64 inG inG with now := 1000000000000 }
     (req s 5).any (fun r => (passesOf s 1 5).any fun x => decide
      (x.2.entryNs + progressLimit s r (bodyOf s r.chase x.1) (betaOf s r.chase (bodyOf s r.chase x.1)) ≤ s.now)) = true) ∧
    (let s : State := { queued up 4 with now := 10000000 }
     (s.doorbells[0]?).any (fun l => l.head?.any fun d => decide (d.writtenNs + 10000000 ≤ s.now)) = true) ∧
    (let s : State := { withChase { claimed with
       state := .releasing
       fenced := true
       act := .impose .release .scrubbing [] none } with now := 1005200 }
     commandLate s 1 = true ∧ commandLate { s with now := 1005199 } 1 = false) ∧
    (let s := resetting { resetOp 0x7000 false false false with code := 0x0701 }
     (s.faults.resets.find? fun r => r.domain / 4096 == 7 && r.domain == 0x7000 && r.code == 0x0701).isSome = true) ∧
    (spareOf up 0).paceAcc.2 + 1 < 1000 ∧
    (let s := modSpare up 0 fun x => { x with paceAcc := (0, 999) }
     (spareOf s 0).paceAcc.2 + 1 = 1000) ∧
    (up.spares.rails[0]?).any (fun r => decide (0 < r.spares ∧ 0 < r.phases + r.spares + r.retired ∧
      r.lost.contains 0 = false)) = true := by
  refine ⟨?_, ?_, ?_, ?_, ?_, ?_, ?_, ?_, ?_, ?_, ?_, ?_, ?_, ?_⟩ <;> decide +kernel

/-! ### Torus, pins, power, start-up -/

/-- The digest of the device key that every neighbour here has. -/
def dik : Bytes := sha384 ecPub

/-- A device at (0, 0, 0) of a ring of 2, with every port in a state; the root of the certificates is the key above. -/
def ring (st : Nat) (job : Option Nat) : State := { placed with
  fuses := { placed.fuses with rootPub := ofBe ecPub }
  boot := { placed.boot with cfg := some { (default : BootConfig) with placement := { place with
    expect := List.replicate 6 dik
    reach := [1, 1, 1, 1, 1, 1] } } }
  chases := [(1, wide)]
  torus := List.replicate 6 { TorusPort.reset with
    state := st
    job := job } }

/-- A certificate that the root vouches for, of a device whose device key and alias key are that key too. -/
def cert : Bytes :=
  let device := ecPub ++ zeros 16 ++ sigR ++
    be 48 0x6056b3936ebaa22dcb7896bd1f4f426f47c56e7267b6ed9cfc10c389639c976d749498c3e23ff5eabe16847ca197903d
  ecPub ++ zeros 49 ++ device ++ sigR ++
    be 48 0x0f173460aa72e02049049b2bc2991955904c718e48ab17d0bb417e3b9e0a2e891fa90bbf46967b5a33e3f4edc363010d

/-- The neighbour's DISCOVERY message. -/
def msg : DiscoveryMsg := ⟨1, 0, 0, 2, 1, 1, 1, 1, zeros 48, zeros 32, ecPub, cert, sigR ++
  be 48 0x5ff6cfcd070e007dcde8b4530156b8be25c0d892652cdd1457e36701f1eda90d43e7d92b995d6626feb3d6a4b2d084cf⟩

/-- The device with port TP_0 in discovery, its exchange drawn. -/
def meeting : State := { ring 2 none with torus := [{ TorusPort.reset with
  state := 2
  disc := some ([], []) }] }

theorem msg_cert : certOk meeting cert = true := by decide +kernel

theorem msg_sig : ecdsaOk (msg.certs.take 97) (sha384 (discBytes msg)) msg.sig = true := by decide +kernel

/-- The neighbour agrees; with the answer to an expectation of another device, it does not. -/
theorem witness_Discovery :
    (∃ cfg, meeting.boot.cfg = some cfg ∧ discoveryCause meeting cfg.placement 0 msg = none ∧
      discoveryCause meeting { cfg.placement with expect := [zeros 48] } 0 msg = some 1) ∧
    (∃ p, meeting.torus[0]? = some p ∧ p.state = 2 ∧ p.disc = some ([], [])) := by
  refine ⟨⟨_, rfl, ?_, ?_⟩, ⟨_, rfl, rfl, rfl⟩⟩
  · simp only [discoveryCause, show msg.certs = cert from rfl, msg_cert]
    rw [show (cert.take 97) = msg.certs.take 97 from rfl, msg_sig]
    decide +kernel
  · decide +kernel

/-- The signature of a REKEY message. -/
theorem witness_Rekey : ecdsaOk ecPub (sha384 (zeros 32 ++ ecPub)) (sigR ++
    be 48 0x0a6a895dab34b88aeaf10f9c6657295a20d9676561f833102b73c63f177056f4af1ebb1f036daaffa37a3036e704809c) = true := by
  decide +kernel

/-- A frame of no unit under the key of zeros, as the first of its direction. -/
def linkFrame (type gen seq : Nat) (rekey : Bool) : Bytes :=
  frameBytes (some (zeros 32)) gen { (default : FrameHead) with
    type := type
    rekey := rekey
    seq := seq } []

/-- A frame of a port whose keys are zeros opens, in sequence and out of it, a frame of data and one at the boundary of a
re-key; one under another key does not. -/
theorem witness_Frames :
    (∀ type ∈ [0, 1, 3], openFrame (zeros 32) 0 (linkFrame type 0 1 false) = some [] ∧
      (headOf (linkFrame type 0 1 false)).type = type ∧ (headOf (linkFrame type 0 1 false)).seq = 0 + 1) ∧
    (openFrame (zeros 32) 0 (linkFrame 0 0 2 false) = some [] ∧ (headOf (linkFrame 0 0 2 false)).seq ≠ 0 + 1) ∧
    (let p : TorusPort := { TorusPort.reset with newRx := some (zeros 32) }
     (headOf (linkFrame 0 1 1 true)).rekey = true ∧ p.newRx.isSome = true ∧
      (p.boundaryRx.keyRx.bind fun k => openFrame k p.boundaryRx.genRx (linkFrame 0 1 1 true)) = some []) ∧
    (({ TorusPort.reset with keyRx := some (zeros 31 ++ [1]) } : TorusPort).keyRx.bind fun k =>
      openFrame k 0 (linkFrame 0 0 1 false)) = none ∧
    (let p : TorusPort := { TorusPort.reset with
       state := 5
       job := some 4
       keyRx := some (zeros 32) }
     let s : State := { ring 5 (some 4) with
       jobs := [job .ready]
       torus := [p] }
     let b := linkFrame 1 0 1 false
     s.torus[0]? = some p ∧ (p.keyRx.bind fun k => openFrame k p.genRx b) = some [] ∧ (headOf b).seq = p.rxSeq + 1 ∧
      (headOf b).type = 1 ∧ findJob (modPort s 0 fun _ => p.accept (headOf b)) 4 = some (job .ready)) := by
  refine ⟨?_, ?_, ?_, ?_, ?_⟩ <;> decide +kernel

theorem witness_Torus :
    (let s : State := { ring 5 (some 4) with jobs := [job .ready] }
     (s.torus[0]?).any (fun p => p.state == 5 && p.job == some 4) = true ∧ findJob s 4 = some (job .ready)) ∧
    (let p : TorusPort := { TorusPort.reset with
       state := 4
       replay := [⟨9, [], [], false⟩] }
     (p.replay.filter fun f => decide (9 ≤ f.seq)) ≠ []) ∧
    (let s := ring 4 none
     8 ≤ (pickLanes s 0 (nset [0] 1)).length ∧ (pickLanes s 0 (nset [0, 1] 2)).length < 8) ∧
    ({ TorusPort.reset with txSeq := 2147483648 }.rekeying = false ∧ 2147483648 ≤ { TorusPort.reset with txSeq := 2147483648 }.txSeq) ∧
    (∀ n ∈ [0, 1],
     let p : TorusPort := { TorusPort.reset with
       state := 4
       txSeq := n
       peerPub := some ecPub
       rekeying := true
       disc := some ([], []) }
     p.peerPub = some ecPub ∧ p.rekeying = true ∧ p.disc = some ([], []) ∧ (p.acked = p.txSeq ↔ n = 0)) ∧
    (TorusPort.reset.peerPub.any fun k => ecdsaOk k (sha384 []) []) = false ∧
    (∀ st ∈ [JobState.forming, .ready, .stepping, .halted, .rejoining], findJob (withJob st) 4 = some (job st)) ∧
    (let s := { withJob .forming with now := 10000000000 }
     (job .forming).openedNs + 10000000000 ≤ s.now) ∧
    ({ job .rejoining with rejoinFrom := some 1 }.rejoinFrom = some 1 ∧ (job .rejoining).rejoinFrom = none) ∧
    ((ring 1 none).torus[0]? = some { TorusPort.reset with state := 1 } ∧ 8 ≤ (pickLanes (ring 1 none) 0 [0, 9]).length ∧
      (pickLanes (ring 1 none) 0 [0, 1, 2]).length < 8) := by
  refine ⟨?_, ?_, ?_, ?_, ?_, ?_, ?_, ?_, ?_, ?_⟩ <;> decide +kernel

theorem witness_PinsAndPower :
    (∀ t ∈ [0, 89], up.thermal.tripOwn = false ∨ t < 90) ∧ (700 + 50 < 751 ∧ 5 < 6 ∧ nbit up.thermal.senseOpen 5 = false ∧
      ∀ mv ∈ [0, 760], (endGrant { up with power := { up.power with setMv := mv } }).power.setMv = mv) ∧
    (let s : State := { up with
       thermal := { up.thermal with
         floor := true
         coolNs := some 0
         ti := 3
         tiFallNs := [none, some 9500000, some 0] }
       now := 10000000 }
     s.thermal.floor = true ∧ s.thermal.coolNs = some 0 ∧ 0 + 10000000 ≤ s.now ∧ 2 < s.thermal.ti ∧ s.thermal.tiFallNs[2]? = some (some 0) ∧
      0 + 1000000 ≤ s.now ∧ s.thermal.tiFallNs[1]? = some (some 9500000) ∧ s.now < 9500000 + 1000000) ∧
    (∀ d ∈ [0, 1, 2, 3],
      viOf (railMv { up with power := { up.power with railsMv := lset [760, 760, 760, 760] d 600 } }) = some 0 ∧
      viOf (railMv { up with power := { up.power with railsMv := lset [760, 760, 760, 760] d 599 } }) = none) ∧
    (let s : State := { up with power := { up.power with sustNext := some 3 } }
     s.power.sustNext = some 3 ∧ viOf 600 = some 0 ∧ 3 / 4 ≤ 0) ∧
    (let s : State := { up with power := { up.power with setMv := 760 } }
     let v := takeSample 3201 s
     v.power.setMv ≠ 0 ∧ effCap v < 3201 ∧ effCap v = 3200) ∧
    (let s : State := { up with power := { up.power with setMv := 760 } }
     let v := takeSample 3200 s
     v.power.setMv ≠ 0 ∧ 3200 ≤ effCap v) ∧
    (let s : State := { up with
       power := { up.power with
         limiter := true
         limiterCalmNs := some 0 }
       now := 20000 }
     let v := takeSample 3104 s
     v.power.limiter = true ∧ v.power.limiterCalmNs = some 0 ∧ 0 + 20000 ≤ v.now) ∧
    (let s : State := { up with power := { up.power with
       hold := true
       setMv := 610
       railsMv := [618, 618, 618, 618] } }
     let v := takeSample 3201 s
     v.power.hold = true ∧ atFloor v = true ∧ effCap v < 3201 ∧ v.power.throttle = 0) ∧
    (let s : State := { up with
       power := { up.power with
         hold := true
         throttle := 1
         calmNs := some 0 }
       now := 10000 }
     let v := takeSample 2880 s
     v.power.hold = true ∧ 2880 ≤ effCap v ∧ v.power.calmNs = some 0 ∧ 0 < v.power.throttle ∧
      Nat.max 0 v.power.throttleNs + 10000 ≤ v.now) ∧
    (let s : State := { up with
       power := { up.power with
         hold := true
         calmNs := some 0
         railsMv := [600, 600, 600, 600] }
       now := 1000000 }
     let v := takeSample 0 s
     v.power.hold = true ∧ 600 ≤ railMv v ∧ v.power.throttle = 0 ∧ v.power.calmNs = some 0 ∧ Nat.max 0 v.power.throttleNs + 1000000 ≤ v.now) := by
  refine ⟨?_, ?_, ?_, ?_, ?_, ?_, ?_, ?_, ?_, ?_⟩ <;> decide +kernel

def boot (st : Nat) : State := { up with boot := { up.boot with state := st } }

def okConfig : BootConfig := { (default : BootConfig) with
  placement := { place with
    expect := List.replicate 6 []
    reach := List.replicate 6 0
    spares := List.replicate 6 false
    cableDm := List.replicate 6 5000 }
  claimExpect := List.replicate 48 0 }

/-- A datagram of the boot server with bytes of an image: their offset, and as many zeros. -/
def imagePart (port n : Nat) : Datagram := ⟨false, 3, 9, 0, 4, port, le 8 0 ++ zeros n⟩

theorem witness_StartUp :
    (State.reset.boot.state = 0 ∧ ∀ r ∈ State.reset.pins.refclk, r = true) ∧
    badField okConfig = none ∧ badField { okConfig with bootSource := 2 } = some 3 ∧
    (let s : State := { boot 1 with boot := { (boot 1).boot with cfg := some okConfig } }
     s.boot.state = 1 ∧ s.boot.source = 0 ∧ (List.replicate 4096 (0 : Byte)).length ≤ 4096) ∧
    (let c := { okConfig with
       bootSource := 1
       bootAddr := 9
       bootPeer := 3
       bootUdp := 7 }
     let s : State := { boot 1 with boot := { (boot 1).boot with
       cfg := some c
       source := 1 } }
     s.boot.cfg = some c ∧ bootLink s 0 = true ∧
      ((bootFrame (ethFrame (ipKind c.bootV6) (imagePart 7 1).packet)).filter fun e => e.kind == ipKind c.bootV6).bind
        (fun e => datagramOf c.bootV6 e.body) = some (imagePart 7 1) ∧
      (imagePart 7 1).dst = c.bootAddr ∧ (imagePart 7 1).src = c.bootPeer ∧ (imagePart 7 1).dstPort = c.bootUdp ∧
      9 ≤ (imagePart 7 1).data.length ∧ (imagePart 7 8192).data.length ≤ 8200) ∧
    (let s : State := { boot 1 with
       boot := { (boot 1).boot with firstNs := some 0 }
       now := 10000000000 }
     s.boot.firstNs.isSome = true ∧ s.boot.lastNs + 10000000000 ≤ s.now) ∧
    manifestCheck (boot 2) (prefixEnd []) [] = some 1 ∧
    ((default : BringUpResult).failCode = 0 ∧ (default : BringUpResult).senseOpen % 64 = 0) ∧
    (let s : State := { up with boot := { up.boot with fw := some ⟨64, 0, 0, []⟩ } }
     s.boot.fw = some ⟨64, 0, 0, []⟩ ∧ s.fuses.lifecycle ≠ 0 ∧ s.fuses.rollback < 64) ∧
    (up.fuses.lifecycle = 1 ∧ 3600 ≤ 3600) ∧
    (let s : State := { up with
       boot := { up.boot with claimEnd := some 9 }
       now := 9 }
     s.boot.claimEnd = some 9 ∧ 9 ≤ s.now) := by
  refine ⟨?_, ?_, ?_, ?_, ?_, ?_, ?_, ?_, ?_, ?_, ?_⟩ <;> decide +kernel

/-- A device whose vendor key 0 is the key of the tests. -/
def vended : State := { boot 2 with fuses := { (boot 2).fuses with vendorKeys := [ofBe (sha384 ecPub)] } }

/-- The image of an empty firmware under that key: its digest in place, key 0, SVN 0, and its signature. -/
def fwImage : KMap Bytes :=
  [(0, le 4 0x5A394657 ++ le 2 1 ++ zeros 18 ++ sha384 [] ++ ecPub ++ zeros 7 ++ sigR ++
    be 48 0xdea35bc65cf0319bdc64c1e050942c67c428b5aa19d87547a3ae38fe75b5095c23c374e518c9f0a22ecf8efe2e9c671d)]

/-- An image that FW_VERIFY_DONE accepts. -/
theorem witness_Manifest : prefixEnd fwImage = 272 ∧ manifestCheck vended 272 fwImage = none := by
  decide +kernel

theorem witness_Attestation :
    (let s : State := { up with boot := { up.boot with aliasKey := true } }
     s.boot.aliasKey = true ∧ s.boot.underVolt = false) ∧ up.boot.aliasKey = false ∧
    ({ up with boot := { up.boot with decom := some (7, 1) } }.boot.decom = some (7, 1)) ∧
    ({ up with boot := { up.boot with claim := some (7, 1, []) } }.boot.claim = some (7, 1, [])) ∧
    debugOpen up = false ∧ debugOpen { up with fuses := { up.fuses with lifecycle := 0 } } = true := by
  refine ⟨?_, ?_, ?_, ?_, ?_, ?_⟩ <;> decide +kernel

/-! ### Whole records -/

theorem tokenBytes_length (o : Option QTok) : (tokenBytes o).length = 16 := by
  cases o <;> simp [tokenBytes, Laws.le_length, Laws.zeros_length]

/-- The record of a tile pair without queues is 251,904 bytes long (R225). -/
theorem scanRecord_length (s : State) (c t ns : Nat) (hq : queuesAt s c t = []) (ha : (tile s t).active = none)
    (hc : (tile s t).cases = []) : (scanRecord s c t ns).length = 251904 := by
  have h : ∀ r, (caseReg (tile s t) r).length = 1024 := fun r => by
    simp only [caseReg, hc]
    exact Laws.zeros_length 1024
  unfold scanRecord
  rw [hq]
  simp only [ha, List.length_append, Laws.le_length, Laws.zeros_length, Laws.padTo_length, List.filter_nil, List.flatMap_nil, List.length_nil,
    List.length_flatMap, h, tokenBytes_length, List.map_const', List.length_range, List.sum_replicate, smul_eq_mul]

def scanning (out : Bool) : State := withChase { claimed with act := .scan 0 out (some 5) [] (7, 1) }

theorem witness_Scan :
    (let s := assertWaiting (scanning true) 1
     (chase s 1).act = .scan 0 true (some 5) [] (7, 1) ∧ pullUse s + 64 + (scanRecord s 1 0 5).length ≤ 16777216) ∧
    (let s := assertWaiting (withChase { chase1 with
       act := .scan 0 false (some 5) (zeros 8 ++ le 8 9 ++ zeros 8) (7, 1) }) 1
     (chase s 1).act = .scan 0 false (some 5) (zeros 8 ++ le 8 9 ++ zeros 8) (7, 1) ∧
      (formeOfTile (chase s 1) 0).any (fun i => i.formeId == field (zeros 8 ++ le 8 9 ++ zeros 8) 8 8) = true ∧
      (tile s 0).imp = field (zeros 8 ++ le 8 9 ++ zeros 8) 18 1) := by
  refine ⟨?_, by decide +kernel⟩
  intro s
  rw [scanRecord_length _ _ _ _ (by decide +kernel) (by decide +kernel) (by decide +kernel)]
  decide +kernel

/-- A forme image without a page: header, empty directory and queue table, one tensor, route table (R191), before its
trailer. -/
def imageBody : Bytes :=
  padTo 4096 (le 4 0x5A394648 ++ le 2 1 ++ zeros 2 ++ le 8 11 ++ zeros 4 ++ le 4 5 ++ zeros 44 ++ le 2 1 ++ zeros 2 ++
    le 8 4096 ++ le 8 4096 ++ le 8 16 ++ le 8 8192 ++ le 8 12288 ++ le 8 16384) ++
  padTo 4096 (le 2 256) ++
  padTo 4096 (le 64 (3 + 2 ^ 104 + 2 ^ 128 + 2 ^ 152 + 2 ^ 176 + 2 * 2 ^ 360 + 2 ^ 372 + 0xFFF * 2 ^ 376)) ++
  zeros 4096

def envelope : Bytes := le 4 0x5A394645 ++ le 2 1 ++ zeros 2 ++ le 8 16512 ++ ecPub ++ zeros 15

/-- Its trailer, signed over the envelope and the body (R190). -/
def trailer : Bytes := le 4 0x5A395452 ++ zeros 12 ++ sigR ++
  be 48 0xc52eace42ab5aadfad692afc98f74c12ca3272f158b2c003b5e8e1ae1bac97fe95fd0ab87ff30e5c85dfc56220465114 ++ zeros 16

def signer : Chase := { claimed with
  signKeys := [(5, ecPub)]
  crk := some [1] }

/-- The image as the tenant sends it, sealed under the body key of the envelope (R189). -/
def sealedImage : Bytes :=
  envelope ++ gcmSeal (bodyKey signer envelope) (slice envelope 116 12) envelope (imageBody ++ trailer)

def checked : Stage := ⟨7, 1, 0x0030, 1, 16656, [(0, sealedImage)], 0, 0, true, some 0⟩

theorem envelope_length : envelope.length = 128 := by decide +kernel

theorem sealed_length : sealedImage.length = 16656 := by
  obtain ⟨tag, ht, e⟩ := Laws.gcmSeal_eq (bodyKey signer envelope) (slice envelope 116 12) envelope (imageBody ++ trailer)
  have l : (imageBody ++ trailer).length = 16512 := by
    simp only [imageBody, trailer, sigR, List.length_append, Laws.le_length, Laws.zeros_length, Laws.padTo_length, Laws.be_length]
  rw [sealedImage, List.length_append, e, List.length_append, List.length_zipWith, ht, envelope_length,
    Nat.min_eq_left (Laws.gcmStream_length ..), l]

/-- The chase opens it. -/
theorem opened : loadImg signer sealedImage = ⟨envelope, 16656, some (imageBody ++ trailer), formeOfBytes (imageBody ++ trailer)⟩ := by
  have e : openBody signer sealedImage = some (imageBody ++ trailer) := by
    rw [openBody, sealedImage, List.take_left' envelope_length, List.drop_left' envelope_length, Laws.gcmOpen_gcmSeal]
  simp only [loadImg, e, sealed_length, Option.getD_some]
  rw [sealedImage, List.take_left' envelope_length]

/-- Compressing a message in two parts. -/
theorem shaBlocks_add (a b : Nat) (h : List Nat) (m : Bytes) :
    shaBlocks (a + b) h m = shaBlocks b (shaBlocks a h m) (m.drop (128 * a)) := by
  induction a generalizing h m with
  | zero => simp [shaBlocks]
  | succ a ih =>
    rw [show a + 1 + b = a + b + 1 by omega, shaBlocks, ih, shaBlocks, List.drop_drop]
    congr 2
    omega

/-- The signed part, padded to 130 blocks. -/
def signedMsg : Bytes := envelope ++ imageBody ++ [0x80] ++ zeros 111 ++ be 16 132096

/-- The states of SHA-384 after each 13 blocks of it, computed outside of the model. -/
def signedState (k : Nat) : List Nat :=
  if k = 0 then shaInit else words64 8 (([
    0x526b946909a096e253430eb1756ce4d1552f7a0154d78ee76a8739faf0fd3197 * 2 ^ 256 +
      0x21916e4a1f19d55f03da1491ffba497b2a3d151c5c81ee7200631fdf9e98235b,
    0xa749edf048f29575aef5e02e126f336e30a2f3d1e883a7c46369d53de71680ba * 2 ^ 256 +
      0x23b12ecff1219c242d550ad8f15f860696163e06ffe2575b6da81e37c4e2d374,
    0xdc558925b6760c17dd6ed928350dba9c3e64b0134ba70a9dc36f9150c7ce4670 * 2 ^ 256 +
      0x3c4b8232c58026b6fc5b213663de53cfab00383a72ba492df217a508f1d42845,
    0xf39b966a1710233f7e3ab625788943a222fe69ccaa781180e188c4e272d352f2 * 2 ^ 256 +
      0xe3f65ccbb7d18725b4232db10e77e8e3a516525f297417b891966be89943ff1a,
    0xc5d8afb499aff0ce3acdcbce09ae43eff762ed6852d13fe3d7c828ab96348eb9 * 2 ^ 256 +
      0x735e716f4a7630140715a188e629c6a2e1dd600621681e599ce5485ad63fcd2b,
    0xea73096fd5d1d377e73c083c6b02801b166df2dbbd1c37535c39e235680136cd * 2 ^ 256 +
      0x06c7706b468d1d1c1ec96ac8507fa623cad2abc16e9c1491366a55ea96dfb74b,
    0x0ae274300b39e9424d94588207949ba24558a551508b5664364ec39b59068c9d * 2 ^ 256 +
      0x18ba0aea7890ee4141be381174f141639c13dae02b4f822bfab82605e269e72b,
    0x3c90e0f6f88a20bf1fcb47408e7088cece241f6ae29266f353954a21dccc5325 * 2 ^ 256 +
      0xbfc5a4d65dfaa07756e7eb468ef03271b616c7b2d9b7aa605161ed8559a23609,
    0xc12c9b9a0b41c7e40b22171f23320546f4cf475447b95b3b120bfcb106432f1f * 2 ^ 256 +
      0x8dca900a21c700a08717dc015ddf5ea0ab40c5bcbc4ea8230dd98a67ad65d887,
    0xb903e23a8bf8d7765bc6d7090545ef95a5625e2d91b0697250e8d7c39c0c2c38 * 2 ^ 256 +
      0x8dc0186c7fcfc2bb9bf138eb18c32441207e2e75a6b7538f3ab8b2742c40893e] : List Nat).getD (k - 1) 0)

theorem signed_0 : shaBlocks 13 (signedState 0) (signedMsg.drop 0) = signedState 1 := by decide +kernel

theorem signed_1 : shaBlocks 13 (signedState 1) (signedMsg.drop 1664) = signedState 2 := by decide +kernel

theorem signed_2 : shaBlocks 13 (signedState 2) (signedMsg.drop 3328) = signedState 3 := by decide +kernel

theorem signed_3 : shaBlocks 13 (signedState 3) (signedMsg.drop 4992) = signedState 4 := by decide +kernel

theorem signed_4 : shaBlocks 13 (signedState 4) (signedMsg.drop 6656) = signedState 5 := by decide +kernel

theorem signed_5 : shaBlocks 13 (signedState 5) (signedMsg.drop 8320) = signedState 6 := by decide +kernel

theorem signed_6 : shaBlocks 13 (signedState 6) (signedMsg.drop 9984) = signedState 7 := by decide +kernel

theorem signed_7 : shaBlocks 13 (signedState 7) (signedMsg.drop 11648) = signedState 8 := by decide +kernel

theorem signed_8 : shaBlocks 13 (signedState 8) (signedMsg.drop 13312) = signedState 9 := by decide +kernel

theorem signed_9 : shaBlocks 13 (signedState 9) (signedMsg.drop 14976) = signedState 10 := by decide +kernel

theorem signed_blocks : shaBlocks 130 shaInit signedMsg = signedState 10 := by
  have h : ∀ j k, shaBlocks (13 + j) (signedState k) (signedMsg.drop (1664 * k)) =
      shaBlocks j (shaBlocks 13 (signedState k) (signedMsg.drop (1664 * k))) (signedMsg.drop (1664 * (k + 1))) := fun j k => by
    rw [shaBlocks_add, List.drop_drop]
    congr 2
  have e := fun j k => h j k
  exact (e 117 0).trans <| by
    rw [signed_0, e 104 1, signed_1, e 91 2, signed_2, e 78 3, signed_3, e 65 4, signed_4, e 52 5, signed_5, e 39 6, signed_6,
      e 26 7, signed_7, e 13 8, signed_8, e 0 9, signed_9]
    rfl

theorem signed_digest : sha384 (envelope ++ imageBody) = ((signedState 10).take 6).flatMap (be 8) := by
  have l : (envelope ++ imageBody).length = 16512 := by
    simp only [imageBody, List.length_append, envelope_length, Laws.padTo_length, Laws.zeros_length]
  unfold sha384
  simp only [l]
  rw [show (envelope ++ imageBody ++ [0x80] ++ zeros ((239 - 16512 % 128) % 128) ++ be 16 (8 * 16512)) = signedMsg from rfl,
    show signedMsg.length / 128 = 130 by
      simp only [signedMsg, List.length_append, l, Laws.zeros_length, Laws.be_length, List.length_cons, List.length_nil],
    signed_blocks]

/-- Its signature verifies with the key that it names. -/
theorem signed_ok : ecdsaOk ecPub (sha384 (envelope ++ imageBody)) (slice trailer 16 96) = true := by
  rw [signed_digest]
  decide +kernel

theorem trailer_ok : trailerOk ⟨envelope, 16656, some (imageBody ++ trailer), formeOfBytes (imageBody ++ trailer)⟩
    (some ecPub) = true := by
  have l : imageBody.length = 16384 := by
    simp only [imageBody, List.length_append, Laws.padTo_length, Laws.zeros_length]
  have l' : trailer.length = 128 := by decide +kernel
  simp only [trailerOk, LoadImg.b, Option.getD_some, signedPart, List.length_append, l, l']
  rw [List.drop_left' (by omega), List.take_left' (by omega), signed_ok]
  decide +kernel

/-- Every check passes when one of them and all the others do. -/
theorem firstFailure_split (l : List (Bool × Nat × Nat)) (n : Nat) (x : Nat × Nat) (e : l = l.take n ++ (true, x) :: l.drop (n + 1))
    (a : firstFailure (l.take n) = none) (b : firstFailure (l.drop (n + 1)) = none) : firstFailure l = none := by
  rw [e]
  simp only [firstFailure, Option.map_eq_none_iff, List.find?_append, List.find?_cons] at a b ⊢
  simp [a, b]

/-- It passes every check of R207. -/
theorem witness_ImageCheckDone :
    let s : State := { withChase signer with
      objs := [{ openObj with state := .sealed }]
      stages := [checked] }
    (s.stages.find? fun y => y.begun.isSome) = some checked ∧ stageImage s checked = some sealedImage ∧
      firstFailure (loadChecks { s with stages := s.stages.filter fun y => !y.isOf 7 1 } 1
        (loadImg (chase s 1) sealedImage) (checked.total == sealedImage.length)) = none := by
  refine ⟨rfl, ?_, ?_⟩
  · simp [stageImage, checked]
  · rw [show chase _ 1 = signer from rfl, opened, sealed_length]
    refine firstFailure_split _ 6 (St.verifyFailed, 0x0107) ?_ (by decide +kernel) (by decide +kernel)
    have k : kget signer.signKeys (formeOfBytes (imageBody ++ trailer)).keyId = some ecPub := by decide +kernel
    have t := trailer_ok
    rw [← k] at t
    rw [← t]
    rfl


/-! ### Numbers of the specification: transcendental functions (R122, R123) -/

/-- EXP of 100 is above the largest finite FP32 value: R90 under RTZ, with OF and NX. -/
theorem test_exp_overflow : elemTransc 0x31 F.fp32 .rtz 0 0x42C80000 = (0x7F7FFFFF, Fl.ofx) := by decide +kernel

/-- EXP of -104 lies below the smallest subnormal: +0 with UF and NX (R123). -/
theorem test_exp_vanishes : elemTransc 0x31 F.fp32 .rne 0 0xC2D00000 = (0, Fl.ufx) := by decide +kernel

/-- The series give the nearest FP32 codes of e, ln 2, 1 / sqrt 2, tanh 1 and erf 1. -/
theorem test_transc_values :
    ([(0x31, 1), (0x32, 2), (0x33, 2), (0x34, 1), (0x35, 1)].map fun x =>
      let v := transcValue x.1 false x.2 0
      (fFP32.round .rne 0 v.1 v.2.1 v.2.2 true).1) =
    [0x402DF854, 0x3F317218, 0x3F3504F3, 0x3F42F7D6, 0x3F57BB3D] := by decide +kernel

/-- CUR_BIN does not move the rails; a sample above the cap lowers them by 1 mV (R520, 10 mV/us over 100 ns). -/
theorem test_limiter_step :
    (match exec (.limiter ⟨3300, [], 0, 0⟩) { State.reset with power := { State.reset.power with setMv := 760 } } with
    | .next t => (t.power.setMv, t.power.limiter)
    | _ => (0, false)) = (759, true) := by decide +kernel

/-! ### Published algorithms: the examples of their standards -/

/-- SHA-384 of "abc" (FIPS 180-4). -/
theorem test_sha384 : ofBe (sha384 (ascii "abc")) =
    0xcb00753f45a35e8bb5a03d699ac65007272c32ab0eded1631a8b605a43ff5bed8086072ba1e7cc2358baeca134c825a7 := by
  decide +kernel

/-- AES-256 of the example of FIPS 197. -/
theorem test_aes256 : ofBe (aesBlock aesBox (aesKeys aesBox ((List.range 32).map (BitVec.ofNat 8)))
    ((List.range 16).map fun i => BitVec.ofNat 8 (17 * i))) = 0x8ea2b7ca516745bfeafc49904b496089 := by
  decide +kernel

/-- AES-256-GCM of one zero block under a zero key and nonce: ciphertext and tag. -/
theorem test_gcm : ofBe (gcmSeal (zeros 32) (zeros 12) [] (zeros 16)) =
    0xcea7403d4d606b6e074ec5d3baf39d18d0d1c8a799996bf0265b98b5d48ab919 := by
  decide +kernel

/-- The base point lies on the curve and has the order of the group. -/
theorem test_p384 : p384Valid ([0x04] ++ be 48 p384G.1 ++ be 48 p384G.2) = true ∧
    (p384Mul p384N p384G 384 (1, 1, 0)).2.2 = 0 := by
  decide +kernel

def someRoot (n p k e : Nat) : Bool := (List.range n).any fun q => decide ((q * 2 ^ 64 + k) ^ e ≤ p * 2 ^ (64 * e)) &&
  decide (p * 2 ^ (64 * e) < (q * 2 ^ 64 + k + 1) ^ e)

def primes (n : Nat) : List Nat := (List.range n).filter fun x => 2 ≤ x && ((List.range x).drop 2).all fun d => x % d != 0

/-- The constants of SHA-384 are the first 64 bits of the fractions of the cube roots of the first 80 primes and of the
square roots of the ninth to the sixteenth (FIPS 180-4). -/
theorem test_shaK : (primes 410).length = 80 ∧ shaK.length = 80 ∧
    ((primes 410).zip shaK).all (fun x => someRoot 8 x.1 x.2 3) = true ∧
    (((primes 54).drop 8).zip shaInit).all (fun x => someRoot 8 x.1 x.2 2) = true := by decide +kernel

/-- The signature of "sample" in A.2.6 of RFC 6979, and that it is none of "sampler". -/
theorem test_ecdsa :
    let sig := be 48 0x94EDBB92A5ECB8AAD4736E56C691916B3F88140666CE9FA73D64C4EA95AD133C81A648152E44ACF96E36DD1E80FABE46 ++
      be 48 0x99EF4AEB15F178CEA1FE40DB2603138F130E740A19624526203B6351D0A3A94FA329C145786E679E7B82C71A38628AC8
    ecdsaOk ecPub (sha384 (ascii "sample")) sig = true ∧ ecdsaOk ecPub (sha384 (ascii "sampler")) sig = false := by
  decide +kernel

/-- The first 32 bytes of vector 10 of IEEE 1619 for XTS-AES-256. -/
theorem test_xts : ofBe (xtsEnc (be 32 0x2718281828459045235360287471352662497757247093699959574966967627 ++
      be 32 0x3141592653589793238462643383279502884197169399375105820974944592) 0xFF
      ((List.range 32).map (BitVec.ofNat 8))) =
    0x1c3b3a102f770386e4836c99e370cf9bea00803f5e482357a4ae12d414a3e63b := by decide +kernel

/-- The check symbols of the 1-M symbol "HELLO WORLD" of ISO/IEC 18004, whose code has the same field and root 0 first. -/
theorem test_rsCheck : rsCheck 0 10 ([32, 91, 11, 120, 209, 114, 220, 77, 67, 64, 236, 17, 236, 17, 236, 17].map
    (BitVec.ofNat 8)) = [196, 35, 39, 119, 235, 215, 231, 226, 93, 23].map (BitVec.ofNat 8) := by decide +kernel

/-- A word of tier H with two bad symbols is corrected, and one of tier B with an erased device and two more (R240). -/
theorem test_rsDecode :
    (let m : Bytes := (List.range 68).map (BitVec.ofNat 8)
     let w := m ++ rsCheck 1 4 m
     rsDecode 1 4 [] ((w.modify 3 (· ^^^ 9)).modify 70 (· ^^^ 200)) = some w) ∧
    (let m : Bytes := (List.range 68).map (BitVec.ofNat 8)
     let w := m ++ rsCheck 0 12 m
     rsDecode 0 12 ((List.range 8).map (· + 16)) (((w.zipIdx.map fun x => if x.2 / 8 = 2 then 255 else x.1).modify 0 (· ^^^ 1)).modify
      79 (· ^^^ 77)) = some w) := by decide +kernel

/-- The check value of the CRC of IEEE 802.3, and a header checksum worked in RFC 1071's way. -/
theorem test_frameChecks : fcs (ascii "123456789") = le 4 0xCBF43926 ∧
    checksum (wordSum (be 20 0x450000730000400040110000c0a80001c0a800c7)) = 0xb861 := by decide +kernel

/-- The header of R363, byte by byte: MAGIC, VERSION, STATUS, OPCODE, FLAGS, SESSION, SEQUENCE, REQUEST_ID, LENGTH, DETAIL
and FRAG. -/
theorem test_header : askestHeader 0x12 0x0041 2 7 0x0102030405060708 9 64 0x0A05 3 = [0x5A, 0x39, 1, 0x12, 0, 0x41, 0, 2,
    0, 0, 0, 7, 1, 2, 3, 4, 5, 6, 7, 8, 0, 0, 0, 9, 0, 0, 0, 64, 0x0A, 5, 0, 3] := by decide +kernel

end Sys2Proof.Tests
end

section
/-! SUPPORT. Proofs about the queue and the common checks: an empty queue ticks, and a command that its session is not
entitled to changes only the count of violations and what carries its reply. -/

namespace Sys2Proof.Machine

/-! ### The empty queue -/

/-- With an empty queue the step is a tick (log 2). -/
theorem step_of_pending_nil {s : State} (hq : s.pending = []) : step s = .next (tick s) := by
  simp only [step, hq]

/-- Settles O2, by the frame of `tick`. -/
theorem emptyQueueTicks : Obligations.EmptyQueueTicks := by
  intro s hq
  obtain ⟨hp, hf⟩ := tick_keeps s
  exact ⟨step_of_pending_nil hq, hp.trans hq, hf⟩

/-! ### What carries a reply -/

/-- `t` is `s` but for the parts that carry commands and their replies: doorbells, sessions, live commands, kept finals,
held chunks, and the ports with what leaves by them. -/
def RepliesOnly (s t : State) : Prop :=
  t = { s with
    doorbells := t.doorbells, doorPtr := t.doorPtr, sessions := t.sessions, live := t.live, finals := t.finals
    heldChunks := t.heldChunks, ports := t.ports, wire := t.wire, relayWire := t.relayWire, out := t.out }

namespace RepliesOnly

theorem refl (s : State) : RepliesOnly s s := rfl

theorem trans {s t u : State} (hst : RepliesOnly s t) (htu : RepliesOnly t u) : RepliesOnly s u := by
  unfold RepliesOnly at hst htu ⊢
  rw [hst] at htu
  exact htu

/-- Every step of a fold changes only what carries replies, and so does the fold. -/
theorem foldl {α : Type} {f : State → α → State} (hf : ∀ s x, RepliesOnly s (f s x)) (l : List α) (s : State) :
    RepliesOnly s (l.foldl f s) := by
  induction l generalizing s with
  | nil => exact refl s
  | cons x l ih => exact (hf s x).trans (ih (f s x))

/-- A violation counted on both sides leaves what may differ as it was. -/
theorem violation {s t : State} (hst : RepliesOnly s t) : RepliesOnly (violation s) (violation t) :=
  congrArg Machine.violation hst

/-- The parts that carry no reply are the same. -/
theorem frame {s t : State} (hst : RepliesOnly s t) :
    t.health = s.health ∧ t.policies = s.policies ∧ t.policyDue = s.policyDue ∧ t.creds = s.creds ∧
      t.chases = s.chases ∧ t.objs = s.objs ∧ t.reqs = s.reqs ∧ t.jobs = s.jobs ∧ t.stages = s.stages ∧
      t.tiles = s.tiles ∧ t.memH = s.memH ∧ t.memB = s.memB ∧ t.power = s.power ∧ t.thermal = s.thermal ∧
      t.boot = s.boot ∧ t.fuses = s.fuses ∧ t.faults = s.faults ∧ t.intake = s.intake ∧ t.torus = s.torus ∧
      t.spares = s.spares ∧ t.relaySet = s.relaySet ∧ t.draws = s.draws := by
  rw [hst]
  and_intros <;> rfl

end RepliesOnly

/-- Taking a descriptor changes the doorbells alone (R47). -/
theorem takeDesc_repliesOnly {s t : State} {h : CmdHdr} {op : Nat} (ht : takeDesc s h op = some t) :
    RepliesOnly s t := by
  unfold takeDesc at ht
  split at ht
  · split at ht
    · split at ht
      · obtain ⟨-, he⟩ := Option.ite_none_right_eq_some.mp ht
        cases he
        rfl
      · cases ht
    · cases ht
  · cases ht
    rfl

theorem sendEth_repliesOnly (s : State) (ep dst kind : Nat) (body : Bytes) :
    RepliesOnly s (sendEth s ep dst kind body) := by
  unfold sendEth
  split
  · rfl
  · dsimp only
    split
    · split <;> rfl
    · rfl

theorem sendUdp_repliesOnly (s : State) (ep : Nat) (dest : SrcAddr) (entry : Option (Nat × Nat)) (dscp : Nat)
    (data : Bytes) : RepliesOnly s (sendUdp s ep dest entry dscp data) := by
  cases entry with
  | none => exact sendEth_repliesOnly ..
  | some e => rfl

/-- A reply that departs is held at its port, is lost, or leaves by the wire or the relay (R359, R360, R365, R481). -/
theorem depart_repliesOnly (s : State) (r : Reply) : RepliesOnly s (depart s r) := by
  unfold depart
  split
  · rfl
  · extract_lets r' ps s'
    have hout : RepliesOnly s { s' with out := s'.out ++ [r'] } := rfl
    split
    · rfl
    · split
      · rfl
      · split
        · rfl
        · exact hout.trans (RepliesOnly.foldl (fun s _ => sendUdp_repliesOnly s ..) _ _)

theorem emitReply_repliesOnly (s : State) (r : Reply) : RepliesOnly s (emitReply s r) := by
  unfold emitReply
  extract_lets r' s₁ s₂
  have h₂ : RepliesOnly s s₂ := (depart_repliesOnly s r').trans rfl
  split
  · exact h₂.trans rfl
  · exact h₂

theorem conflictReply_repliesOnly (s : State) (se : Session) (r : Reply) : RepliesOnly s (conflictReply s se r) :=
  depart_repliesOnly ..

theorem markChunk_repliesOnly (s : State) (h : CmdHdr) (op off : Nat) : RepliesOnly s (markChunk s h op off) := by
  unfold markChunk
  split <;> rfl

theorem refuseChunk_repliesOnly (s : State) (se : Session) (h : CmdHdr) (op off : Nat) (r : Reply) :
    RepliesOnly s (refuseChunk s se h op off r) := by
  unfold refuseChunk
  split
  · exact conflictReply_repliesOnly ..
  · extract_lets s'
    have hs' : RepliesOnly s s' := by
      dsimp only [s']
      split <;> rfl
    exact (hs'.trans (emitReply_repliesOnly ..)).trans (markChunk_repliesOnly ..)

/-- The refusal of a command is a reply and no more. -/
theorem refusal_repliesOnly (s : State) (se : Session) (i : Instr) (h : CmdHdr) (op : Nat) (r : Reply) :
    RepliesOnly s (refusal s se i h op r) := by
  unfold refusal
  split
  · exact refuseChunk_repliesOnly ..
  · exact emitReply_repliesOnly ..

/-! ### Every gated command runs behind the common checks -/

/-- A command behind the common checks: in chunks where its opcode has them, else in one piece with its label. -/
def gatedCmd (i : Instr) (h : CmdHdr) (sp : CmdSpec) (run : State → Session → State) (s : State) :
    Host.Outcome State Fault Refusal :=
  if isChunked sp.opcode then chunkCmd h sp (offsetOf i) (labelOf i) run s else requestCmd h sp (labelOf i) run s

/-- A command that `gatedBy` names has an effect of its own that runs only behind the common checks. -/
theorem exec_of_gatedBy {i : Instr} {h : CmdHdr} {sp : CmdSpec} (hg : gatedBy i = some (h, sp)) :
    ∃ run, ∀ s, exec i s = gatedCmd i h sp run s := by
  cases i
  -- These three rows are gated at their own addresses alone.
  case resetReq | resetReadmit | healthEventsClear =>
    obtain ⟨ha, he⟩ := Option.ite_none_right_eq_some.mp hg
    cases he
    exact ⟨_, fun _ => if_pos ha⟩
  -- The events have no gate; every other row names its header and its checks outright.
  all_goals cases hg
  all_goals exact ⟨_, fun _ => rfl⟩

/-- A gated command that the common checks refuse ends in its refusal. -/
theorem gatedCmd_of_refuse {s s' : State} {i : Instr} {h : CmdHdr} {sp : CmdSpec} {r : Reply} {se : Session}
    (hr : gate s h sp = .refuse s' r) (hse : kget s'.sessions h.session = some se) (run : State → Session → State) :
    gatedCmd i h sp run s = .next (refusal s' se i h sp.opcode r) := by
  unfold gatedCmd refusal
  split
  · simp only [chunkCmd, hr, hse]
  · simp only [requestCmd, hr]

/-- A new command of a session that is not entitled to it is refused with zeros, and the violation is counted (R373,
R413, R438). -/
theorem gate_of_not_entitled {s s₁ : State} {h : CmdHdr} {sp : CmdSpec} {se : Session}
    (ht : takeDesc s h sp.opcode = some s₁) (hse : kget s₁.sessions h.session = some se)
    (hl : liveOf s₁ h.session h.reqId = none) (hk : keptFinal s₁ h.session sp.opcode h.reqId = none)
    (he : entitled se sp = false) :
    gate s h sp = .refuse (violation s₁)
      { mkReply h.ep h.session sp.opcode h.reqId St.done 0 (zeros sp.zeroLen) with dscp := h.dscp } := by
  simp only [gate, ht, hse, hl, hk, commonChecks, he, Bool.not_false, if_true]

/-- Settles O10: the command ends in its refusal, which is a reply sent after the violation is counted. -/
theorem violationHasNoEffect : Obligations.ViolationHasNoEffect := by
  intro s s₁ i h sp se hg ht hse hl hk he
  obtain ⟨run, hrun⟩ := exec_of_gatedBy hg
  have hx := (hrun s).trans (gatedCmd_of_refuse (gate_of_not_entitled ht hse hl hk he) hse run)
  exact ⟨_, hx, ((takeDesc_repliesOnly ht).violation.trans (refusal_repliesOnly ..)).frame⟩

end Sys2Proof.Machine
end

section
/-! SUPPORT. Proofs about one step and the queue: the command at the front runs on the queue's rest, and every command
keeps it. -/

namespace Sys2Proof.Machine

/-! ### One step and the queue -/

/-- With a command waiting the step runs it on the state with the queue's rest. -/
theorem step_of_pending_cons {s : State} {c : Instr} {rest : List Instr} (hq : s.pending = c :: rest) :
    step s = exec c { s with pending := rest } := by
  simp only [step, hq]

/-- Settles O1, by the equation of `step` for a queue that is not empty. -/
theorem stepRunsFrontCommand : Obligations.StepRunsFrontCommand := fun _ _ _ => step_of_pending_cons

/-- The rows that may change `Fuses.fixed`: CLAIM, OWNER_FUSES_BLOWN, UDS_DESTROYED and ROLLBACK_BLOW (R384, R412,
R416, R417, R421). -/
def blowsFuses : Instr → Bool
  | .claim .. | .rollbackBlow | .udsDestroyed | .ownerFusesBlown => true
  | _ => false

/-- A command that blows no fuse has a next state, with the queue and the fixed fuses as they were. -/
theorem exec_keeps (s : State) : ∀ i : Instr, blowsFuses i = false → Keeps s (exec i s)
  | .claim .., h | .rollbackBlow, h | .udsDestroyed, h | .ownerFusesBlown, h => absurd h Bool.noConfusion
  | .hello .., _ => execHello_keeps ..
  | .prove .., _ => execProve_keeps ..
  | .close .., _ => execClose_keeps ..
  | .ping .., _ => execPing_keeps ..
  | .sessionInfo .., _ => execSessionInfo_keeps ..
  | .policySet .., _ => execPolicySet_keeps ..
  | .policyGet .., _ => execPolicyGet_keeps ..
  | .credSet .., _ => execCredSet_keeps ..
  | .readmit .., _ => execReadmit_keeps ..
  | .decommission .., _ => execDecommission_keeps ..
  | .relaySet .., _ => execRelaySet_keeps ..
  | .intakeSet .., _ => execIntakeSet_keeps ..
  | .chaseCreate .., _ => execChaseCreate_keeps ..
  | .chaseChange .., _ => execChaseChange_keeps ..
  | .chaseRelease .., _ => execChaseRelease_keeps ..
  | .chaseInfo .., _ => execChaseInfo_keeps ..
  | .chaseClaim .., _ => execChaseClaim_keeps ..
  | .formeLoad .., _ => execFormeLoad_keeps ..
  | .formeStage .., _ => execFormeStage_keeps ..
  | .formeFree .., _ => execFormeFree_keeps ..
  | .impose .., _ => execImpose_keeps ..
  | .change .., _ => execChange_keeps ..
  | .serveSet .., _ => execServeSet_keeps ..
  | .scanOut .., _ => execScanOut_keeps ..
  | .scanIn .., _ => execScanIn_keeps ..
  | .formeList .., _ => execFormeList_keeps ..
  | .signkeySet .., _ => execSignkeySet_keeps ..
  | .formeKeyGet .., _ => execFormeKeyGet_keeps ..
  | .objCreate .., _ => execObjCreate_keeps ..
  | .put .., _ => execPut_keeps ..
  | .seal .., _ => execSeal_keeps ..
  | .get .., _ => execGet_keeps ..
  | .move .., _ => execMove_keeps ..
  | .objFree .., _ => execObjFree_keeps ..
  | .windowSet .., _ => execWindowSet_keeps ..
  | .objInfo .., _ => execObjInfo_keeps ..
  | .score .., _ => execScore_keeps ..
  | .generate .., _ => execGenerate_keeps ..
  | .fileSubmit .., _ => execFileSubmit_keeps ..
  | .cancel .., _ => execCancel_keeps ..
  | .resend .., _ => execResend_keeps ..
  | .jobOpen .., _ => execJobOpen_keeps ..
  | .jobStep .., _ => execJobStep_keeps ..
  | .jobRejoin .., _ => execJobRejoin_keeps ..
  | .jobClose .., _ => execJobClose_keeps ..
  | .readReg .., _ => execReadReg_keeps ..
  | .writeReg .., _ => execWriteReg_keeps ..
  | .resetReq .., _ => execResetReq_keeps ..
  | .resetReadmit .., _ => execResetReadmit_keeps ..
  | .healthEventsClear .., _ => execHealthEventsClear_keeps ..
  | .colophon .., _ => execColophon_keeps ..
  | .powerCap .., _ => execPowerCap_keeps ..
  | .pullRead .., _ => execPullRead_keeps ..
  | .askestPacket .., _ => execAskestPacket_keeps ..
  | .reassemblyTimeout .., _ => execReassemblyTimeout_keeps ..
  | .sessionPendingTimeout .., _ => execSessionPendingTimeout_keeps ..
  | .sessionIdleTimeout .., _ => execSessionIdleTimeout_keeps ..
  | .fileIdleTimeout .., _ => execFileIdleTimeout_keeps ..
  | .heldChunkTimeout .., _ => execHeldChunkTimeout_keeps ..
  | .policyTakeEffect .., _ => execPolicyTakeEffect_keeps ..
  | .portRetrain .., _ => execPortRetrain_keeps ..
  | .arpRequest .., _ => execArpRequest_keeps ..
  | .neighborSolicitation .., _ => execNeighborSolicitation_keeps ..
  | .mkaFrame .., _ => execMkaFrame_keeps ..
  | .relayFrame .., _ => execRelayFrame_keeps ..
  | .relayReply .., _ => execRelayReply_keeps ..
  | .intakeFrame .., _ => execIntakeFrame_keeps ..
  | .flowIdleExpiry .., _ => execFlowIdleExpiry_keeps ..
  | .flowActiveExpiry .., _ => execFlowActiveExpiry_keeps ..
  | .intakeScore, _ => execIntakeScore_keeps ..
  | .intakeRetry .., _ => execIntakeRetry_keeps ..
  | .intakeResult .., _ => execIntakeResult_keeps ..
  | .intakeNotify, _ => execIntakeNotify_keeps ..
  | .imageCheckBegin, _ => execImageCheckBegin_keeps ..
  | .imageCheckDone, _ => execImageCheckDone_keeps ..
  | .fenceDrainDone .., _ => execFenceDrainDone_keeps ..
  | .scrubDone .., _ => execScrubDone_keeps ..
  | .pageLoadDone .., _ => execPageLoadDone_keeps ..
  | .shadowLoadDone .., _ => execShadowLoadDone_keeps ..
  | .lockupInject .., _ => execLockupInject_keeps ..
  | .lockupTake .., _ => execLockupTake_keeps ..
  | .tileSwitch .., _ => execTileSwitch_keeps ..
  | .preloadDone .., _ => execPreloadDone_keeps ..
  | .changeTimeout .., _ => execChangeTimeout_keeps ..
  | .tokenEject .., _ => execTokenEject_keeps ..
  | .tokenTake .., _ => execTokenTake_keeps ..
  | .fire .., _ => execFire_keeps ..
  | .branchFire .., _ => execBranchFire_keeps ..
  | .selectFire .., _ => execSelectFire_keeps ..
  | .steerFire .., _ => execSteerFire_keeps ..
  | .mergeFire .., _ => execMergeFire_keeps ..
  | .loopFire .., _ => execLoopFire_keeps ..
  | .loopEmit .., _ => execLoopEmit_keeps ..
  | .emit .., _ => execEmit_keeps ..
  | .creditReturn .., _ => execCreditReturn_keeps ..
  | .granuleLand .., _ => execGranuleLand_keeps ..
  | .bankGrant .., _ => execBankGrant_keeps ..
  | .longGutterRoute .., _ => execLongGutterRoute_keeps ..
  | .creditToken .., _ => execCreditToken_keeps ..
  | .remoteCreditFlush .., _ => execRemoteCreditFlush_keeps ..
  | .misregEvent .., _ => execMisregEvent_keeps ..
  | .misreg .., _ => execMisreg_keeps ..
  | .mov .., _ => execMov_keeps ..
  | .ld .., _ => execLd_keeps ..
  | .st .., _ => execSt_keeps ..
  | .bcr .., _ => execBcr_keeps ..
  | .bcc .., _ => execBcc_keeps ..
  | .bcs .., _ => execBcs_keeps ..
  | .extr .., _ => execExtr_keeps ..
  | .ins .., _ => execIns_keeps ..
  | .rotr .., _ => execRotr_keeps ..
  | .rotc .., _ => execRotc_keeps ..
  | .trans .., _ => execTrans_keeps ..
  | .bfly .., _ => execBfly_keeps ..
  | .add .., _ => execAdd_keeps ..
  | .sub .., _ => execSub_keeps ..
  | .mul .., _ => execMul_keeps ..
  | .fma .., _ => execFma_keeps ..
  | .div .., _ => execDiv_keeps ..
  | .sqrt .., _ => execSqrt_keeps ..
  | .min .., _ => execMin_keeps ..
  | .max .., _ => execMax_keeps ..
  | .abs .., _ => execAbs_keeps ..
  | .neg .., _ => execNeg_keeps ..
  | .and .., _ => execAnd_keeps ..
  | .or .., _ => execOr_keeps ..
  | .xor .., _ => execXor_keeps ..
  | .not .., _ => execNot_keeps ..
  | .shl .., _ => execShl_keeps ..
  | .shr .., _ => execShr_keeps ..
  | .exp .., _ => execExp_keeps ..
  | .log .., _ => execLog_keeps ..
  | .rsqrt .., _ => execRsqrt_keeps ..
  | .tanh .., _ => execTanh_keeps ..
  | .erf .., _ => execErf_keeps ..
  | .cmp .., _ => execCmp_keeps ..
  | .sel .., _ => execSel_keeps ..
  | .cvt .., _ => execCvt_keeps ..
  | .mpop .., _ => execMpop_keeps ..
  | .mand .., _ => execMand_keeps ..
  | .mor .., _ => execMor_keeps ..
  | .mxor .., _ => execMxor_keeps ..
  | .mnot .., _ => execMnot_keeps ..
  | .rsum .., _ => execRsum_keeps ..
  | .rmax .., _ => execRmax_keeps ..
  | .rmin .., _ => execRmin_keeps ..
  | .gadd .., _ => execGadd_keeps ..
  | .vmul .., _ => execVmul_keeps ..
  | .vdiv .., _ => execVdiv_keeps ..
  | .frd .., _ => execFrd_keeps ..
  | .fprd .., _ => execFprd_keeps ..
  | .fsum .., _ => execFsum_keeps ..
  | .fclr .., _ => execFclr_keeps ..
  | .pmac .., _ => execPmac_keeps ..
  | .fillStart .., _ => execFillStart_keeps ..
  | .fillComplete .., _ => execFillComplete_keeps ..
  | .slotRelease .., _ => execSlotRelease_keeps ..
  | .slipIn .., _ => execSlipIn_keeps ..
  | .slipOut .., _ => execSlipOut_keeps ..
  | .drainTake .., _ => execDrainTake_keeps ..
  | .drainWrite .., _ => execDrainWrite_keeps ..
  | .passBegin .., _ => execPassBegin_keeps ..
  | .walkComplete .., _ => execWalkComplete_keeps ..
  | .compositorRow .., _ => execCompositorRow_keeps ..
  | .commit .., _ => execCommit_keeps ..
  | .stepHold .., _ => execStepHold_keeps ..
  | .granuleRead .., _ => execGranuleRead_keeps ..
  | .granuleWrite .., _ => execGranuleWrite_keeps ..
  | .retrainDone .., _ => execRetrainDone_keeps ..
  | .softPpr .., _ => execSoftPpr_keeps ..
  | .patrolRead .., _ => execPatrolRead_keeps ..
  | .granuleJoin .., _ => execGranuleJoin_keeps ..
  | .moveComplete .., _ => execMoveComplete_keeps ..
  | .windowFill .., _ => execWindowFill_keeps ..
  | .faultDetect .., _ => execFaultDetect_keeps ..
  | .captureDone .., _ => execCaptureDone_keeps ..
  | .pullDrainDone .., _ => execPullDrainDone_keeps ..
  | .resetLineAssert .., _ => execResetLineAssert_keeps ..
  | .domainResetComplete .., _ => execDomainResetComplete_keeps ..
  | .firingWd .., _ => execFiringWd_keeps ..
  | .progress .., _ => execProgress_keeps ..
  | .commandWd .., _ => execCommandWd_keeps ..
  | .packageReset .., _ => execPackageReset_keeps ..
  | .wearSample .., _ => execWearSample_keeps ..
  | .phaseRetire .., _ => execPhaseRetire_keeps ..
  | .discoveryMsg .., _ => execDiscoveryMsg_keeps ..
  | .linkFrame .., _ => execLinkFrame_keeps ..
  | .frameNak .., _ => execFrameNak_keeps ..
  | .laneSpareRetrain .., _ => execLaneSpareRetrain_keeps ..
  | .linkRekey .., _ => execLinkRekey_keeps ..
  | .rekeyMsg .., _ => execRekeyMsg_keeps ..
  | .syncMsg .., _ => execSyncMsg_keeps ..
  | .lossOfSignal .., _ => execLossOfSignal_keeps ..
  | .joinMsg .., _ => execJoinMsg_keeps ..
  | .joinTimeout .., _ => execJoinTimeout_keeps ..
  | .fenceMsg .., _ => execFenceMsg_keeps ..
  | .rejoinMsg .., _ => execRejoinMsg_keeps ..
  | .rejoinAck .., _ => execRejoinAck_keeps ..
  | .vinRise, _ => execVinRise_keeps ..
  | .vinUnder, _ => execVinUnder_keeps ..
  | .vinOver, _ => execVinOver_keeps ..
  | .epoN, _ => execEpoN_keeps ..
  | .thermTripN, _ => execThermTripN_keeps ..
  | .thermTripRelease .., _ => execThermTripRelease_keeps ..
  | .resetN, _ => execResetN_keeps ..
  | .pwrAlertN, _ => execPwrAlertN_keeps ..
  | .alertRelease, _ => execAlertRelease_keeps ..
  | .refclkLoss .., _ => execRefclkLoss_keeps ..
  | .refclkReturn .., _ => execRefclkReturn_keeps ..
  | .tempSample .., _ => execTempSample_keeps ..
  | .thermalFloorEnd, _ => execThermalFloorEnd_keeps ..
  | .curBinUpdate .., _ => execCurBinUpdate_keeps ..
  | .tiFall, _ => execTiFall_keeps ..
  | .railsSettled .., _ => execRailsSettled_keeps ..
  | .limiter .., _ => execLimiter_keeps ..
  | .limiterHandback .., _ => execLimiterHandback_keeps ..
  | .throttleStep .., _ => execThrottleStep_keeps ..
  | .holdEnd .., _ => execHoldEnd_keeps ..
  | .overdriveEval .., _ => execOverdriveEval_keeps ..
  | .senseCheck .., _ => execSenseCheck_keeps ..
  | .laneShort .., _ => execLaneShort_keeps ..
  | .aonCheck .., _ => execAonCheck_keeps ..
  | .bootStatus, _ => execBootStatus_keeps ..
  | .bootConfig .., _ => execBootConfig_keeps ..
  | .fwChunk .., _ => execFwChunk_keeps ..
  | .bootDatagram .., _ => execBootDatagram_keeps ..
  | .fwDeliveryTimeout, _ => execFwDeliveryTimeout_keeps ..
  | .fwVerifyDone, _ => execFwVerifyDone_keeps ..
  | .bringUpDone .., _ => execBringUpDone_keeps ..
  | .claimWindow .., _ => execClaimWindow_keeps ..
  | .claimWindowExpiry, _ => execClaimWindowExpiry_keeps ..
  | .getVersion, _ => execGetVersion_keeps ..
  | .getCapabilities, _ => execGetCapabilities_keeps ..
  | .negotiateAlgorithms, _ => execNegotiateAlgorithms_keeps ..
  | .getDigests, _ => execGetDigests_keeps ..
  | .getCertificate .., _ => execGetCertificate_keeps ..
  | .challenge .., _ => execChallenge_keeps ..
  | .getMeasurements .., _ => execGetMeasurements_keeps ..
  | .unsupportedRequest .., _ => execUnsupportedRequest_keeps ..
  | .scanDone .., _ => execScanDone_keeps ..
  | .torusPortTrained .., _ => execTorusPortTrained_keeps ..
  | .inputPowerLoss, _ => execInputPowerLoss_keeps ..
  | .epoNRelease, _ => execEpoNRelease_keeps ..
  | .inputOorChange .., _ => execInputOorChange_keeps ..
  | .jtagInstruction .., _ => execJtagInstruction_keeps ..

/-- Every command has a next state, with the queue as it was (log 17). -/
theorem exec_pending (i : Instr) (s : State) : ∃ t, exec i s = .next t ∧ t.pending = s.pending := by
  cases hb : blowsFuses i with
  | false =>
    obtain ⟨t, he, hp, -⟩ := exec_keeps s i hb
    exact ⟨t, he, hp⟩
  | true =>
    cases i
    case claim h pub label => exact execClaim_pending h pub label s
    case rollbackBlow => exact execRollbackBlow_pending s
    case udsDestroyed => exact execUdsDestroyed_pending s
    case ownerFusesBlown => exact execOwnerFusesBlown_pending s
    all_goals cases hb

/-- Settles O5: a tick keeps the empty queue, and the command at the front runs on the queue's rest and keeps it. -/
theorem stepKeepsQueue : Obligations.StepKeepsQueue := by
  intro s t hst
  cases hq : s.pending with
  | nil =>
    obtain ⟨htick, hnil, -⟩ := emptyQueueTicks s hq
    cases htick.symm.trans hst
    exact hnil
  | cons c rest =>
    obtain ⟨u, he, hp⟩ := exec_pending c { s with pending := rest }
    cases he.symm.trans ((step_of_pending_cons hq).symm.trans hst)
    exact hp

end Sys2Proof.Machine
end

section
/-! SUPPORT. Proofs about the doorbell queues (R47): whose turn it is, what taking a descriptor does, and where a new
one goes. -/

namespace Sys2Proof.Machine

/-! ### The turn of a doorbell queue (R47) -/

/-- The turn is at queue `q` when it is the first, from the queue after the last one taken, with anything in it. -/
theorem nextQueue_eq_some_iff {s : State} {q : Nat} : nextQueue s = some q ↔
    ∃ i < 6, q = (s.doorPtr + i) % 6 ∧ (∀ j < i, s.doorbells.getD ((s.doorPtr + j) % 6) [] = []) ∧
      s.doorbells.getD q [] ≠ [] := by
  simp only [nextQueue, List.find?_map, Option.map_eq_some_iff, List.find?_range_eq_some, Function.comp_apply,
    List.mem_range, Bool.not_not, Bool.not_eq_true', List.isEmpty_iff, List.isEmpty_eq_false_iff]
  constructor
  · rintro ⟨i, ⟨hi, hlt, hempty⟩, rfl⟩
    exact ⟨i, hlt, rfl, hempty, hi⟩
  · rintro ⟨i, hlt, rfl, hempty, hi⟩
    exact ⟨i, ⟨hi, hlt, hempty⟩, rfl⟩

/-- A command whose descriptor waits goes on exactly when that descriptor heads the queue at the turn. -/
theorem takeDesc_eq_some_iff {s t : State} {h : CmdHdr} {op : Nat}
    (hw : ∃ q ∈ s.doorbells, ∃ d ∈ q, d.isOf h op = true) :
    takeDesc s h op = some t ↔ ∃ (q : Nat) (d : Descriptor) (r : List Descriptor), nextQueue s = some q ∧
      s.doorbells.getD q [] = d :: r ∧ d.isOf h op = true ∧
      t = { s with doorbells := lset s.doorbells q r, doorPtr := (q + 1) % 6 } := by
  have hany : (s.doorbells.any fun q => q.any fun d => d.isOf h op) = true := by
    simpa only [List.any_eq_true] using hw
  rw [takeDesc, if_pos hany]
  constructor
  · intro ht
    split at ht
    · next q hn =>
      split at ht
      · next d r hd =>
        obtain ⟨hof, he⟩ := Option.ite_none_right_eq_some.mp ht
        exact ⟨q, d, r, hn, hd, hof, (Option.some.inj he).symm⟩
      · cases ht
    · cases ht
  · rintro ⟨q, d, r, hn, hd, hof, rfl⟩
    simp only [hn, hd, hof, if_true]

/-- A descriptor written to a queue with room goes behind the others (R46, R47). -/
theorem push_of_room {s : State} {ep : Nat} (x : Reasm) (body : Bytes)
    (hroom : (s.doorbells.getD ep []).length < 1024) :
    ∃ d : Descriptor, complete.push s ep x body = { s with doorbells := lmod s.doorbells ep fun q => q ++ [d] } := by
  rw [complete.push, if_neg (Nat.not_le.mpr hroom)]
  exact ⟨_, rfl⟩

/-- Settles O11, by what the turn is and what taking a descriptor at it does. -/
theorem doorbellsRoundRobin : Obligations.DoorbellsRoundRobin := by
  intro s t h op hw
  refine ⟨?_, fun ep x body => push_of_room x body⟩
  rw [takeDesc_eq_some_iff hw]
  constructor
  · rintro ⟨q, d, r, hn, hd, hof, ht⟩
    obtain ⟨i, hlt, hq, hempty, -⟩ := nextQueue_eq_some_iff.mp hn
    exact ⟨i, q, d, r, hlt, hq, hempty, hd, hof, ht⟩
  · rintro ⟨i, q, d, r, hlt, hq, hempty, hd, hof, ht⟩
    have hn : nextQueue s = some q := nextQueue_eq_some_iff.mpr ⟨i, hlt, hq, hempty, hd ▸ List.cons_ne_nil d r⟩
    exact ⟨q, d, r, hn, hd, hof, ht⟩

end Sys2Proof.Machine
end

section
/-! SUPPORT. Proofs about the events of the intake (R378 to R382), one lemma per event and outcome. -/

namespace Sys2Proof.Machine

/-! ### The events of the intake (R378 to R382) -/

/-- The record at an index is of the flow of a frame (R379). -/
def hasFlow (s : State) (f : IntakeFrame) (i : Nat) : Bool :=
  match kget s.intake.recs i with
  | some r => flowKey r.key == flowKey f
  | none => false

/-- An index is free for a new record: empty, scored or failed (R379). -/
def isFree (s : State) (i : Nat) : Bool :=
  match kget s.intake.recs i with
  | some r => r.state == 3 || r.state == 4
  | none => true

/-- A frame that cannot be recorded is counted. -/
theorem execIntakeFrame_of_skip {s : State} {ep : Nat} {frame : Bytes} (hp : portServes s ep 2 = true)
    (hf : intakeOf (tunnelPorts s).1 (tunnelPorts s).2 frame = none) :
    execIntakeFrame ep frame s = .next (countIntake s 18) := by
  simp only [execIntakeFrame, hp, hf, Bool.not_true, Bool.false_eq_true, if_false]

section
variable {s : State} {ep c : Nat} {frame : Bytes} {k : IntakeCfg} {f : IntakeFrame}
  (hp : portServes s ep 2 = true) (hf : intakeOf (tunnelPorts s).1 (tunnelPorts s).2 frame = some f)
  (hon : intakeOn s = some (c, k))
include hp hf hon

/-- A frame of a flow with a record adds to it while it is OPEN, and else is only counted in it. -/
theorem execIntakeFrame_of_hasFlow {i : Nat} {r : FlowRec}
    (hi : (bucketRecs k.nrec (flowHash s c f)).find? (hasFlow s f) = some i) (hr : kget s.intake.recs i = some r) :
    execIntakeFrame ep frame s =
      let fwd := endpoint r.key.srcAddr r.key.srcPort == endpoint f.srcAddr f.srcPort
      .next (if r.state = 1 then takePacket s c k i r fwd f else putRec s c k i (countPacket r fwd s.now f.ipLen)) := by
  simp only [execIntakeFrame, hp, hf, hon, Bool.not_true, Bool.false_eq_true, if_false]
  split
  · next j hj =>
    cases hj.symm.trans hi
    simp only [hr]
  · next hj => cases hj.symm.trans hi

/-- A frame of a new flow opens a record at the first free index of its bucket (R379). -/
theorem execIntakeFrame_of_free {i : Nat}
    (hn : (bucketRecs k.nrec (flowHash s c f)).find? (hasFlow s f) = none)
    (hi : (bucketRecs k.nrec (flowHash s c f)).find? (isFree s) = some i) :
    execIntakeFrame ep frame s = .next (takePacket s c k i (openRec (flowHash s c f) s.now f) true f) := by
  simp only [execIntakeFrame, hp, hf, hon, Bool.not_true, Bool.false_eq_true, if_false]
  split
  · next j hj => cases hj.symm.trans hn
  · split
    · next j hj => cases hj.symm.trans hi; rfl
    · next hj => cases hj.symm.trans hi

/-- A frame of a new flow whose bucket has no free index is counted in INTAKE_FULL (R379). -/
theorem execIntakeFrame_of_full (hn : (bucketRecs k.nrec (flowHash s c f)).find? (hasFlow s f) = none)
    (hi : (bucketRecs k.nrec (flowHash s c f)).find? (isFree s) = none) :
    execIntakeFrame ep frame s = .next (chev s c 19) := by
  simp only [execIntakeFrame, hp, hf, hon, Bool.not_true, Bool.false_eq_true, if_false]
  split
  · next j hj => cases hj.symm.trans hn
  · split
    · next j hj => cases hj.symm.trans hi
    · rfl

end

section
variable {s : State} {idx c : Nat} {k : IntakeCfg} {r : FlowRec} (hon : intakeOn s = some (c, k))
  (hr : kget s.intake.recs idx = some r)
include hon hr

/-- An OPEN record without a packet for IDLE_MS completes with cause 2 (R381). -/
theorem execFlowIdleExpiry_of_due (hs : r.state = 1) (hdue : r.lastNs + k.idleMs * 1000000 ≤ s.now) :
    execFlowIdleExpiry idx s = .next (completeRec s c k idx r 2) := by
  simp only [execFlowIdleExpiry, hon, hr, hs, hdue, and_self, if_true]

/-- An OPEN record that is ACTIVE_MS old completes with cause 3 (R381). -/
theorem execFlowActiveExpiry_of_due (hs : r.state = 1) (hdue : r.firstNs + k.activeMs * 1000000 ≤ s.now) :
    execFlowActiveExpiry idx s = .next (completeRec s c k idx r 3) := by
  simp only [execFlowActiveExpiry, hon, hr, hs, hdue, and_self, if_true]

/-- A refused SCORE that is due again gets a new descriptor, counted in INTAKE_DEFER (R382). -/
theorem execIntakeRetry_of_due {ns : Nat} (hs : r.state = 2) (ht : r.retryAt = some ns) (hdue : ns ≤ s.now) :
    execIntakeRetry idx s =
      .next (queueScore (modRec (chev s c 20) idx fun r => { r with retryAt := none }) idx) := by
  simp only [execIntakeRetry, hon, hr, ht, hs, hdue, and_self, if_true]

end

/-- At the turn of the intake's doorbell its first descriptor is taken (R47). -/
theorem takeIntake_of_turn {s : State} {d : Descriptor} {rest : List Descriptor} (hn : nextQueue s = some 5)
    (hd : s.doorbells.getD 5 [] = d :: rest) :
    takeIntake s = some (d.reqId, { s with doorbells := lset s.doorbells 5 rest, doorPtr := 0 }) := by
  simp only [takeIntake, hn, hd, if_true]

/-- The descriptor of a complete record, taken at its turn, is scored once the next record has its place (R382). -/
theorem execIntakeScore_of_turn {s t : State} {c idx : Nat} {k : IntakeCfg} {r : FlowRec}
    (ht : takeIntake s = some (idx, t)) (hon : intakeOn (fillIntake t) = some (c, k))
    (hr : kget (fillIntake t).intake.recs idx = some r) (hs : r.state = 2) (hq : r.req = 0) :
    execIntakeScore s = .next (scoreRec (fillIntake t) c k idx r) := by
  simp only [execIntakeScore, ht, hon, hr, hs, hq, and_self, if_true]

/-- The record of an internal SCORE that has ended: SCORED with its result, or FAILED (R382). -/
def endedRec (q : Req) (r : FlowRec) : FlowRec := { r with
  state := if q.state == .done then 3 else 4
  result := if q.state == .done then padTo 16 (if q.stop = 0 then q.reply else []) else r.result
  req := 0 }

/-- An entry kept for the next notice; the time runs from the first one unreported (R382). -/
def keepNotice (t : State) (entry : Bytes) : State := { t with intake := { t.intake with
  unreported := t.intake.unreported ++ [(t.now, entry)]
  unreportedNs := if t.intake.unreported.isEmpty then t.now else t.intake.unreportedNs } }

/-- A result is written, and kept for the report where one is asked for. -/
theorem execIntakeResult_of_ended {s : State} {idx c : Nat} {k : IntakeCfg} {r : FlowRec} {q : Req}
    (hon : intakeOn s = some (c, k)) (hr : kget s.intake.recs idx = some r) (hq : req s r.req = some q)
    (hs : r.state = 2) (hfinal : q.state.final = true) (harray : inArray s q.chase r.req = false) :
    execIntakeResult idx s =
      let t := putRec { s with reqs := kdel s.reqs r.req } c k idx (endedRec q r)
      .next (if t.intake.notifyTo.isSome then
        keepNotice t (noticeEntry idx (reqFlags s q (decide (q.state = .done)) true) (endedRec q r)) else t) := by
  simp only [execIntakeResult, hon, hr, hq, hs, hfinal, harray, ne_eq, not_true_eq_false, Bool.not_true,
    Bool.false_eq_true, or_self, if_false]
  rfl

/-- A report that is due carries the first 32 entries; the time of the rest runs from the first of them. -/
theorem execIntakeNotify_of_due {s : State} {session reqId : Nat} (hto : s.intake.notifyTo = some (session, reqId))
    (hne : s.intake.unreported ≠ [])
    (hdue : 32 ≤ s.intake.unreported.length ∨ s.intake.unreportedNs + 100000 ≤ s.now) :
    execIntakeNotify s =
      let l := s.intake.unreported
      let t := replyLive s session reqId St.partialOut 0 ((l.take 32).flatMap Prod.snd)
      .next { t with intake := { t.intake with
        unreported := l.drop 32, unreportedNs := ((l.drop 32).head?.map Prod.fst).getD 0 } } := by
  have hgo : ¬(s.intake.unreported.isEmpty || (decide (s.intake.unreported.length < 32) &&
      decide (s.now < s.intake.unreportedNs + 100000))) = true := by
    simp only [Bool.or_eq_true, List.isEmpty_iff, Bool.and_eq_true, decide_eq_true_eq]
    rintro (hnil | ⟨hlen, hnow⟩)
    · exact hne hnil
    · omega
  simp only [execIntakeNotify, hto, if_neg hgo]

/-- Settles O46, event by event: a frame by what its bucket holds, then the expiries, the SCORE at its turn, the retry,
the result and the report. -/
theorem intakeEventsComplete : Obligations.IntakeEventsComplete := by
  refine ⟨fun s ep frame hp => ⟨execIntakeFrame_of_skip hp, fun c k f hf hon => ⟨?_, ?_, ?_⟩⟩,
    fun s idx c k r => execFlowIdleExpiry_of_due, fun s idx c k r => execFlowActiveExpiry_of_due, ?_,
    fun s idx c ns k r hon hr hs ht => execIntakeRetry_of_due hon hr hs ht, ?_,
    fun s session reqId => execIntakeNotify_of_due⟩
  · intro i r hi hr
    have h := execIntakeFrame_of_hasFlow hp hf hon hi hr
    exact ⟨fun hs => h.trans (congrArg _ (if_pos hs)), fun hs => h.trans (congrArg _ (if_neg hs))⟩
  · intro i hn hi
    exact execIntakeFrame_of_free hp hf hon hn hi
  · intro hn hi
    exact execIntakeFrame_of_full hp hf hon hn hi
  · intro s c k r d rest hn hd t
    exact execIntakeScore_of_turn (takeIntake_of_turn hn hd)
  · intro s idx c k r q hon hr hq hs hfinal harray r' t
    have h := execIntakeResult_of_ended hon hr hq hs hfinal harray
    refine ⟨fun hto => h.trans (congrArg _ (if_neg ?_)), fun hto => h.trans (congrArg _ (if_pos ?_))⟩
    · exact Option.not_isSome_iff_eq_none.mpr hto
    · exact Option.isSome_iff_ne_none.mpr hto

end Sys2Proof.Machine
end

section
/-! SUPPORT. Proofs about the arithmetic of the vector engine: integer results saturate (R68, R69), and the flags of
one result combine as R94 says. -/

namespace Sys2Proof.Machine

/-! ### Integer codes (R68) -/

/-- UINT8 holds what its bits count; every other integer format holds the two's complement range of its width. -/
theorem intRange_shape {fmt : Nat} {lo hi : Int} (h : intRange fmt = some (lo, hi)) :
    (fmt = F.uint8 ∧ lo = 0 ∧ hi = 255) ∨
      (fmt ≠ F.uint8 ∧ 0 < fmtBits fmt ∧ lo = -2 ^ (fmtBits fmt - 1) ∧ hi = 2 ^ (fmtBits fmt - 1) - 1) := by
  unfold intRange at h
  split at h <;> cases h <;> decide

/-- Zero lies in the range of every integer format. -/
theorem zero_mem_intRange {fmt : Nat} {lo hi : Int} (h : intRange fmt = some (lo, hi)) : lo ≤ 0 ∧ 0 ≤ hi := by
  unfold intRange at h
  split at h <;> cases h <;> decide

/-- Reducing to `w` bits leaves a code of `w` bits as it is. -/
theorem ofSigned_mod (w : Nat) (i : Int) : ofSigned w i % 2 ^ w = ofSigned w i := by
  have hpos : (0 : Int) < 2 ^ w := by positivity
  refine Nat.mod_eq_of_lt ?_
  rw [ofSigned, Int.toNat_lt (Int.emod_nonneg i hpos.ne')]
  exact_mod_cast Int.emod_lt_of_pos i hpos

/-- The code of an integer that `w` bits hold in two's complement reads as that integer. -/
theorem toSigned_ofSigned {w : Nat} {i : Int} (hw : 0 < w) (hlo : -2 ^ (w - 1) ≤ i) (hhi : i < 2 ^ (w - 1)) :
    toSigned w (ofSigned w i) = i := by
  obtain ⟨v, rfl⟩ := Nat.exists_eq_succ_of_ne_zero hw.ne'
  have hdouble : (2 : Int) ^ (v + 1) = 2 ^ v + 2 ^ v := by ring
  simp only [toSigned, ofSigned, Nat.succ_eq_add_one, Nat.add_sub_cancel] at hlo hhi ⊢
  have hcast : ((2 ^ v : Nat) : Int) = 2 ^ v := Nat.cast_pow 2 v
  rcases Int.lt_or_le i 0 with hneg | hpos
  · have hmod : i % 2 ^ (v + 1) = i + 2 ^ (v + 1) := by
      rw [← Int.add_emod_right, Int.emod_eq_of_lt] <;> omega
    rw [hmod, if_neg] <;> omega
  · have hmod : i % 2 ^ (v + 1) = i := Int.emod_eq_of_lt hpos (by omega)
    rw [hmod, if_pos] <;> omega

/-- A code read back in an integer format's own range (R68). -/
theorem decodeInt_ofSigned {fmt : Nat} {lo hi i : Int} (h : intRange fmt = some (lo, hi)) (hlo : lo ≤ i)
    (hhi : i ≤ hi) : decodeInt fmt (ofSigned (fmtBits fmt) i) = i := by
  rw [decodeInt, maskFmt, ofSigned_mod]
  rcases intRange_shape h with ⟨rfl, rfl, rfl⟩ | ⟨hfmt, hw, rfl, rfl⟩
  · have hmod : i % 2 ^ 8 = i := Int.emod_eq_of_lt hlo (by omega)
    rw [if_pos rfl, show fmtBits F.uint8 = 8 from rfl, ofSigned, hmod, Int.toNat_of_nonneg hlo]
  · rw [if_neg hfmt, toSigned_ofSigned hw hlo (by omega)]

/-! ### Integer results saturate (R69, R119) -/

section IntegerFormat
variable {fmt : Nat} {lo hi : Int}

/-- What a stored integer result reads as: itself in range, else the nearest end of the range. -/
theorem decodeInt_finishI (h : intRange fmt = some (lo, hi)) (i : Int) :
    decodeInt fmt (finishI fmt lo hi i).1 = if i < lo then lo else if hi < i then hi else i := by
  obtain ⟨hlo, hhi⟩ := zero_mem_intRange h
  simp only [finishI, satInt]
  split
  · exact decodeInt_ofSigned h le_rfl (by omega)
  · split
    · exact decodeInt_ofSigned h (by omega) le_rfl
    · exact decodeInt_ofSigned h (by omega) (by omega)

/-- A stored integer result lies in the range of its format. -/
theorem decodeInt_finishI_mem (h : intRange fmt = some (lo, hi)) (i : Int) :
    lo ≤ decodeInt fmt (finishI fmt lo hi i).1 ∧ decodeInt fmt (finishI fmt lo hi i).1 ≤ hi := by
  obtain ⟨hlo, hhi⟩ := zero_mem_intRange h
  rw [decodeInt_finishI h]
  split_ifs <;> omega

/-- Overflow is raised exactly when the result lies outside the range. -/
theorem finishI_overflow (fmt : Nat) (lo hi i : Int) :
    (finishI fmt lo hi i).2.bit 2 = decide (i < lo ∨ hi < i) := by
  simp only [finishI, satInt]
  split
  · next hlt => simp [hlt, Flags.bit, Fl.ofx]
  · next hlt =>
    split
    · next hgt => simp [hgt, Flags.bit, Fl.ofx]
    · next hgt => simp [hlt, hgt, Flags.bit, Fl.none]

variable (h : intRange fmt = some (lo, hi)) (rnd : Rnd) (u a b : Nat)
include h

theorem elemAdd_of_int : elemAdd fmt rnd u a b = finishI fmt lo hi (decodeInt fmt a + decodeInt fmt b) := by
  simp only [elemAdd, h]

theorem elemSub_of_int : elemSub fmt rnd u a b = finishI fmt lo hi (decodeInt fmt a - decodeInt fmt b) := by
  simp only [elemSub, h]

theorem elemMul_of_int : elemMul fmt rnd u a b = finishI fmt lo hi (decodeInt fmt a * decodeInt fmt b) := by
  simp only [elemMul, h]

theorem elemNeg_of_int : elemNeg fmt a = finishI fmt lo hi (-decodeInt fmt a) := by
  simp only [elemNeg, h]

theorem elemAbs_of_int : elemAbs fmt a = finishI fmt lo hi (decodeInt fmt a).natAbs := by
  simp only [elemAbs, h]

theorem elemDiv_of_int :
    elemDiv fmt rnd u a b = elemDivInt fmt lo hi rnd u (decodeInt fmt a) (decodeInt fmt b) := by
  simp only [elemDiv, h]

end IntegerFormat

/-- 0 ÷ 0 gives 0 with invalid raised (R69). -/
theorem elemDivInt_zero_zero (fmt : Nat) (lo hi : Int) (rnd : Rnd) (u : Nat) :
    elemDivInt fmt lo hi rnd u 0 0 = (0, Fl.nv) := rfl

/-- A dividend other than 0 by 0 gives the end of the range on its side with divide-by-zero raised (R69). -/
theorem elemDivInt_zero (fmt : Nat) (lo hi : Int) (rnd : Rnd) (u : Nat) {x : Int} (hx : x ≠ 0) :
    elemDivInt fmt lo hi rnd u x 0 = (ofSigned (fmtBits fmt) (if 0 < x then hi else lo), Fl.dz) := by
  rw [elemDivInt, if_pos rfl, if_neg hx]

/-- Division by anything but 0 stores some integer as every operation does, and raises that store's flags, or inexact
where it raises none (R69, R89). -/
theorem elemDivInt_of_ne_zero (fmt : Nat) (lo hi : Int) (rnd : Rnd) (u : Nat) (x : Int) {y : Int} (hy : y ≠ 0) :
    ∃ (i : Int) (inexact : Bool), elemDivInt fmt lo hi rnd u x y =
      ((finishI fmt lo hi i).1, if (finishI fmt lo hi i).2 = Fl.none ∧ inexact then Fl.nx
        else (finishI fmt lo hi i).2) := by
  rw [elemDivInt, if_neg hy]
  exact ⟨_, _, rfl⟩

/-- Settles O16: every result is stored by `finishI`, which saturates, but for the divisions by zero. -/
theorem integersSaturate : Obligations.IntegersSaturate := by
  intro fmt u a b rnd lo hi h clamp beyond x y
  obtain ⟨hlo, hhi⟩ := zero_mem_intRange h
  have hstore (i : Int) : decodeInt fmt (finishI fmt lo hi i).1 = clamp i ∧
      (finishI fmt lo hi i).2.bit 2 = beyond i := ⟨decodeInt_finishI h i, finishI_overflow fmt lo hi i⟩
  rw [elemAdd_of_int h, elemSub_of_int h, elemMul_of_int h, elemNeg_of_int h, elemAbs_of_int h, elemDiv_of_int h]
  refine ⟨hstore _, hstore _, hstore _, hstore _, hstore _, fun hy hx => ?_, fun hy hx => ?_, fun hy hx => ?_,
    fun hy => ?_⟩
  · rw [show decodeInt fmt b = 0 from hy, elemDivInt_zero fmt lo hi rnd u hx.ne', if_pos hx]
    exact ⟨decodeInt_ofSigned h (by omega) le_rfl, rfl⟩
  · rw [show decodeInt fmt b = 0 from hy, elemDivInt_zero fmt lo hi rnd u hx.ne, if_neg hx.not_gt]
    exact ⟨decodeInt_ofSigned h le_rfl (by omega), rfl⟩
  · rw [show decodeInt fmt b = 0 from hy, show decodeInt fmt a = 0 from hx, elemDivInt_zero_zero]
    have hzero : ofSigned (fmtBits fmt) 0 = 0 := by simp [ofSigned]
    exact ⟨hzero ▸ decodeInt_ofSigned h hlo hhi, rfl⟩
  · obtain ⟨i, inexact, hdiv⟩ := elemDivInt_of_ne_zero fmt lo hi rnd u (decodeInt fmt a) hy
    rw [hdiv]
    exact decodeInt_finishI_mem h i

/-! ### How the flags of one result combine (R93, R94) -/

/-- What R94 allows in the flags of one result: NV and DZ stand alone, OF and UF come with NX. -/
def Flags.Combine (f : Flags) : Prop :=
  (f.bit 0 = true → f = Fl.nv) ∧ (f.bit 1 = true → f = Fl.dz) ∧ (f.bit 2 = true → f.bit 4 = true) ∧
    (f.bit 3 = true → f.bit 4 = true)

@[simp] theorem Flags.combine_none : Flags.Combine Fl.none := by unfold Flags.Combine; decide
@[simp] theorem Flags.combine_nv : Flags.Combine Fl.nv := by unfold Flags.Combine; decide
@[simp] theorem Flags.combine_dz : Flags.Combine Fl.dz := by unfold Flags.Combine; decide
@[simp] theorem Flags.combine_ofx : Flags.Combine Fl.ofx := by unfold Flags.Combine; decide
@[simp] theorem Flags.combine_ufx : Flags.Combine Fl.ufx := by unfold Flags.Combine; decide
@[simp] theorem Flags.combine_nx : Flags.Combine Fl.nx := by unfold Flags.Combine; decide

/-- An integer store raises overflow with inexact, or nothing. -/
@[simp] theorem finishI_combine (fmt : Nat) (lo hi i : Int) : (finishI fmt lo hi i).2.Combine := by
  simp only [finishI, satInt]
  split_ifs <;> simp

/-- An infinity raises overflow where the format has none. -/
@[simp] theorem FFmt.infBits_combine (f : FFmt) (neg : Bool) : (f.infBits neg).2.Combine := by
  unfold FFmt.infBits
  split <;> simp

/-- Rounding raises overflow or underflow with inexact, inexact alone, or nothing. -/
@[simp] theorem FFmt.round_combine (f : FFmt) (rnd : Rnd) (u : Nat) (neg : Bool) (m : Nat) (e : Int) (sticky : Bool) :
    (f.round rnd u neg m e sticky).2.Combine := by
  unfold FFmt.round
  split
  · exact Flags.combine_none
  · extract_lets
    split
    extract_lets
    split
    · split <;> exact Flags.combine_ofx
    · dsimp only
      split_ifs <;> simp

@[simp] theorem FFmt.ofFV_combine (f : FFmt) (rnd : Rnd) (u : Nat) (v : FV) : (f.ofFV rnd u v).2.Combine := by
  cases v with
  | nan =>
    rw [FFmt.ofFV]
    split <;> simp
  | inf neg => exact FFmt.infBits_combine f neg
  | fin neg m e => exact FFmt.round_combine f rnd u neg m e false

/-- A sum raises NV, for infinities of opposite signs, or nothing. -/
@[simp] theorem FV.add_combine (v w : FV) : (v.add w).2.Combine := by
  unfold FV.add
  split
  case h_3 => split <;> simp
  case h_6 =>
    dsimp only
    split <;> exact Flags.combine_none
  all_goals exact Flags.combine_none

/-- A product raises NV, for zero times infinity, or nothing. -/
@[simp] theorem FV.mul_combine (v w : FV) : (v.mul w).2.Combine := by
  unfold FV.mul
  split
  case h_4 => split <;> simp
  case h_5 => split <;> simp
  all_goals exact Flags.combine_none

/-- Rounding an exact result keeps to R94 where the flags of the exact result do. -/
theorem finishF_combine (f : FFmt) (rnd : Rnd) (u : Nat) {r : FV × Flags} (hr : r.2.Combine) :
    (finishF f rnd u r).2.Combine := by
  unfold finishF
  split
  · exact hr
  · exact FFmt.ofFV_combine f rnd u _

theorem elemAdd_combine (fmt : Nat) (rnd : Rnd) (u a b : Nat) : (elemAdd fmt rnd u a b).2.Combine := by
  unfold elemAdd
  split
  · exact finishI_combine ..
  · exact finishF_combine _ _ _ (FV.add_combine ..)

theorem elemSub_combine (fmt : Nat) (rnd : Rnd) (u a b : Nat) : (elemSub fmt rnd u a b).2.Combine := by
  unfold elemSub
  split
  · exact finishI_combine ..
  · exact finishF_combine _ _ _ (FV.add_combine ..)

theorem elemMul_combine (fmt : Nat) (rnd : Rnd) (u a b : Nat) : (elemMul fmt rnd u a b).2.Combine := by
  unfold elemMul
  split
  · exact finishI_combine ..
  · exact finishF_combine _ _ _ (FV.mul_combine ..)

theorem elemNeg_combine (fmt a : Nat) : (elemNeg fmt a).2.Combine := by
  unfold elemNeg
  split
  · exact finishI_combine ..
  · split <;> exact Flags.combine_none

theorem elemAbs_combine (fmt a : Nat) : (elemAbs fmt a).2.Combine := by
  unfold elemAbs
  split
  · exact finishI_combine ..
  · split <;> exact Flags.combine_none

/-- Integer division: by zero NV or DZ alone, else the flags of a store, or inexact. -/
theorem elemDivInt_combine (fmt : Nat) (lo hi : Int) (rnd : Rnd) (u : Nat) (x y : Int) :
    (elemDivInt fmt lo hi rnd u x y).2.Combine := by
  by_cases hy : y = 0
  · subst hy
    by_cases hx : x = 0
    · subst hx
      exact Flags.combine_nv
    · rw [elemDivInt_zero fmt lo hi rnd u hx]
      exact Flags.combine_dz
  · obtain ⟨i, inexact, hdiv⟩ := elemDivInt_of_ne_zero fmt lo hi rnd u x hy
    rw [hdiv]
    dsimp only
    split <;> simp

/-- Floating-point division: by zero NV or DZ alone, else the flags of an infinity or of a rounding. -/
theorem elemDivFlt_combine (f : FFmt) (rnd : Rnd) (u : Nat) (v w : FV) : (elemDivFlt f rnd u v w).2.Combine := by
  unfold elemDivFlt
  split
  case h_3 => exact Flags.combine_nv
  case h_4 => exact FFmt.infBits_combine ..
  case h_6 =>
    split
    · split <;> simp
    · exact FFmt.round_combine ..
  all_goals exact Flags.combine_none

theorem elemDiv_combine (fmt : Nat) (rnd : Rnd) (u a b : Nat) : (elemDiv fmt rnd u a b).2.Combine := by
  unfold elemDiv
  split
  · exact elemDivInt_combine ..
  · exact elemDivFlt_combine ..

theorem elemSqrt_combine (fmt : Nat) (rnd : Rnd) (u a : Nat) : (elemSqrt fmt rnd u a).2.Combine := by
  unfold elemSqrt
  dsimp only
  split
  · exact Flags.combine_none
  · split <;> simp
  · split_ifs <;> simp

theorem elemFma_combine (fmt : Nat) (rnd : Rnd) (u a b c : Nat) : (elemFma fmt rnd u a b c).2.Combine := by
  unfold elemFma
  dsimp only
  split
  · exact Flags.combine_none
  · split
    · exact Flags.combine_nv
    · exact finishF_combine _ _ _ (FV.add_combine ..)

/-! ### A NaN operand gives a NaN and raises nothing (R94) -/

@[simp] theorem FV.nan_add (v : FV) : FV.add .nan v = (.nan, Fl.none) := by cases v <;> rfl
@[simp] theorem FV.add_nan (v : FV) : FV.add v .nan = (.nan, Fl.none) := by cases v <;> rfl
@[simp] theorem FV.nan_mul (v : FV) : FV.mul .nan v = (.nan, Fl.none) := by cases v <;> rfl
@[simp] theorem FV.mul_nan (v : FV) : FV.mul v .nan = (.nan, Fl.none) := by cases v <;> rfl
@[simp] theorem FV.neg_nan : FV.neg .nan = .nan := rfl
@[simp] theorem FV.nan_compare (v : FV) : FV.compare .nan v = none := by cases v <;> rfl
@[simp] theorem FV.compare_nan (v : FV) : FV.compare v .nan = none := by cases v <;> rfl

/-- An exact NaN is stored as the format's NaN with the flags it came with (R62). -/
@[simp] theorem finishF_nan (f : FFmt) (rnd : Rnd) (u : Nat) (fl : Flags) :
    finishF f rnd u (.nan, fl) = (f.nanBits, fl) := rfl

@[simp] theorem elemDivFlt_nan_left (f : FFmt) (rnd : Rnd) (u : Nat) (v : FV) :
    elemDivFlt f rnd u .nan v = (f.nanBits, Fl.none) := by cases v <;> rfl
@[simp] theorem elemDivFlt_nan_right (f : FFmt) (rnd : Rnd) (u : Nat) (v : FV) :
    elemDivFlt f rnd u v .nan = (f.nanBits, Fl.none) := by cases v <;> rfl

section NaNOperand
variable {fmt a : Nat} (hfmt : intRange fmt = none) (hnan : decode fmt a = .nan) (rnd : Rnd) (u b c : Nat)

include hnan

theorem elemSqrt_nan : elemSqrt fmt rnd u a = ((fltOf fmt).nanBits, Fl.none) := by
  simp only [elemSqrt, hnan]

theorem elemFma_nan_addend : elemFma fmt rnd u b c a = ((fltOf fmt).nanBits, Fl.none) := by
  simp only [elemFma, hnan]

/-- Whatever the addend: a NaN factor makes the product a NaN without a flag. -/
theorem elemFma_nan_factor : elemFma fmt rnd u a b c = ((fltOf fmt).nanBits, Fl.none) ∧
    elemFma fmt rnd u b a c = ((fltOf fmt).nanBits, Fl.none) := by
  have hflag : Fl.none ≠ Fl.nv := by decide
  cases hc : decode fmt c <;> simp [elemFma, hnan, hc, hflag]

theorem elemMinMax_nan (isMax : Bool) : elemMinMax isMax fmt a b = ((fltOf fmt).nanBits, Fl.none) ∧
    elemMinMax isMax fmt b a = ((fltOf fmt).nanBits, Fl.none) := by
  simp [elemMinMax, hnan]

include hfmt

theorem elemAdd_nan : elemAdd fmt rnd u a b = ((fltOf fmt).nanBits, Fl.none) ∧
    elemAdd fmt rnd u b a = ((fltOf fmt).nanBits, Fl.none) := by
  simp [elemAdd, hfmt, hnan]

theorem elemSub_nan : elemSub fmt rnd u a b = ((fltOf fmt).nanBits, Fl.none) ∧
    elemSub fmt rnd u b a = ((fltOf fmt).nanBits, Fl.none) := by
  simp [elemSub, hfmt, hnan]

theorem elemMul_nan : elemMul fmt rnd u a b = ((fltOf fmt).nanBits, Fl.none) ∧
    elemMul fmt rnd u b a = ((fltOf fmt).nanBits, Fl.none) := by
  simp [elemMul, hfmt, hnan]

theorem elemDiv_nan : elemDiv fmt rnd u a b = ((fltOf fmt).nanBits, Fl.none) ∧
    elemDiv fmt rnd u b a = ((fltOf fmt).nanBits, Fl.none) := by
  simp [elemDiv, hfmt, hnan]

theorem elemNeg_nan : elemNeg fmt a = ((fltOf fmt).nanBits, Fl.none) := by
  simp only [elemNeg, hfmt, hnan]

theorem elemAbs_nan : elemAbs fmt a = ((fltOf fmt).nanBits, Fl.none) := by
  simp only [elemAbs, hfmt, hnan]

end NaNOperand

/-- Settles O17, operation by operation. -/
theorem flagsCombine : Obligations.FlagsCombine := by
  intro fmt u a b c rnd ok
  refine ⟨⟨elemAdd_combine .., elemSub_combine .., elemMul_combine .., elemDiv_combine .., elemSqrt_combine ..,
    elemFma_combine .., elemNeg_combine .., elemAbs_combine ..⟩, fun hfmt hnan => ?_⟩
  simp only [List.forall_mem_cons, List.not_mem_nil, false_imp_iff, implies_true, and_true]
  obtain ⟨hadd, hadd'⟩ := elemAdd_nan hfmt hnan rnd u b
  obtain ⟨hsub, hsub'⟩ := elemSub_nan hfmt hnan rnd u b
  obtain ⟨hmul, hmul'⟩ := elemMul_nan hfmt hnan rnd u b
  obtain ⟨hdiv, hdiv'⟩ := elemDiv_nan hfmt hnan rnd u b
  obtain ⟨hfma, hfma'⟩ := elemFma_nan_factor hnan rnd u b c
  exact ⟨hadd, hadd', hsub, hsub', hmul, hmul', hdiv, hdiv', elemSqrt_nan hnan rnd u, hfma, hfma',
    elemFma_nan_addend hnan rnd u b c, elemNeg_nan hfmt hnan, elemAbs_nan hfmt hnan, (elemMinMax_nan hnan b true).1,
    (elemMinMax_nan hnan b false).2⟩

end Sys2Proof.Machine
end

section
/-! SUPPORT. Proofs about the operation slots of the vector engine and the platen (R113, R119 to R131): each slot of a
live firing has its effect. -/

namespace Sys2Proof.Machine

/-! ### A slot and its effect -/

/-- A slot at hand in a live firing has its effect, and the firing goes on to its next slot. -/
theorem outcome_of_atSlot {s : State} {t fu opc : Nat} {k : SlotCtx} {op : State → SlotCtx → State}
    (h : AtSlot s t fu opc k) :
    (.next (runSlot s t fu opc op) : Host.Outcome State Fault Refusal) = .next (slotDone (op s k) k.c t fu k.u) :=
  congrArg _ (runSlot_of h)

section Scalar
variable {s : State} {t fu opc : Nat} {k : SlotCtx} {op : State → SlotCtx → Elt → State} (h : AtSlot s t fu opc k)
include h

/-- A slot with a scalar operand has its effect with the scalar's code in the slot's format and its mark. -/
theorem outcome_of_scalar (hk : k.scalarIn.kind = 1) :
    (.next (runSlot s t fu opc fun s k => withScalar s k (op s k)) : Host.Outcome State Fault Refusal) =
      .next (slotDone (op s k (k.scalarIn.payload.toNat % 2 ^ fmtBits k.v.fmt, k.scalarIn.spoil)) k.c t fu k.u) := by
  rw [outcome_of_atSlot h, withScalar_of hk]

/-- A slot whose scalar operand is no scalar raises a forme fault instead. -/
theorem outcome_of_no_scalar (hk : k.scalarIn.kind ≠ 1) :
    (.next (runSlot s t fu opc fun s k => withScalar s k (op s k)) : Host.Outcome State Fault Refusal) =
      .next (slotDone (fabricFault s k.c 0x0103 k.t) k.c t fu k.u) := by
  rw [outcome_of_atSlot h, withScalar, if_pos hk]

end Scalar

/-- Settles O43: BCS, INS and GADD take their operand through the same check. -/
theorem scalarOperandFault : Obligations.ScalarOperandFault := fun _ _ _ _ hk =>
  ⟨fun h => outcome_of_no_scalar h hk, fun h => outcome_of_no_scalar h hk, fun h => outcome_of_no_scalar h hk⟩

/-! ### Accesses to the MT (R139) -/

/-- An access that stays in its window and meets no error still passes through the count of violations, which
saturates at 32 bits: it leaves the state as it was just when the count fits. -/
theorem addressFault_eq_self_iff (s : State) (k : SlotCtx) {fx : AccFx} (hout : fx.outside = 0)
    (hfault : fx.fault = false) : addressFault s k fx = s ↔ s.health.viol ≤ 0xFFFFFFFF := by
  have hfx : addressFault s k fx = violations s 0 := by
    simp only [addressFault, hout, hfault, Bool.false_eq_true, if_false]
  have hcount : (violations s 0).health.viol = min s.health.viol 0xFFFFFFFF := rfl
  have hstate : violations s 0 = { s with health := { s.health with viol := (violations s 0).health.viol } } := rfl
  rw [hfx, ← min_eq_left_iff, ← hcount]
  exact ⟨congrArg fun u : State => u.health.viol, fun h => hstate.trans (by rw [h])⟩

/-- A count of violations beyond the 32 bits that it has in the device (R554). -/
def overcounted : State := { State.reset with health := { State.reset.health with viol := 2 ^ 32 } }

/-- Refutes O38: its clause on accesses that raise nothing is about every state, and in one whose count of violations
stands at 2^32 such an access brings the count down to 2^32 - 1. -/
theorem not_movementSlotsComplete : ¬ Obligations.MovementSlotsComplete := by
  intro h
  obtain ⟨-, -, -, hfault, -⟩ := h overcounted 0 0 ⟨0, 0, 0, default, default, default, 0, 0⟩
  have hfits : 2 ^ 32 ≤ 0xFFFFFFFF := (addressFault_eq_self_iff overcounted _ rfl rfl).mp (hfault AccFx.ok rfl rfl)
  omega

/-! ### Arithmetic (R119, R120) -/

/-- Settles O39: every one of these slots runs one elementwise operation, the one that the statement names. -/
theorem arithmeticSlotsComplete : Obligations.ArithmeticSlotsComplete := by
  intro s t fu k
  refine ⟨?add, ?sub, ?mul, ?fma, ?div, ?sqrt, ?min, ?max, ?abs, ?neg, ?exp, ?log, ?rsqrt, ?tanh, ?erf, ?vmul, ?vdiv,
    ?cvt⟩
  all_goals exact outcome_of_atSlot

/-! ### Logic, masks and flags (R119, R121, R130) -/

/-- The number whose bit j says whether element j of a list has a property. -/
def bitsOf {α : Type} (p : α × Nat → Bool) (l : List α) : Nat :=
  l.zipIdx.foldl (fun (m : Nat) e => if p e then m + 2 ^ e.2 else m) 0

theorem testBit_bitsOf {α : Type} (p : α × Nat → Bool) {l : List α} {j : Nat} {a : α} (h : l[j]? = some a) :
    (bitsOf p l).testBit j = p (a, j) := by
  simp [bitsOf, bits_fold, h]

/-- What CMP writes at a position, given with its column of operands: the comparison, or the bit that stands there where
the position is masked (R121, R131). -/
def cmpBit (x : Tile) (v : VSlot) (e : List Elt × Nat) : Bool :=
  if activeAt x v v.fmt e.2 then elemCmp v.fmt (v.imm % 8) (e.1.getD 0 (0, false)).1 (e.1.getD 1 (0, false)).1
  else (maskReg x (v.dst % 8)).getLsbD e.2

/-- The mask that CMP writes. -/
def cmpMask (x : Tile) (v : VSlot) : BitVec 1024 :=
  BitVec.ofNat 1024 (bitsOf (cmpBit x v) (columns (viewLen v.fmt) [regElts x v.fmt v.srca, regElts x v.fmt v.srcb]))

theorem getLsbD_cmpMask (x : Tile) (v : VSlot) {j : Nat} (hj : j < 1024) (hv : j < viewLen v.fmt) :
    (cmpMask x v).getLsbD j = if activeAt x v v.fmt j then
      elemCmp v.fmt (v.imm % 8) ((regElts x v.fmt v.srca).getD j (0, false)).1
        ((regElts x v.fmt v.srcb).getD j (0, false)).1
    else (maskReg x (v.dst % 8)).getLsbD j := by
  rw [cmpMask, BitVec.getLsbD_ofNat, testBit_bitsOf _ (columns_get _ _ j hv)]
  simp [cmpBit, hj]

/-- CMP writes its mask and nothing else (R121). -/
theorem exec_cmp {s : State} {t fu : Nat} {k : SlotCtx} (h : AtSlot s t fu 0x38 k) : exec (.cmp t fu) s =
    .next (slotDone (modTile s k.t fun x => setMask x (k.v.dst % 8) (cmpMask (tile s k.t) k.v)) k.c t fu k.u) :=
  outcome_of_atSlot h

/-- The bits of a flag in a list of flag slots. -/
theorem testBit_flagBits {α : Type} (f : α → Flags) (n : Nat) (l : List α) (d : α) {j : Nat} (hj : j < l.length) :
    (bitsOf (fun e => Flags.bit (f e.1) n) l).testBit j = Flags.bit (f (l.getD j d)) n := by
  rw [testBit_bitsOf _ (List.getElem?_eq_getElem hj), List.getD_eq_getElem _ _ hj]

/-- FRD writes the bits of a flag in the first 512 flag slots (R119). -/
theorem exec_frd {s : State} {t fu : Nat} {k : SlotCtx} (h : AtSlot s t fu 0x58 k) :
    exec (.frd t fu) s = .next (slotDone (modTile s k.t fun x => setMask x (k.v.dst % 8) (BitVec.ofNat 1024
      (bitsOf (fun e => Flags.bit e.1 (k.v.imm % 8)) ((tile s k.t).flags.take 512)))) k.c t fu k.u) :=
  outcome_of_atSlot h

/-- The bits of a flag in the elements of the accumulator set that FPRD reads. -/
def accFlagBits (x : Tile) (v : VSlot) : Nat :=
  bitsOf (fun e => Flags.bit e.1.flags (v.imm % 8)) (accSet x (b2n (nbit v.imm 8)))

/-- FPRD writes the bits of a flag in an accumulator set over two masks (R119). -/
theorem exec_fprd {s : State} {t fu : Nat} {k : SlotCtx} (h : AtSlot s t fu 0x59 k) :
    exec (.fprd t fu) s = .next (slotDone (modTile s k.t fun x =>
      setMask (setMask x (k.v.dst % 8) (BitVec.ofNat 1024 (accFlagBits (tile s k.t) k.v))) ((k.v.dst + 1) % 8)
        (BitVec.ofNat 1024 (accFlagBits (tile s k.t) k.v / 2 ^ 1024))) k.c t fu k.u) :=
  outcome_of_atSlot h

/-- Settles O40: the masks of CMP, FRD and FPRD bit by bit, the other slots by what they run. -/
theorem logicSlotsComplete : Obligations.LogicSlotsComplete := by
  intro s t fu k
  refine ⟨?and, ?or, ?xor, ?not, ?shl, ?shr, ?cmp, ?sel, ?mpop, ?mand, ?mor, ?mxor, ?mnot, ?fsum, ?fclr, ?frd, ?fprd⟩
  case cmp => exact fun h => ⟨_, exec_cmp h, fun j => getLsbD_cmpMask _ _⟩
  case frd =>
    refine fun h => ⟨_, exec_frd h, fun j hj => ?_⟩
    have hj' : j < 512 := (List.length_take ▸ hj).trans_le (min_le_left _ _)
    refine (testBit_flagBits id _ _ 0 hj).trans ?_
    simp [List.getD, hj']
  case fprd => exact fun h => ⟨_, exec_fprd h, fun j hj => testBit_flagBits AccElem.flags _ _ _ hj⟩
  all_goals exact outcome_of_atSlot

/-! ### Reductions and the platen (R113, R114, R124, R127) -/

/-- The lanes wait for a PMAC that holds its set and acquired it before (R114). -/
theorem exec_pmac_of_busy {s : State} {t fu : Nat} (hbusy : lanesBusy s t fu = true) : exec (.pmac t fu) s = .next s :=
  congrArg Host.Outcome.next (if_pos hbusy)

theorem exec_pmac_of_free {s : State} {t fu : Nat} (hfree : lanesBusy s t fu = false) :
    exec (.pmac t fu) s = .next (runSlot s t fu 0x40 pmac) :=
  congrArg Host.Outcome.next (if_neg (Bool.not_eq_true _ ▸ hfree))

/-- Settles O41: GADD takes its scalar through the common check, PMAC goes by the lanes, and the others run their
slots. -/
theorem reductionSlotsComplete : Obligations.ReductionSlotsComplete := by
  intro s t fu k
  refine ⟨?rsum, ?rmax, ?rmin, ?gadd, ?pmacRuns, ?pmacWaits⟩
  case gadd => exact outcome_of_scalar
  case pmacRuns => exact fun h hfree => (exec_pmac_of_free hfree).trans (outcome_of_atSlot h)
  case pmacWaits => exact exec_pmac_of_busy
  all_goals exact outcome_of_atSlot

end Sys2Proof.Machine
end

section
/-! SUPPORT. Proofs about the banks of a tile pair's memory (R132, R134, R230): the request that a bank grants, what the
waits for a bank change, and the bytes that a granted write reaches. -/

namespace Sys2Proof.Machine

/-! ### The request that a bank grants (R134) -/

/-- A request alone at its bank is granted once the bank is open to it. -/
theorem nextReq_singleton {fenced switching : Bool} {r : BankReq} (ptr : Nat) (h : BankReq.open fenced switching r = true) :
    nextReq ptr fenced switching [r] = some r := by
  by_cases hptr : ptr < r.requester <;> simp [nextReq, h, hptr]

/-- Outside a fence a bank is open to all but the configuration port, and to that while it writes a preload. -/
theorem BankReq.open_of_no_fence {switching : Bool} {r : BankReq} (h : r.user ≠ .config ∨ switching = true) :
    BankReq.open false switching r = true := by
  by_cases hu : r.user = .config
  · simp [BankReq.open, hu, h.resolve_left (absurd hu)]
  · simp [BankReq.open, hu]

/-! ### The waits of a chase (R287) -/

/-- `v` is `s` but for what the chases wait on. -/
structure WaitsOnly (s v : State) : Prop where
  state : v = { s with chases := v.chases }
  chases : ∀ c, chase v c = { chase s c with waiting := (chase v c).waiting }

namespace WaitsOnly

theorem refl (s : State) : WaitsOnly s s := ⟨rfl, fun _ => rfl⟩

theorem trans {s u v : State} (hsu : WaitsOnly s u) (huv : WaitsOnly u v) : WaitsOnly s v := by
  refine ⟨?_, fun c => ?_⟩
  · rw [huv.state, hsu.state]
  · rw [huv.chases c, hsu.chases c]

/-- Changing what one chase waits on. -/
theorem modChase {s : State} {c : Nat} {f : Chase → Chase} (hf : ∀ ch, f ch = { ch with waiting := (f ch).waiting }) :
    WaitsOnly s (modChase s c f) := by
  refine ⟨rfl, fun d => ?_⟩
  by_cases hd : d = c
  · subst hd
    simpa only [chase_modChase] using hf (chase s d)
  · rw [chase_modChase_other _ _ _ _ hd]

theorem stallOn (s : State) (c key sub cause : Nat) : WaitsOnly s (stallOn s c key sub cause) := modChase fun _ => rfl

theorem unstallOn (s : State) (c key sub : Nat) : WaitsOnly s (unstallOn s c key sub) := modChase fun _ => rfl

theorem foldl {α : Type} {f : State → α → State} (hf : ∀ s x, WaitsOnly s (f s x)) (l : List α) (s : State) :
    WaitsOnly s (l.foldl f s) := by
  induction l generalizing s with
  | nil => exact refl s
  | cons x r ih => exact (hf s x).trans (ih _)

theorem bankWaits (s : State) (c t : Nat) (reqs : List BankReq) (r : BankReq) : WaitsOnly s (bankWaits s c t reqs r) := by
  have hothers : ∀ (u : State) (o : Option Nat), WaitsOnly u (match o with
      | some k => Machine.stallOn u c k 6 Wait.bank
      | none => u)
    | u, some _ => stallOn u ..
    | u, none => refl u
  unfold Machine.bankWaits
  cases bankKey t r.user with
  | none => exact foldl (fun u (q : BankReq) => hothers u (bankKey t q.user)) _ s
  | some k => exact (foldl (fun u (q : BankReq) => hothers u (bankKey t q.user)) _ s).trans (unstallOn ..)

theorem tile {s v : State} (h : WaitsOnly s v) (t : Nat) : tile v t = Machine.tile s t := by rw [h.state]; rfl

end WaitsOnly

/-! ### The bytes of a bank write (R230) -/

/-- The first n bytes of a request's data written at an address, where their strobes are set. -/
def strobedWrite (m : List Host.Cell) (a : Nat) (r : BankReq) (n : Nat) : List Host.Cell :=
  (List.range n).foldl (fun m i => if r.strobe.getD i false then memWrite m (a + i) (r.data.getD i 0) else m) m

theorem bankWrite_mt (x : Tile) (a : Nat) (r : BankReq) : (bankWrite x a r).mt = strobedWrite x.mt a r 64 := rfl

section Strobed
variable (m : List Host.Cell) (a : Nat) (r : BankReq)

theorem strobedWrite_succ (n : Nat) : strobedWrite m a r (n + 1) =
    if r.strobe.getD n false then memWrite (strobedWrite m a r n) (a + n) (r.data.getD n 0) else strobedWrite m a r n := by
  simp only [strobedWrite, List.range_succ, List.foldl_append, List.foldl_cons, List.foldl_nil]

variable {m} (hm : Memory.wf m = true)
include hm

theorem strobedWrite_wf (n : Nat) : Memory.wf (strobedWrite m a r n) = true := by
  induction n with
  | zero => exact hm
  | succ n ih =>
    rw [strobedWrite_succ]
    split
    · exact memWrite_wf _ _ _ ih
    · exact ih

/-- A byte away from the write is as it was. -/
theorem memRead_strobedWrite_outside (n : Nat) {b : Nat} (hb : ∀ i < n, b ≠ a + i) :
    memRead (strobedWrite m a r n) b = memRead m b := by
  induction n with
  | zero => rfl
  | succ n ih =>
    have hprev := ih fun i hi => hb i (by omega)
    rw [strobedWrite_succ]
    split
    · rw [memRead_memWrite_other _ _ _ _ (hb n (by omega)) (strobedWrite_wf a r hm n), hprev]
    · exact hprev

/-- A byte of the write is the data's where its strobe is set, and is as it was elsewhere. -/
theorem memRead_strobedWrite (n : Nat) {i : Nat} (hi : i < n) :
    memRead (strobedWrite m a r n) (a + i) = if r.strobe.getD i false then r.data.getD i 0 else memRead m (a + i) := by
  induction n with
  | zero => omega
  | succ n ih =>
    have hwf := strobedWrite_wf a r hm n
    rw [strobedWrite_succ]
    by_cases hin : i = n
    · subst hin
      split
      · exact memRead_memWrite_same _ _ _ hwf
      · exact memRead_strobedWrite_outside a r hm i fun j hj => by omega
    · have hprev := ih (by omega)
      split
      · rw [memRead_memWrite_other _ _ _ _ (by omega) hwf, hprev]
      · exact hprev

end Strobed

/-! ### A granted write (R132) -/

/-- The state in which a bank has granted a request to write: the waits at the bank are counted, the bank's pointer names
the requester, and the bytes are written. -/
def grantWrite (s : State) (c t bank a : Nat) (reqs : List BankReq) (r : BankReq) : State :=
  modTile (modTile (bankWaits s c t reqs r) t fun x => { x with bankPtr := kset x.bankPtr bank r.requester }) t
    fun x => bankWrite x a r

theorem execBankGrant_of_write {s : State} {t c bank : Nat} {reqs : List BankReq} {r : BankReq}
    (hc : chaseOfTile s t = some c) (hw : r.write = true)
    (hr : nextReq (kgetD (tile s t).bankPtr bank 0) (chase s c).fenced (tile s t).preloading reqs = some r) :
    execBankGrant t bank reqs s = .next (grantWrite s c t bank (r.row % 512 * 1024 + bank % 16 * 64) reqs r) := by
  simp only [execBankGrant, hc, hr, hw, if_true, grantWrite]

section Granted
variable (s : State) (c t bank a : Nat) (reqs : List BankReq) (r : BankReq)

theorem grantWrite_mt : (tile (grantWrite s c t bank a reqs r) t).mt = strobedWrite (tile s t).mt a r 64 := by
  rw [grantWrite, tile_modTile, tile_modTile, (WaitsOnly.bankWaits s c t reqs r).tile, bankWrite_mt]

theorem tile_grantWrite_other {u : Nat} (hu : u ≠ t) : tile (grantWrite s c t bank a reqs r) u = tile s u := by
  rw [grantWrite, tile_modTile_other _ _ _ _ hu, tile_modTile_other _ _ _ _ hu,
    (WaitsOnly.bankWaits s c t reqs r).tile]

/-- Beyond the tile pair only what the chases wait on changes. -/
theorem grantWrite_state : grantWrite s c t bank a reqs r =
    { s with tiles := (grantWrite s c t bank a reqs r).tiles, chases := (grantWrite s c t bank a reqs r).chases } := by
  have hwaits := (WaitsOnly.bankWaits s c t reqs r).state
  rw [grantWrite, hwaits]
  rfl

end Granted

/-- Settles O27: a write alone at its bank is granted, and reaches the strobed bytes of the granule that its bank and
row name. -/
theorem bankWriteLands : Obligations.BankWriteLands := by
  refine ⟨fun a ha => by omega, fun s t c a r hc hf ha hopen hrow hw hm => ?_⟩
  have hr : nextReq (kgetD (tile s t).bankPtr (a / 64 % 16) 0) (chase s c).fenced (tile s t).preloading [r] = some r :=
    nextReq_singleton _ (hf ▸ BankReq.open_of_no_fence hopen)
  have haddr : r.row % 512 * 1024 + a / 64 % 16 % 16 * 64 = a / 64 * 64 := by omega
  have hmt := grantWrite_mt s c t (a / 64 % 16) (a / 64 * 64) [r] r
  refine ⟨_, haddr ▸ execBankGrant_of_write hc hw hr, fun i hi hs => ?strobed, fun i hi hs => ?kept,
    fun b hb => ?elsewhere, fun u hu => tile_grantWrite_other s c t _ _ [r] r hu, grantWrite_state .., ?chases, ?wf⟩
  case strobed => rw [hmt, memRead_strobedWrite _ _ hm _ hi, if_pos hs]
  case kept => rw [hmt, memRead_strobedWrite _ _ hm _ hi, hs, if_neg Bool.false_ne_true]
  case elsewhere => rw [hmt, memRead_strobedWrite_outside _ _ hm _ fun i hi => by omega]
  case chases => exact (WaitsOnly.bankWaits s c t [r] r).chases
  case wf => rw [hmt]; exact strobedWrite_wf _ _ hm _

end Sys2Proof.Machine
end

section
/-! SUPPORT. Proofs about the token header (R142, R146): its fields are read back from it, and its check byte, a linear
code, tells a flipped bit. -/

namespace Sys2Proof.Machine

/-! ### The check byte is linear (R146) -/

/-- One bit taken into the register of the CRC-8. -/
def crcStep (r : Nat) (b : Bool) : Nat := r * 2 % 256 ^^^ if r.testBit 7 ^^ b then 7 else 0

theorem crc8Bits_succ (n w r : Nat) : crc8Bits (n + 1) w r = crc8Bits n w (crcStep r (w.testBit n)) := by
  have htop : Nat.xor (r / 128 % 2) (w / 2 ^ n % 2) = (r.testBit 7 ^^ w.testBit n).toNat := by
    rw [show r / 128 % 2 = (r.testBit 7).toNat from (Nat.toNat_testBit r 7).symm, ← Nat.toNat_testBit w n]
    cases r.testBit 7 <;> cases w.testBit n <;> rfl
  rw [crc8Bits, htop, crcStep]
  cases r.testBit 7 ^^ w.testBit n with
  | false => exact congrArg _ (Nat.xor_zero _).symm
  | true => rfl

theorem crcStep_lt (r : Nat) (b : Bool) : crcStep r b < 256 :=
  Nat.xor_lt_two_pow (n := 8) (Nat.mod_lt _ (by decide)) (by split <;> decide)

theorem crc8Bits_lt {r : Nat} (hr : r < 256) (n w : Nat) : crc8Bits n w r < 256 := by
  induction n generalizing r with
  | zero => exact hr
  | succ n ih => exact crc8Bits_succ n w r ▸ ih (crcStep_lt _ _)

theorem crcStep_xor (r₁ r₂ : Nat) (b₁ b₂ : Bool) :
    crcStep (r₁ ^^^ r₂) (b₁ ^^ b₂) = crcStep r₁ b₁ ^^^ crcStep r₂ b₂ := by
  have hshift : (r₁ ^^^ r₂) * 2 % 256 = r₁ * 2 % 256 ^^^ r₂ * 2 % 256 := by
    have hdouble : (r₁ ^^^ r₂) * 2 = r₁ * 2 ^^^ r₂ * 2 := by
      simpa only [Nat.shiftLeft_eq] using Nat.shiftLeft_xor_distrib (i := 1) (a := r₁) (b := r₂)
    exact hdouble ▸ Nat.xor_mod_two_pow (n := 8)
  rw [crcStep, crcStep, crcStep, hshift, Nat.testBit_xor]
  have hpoly : ∀ p q x y : Bool, (if p ^^ q ^^ (x ^^ y) then 7 else 0) =
      (if p ^^ x then 7 else 0) ^^^ if q ^^ y then 7 else 0 := by decide
  rw [hpoly]
  ac_rfl

theorem crc8Bits_xor (n w₁ w₂ r₁ r₂ : Nat) :
    crc8Bits n (w₁ ^^^ w₂) (r₁ ^^^ r₂) = crc8Bits n w₁ r₁ ^^^ crc8Bits n w₂ r₂ := by
  induction n generalizing r₁ r₂ with
  | zero => rfl
  | succ n ih => rw [crc8Bits_succ, crc8Bits_succ, crc8Bits_succ, Nat.testBit_xor, crcStep_xor, ih]

/-! ### A header and its check (R146) -/

/-- What the check byte of a header differs by from the CRC-8 of the bits above it. -/
def syndrome (h : Nat) : Nat := crc8Bits 56 (h / 256) 0 ^^^ h % 256

theorem headerOk_iff_syndrome (h : DWord) : headerOk h = true ↔ syndrome h.toNat = 0 := by
  rw [headerOk, syndrome, beq_iff_eq, Nat.xor_eq_zero_iff]

theorem syndrome_xor (a b : Nat) : syndrome (a ^^^ b) = syndrome a ^^^ syndrome b := by
  have hbody : (a ^^^ b) / 256 = a / 256 ^^^ b / 256 := Nat.xor_div_two_pow (n := 8)
  have hcheck : (a ^^^ b) % 256 = a % 256 ^^^ b % 256 := Nat.xor_mod_two_pow (n := 8)
  have hcrc := crc8Bits_xor 56 (a / 256) (b / 256) 0 0
  rw [Nat.xor_self] at hcrc
  rw [syndrome, syndrome, syndrome, hbody, hcheck, hcrc]
  ac_rfl

/-- No single bit of a header agrees with the check. -/
theorem syndrome_two_pow : ∀ i < 64, syndrome (2 ^ i) ≠ 0 := by decide +kernel

/-- Settles O15: the flip adds the syndrome of its one bit, which is not zero. -/
theorem tokenHeaderDetectsAFlip : Obligations.TokenHeaderDetectsAFlip := by
  intro h i hi hok
  have hflip : (h ^^^ BitVec.ofNat 64 (2 ^ i)).toNat = h.toNat ^^^ 2 ^ i := by
    rw [BitVec.toNat_xor, BitVec.toNat_ofNat, Nat.mod_eq_of_lt (Nat.pow_lt_pow_right (by decide) hi)]
  rw [← Bool.not_eq_true, headerOk_iff_syndrome, hflip, syndrome_xor, (headerOk_iff_syndrome h).mp hok, Nat.zero_xor]
  exact syndrome_two_pow i hi

/-! ### A header's fields (R142, R143) -/

theorem b2n_lt (b : Bool) : b2n b < 2 := by cases b <;> decide

theorem tokenHeaderBody_lt (k : Token) : tokenHeaderBody k < 2 ^ 56 := by
  have hremote := b2n_lt k.remote
  have hspoil := b2n_lt k.spoil
  have hpred := b2n_lt k.pred
  unfold tokenHeaderBody
  omega

/-- The header of a token as a number: its body above the CRC-8 of it. -/
theorem tokenHeader_toNat (k : Token) :
    (tokenHeader k).toNat = tokenHeaderBody k * 256 + crc8Bits 56 (tokenHeaderBody k) 0 := by
  have hbody := tokenHeaderBody_lt k
  have hcrc := crc8Bits_lt (r := 0) (by decide) 56 (tokenHeaderBody k)
  rw [tokenHeader, BitVec.toNat_ofNat, Nat.mod_eq_of_lt (by omega)]

theorem tokenHeader_div (k : Token) : (tokenHeader k).toNat / 256 = tokenHeaderBody k := by
  have hcrc := crc8Bits_lt (r := 0) (by decide) 56 (tokenHeaderBody k)
  rw [tokenHeader_toNat]
  omega

theorem headerOk_tokenHeader (k : Token) : headerOk (tokenHeader k) = true := by
  have hcrc := crc8Bits_lt (r := 0) (by decide) 56 (tokenHeaderBody k)
  have hmod : (tokenHeader k).toNat % 256 = crc8Bits 56 (tokenHeaderBody k) 0 := by
    rw [tokenHeader_toNat]
    omega
  rw [headerOk, tokenHeader_div, hmod, beq_self_eq_true]

theorem nbit_eq_of_b2n {n i : Nat} {b : Bool} (h : n / 2 ^ i % 2 = b2n b) : nbit n i = b := by
  rw [nbit, h]
  cases b <;> rfl

/-- Settles O14: each field of the body stands at its place above the check byte. -/
theorem tokenHeaderRoundTrip : Obligations.TokenHeaderRoundTrip := by
  intro k hkind htag himp hroute htile hport hfmt
  refine ⟨?_, headerOk_tokenHeader k⟩
  have hbody := tokenHeader_div k
  have hremote := b2n_lt k.remote
  have hspoil := b2n_lt k.spoil
  have hpred := b2n_lt k.pred
  unfold tokenHeaderBody at hbody
  cases k
  simp only [tokenOf, nbits, Token.mk.injEq, and_true] at *
  refine ⟨?kind, ?tag, ?imp, nbit_eq_of_b2n ?pred, nbit_eq_of_b2n ?spoil, nbit_eq_of_b2n ?remote, ?route, ?tile, ?port,
    ?fmt⟩
  all_goals omega

end Sys2Proof.Machine
end

section
/-! SUPPORT. Proofs about what the operation slots leave unchanged (R99, R104, R108, R119, R159, R169): a slot that makes
no memory access and takes no scalar changes registers of its tile pair, its firing, and the landing slots, credits and
waits that go with its end. -/

namespace Sys2Proof.Machine

/-! ### What a slot leaves of its tile pair -/

/-- `y` is the tile pair `x` with its memory, the tokens in its queues, its galleys and its configuration as they were. -/
structure RegsOnly (x y : Tile) : Prop where
  mt : y.mt = x.mt
  mtSpoil : y.mtSpoil = x.mtSpoil
  toks : ∀ p, (portQ y p).toks = (portQ x p).toks
  galleys : y.galleys = x.galleys
  active : y.active = x.active

namespace RegsOnly

theorem refl (x : Tile) : RegsOnly x x := ⟨rfl, rfl, fun _ => rfl, rfl, rfl⟩

theorem trans {x y z : Tile} (h : RegsOnly x y) (h' : RegsOnly y z) : RegsOnly x z :=
  ⟨h'.mt.trans h.mt, h'.mtSpoil.trans h.mtSpoil, fun p => (h'.toks p).trans (h.toks p), h'.galleys.trans h.galleys,
    h'.active.trans h.active⟩

theorem foldl {α : Type} {f : Tile → α → Tile} (hf : ∀ x a, RegsOnly x (f x a)) (l : List α) (x : Tile) :
    RegsOnly x (l.foldl f x) := by
  induction l generalizing x with
  | nil => exact refl x
  | cons a r ih => exact (hf x a).trans (ih _)

theorem setMask (x : Tile) (m : Nat) (v : BitVec 1024) : RegsOnly x (setMask x m v) := ⟨rfl, rfl, fun _ => rfl, rfl, rfl⟩

theorem setGacc (x : Tile) (i : Nat) (a : AccElem) : RegsOnly x (setGacc x i a) := ⟨rfl, rfl, fun _ => rfl, rfl, rfl⟩

theorem setFu (x : Tile) (u : Nat) (f : FuState) : RegsOnly x (setFu x u f) := ⟨rfl, rfl, fun _ => rfl, rfl, rfl⟩

theorem putElts (x : Tile) (fmt r : Nat) (new : List (Option Elt)) : RegsOnly x (putElts x fmt r new) :=
  ⟨rfl, rfl, fun _ => rfl, rfl, rfl⟩

theorem writeView (x : Tile) (gov fmt base : Nat) (new : List (Option Elt)) : RegsOnly x (writeView x gov fmt base new) :=
  foldl (fun x _ => putElts x ..) _ x

theorem orFlag (x : Tile) (j : Nat) (f : Flags) : RegsOnly x (orFlag x j f) := by
  unfold Machine.orFlag
  split
  · exact refl x
  · exact ⟨rfl, rfl, fun _ => rfl, rfl, rfl⟩

theorem orFlags (x : Tile) (l : List (Nat × Flags)) : RegsOnly x (orFlags x l) := foldl (fun x _ => orFlag x ..) l x

theorem redWrite (x : Tile) (v : VSlot) (axis : Nat) (rs : List (Elt × Flags)) : RegsOnly x (redWrite x v axis rs) :=
  (putElts x ..).trans (orFlags _ _)

/-- A queue changes in its landing slots or credits alone. -/
theorem setPortQ {x : Tile} {p : Nat} {q : PortQ} (hq : q.toks = (portQ x p).toks) : RegsOnly x (setPortQ x p q) := by
  refine ⟨rfl, rfl, fun p' => ?_, rfl, rfl⟩
  by_cases hp : p' = p
  · subst hp
    simp only [Machine.setPortQ, portQ, kgetD, kget_kset_same, Option.getD_some] at hq ⊢
    exact hq
  · simp only [Machine.setPortQ, portQ, kgetD, kget_kset_ne _ _ _ _ hp]

end RegsOnly

/-! ### What a slot leaves of the state -/

/-- `v` is `s` but for the registers, firings, landing slots and credits of tile pair `t`, free values drawn, credits due
to other devices, and what the chases wait on. -/
structure SlotOnly (t : Nat) (s v : State) : Prop where
  state : v = { s with tiles := v.tiles, draws := v.draws, chases := v.chases, remoteDue := v.remoteDue }
  others : ∀ t', t' ≠ t → tile v t' = tile s t'
  chases : ∀ c, chase v c = { chase s c with waiting := (chase v c).waiting }
  regs : RegsOnly (tile s t) (tile v t)

theorem WaitsOnly.slotOnly {s v : State} (h : WaitsOnly s v) (t : Nat) : SlotOnly t s v where
  state := h.state ▸ rfl
  others t' _ := h.tile t'
  chases := h.chases
  regs := h.tile t ▸ .refl _

namespace SlotOnly

variable {t : Nat} {s u v : State}

theorem refl (t : Nat) (s : State) : SlotOnly t s s := (WaitsOnly.refl s).slotOnly t

theorem trans (hsu : SlotOnly t s u) (huv : SlotOnly t u v) : SlotOnly t s v where
  state := by rw [huv.state, hsu.state]
  others t' ht := (huv.others t' ht).trans (hsu.others t' ht)
  chases c := by rw [huv.chases c, hsu.chases c]
  regs := hsu.regs.trans huv.regs

theorem foldl {α : Type} {f : State → α → State} (hf : ∀ s a, SlotOnly t s (f s a)) (l : List α) (s : State) :
    SlotOnly t s (l.foldl f s) := by
  induction l generalizing s with
  | nil => exact refl t s
  | cons a r ih => exact (hf s a).trans (ih _)

theorem modTile {f : Tile → Tile} (hf : RegsOnly (tile s t) (f (tile s t))) : SlotOnly t s (modTile s t f) where
  state := rfl
  others t' ht := tile_modTile_other _ _ _ _ ht
  chases _ := rfl
  regs := by rwa [tile_modTile]

theorem modFiring (s : State) (t fu : Nat) (f : Firing → Firing) : SlotOnly t s (modFiring s t fu f) :=
  modTile (.setFu ..)

theorem giveCredit (s : State) (c t p : Nat) (k : QTok) : SlotOnly t s (giveCredit s c t p k) := by
  unfold Machine.giveCredit
  split
  · exact modTile (.setPortQ rfl)
  · dsimp only
    split <;> exact ⟨rfl, fun _ _ => rfl, fun _ => rfl, .refl _⟩

theorem releaseLanding (s : State) (c t p : Nat) (k : QTok) : SlotOnly t s (releaseLanding s c t p k) := by
  unfold Machine.releaseLanding
  split
  · exact refl t s
  · refine (modTile (.setPortQ ?_)).trans (giveCredit ..)
    rfl

theorem releaseRead (s : State) (c t fu : Nat) (u : UnitCfg) : SlotOnly t s (releaseRead s c t fu u) := by
  unfold Machine.releaseRead
  split
  · refine foldl (fun s e => ?_) _ s
    split
    · split
      · exact (releaseLanding ..).trans (modFiring ..)
      · exact refl t s
    · exact refl t s
  · exact refl t s

theorem issueOne (s : State) (c t fu : Nat) : SlotOnly t s (issueOne s c t fu) := by
  unfold Machine.issueOne
  dsimp only
  split
  · exact refl t s
  · split
    · exact (modTile ⟨rfl, rfl, fun _ => rfl, rfl, rfl⟩).trans ((WaitsOnly.unstallOn ..).slotOnly t)
    · exact (WaitsOnly.stallOn ..).slotOnly t

theorem issueRegs (s : State) (c t : Nat) : SlotOnly t s (issueRegs s c t) := foldl (fun s fu => issueOne s c t fu) _ s

theorem slotDone (s : State) (c t fu : Nat) (u : UnitCfg) : SlotOnly t s (slotDone s c t fu u) :=
  (((modFiring ..).trans ((WaitsOnly.unstallOn ..).slotOnly t)).trans (releaseRead ..)).trans (issueRegs ..)

end SlotOnly

/-! ### The effect of each slot (R119) -/

/-- An effect that makes no memory access and takes no scalar. -/
def RegisterEffect (op : State → SlotCtx → State) : Prop := ∀ s k, SlotOnly k.t s (op s k)

namespace RegisterEffect

theorem elementwise (s : State) (k : SlotCtx) (gov dst : Nat) (srcs : List (Nat × Nat))
    (op : Nat → List Nat → Nat × Flags) : SlotOnly k.t s (elementwise s k gov dst srcs op) :=
  .modTile ((RegsOnly.writeView ..).trans (.orFlags ..))

theorem shift (op : Nat → Nat → Nat → Nat) : RegisterEffect fun s k => shift s k op := by
  intro s k
  dsimp only [Machine.shift]
  split <;> exact elementwise ..

theorem permute (s : State) (k : SlotCtx) (src : Nat → Nat → Nat × Nat) : SlotOnly k.t s (permute s k src) :=
  .modTile (.putElts ..)

theorem maskOp (op : BitVec 1024 → BitVec 1024 → BitVec 1024) : RegisterEffect fun s k => maskOp s k op :=
  fun _ _ => .modTile (.setMask ..)

theorem pushScalar (s : State) (k : SlotCtx) (v : Scalar) : SlotOnly k.t s (pushScalar s k v) := .modFiring ..

theorem reduceShuffle (op : RedOp) : RegisterEffect fun s k => reduceShuffle s k op := by
  intro s k
  dsimp only [Machine.reduceShuffle]
  exact .modTile (.redWrite ..)

theorem reduceGather (op : RedOp) : RegisterEffect fun s k => reduceGather s k op := by
  intro s k
  have hdraw : SlotOnly k.t s { s with draws := s.draws + 1 } := ⟨rfl, fun _ _ => rfl, fun _ => rfl, .refl _⟩
  dsimp only [Machine.reduceGather, drawNat]
  refine hdraw.trans (.modTile ?_)
  split
  · exact (RegsOnly.foldl (fun _ _ => .setGacc ..) _ _).trans (.orFlags ..)
  · exact (RegsOnly.foldl (fun _ _ => .setGacc ..) _ _).trans (.redWrite ..)

theorem reduce (op : RedOp) : RegisterEffect fun s k => reduce s k op := by
  intro s k
  dsimp only [Machine.reduce]
  split
  · exact reduceGather op s k
  · exact reduceShuffle op s k

end RegisterEffect

/-- Every operation slot runs one effect, a PMAC once the lanes are free; outside memory and scalars it is an effect on
registers. -/
theorem slotOps_effect : ∀ p ∈ slotOps, ∃ op : State → SlotCtx → State,
    (∀ t fu s, (p.2 = 0x40 → lanesBusy s t fu = false) → exec (p.1 t fu) s = .next (runSlot s t fu p.2 op)) ∧
    (p.2 ∉ [0x02, 0x03, 0x08, 0x0A, 0x40, 0x4B] → RegisterEffect op) := by
  simp only [slotOps, List.forall_mem_cons]
  refine ⟨?mov, ?ld, ?st, ?bcr, ?bcc, ?bcs, ?extr, ?ins, ?rotr, ?rotc, ?trans, ?bfly, ?add, ?sub, ?mul, ?fma, ?div, ?sqrt,
    ?min, ?max, ?abs, ?neg, ?and, ?or, ?xor, ?not, ?shl, ?shr, ?exp, ?log, ?rsqrt, ?tanh, ?erf, ?cmp, ?sel, ?cvt, ?mpop,
    ?mand, ?mor, ?mxor, ?mnot, ?pmac, ?rsum, ?rmax, ?rmin, ?gadd, ?vmul, ?vdiv, ?frd, ?fprd, ?fsum, ?fclr, ?none⟩
  case ld | st | bcs | ins | gadd => exact ⟨_, fun _ _ _ _ => rfl, fun h => absurd (by decide) h⟩
  case pmac => exact ⟨_, fun _ _ _ hfree => exec_pmac_of_free (hfree trivial), fun h => absurd (by decide) h⟩
  case bcr | bcc | rotr | rotc | trans | bfly => exact ⟨_, fun _ _ _ _ => rfl, fun _ _ _ => RegisterEffect.permute ..⟩
  case mand | mor | mxor | mnot => exact ⟨_, fun _ _ _ _ => rfl, fun _ => .maskOp _⟩
  case shl | shr => exact ⟨_, fun _ _ _ _ => rfl, fun _ => .shift _⟩
  case rsum | rmax | rmin => exact ⟨_, fun _ _ _ _ => rfl, fun _ => .reduce _⟩
  case mpop | fsum => exact ⟨_, fun _ _ _ _ => rfl, fun _ _ _ => RegisterEffect.pushScalar ..⟩
  case extr =>
    refine ⟨_, fun _ _ _ _ => rfl, fun _ s k => ?_⟩
    dsimp only
    split <;> exact RegisterEffect.pushScalar ..
  case sel => exact ⟨_, fun _ _ _ _ => rfl, fun _ _ _ => .modTile (.putElts ..)⟩
  case cmp | frd => exact ⟨_, fun _ _ _ _ => rfl, fun _ _ _ => .modTile (.setMask ..)⟩
  case fprd => exact ⟨_, fun _ _ _ _ => rfl, fun _ _ _ => .modTile ((RegsOnly.setMask ..).trans (.setMask ..))⟩
  case fclr => exact ⟨_, fun _ _ _ _ => rfl, fun _ _ _ => .modTile ⟨rfl, rfl, fun _ => rfl, rfl, rfl⟩⟩
  case none => exact fun _ h => absurd h List.not_mem_nil
  all_goals exact ⟨_, fun _ _ _ _ => rfl, fun _ _ _ => RegisterEffect.elementwise ..⟩

/-- Settles O23: the slot's effect is one on registers, and so is its end. -/
theorem slotFrame : Obligations.SlotFrame := by
  intro p hp hno s v t fu k hat hv
  obtain ⟨op, hexec, heffect⟩ := slotOps_effect p hp
  have hlanes : p.2 = 0x40 → lanesBusy s t fu = false := fun h => absurd (by rw [h]; decide) hno
  have hrun := (hexec t fu s hlanes).trans (outcome_of_atSlot hat)
  obtain rfl := Host.Outcome.next.inj (hrun.symm.trans hv)
  obtain ⟨ht, -⟩ := slotAt_place hat.1
  have hop := heffect hno s k
  rw [ht] at hop
  obtain ⟨hstate, hothers, hchases, hmt, hspoil, htoks, hgalleys, hactive⟩ := hop.trans (.slotDone _ k.c t fu k.u)
  exact ⟨hstate, hothers, hchases, hmt, hspoil, htoks, hgalleys, hactive⟩

/-! ### Void firings (R159) -/

/-- The slot of a void firing leaves the scalar that it would produce, void, and no more. -/
theorem runSlot_of_void {s : State} {t fu opc : Nat} {k : SlotCtx} (op : State → SlotCtx → State)
    (hk : slotAt s t fu opc = some k) (hvoid : k.f.live = false) : runSlot s t fu opc op = slotDone
      (if producesScalar (slotOpc k.word) then pushScalar s k ⟨0, scalarFmt k.word, false, false⟩ else s) k.c t fu k.u := by
  simp only [runSlot, hk, hvoid, Bool.false_eq_true, if_false]

/-- Settles O42: what a void slot does is the same whatever its effect would have been. -/
theorem voidSlotsOnlyStep : Obligations.VoidSlotsOnlyStep := by
  intro s t fu k p hp hk hvoid hlanes
  obtain ⟨op, hexec, -⟩ := slotOps_effect p hp
  rw [hexec t fu s hlanes, runSlot_of_void op hk hvoid]

end Sys2Proof.Machine
end

section
/-! SUPPORT. Proofs about the token events of the fabric (R143 to R147, R152, R165 to R169, R182, R184, R185): what an
ejection does at each of its checks, and what every other token event completes in. -/

namespace Sys2Proof.Machine

/-! ### Ejection (R146, R147, R167 to R169) -/

/-- A token on its way is for this device, its chase is not fenced, no earlier token holds it back, and it enters a queue
or has been changed on its way. -/
structure Arrives (s : State) (k flip : Nat) (f : Flight) : Prop where
  flight : s.net[k]? = some f
  noFence : (chase s f.chase).fenced = false
  here : f.isRemote = false
  first : behind s.net k f = false
  credit : f.isCredit = true → flip ≠ 0

/-- The token that an ejection sees, with the bits `flip` of its header inverted on the way. -/
abbrev tokenSeen (f : Flight) (flip : Nat) : Token := tokenOf (f.header ^^^ BitVec.ofNat 64 flip) f.payload

/-- The state without the flight that arrives. -/
abbrev arrived (s : State) (k : Nat) : State := { s with net := dropAt s.net k }

section Ejection
variable {s : State} {k flip : Nat} {f : Flight} {q : QueueCfg} (h : Arrives s k flip f)
include h

theorem Arrives.not_waiting :
    ((chase s f.chase).fenced || f.isRemote || (f.isCredit && flip == 0) || behind s.net k f) = false := by
  have hcredit : (f.isCredit && flip == 0) = false := by
    simpa only [Bool.and_eq_false_imp, beq_eq_false_iff_ne] using h.credit
  rw [h.noFence, h.here, hcredit, h.first]
  rfl

theorem execTokenEject_of_bad_header (hok : headerOk (f.header ^^^ BitVec.ofNat 64 flip) = false) :
    execTokenEject k flip s = .next (fabricFault (arrived s k) f.chase 0x0102 f.tile) := by
  simp only [execTokenEject, h.flight, h.not_waiting, hok, Bool.not_false, Bool.false_eq_true, if_true, if_false]

variable (hok : headerOk (f.header ^^^ BitVec.ofNat 64 flip) = true)
  (hcredit : (tokenSeen f flip).kind ≠ 6)
include hok hcredit

theorem execTokenEject_of_bad_kind
    (hbad : kindReserved (tokenSeen f flip).kind = true ∨
      handleOk (tokenSeen f flip).kind f.payload = false) :
    execTokenEject k flip s = .next (fabricFault (arrived s k) f.chase 0x0103 f.tile) := by
  have hbad : (kindReserved (tokenSeen f flip).kind ||
      !handleOk (tokenSeen f flip).kind f.payload) = true := by
    simpa only [Bool.or_eq_true, Bool.not_eq_true'] using hbad
  simp only [execTokenEject, h.flight, h.not_waiting, hok, hcredit, hbad, Bool.not_true, Bool.false_eq_true, if_true,
    if_false]

variable (hkind : kindReserved (tokenSeen f flip).kind = false)
  (hhandle : handleOk (tokenSeen f flip).kind f.payload = true)
include hkind hhandle

theorem execTokenEject_of_bad_port (hport : portTakes (arrived s k) f.chase f.tile f.port = false) :
    execTokenEject k flip s = .next (fabricFault (arrived s k) f.chase 0x0104 f.tile) := by
  simp only [execTokenEject, h.flight, h.not_waiting, hok, hcredit, hkind, hhandle, hport, Bool.not_true, Bool.not_false,
    Bool.or_self, Bool.false_eq_true, if_true, if_false]

variable (hport : portTakes (arrived s k) f.chase f.tile f.port = true)
  (hq : queueAt (arrived s k) f.tile f.port = some q)
include hport hq

/-- A token whose header, kind and port are right meets its landing slot and then its queue. -/
theorem execTokenEject_of_port : execTokenEject k flip s =
    .next (if f.lands (tokenSeen f flip) && decide (q.slotsz < f.granules.length) then
        fabricFault (arrived s k) f.chase 0x0108 f.tile
      else if decide (q.depth ≤ (portQ (tile (arrived s k) f.tile) f.port).toks.length) then
        fabricFault (arrived s k) f.chase 0x0107 f.tile
      else enqueue (arrived s k) f (tokenSeen f flip) q.depth) := by
  simp only [execTokenEject, h.flight, h.not_waiting, hok, hcredit, hkind, hhandle, hport, hq, Bool.not_true,
    Bool.or_self, Bool.false_eq_true, if_false]

theorem execTokenEject_of_no_slot (hlands : f.lands (tokenSeen f flip) = true) (hbig : q.slotsz < f.granules.length) :
    execTokenEject k flip s = .next (fabricFault (arrived s k) f.chase 0x0108 f.tile) := by
  rw [execTokenEject_of_port h hok hcredit hkind hhandle hport hq, hlands, decide_eq_true hbig]
  rfl

variable (hslot : f.lands (tokenSeen f flip) = true → f.granules.length ≤ q.slotsz)
include hslot

theorem execTokenEject_of_slot : execTokenEject k flip s =
    .next (if q.depth ≤ (portQ (tile (arrived s k) f.tile) f.port).toks.length then
        fabricFault (arrived s k) f.chase 0x0107 f.tile
      else enqueue (arrived s k) f (tokenSeen f flip) q.depth) := by
  have hfits : (f.lands (tokenSeen f flip) && decide (q.slotsz < f.granules.length)) = false := by
    simpa only [Bool.and_eq_false_imp, decide_eq_false_iff_not, Nat.not_lt] using hslot
  rw [execTokenEject_of_port h hok hcredit hkind hhandle hport hq, hfits]
  simp only [Bool.false_eq_true, if_false, decide_eq_true_eq]

theorem execTokenEject_of_full (hfull : q.depth ≤ (portQ (tile (arrived s k) f.tile) f.port).toks.length) :
    execTokenEject k flip s = .next (fabricFault (arrived s k) f.chase 0x0107 f.tile) := by
  rw [execTokenEject_of_slot h hok hcredit hkind hhandle hport hq hslot, if_pos hfull]

/-- A sound token with room in its queue enters it. -/
theorem execTokenEject_of_room (hroom : (portQ (tile (arrived s k) f.tile) f.port).toks.length < q.depth) :
    execTokenEject k flip s = .next (enqueue (arrived s k) f (tokenSeen f flip) q.depth) := by
  rw [execTokenEject_of_slot h hok hcredit hkind hhandle hport hq hslot, if_neg (Nat.not_le.mpr hroom)]

end Ejection

/-- Settles O50: one lemma for each check, in the order of the checks. -/
theorem ejectionDrops : Obligations.EjectionDrops := by
  intro s k flip f hflight hfence hhere hfirst hcr header tok gone
  have h : Arrives s k flip f := ⟨hflight, hfence, hhere, hfirst, hcr⟩
  exact ⟨execTokenEject_of_bad_header h, execTokenEject_of_bad_kind h, execTokenEject_of_bad_port h,
    fun hok hne hkind hhandle hport q hq => ⟨execTokenEject_of_no_slot h hok hne hkind hhandle hport hq,
      execTokenEject_of_full h hok hne hkind hhandle hport hq⟩⟩

/-! ### Taking the head of a queue (R152, R153, R167, R182) -/

/-- The unit that takes a token of an input: its store's pointer moves on when the token needs a new entry. -/
def taker (s : State) (t fu input c : Nat) (u : UnitCfg) : FuState :=
  let f := fuOf (tile s t) fu
  if !isZw5 s c t && needsEntry (tile s t) f u input then { f with storePtr := input } else f

/-- The state in which the head of an input's queue has joined the matching store, before its credit. -/
def joined (s : State) (t fu input c : Nat) (u : UnitCfg) (k : QTok) (r : List QTok) : State :=
  modTile s t fun x => setFu (setPortQ x (u.port input) { portQ x (u.port input) with toks := r }) fu
    (joinEntry (taker s t fu input c u) u (matchKey u (isZw5 s c t) k.tok.tag) input k)

/-- The state in which it has given its credit back, unless that stays with its landing slot. -/
def credited (s : State) (t fu input c : Nat) (u : UnitCfg) (k : QTok) (r : List QTok) : State :=
  if k.landing.isNone then giveCredit (joined s t fu input c u k r) c t (u.port input) k else joined s t fu input c u k r

section Take
variable {s : State} {t fu input c : Nat} {u : UnitCfg} {k : QTok} {r : List QTok} (hc : liveTile s t = some c)
  (hu : unitCfg (tile s t) fu = some u) (hin : input ≤ u.nin) (hhead : (portQ (tile s t) (u.port input)).toks = k :: r)
  (hkind : k.tok.kind ≠ 4) (hlanded : k.landed = true)
  (hjoin : takeDecision (tile s t) (fuOf (tile s t) fu) u (isZw5 s c t) input k.tok = .join)
  (hturn : isZw5 s c t = true ∨ passedOver s c t fu u input = false)

theorem toks_joined (s : State) (t fu input c : Nat) (u : UnitCfg) (k : QTok) (r : List QTok) :
    (portQ (tile (joined s t fu input c u k r) t) (u.port input)).toks = r := by
  simp only [joined, tile_modTile, setFu, setPortQ, portQ, kgetD, kget_kset_same, Option.getD_some]

theorem toks_credited (s : State) (t fu input c : Nat) (u : UnitCfg) (k : QTok) (r : List QTok) :
    (portQ (tile (credited s t fu input c u k r) t) (u.port input)).toks = r := by
  unfold credited
  split
  · exact ((SlotOnly.giveCredit ..).regs.toks _).trans (toks_joined ..)
  · exact toks_joined ..

include hc hu hin hhead hkind hlanded hjoin hturn

theorem execTokenTake_of_join : execTokenTake t fu input s = .next (unstallOn (match k.galley with
      | some tid => modGalley (credited s t fu input c u k r) t tid fun g => { g with slots := lset g.slots k.gslot .taken }
      | none => credited s t fu input c u k r) c (unitKey t fu) (input + 1)) := by
  have hgo : (decide (u.nin < input) || k.tok.kind == 4 || !k.landed) = false := by
    rw [decide_eq_false (Nat.not_lt.mpr hin), beq_eq_false_iff_ne.mpr hkind, hlanded]
    rfl
  have hpass : (!isZw5 s c t && passedOver s c t fu u input) = false := by
    rcases hturn with h | h
    · rw [h, Bool.not_true, Bool.false_and]
    · rw [h, Bool.and_false]
  simp only [execTokenTake, hc, hu, hhead, hgo, hjoin, hpass, Bool.false_eq_true, if_false]
  rfl

theorem execTokenTake_of_plain (hlanding : k.landing = none) (hgalley : k.galley = none) :
    execTokenTake t fu input s = .next (unstallOn (giveCredit (joined s t fu input c u k r) c t (u.port input) k)
      c (unitKey t fu) (input + 1)) := by
  rw [execTokenTake_of_join hc hu hin hhead hkind hlanded hjoin hturn, hgalley, credited, hlanding]
  rfl

theorem execTokenTake_toks :
    ∃ v, execTokenTake t fu input s = .next v ∧ (portQ (tile v t) (u.port input)).toks = r := by
  refine ⟨_, execTokenTake_of_join hc hu hin hhead hkind hlanded hjoin hturn, ?_⟩
  rw [(WaitsOnly.unstallOn ..).tile]
  cases k.galley with
  | none => exact toks_credited ..
  | some tid =>
    dsimp only [modGalley]
    rw [tile_modTile]
    exact toks_credited ..

end Take

/-! ### Credits, landings and banks (R134, R145, R167, R169) -/

theorem execCreditReturn_of_returning {s : State} {t port : Nat} (h : (portQ (tile s t) port).returning ≠ 0) :
    execCreditReturn t port s = .next (modTile s t fun x => setPortQ x port { portQ (tile s t) port with
      returning := (portQ (tile s t) port).returning - 1 }) := by
  simp only [execCreditReturn, h, if_false]

/-- A token whose granules have landed in a slot is an MT handle to them. -/
def landIn (l : Landing) (a : Nat) (e : QTok) : QTok :=
  if e.landing = some l.slot ∧ e.landed = false then
    { e with landed := true, tok := { e.tok with kind := 3, payload := mtHandle a l.granules.length } }
  else e

theorem execGranuleLand_of_landing {s : State} {k c : Nat} {l : Landing} {q : QueueCfg} (hl : s.landings[k]? = some l)
    (hc : chaseOfTile s l.tile = some c) (hq : queueAt s l.tile l.port = some q) (hfence : (chase s c).fenced = false) :
    let a := q.region + 64 * q.depth + 64 * q.slotsz * l.slot
    execGranuleLand k s = .next (modTile { s with landings := dropAt s.landings k } l.tile fun x =>
      let x := mtPutGranules x a l.granules
      setPortQ x l.port { portQ x l.port with toks := (portQ x l.port).toks.map (landIn l a) }) := by
  simp only [execGranuleLand, hl, hc, hq, hfence, Bool.false_eq_true, if_false]
  rfl

theorem execBankGrant_of_granted {s : State} {t bank c : Nat} {reqs : List BankReq} {r : BankReq}
    (hc : chaseOfTile s t = some c)
    (hr : nextReq (kgetD (tile s t).bankPtr bank 0) (chase s c).fenced (tile s t).preloading reqs = some r) :
    let a := r.row % 512 * 1024 + bank % 16 * 64
    let v := modTile (bankWaits s c t reqs r) t fun x => { x with bankPtr := kset x.bankPtr bank r.requester }
    execBankGrant t bank reqs s =
      .next (if r.write then modTile v t fun x => bankWrite x a r else bankReadEvents v t a r) := by
  simp only [execBankGrant, hc, hr]

/-! ### Long gutters (R184, R185) -/

theorem execCreditToken_of_credit {s : State} {k : Nat} {f : Flight} (hf : s.net[k]? = some f)
    (hhere : f.isRemote = false) (hfence : (chase s f.chase).fenced = false)
    (hkind : (tokenOf f.header f.payload).kind = 6) : execCreditToken k s = .next { s with
      net := dropAt s.net k
      remoteUsed := refundRemote (fun e => e.tile == f.tile && e.fu == f.port && chaseOfTile s e.tile == some f.chase &&
          ((gutterDevice s f.chase e.tile e.route).map Prod.snd) == f.fromRemote.map Prod.fst)
        s.remoteUsed (f.payload.toNat % 65536) } := by
  simp only [execCreditToken, hf, hhere, hfence, hkind, bne_self_eq_false, Bool.or_self, Bool.false_eq_true, if_false]

section Gutter
variable {s : State} {k d : Nat} {f : Flight} {j : Job} (hf : s.net[k]? = some f) (hremote : f.isRemote = true)
  (hfence : (chase s f.chase).fenced = false) (hfirst : behind s.net k f = false)
  (hdev : gutterDevice s f.chase f.src.1 f.route = some (j, d))
include hf hremote hfence hfirst hdev

/-- A token of another tile pair of this device goes through the hub. -/
theorem execLongGutterRoute_of_here (hd : d = myIndex s) : execLongGutterRoute k s =
    .next (deliverUnit (arrived s k) f.chase (d, f.src.1, f.src.2.1) (routeDie (routeWord s f.chase f.src.1 f.route))
      (f.header, f.payload, f.granules)) := by
  simp only [execLongGutterRoute, hf, hremote, hfence, hfirst, hdev, Bool.not_true, Bool.or_self, Bool.false_eq_true,
    if_false, if_pos hd]

theorem execLongGutterRoute_of_sent {v : State} (hd : d ≠ myIndex s)
    (hv : sendUnits (arrived s k) j d (routeDie (routeWord s f.chase f.src.1 f.route)) (f.src.1, f.src.2.1)
      (f.header, f.payload, f.granules) = some v) : execLongGutterRoute k s = .next v := by
  simp only [execLongGutterRoute, hf, hremote, hfence, hfirst, hdev, Bool.not_true, Bool.or_self, Bool.false_eq_true,
    if_false, if_neg hd, hv]

end Gutter

/-- Credits go back once 8 are due, or 1 µs after the oldest fell due. -/
theorem flush_not_waiting {s : State} {r : RemoteCredit} (hfence : (chase s r.chase).fenced = false)
    (hdue : 8 ≤ r.due ∨ r.oldestNs + 1000 ≤ s.now) :
    ((chase s r.chase).fenced || !(decide (8 ≤ r.due) || decide (r.oldestNs + 1000 ≤ s.now))) = false := by
  rw [hfence, ← Bool.decide_or, decide_eq_true hdue]
  rfl

section Flush
variable {s : State} {k : Nat} {r : RemoteCredit} {j : Job} (hr : s.remoteDue[k]? = some r)
  (hfence : (chase s r.chase).fenced = false) (hdue : 8 ≤ r.due ∨ r.oldestNs + 1000 ≤ s.now)
  (hj : jobOfChase s r.chase = some j)
include hr hfence hdue hj

theorem execRemoteCreditFlush_of_here (hd : r.device = myIndex s) : execRemoteCreditFlush k s =
    .next (deliverUnit { s with remoteDue := dropAt s.remoteDue k } r.chase (r.device, 0, 0) (r.tile / 512)
      (tokenHeader (creditTokenOf r), (creditTokenOf r).payload, [])) := by
  simp only [execRemoteCreditFlush, hr, flush_not_waiting hfence hdue, hj, Bool.false_eq_true, if_false, if_pos hd]

theorem execRemoteCreditFlush_of_sent {v : State} (hd : r.device ≠ myIndex s)
    (hv : sendUnits { s with remoteDue := dropAt s.remoteDue k } j r.device (r.tile / 512) (0, 0)
      (tokenHeader (creditTokenOf r), (creditTokenOf r).payload, []) = some v) : execRemoteCreditFlush k s = .next v := by
  simp only [execRemoteCreditFlush, hr, flush_not_waiting hfence hdue, hj, Bool.false_eq_true, if_false, if_neg hd, hv]

end Flush

/-- Settles O49, event by event. -/
theorem tokenEventsComplete : Obligations.TokenEventsComplete := by
  refine ⟨?eject, ?take, ?taken, fun s t port => execCreditReturn_of_returning,
    fun s k c l q => execGranuleLand_of_landing, fun s t bank c reqs r => execBankGrant_of_granted,
    fun s k f => execCreditToken_of_credit, ?gutter, ?flush⟩
  case eject =>
    intro s k flip f q hflight hfence hhere hfirst hcr header tok gone
    exact fun hok hne hkind hhandle hport hq => execTokenEject_of_room ⟨hflight, hfence, hhere, hfirst, hcr⟩ hok hne hkind
      hhandle hport hq
  case take => exact fun s t fu input c u k r => execTokenTake_of_plain
  case taken => exact fun s t fu input c u k r => execTokenTake_toks
  case gutter =>
    intro s k d f j hf hremote hfence hfirst hdev unit gone
    exact ⟨execLongGutterRoute_of_here hf hremote hfence hfirst hdev,
      fun v => execLongGutterRoute_of_sent hf hremote hfence hfirst hdev⟩
  case flush =>
    intro s k r j hr hfence hdue hj gone unit
    exact ⟨execRemoteCreditFlush_of_here hr hfence hdue hj, fun v => execRemoteCreditFlush_of_sent hr hfence hdue hj⟩

end Sys2Proof.Machine
end

section
/-! SUPPORT. Proofs about firing (R106, R140, R154, R500): what a live firing with errors beyond correction leaves in the
record of its tile pair's events. -/

namespace Sys2Proof.Machine

/-! ### Errors of registers and the tile pair's record of events (R106, R498) -/

theorem retireTile_tileEvents (s : State) (i : Nat) : (retireTile s i).faults.tileEvents = s.faults.tileEvents := by
  unfold retireTile applyRetire
  dsimp only
  repeat' split
  all_goals rfl

/-- An event of a tile pair is in the record once it has been counted, whatever it retires. -/
theorem tileEvent_recorded (s : State) (i kind : Nat) : (i, kind, s.now) ∈ (tileEvent s i kind).faults.tileEvents := by
  unfold tileEvent
  extract_lets day ev faults s'
  have hrec : (i, kind, s.now) ∈ s'.faults.tileEvents := List.mem_append_right _ (List.mem_singleton_self _)
  generalize (if kind = 0 then 2 else 4) = limit
  split
  · rwa [retireTile_tileEvents]
  · exact hrec

/-- A live firing without a handle counts one event for each error that it meets. -/
theorem execFire_of_live {s : State} {t fu c : Nat} {u : UnitCfg} {f : FuState} {e : MatchEntry} (errs : List RegError)
    (hfire : mayFire s t fu 0 = some (c, u, f, e)) (hlive : (firingOf s u e).live = true) (hhen : u.hen = false) :
    execFire t fu errs s = .next (releaseRead (issueRegs (errs.foldl (fun s _ => tileEvent s (physOf s t) 1)
      (modTile (beginFiring s t fu u f e) t fun x => errs.foldl regError x)) c t) c t fu u) := by
  simp only [execFire, hfire, hlive, hhen, Bool.false_and, Bool.false_eq_true, if_true, if_false]

/-- What the arbiter and the landing slots do after a firing leaves the record of events. -/
theorem issued_faults (s : State) (c t fu : Nat) (u : UnitCfg) :
    (releaseRead (issueRegs s c t) c t fu u).faults = s.faults := by
  rw [((SlotOnly.issueRegs s c t).trans (.releaseRead _ c t fu u)).state]

/-- A unit with one input and one slot. -/
def readyCfg : UnitCfg := { (default : UnitCfg) with en := true, ins := [0, 1, 2, 3], slotCount := 1 }

/-- An entry with a live scalar token on its input, ready to fire. -/
def readyEntry : MatchEntry :=
  ⟨0, [some ⟨⟨1, 0, 0, true, false, false, 0, 0, 0, 0, 0⟩, none, true, none, 0, none⟩, none, none, none], 0, some 0⟩

/-- A unit with that entry in its matching store. -/
def readyFu : FuState := { FuState.idle with store := [readyEntry], nextReady := 1 }

/-- Chase 1 holds page 0, and unit 0 of its tile pair 0 is ready to fire. -/
def readyState : State := { State.reset with
  chases := [(1, { Chase.fresh with state := .claimed, cfg := { (default : ChaseFields) with chase := 1, pageMap := 1 } })]
  tiles := [(0, { Tile.fresh with
    active := some { (default : TileCfg) with units := [(0, readyCfg)] }
    fus := [(0, readyFu)] })] }

theorem mayFire_readyState : mayFire readyState 0 0 0 = some (1, readyCfg, readyFu, readyEntry) := by decide +kernel

/-- Refutes O51: a live firing that meets an error beyond correction of a gather accumulator counts an event of its tile
pair, which the statement's next state leaves out. -/
theorem not_firingEventsComplete : ¬ Obligations.FiringEventsComplete := by
  rintro ⟨hall, -⟩
  obtain ⟨hfire, -⟩ := hall readyState 0 0 1 readyCfg readyFu readyEntry
  have hlive : (firingOf readyState readyCfg readyEntry).live = true := by decide
  have hclaim := hfire [.gatherAcc 0] mayFire_readyState fun hhen => absurd hhen (by decide)
  have hexec := execFire_of_live [.gatherAcc 0] mayFire_readyState hlive rfl
  have hsame := congrArg (fun v : State => v.faults.tileEvents) (Host.Outcome.next.inj (hexec.symm.trans hclaim))
  simp only [issued_faults, hlive, if_true, List.foldl_cons, List.foldl_nil] at hsame
  exact List.not_mem_nil (hsame ▸ tileEvent_recorded ..)

end Sys2Proof.Machine
end

section
/-! SUPPORT. Proofs about the commands on formes (R206 to R210, R212, R216, R223, R225 to R227, R292, R386), one lemma
per command and outcome. -/

namespace Sys2Proof.Machine

/-! ### The commands on formes (R386) -/

/-- Without a kept final reply a chunk is of no command that has ended (R371). -/
theorem endedChunk_of_noFinal {s : State} {se : Session} {h : CmdHdr} {op off : Nat}
    (hk : keptFinal s h.session op h.reqId = none) : endedChunk s se h op off = none := by
  simp only [endedChunk, hk]

/-- A first chunk within its load, whose TOTAL fits the chase's store region, makes the load live (R386). -/
theorem firstPart_of_fits {s : State} {c : Nat} {h : CmdHdr} {total off : Nat} {data : Bytes} (hdata : data ≠ [])
    (hlen : off + data.length ≤ total)
    (hroom : storeUseAll s c + storeReserved s c + total ≤ storeGrant (chase s c).cfg) :
    let x : Stage := ⟨h.session, h.reqId, 0x0030, c, total, [], s.now, 0, false, none⟩
    firstPart s c h total off data =
      accept (putPart { s with stages := s.stages ++ [x] } x off data) h 0x0030 c false [] := by
  have hform : ¬(data.isEmpty = true ∨ total < off + data.length) := by
    rintro (hnil | hover)
    · exact hdata (List.isEmpty_iff.mp hnil)
    · omega
  simp only [firstPart, if_neg hform, if_neg (Nat.not_lt.mpr hroom)]

section
variable {s s₁ : State} {h : CmdHdr} {se : Session}

/-- The first chunk of a FORME_LOAD begins the load. -/
theorem execFormeLoad_of_first {total off : Nat} {data : Bytes} (t : Taken s h 0x0030 [.ten] false s₁ se)
    (hnew : (s₁.stages.find? fun x => x.isOf h.session h.reqId) = none) :
    execFormeLoad h total off data s = .next (markChunk (firstPart s₁ se.chase h total off data) h 0x0030 off) := by
  simp only [execFormeLoad, chunkCmd_of_taken t, hnew, endedChunk_of_noFinal t.noFinal]

/-- FORME_STAGE of a read-only object whose contents are settled waits for the engines (R210). -/
theorem execFormeStage_of_settled {id : Nat} {o : Obj} (t : Taken s h 0x0031 [.ten] false s₁ se)
    (ho : findObj s₁ se.chase id = some o) (hmut : o.isMutable = false) (hopen : o.state ≠ .isOpen)
    (hheld : intakeHolds s₁ se.chase id = false) :
    execFormeStage h id s = .next (accept { s₁ with stages := s₁.stages ++
      [⟨h.session, h.reqId, 0x0031, se.chase, 0, [], s₁.now, id, true, none⟩] } h 0x0031 se.chase false []) := by
  simp only [execFormeStage, hostCmd_of_taken t, ho, hmut, hopen, hheld, Bool.false_eq_true, or_self, if_false]

/-- FORME_FREE removes an image that nothing uses, with its serving entry (R209, R292). -/
theorem execFormeFree_of_free {id : Nat} {i : Image} (t : Taken s h 0x0032 [.ten] false s₁ se)
    (hi : imageOf (chase s₁ se.chase) id = some i) (hfree : freeRefused (chase s₁ se.chase) i = false) :
    execFormeFree h id s = .next (done (modChase s₁ se.chase fun ch => { ch with
      images := ch.images.filter fun x => x.formeId != id
      serving := ch.serving.filter fun e => e.formeId != id
      cleared := ch.cleared.filter (· != id) }) h 0x0032 []) := by
  simp only [execFormeFree, hostCmd_of_taken t, hi, hfree, Bool.false_eq_true, if_false]

/-- FORME_LIST lists the images of the chase. -/
theorem execFormeList_of_taken (t : Taken s h 0x0038 [.ten] false s₁ se) :
    execFormeList h s = .next (done s₁ h 0x0038 (le 4 (chase s₁ se.chase).images.length ++ zeros 4 ++
      (chase s₁ se.chase).images.flatMap Image.listed)) := by
  simp only [execFormeList, hostCmd_of_taken t]

/-- An IMPOSE of images that may be imposed together places its order; it returns a fabric OUT_OF_SERVICE to service
when it imposes another set than before (R211, R296, R494). -/
theorem execImpose_of_allowed {ids : List Nat} {is : List Image} (t : Taken s h 0x0033 [.ten] false s₁ se)
    (hpos : 0 < ids.length) (hmax : ids.length ≤ 8) (his : ids.map (imageOf (chase s₁ se.chase)) = is.map some)
    (hchecked : ∀ i ∈ is, i.state ≠ .checking) (hdisjoint : disjointMaps (is.map fun i => i.body.pageMap) = true)
    (hidle : imposing (chase s₁ se.chase) = false) (hallowed : ∀ i ∈ is, formeAllowed s₁ i.body = true)
    (hother : s₁.faults.oos.contains (4 * 4096 + se.chase) = false ∨
      (idSet ids == idSet (chase s₁ se.chase).lastSet) = false) :
    execImpose h ids s = .next (placeOrder (accept
      (if s₁.faults.oos.contains (4 * 4096 + se.chase) then returnFabric s₁ se.chase else s₁) h 0x0033 se.chase false [])
      se.chase (.impose ids (h.session, h.reqId))) := by
  have himages : ids.filterMap (imageOf (chase s₁ se.chase)) = is := by
    have hmap := congrArg (List.filterMap id) his
    rwa [List.filterMap_map, List.filterMap_map, Function.id_comp, Function.id_comp, List.filterMap_some] at hmap
  have hcount : is.length = ids.length := by simpa using (congrArg List.length his).symm
  have hnumber : ¬(ids.length = 0 ∨ 8 < ids.length) := by omega
  have hfound : ¬(is.length ≠ ids.length ∨ (is.any fun i => i.state == .checking) = true) := by
    simpa [hcount] using hchecked
  have hmay : ¬(is.any fun i => !formeAllowed s₁ i.body) = true := by simpa using hallowed
  have hset : (s₁.faults.oos.contains (4 * 4096 + se.chase) && idSet ids == idSet (chase s₁ se.chase).lastSet) = false :=
    Bool.and_eq_false_iff.mpr hother
  simp only [execImpose, hostCmd_of_taken t, himages, if_neg hnumber, if_neg hfound, hdisjoint, hidle, if_neg hmay, hset,
    Bool.not_true, Bool.false_eq_true, if_false]

/-- A CHANGE between two images that R216 allows places its order. -/
theorem execChange_of_allowed {oldId newId : Nat} {a b : Image} (t : Taken s h 0x0034 [.ten] false s₁ se)
    (ha : imageOf (chase s₁ se.chase) oldId = some a) (hb : imageOf (chase s₁ se.chase) newId = some b)
    (hidle : imposing (chase s₁ se.chase) = false) (hold : a.state = .inService) (hnew : b.state = .resident)
    (hallowed : changeAllowed a.body b.body = true) :
    execChange h oldId newId s = .next (placeOrder (accept s₁ h 0x0034 se.chase false []) se.chase
      (.change oldId newId (h.session, h.reqId))) := by
  simp only [execChange, hostCmd_of_taken t, ha, hb, hidle, hold, hnew, hallowed, ne_eq, not_true_eq_false, or_self,
    Bool.not_true, Bool.false_eq_true, if_false]

/-- SERVE_SET with OP 0 puts an entry that passes the checks in the place of its forme's (R292 to R294). -/
theorem execServeSet_of_allowed {e : ServeFields} (t : Taken s h 0x0035 [.ten] false s₁ se)
    (hwidths : fieldWidths e = true) (hallowed : serveRefusal s₁ se.chase e = none) :
    execServeSet h 0 e s = .next (done (modChase s₁ se.chase fun ch => { ch with
      serving := (ch.serving.filter fun x => x.formeId != e.formeId) ++ [e]
      cleared := ch.cleared.filter (· != e.formeId) }) h 0x0035 []) := by
  simp only [execServeSet, hostCmd_of_taken t, hwidths, hallowed, Bool.not_true, Bool.false_eq_true, if_false]

/-- SERVE_SET with OP 1 clears the entry of a forme that has one (R295). -/
theorem execServeSet_of_clear {e : ServeFields} (t : Taken s h 0x0035 [.ten] false s₁ se)
    (hserved : ((chase s₁ se.chase).serving.any fun x => x.formeId == e.formeId) = true) :
    execServeSet h 1 e s = .next (done (freeCleared (modChase s₁ se.chase fun ch => { ch with
      serving := ch.serving.filter fun x => x.formeId != e.formeId
      cleared := ch.cleared ++ [e.formeId] }) se.chase) h 0x0035 []) := by
  simp only [execServeSet, hostCmd_of_taken t, hserved, Bool.not_true, Bool.false_eq_true, if_false]

/-- A SCAN_OUT of a tile pair of the chase places its scan (R225). -/
theorem execScanOut_of_owned {n : Nat} (t : Taken s h 0x0036 [.ten] false s₁ se) (hn : n < 2048)
    (hc : chaseOfTile s₁ n = some se.chase) :
    execScanOut h n s = .next (placeScan s₁ h 0x0036 se.chase n true []) := by
  simp only [execScanOut, hostCmd_of_taken t, hn, hc, and_self, if_true]

/-- A SCAN_IN of a scan record that the chase's pull key opens, of a tile pair of the chase, places its scan (R227). -/
theorem execScanIn_of_record {record b : Bytes} (t : Taken s h 0x0037 [.ten] false s₁ se)
    (hopen : openPull (chase s₁ se.chase) record = some b) (hmagic : field record 0 4 = 0x5A39504C)
    (hversion : field record 4 2 = 1) (hlen : field record 40 8 = b.length) (hmagic' : field b 0 4 = 0x5A395343)
    (hversion' : field b 4 2 = 1) (hsize : 251904 ≤ b.length)
    (hc : chaseOfTile s₁ (field b 16 2 % 2048) = some se.chase) :
    execScanIn h record s = .next (placeScan s₁ h 0x0037 se.chase (field b 16 2 % 2048) false b) := by
  simp only [execScanIn, hostCmd_of_taken t, hopen, hmagic, hversion, hlen, hmagic', hversion', hc,
    Nat.not_lt.mpr hsize, ne_eq, not_true_eq_false, or_self, if_false]

end

/-- Settles O32, command by command: each that is taken and passes its own checks has its effect. -/
theorem formeCommandsComplete : Obligations.FormeCommandsComplete := by
  refine ⟨?_, fun _ _ _ _ _ _ => execFormeStage_of_settled, fun _ _ _ _ _ _ => execFormeFree_of_free,
    fun _ _ _ _ _ _ => execImpose_of_allowed, fun _ _ _ _ _ _ _ _ => execChange_of_allowed,
    fun _ _ _ _ _ t => ⟨execServeSet_of_allowed t, execServeSet_of_clear t⟩,
    fun _ _ _ _ _ => execScanOut_of_owned, fun _ _ _ _ _ _ => execScanIn_of_record,
    fun _ _ _ _ => execFormeList_of_taken⟩
  intro s s₁ h total off data se t hnew hdata hlen hroom
  exact (execFormeLoad_of_first t hnew).trans
    (congrArg (fun u => Host.Outcome.next (markChunk u h 0x0030 off)) (firstPart_of_fits hdata hlen hroom))

end Sys2Proof.Machine
end

section
/-! SUPPORT. Proofs about the events of a re-imposition and of the image checks (R206 to R214, R484), one lemma per
event and outcome. -/

namespace Sys2Proof.Machine

/-! ### The engines that check images (R206, R210) -/

/-- The bytes that the stage of an image reserves once its check begins: a load's TOTAL, or the length of the object's
image when the store region has room for it (R210, check 0x0103). -/
def checkTotal (s : State) (x : Stage) : Nat :=
  if x.opcode = 0x0030 then x.total
  else match stageLen s x with
    | some n => if n ≤ storeGrant (chase s x.chase).cfg - storeUseAll s x.chase - storeReserved s x.chase then n else 0
    | none => 0

theorem checkTotal_of_load {s : State} {x : Stage} (hop : x.opcode = 0x0030) : checkTotal s x = x.total := if_pos hop

theorem checkTotal_of_stage {s : State} {x : Stage} {n : Nat} (hop : x.opcode ≠ 0x0030) (hn : stageLen s x = some n) :
    checkTotal s x =
      if n ≤ storeGrant (chase s x.chase).cfg - storeUseAll s x.chase - storeReserved s x.chase then n else 0 := by
  simp only [checkTotal, if_neg hop, hn]

/-- With nothing in the engines and no pull to drain the first image that waits is checked (R210, R487). -/
theorem execImageCheckBegin_of_ready {s : State} {x : Stage} (hfree : ∀ y ∈ s.stages, y.begun = none)
    (hbuffers : s.faults.buffers = []) (hx : (s.stages.find? fun y => y.ready) = some x) :
    execImageCheckBegin s = .next { s with
      stages := s.stages.map fun y =>
        if y.isOf x.session x.reqId then { y with total := checkTotal s x, begun := some s.now } else y } := by
  have hgo : ¬((s.stages.any fun y => y.begun.isSome) || !s.faults.buffers.isEmpty) = true := by
    simpa [hbuffers] using hfree
  simp only [execImageCheckBegin, if_neg hgo, hx]
  rfl

/-- The state without the stage of a command. -/
def dropStage (s : State) (x : Stage) : State :=
  { s with stages := s.stages.filter fun y => !y.isOf x.session x.reqId }

section
variable {s : State} {x : Stage} {image : Bytes} (hx : (s.stages.find? fun y => y.begun.isSome) = some x)
  (himage : stageImage s x = some image)
include hx himage

/-- An image that passes every check becomes RESIDENT (R208, R209). -/
theorem execImageCheckDone_of_sound (hsound : firstFailure (loadChecks (dropStage s x) x.chase
      (loadImg (chase s x.chase) image) (x.total == image.length)) = none) :
    execImageCheckDone s = .next (dropStage (replyLive (modChase s x.chase fun ch =>
      { ch with images := ch.images ++ [(loadImg (chase s x.chase) image).resident] })
      x.session x.reqId St.done 0 []) x) := by
  simp only [dropStage] at hsound
  simp only [execImageCheckDone, hx, himage, loadImg] at hsound ⊢
  simp only [hsound, dropStage]

/-- An image that fails a check is refused with the first failure (R207). -/
theorem execImageCheckDone_of_failure {st detail : Nat} (hfailed : firstFailure (loadChecks (dropStage s x) x.chase
      (loadImg (chase s x.chase) image) (x.total == image.length)) = some (st, detail)) :
    execImageCheckDone s = .next (dropStage (replyLive s x.session x.reqId st detail []) x) := by
  simp only [dropStage] at hfailed
  simp only [execImageCheckDone, hx, himage, loadImg] at hfailed ⊢
  simp only [hfailed, dropStage]

end

/-! ### The course of a re-imposition (R212 to R214, R484) -/

/-- Once the network has drained, nothing of the chase is in it, and the scrub of a re-imposition begins. A recovery
waits for the reset of its domain instead (R484). -/
theorem execFenceDrainDone_of_draining {s : State} {c : Nat} {cause : ImposeCause} {ids : List Nat}
    {cmd : Option (Nat × Nat)} (hact : (chase (assertWaiting s c) c).act = .impose cause .draining ids cmd)
    (hcause : cause ≠ .recovery) :
    ∃ v, execFenceDrainDone c s = .next (modChase v c fun ch => { ch with act := .impose cause .scrubbing ids cmd }) ∧
      v.net = (assertWaiting s c).net.filter fun f => f.chase != c := by
  simp only [execFenceDrainDone, hact]
  cases cause with
  | recovery => exact absurd rfl hcause
  | _ => exact ⟨_, rfl, rfl⟩

section
variable {s : State} {c : Nat} {ids : List Nat} {cmd : Option (Nat × Nat)} (vmin : List Nat)

/-- The scrub of a release ends it: the chase is free (R399). -/
theorem execScrubDone_of_release (hact : (chase s c).act = .impose .release .scrubbing ids cmd) :
    execScrubDone c vmin s = .next (replyCmd (freeChase (scrubVmin (scrubChase s c) c vmin) c) cmd St.done 0) := by
  simp only [execScrubDone, hact]

/-- After the scrub of a recovery the chase resumes (R484). -/
theorem execScrubDone_of_recovery (hact : (chase s c).act = .impose .recovery .scrubbing ids cmd) :
    execScrubDone c vmin s = .next (resumeChase (scrubVmin (scrubChase s c) c vmin) c) := by
  simp only [execScrubDone, hact]

/-- After any other scrub the formes that still pass the checks are put IN_SERVICE and loaded (R212, R214). -/
theorem execScrubDone_of_checked {cause : ImposeCause} (hrelease : cause ≠ .release) (hrecovery : cause ≠ .recovery)
    (hact : (chase s c).act = .impose cause .scrubbing ids cmd)
    (hchecks : imposeChecks (scrubVmin (scrubChase s c) c vmin) c ids = none) :
    execScrubDone c vmin s = .next (modChase (scrubVmin (scrubChase s c) c vmin) c fun ch =>
      { ch.serve ids with act := .impose cause .loading ids cmd }) := by
  simp only [execScrubDone, hact, hchecks]

/-- A complete load unlocks the formes, lifts the fence and ends the order (R212, R213). -/
theorem execPageLoadDone_of_loading {cause : ImposeCause} (hact : (chase s c).act = .impose cause .loading ids cmd) :
    execPageLoadDone c s = .next (orderEnded (replyCmd (modChase
      ((ids.filterMap fun id => (imageOf (chase s c) id).map Image.body).foldl loadForme s) c fun ch =>
        { ch.lock [] with
          fenced := false, heldDown := false, tb := [], injecting := [], array := [], lastServed := [] })
      cmd St.done 0) c) := by
  simp only [execPageLoadDone, hact]

end

/-- Settles O47, event by event: the check of an image from its begin to its outcome, then the drain, the scrub and the
load of a re-imposition. -/
theorem impositionEventsComplete : Obligations.ImpositionEventsComplete := by
  refine ⟨?_, ?_, ?_, ?_, ?_, fun _ _ _ _ _ => execPageLoadDone_of_loading⟩
  · intro s x hfree hbuffers hx hop
    exact checkTotal_of_load hop ▸ execImageCheckBegin_of_ready hfree hbuffers hx
  · intro s x len hfree hbuffers hx hop hlen
    exact checkTotal_of_stage hop hlen ▸ execImageCheckBegin_of_ready hfree hbuffers hx
  · intro s x image hx himage drop g failed
    exact ⟨execImageCheckDone_of_sound hx himage, fun st detail => execImageCheckDone_of_failure hx himage⟩
  · intro s c cause ids cmd hact hcause
    obtain ⟨v, hexec, hnet⟩ := execFenceDrainDone_of_draining hact hcause
    refine ⟨_, hexec, by rw [chase_modChase], fun f hf => ?_⟩
    rw [modChase_net, hnet] at hf
    exact bne_iff_ne.mp (List.mem_filter.mp hf).2
  · intro s c ids vmin cmd v
    exact ⟨execScrubDone_of_release vmin, execScrubDone_of_recovery vmin,
      fun cause hrelease hrecovery => execScrubDone_of_checked vmin hrelease hrecovery⟩

end Sys2Proof.Machine
end

section
/-! SUPPORT. Proofs about the events of a running change (R215 to R222) and of a scan (R225 to R227), one lemma per event
and outcome. -/

namespace Sys2Proof.Machine

/-! ### The events of a running change (R215 to R222) -/

section
variable {s : State} {c oldId newId : Nat} {timer : KMap Nat} {cmd : Option (Nat × Nat)} {a b : Image}

/-- The shadow configurations of both formes' tile pairs are loaded, and the tile pairs that are passive switch at once
(R215, R219). -/
theorem execShadowLoadDone_of_change {injected : Bool}
    (hact : (chase s c).act = .change oldId newId false injected timer cmd)
    (ha : imageOf (chase s c) oldId = some a) (hb : imageOf (chase s c) newId = some b) :
    let ts := changeTiles a.body b.body
    let imp := ((a.body.tiles.head?).map fun e => (tile s e.1).imp + 1).getD 1
    let t := modChase (ts.foldl (fun s t => modTile s t fun x =>
      { x with shadow := kget b.body.tiles t, switched := false }) s) c fun ch =>
        { ch with act := .change oldId newId true false [] cmd }
    execShadowLoadDone c s = .next (finishChange ((ts.filter fun n => passive a.body (tile t n) n).foldl
      (fun s n => switchTile s b.body n imp) t) c) := by
  simp only [execShadowLoadDone, hact, ha, hb]

/-- Once the last pass has entered the array and every ENTRY queue has a credit, each takes a LOCKUP token (R217). -/
theorem execLockupInject_of_entered (hact : (chase s c).act = .change oldId newId true false timer cmd)
    (ha : imageOf (chase s c) oldId = some a) (hfenced : (chase s c).fenced = false) (hpower : s.power.hold = false)
    (hentered : passesEntered s c oldId = true)
    (hcredit : ∀ q ∈ entryQueues a.body, creditFree s q.tile q.port = true) :
    let count := (chase s c).changeCount
    execLockupInject c s = .next (modChase
      ((entryQueues a.body).foldl (fun s q => pushFlight s c (q.tile, 64, q.port)
        (lockupToken (tile s q.tile).imp count q.tile q.port none) [] none) s) c fun ch =>
      { ch with act := .change oldId newId true true [] cmd }) := by
  have hall : ((entryQueues a.body).all fun q => creditFree s q.tile q.port) = true := List.all_eq_true.mpr hcredit
  simp only [execLockupInject, hact, ha, hfenced, hpower, hentered, hall, Bool.not_true, Bool.or_self,
    Bool.false_eq_true, if_false]

/-- A tile pair of the change that has passed the lock-up switches to the next impression (R219). -/
theorem execTileSwitch_of_passed {t : Nat} {injected : Bool} (hlive : liveTile s t = some c)
    (hact : (chase s c).act = .change oldId newId true injected timer cmd)
    (ha : imageOf (chase s c) oldId = some a) (hb : imageOf (chase s c) newId = some b)
    (hswitched : (tile s t).switched = false) (hof : (changeTiles a.body b.body).contains t = true)
    (hmay : mayswitch a.body (tile s t) t = true) :
    execTileSwitch t s = .next (finishChange (switchTile s b.body t ((tile s t).imp + 1)) c) := by
  simp only [execTileSwitch, hlive, hact, ha, hb, hswitched, hof, hmay, Bool.not_true, Bool.or_self,
    Bool.false_eq_true, if_false]

/-- A change past its limit ends in forme fault 0x010D (R222). -/
theorem execChangeTimeout_of_late (hact : (chase s c).act = .change oldId newId true true timer cmd)
    (ha : imageOf (chase s c) oldId = some a) (hlate : pacesReach timer (16 * a.body.guardLimit) = true) :
    execChangeTimeout c s = .next (formeFault s c 0x010D 0x7FF none) := by
  simp only [execChangeTimeout, hact, ha, hlate, if_true]

end

section
variable {s : State} {t fu input c : Nat} {cfg : TileCfg} {uc : UnitCfg} (hlive : liveTile s t = some c)
  (hcfg : (tile s t).active = some cfg) (huc : unitCfg (tile s t) fu = some uc) (hin : input ≤ uc.nin)
include hlive hcfg huc hin

/-- An input that has taken its LOCKUP token tries to pass the lock-up (R218). -/
theorem execLockupTake_of_taken (htaken : (fuOf (tile s t) fu).lockups.contains input = true) :
    execLockupTake t fu input s = .next (tryPass s c t fu cfg uc) := by
  simp only [execLockupTake, hlive, hcfg, huc, if_neg (Nat.not_lt.mpr hin), htaken, if_true]

section
variable {k : QTok} {r : List QTok} (htaken : (fuOf (tile s t) fu).lockups.contains input = false)
  (htoks : (portQ (tile s t) (uc.port input)).toks = k :: r) (hkind : k.tok.kind = 4)
include htaken htoks hkind

/-- A LOCKUP token of another impression is discarded (R221). -/
theorem execLockupTake_of_other_imp (himp : k.tok.imp ≠ (tile s t).imp) :
    execLockupTake t fu input s = .next (fabricFault (giveCredit (modTile s t fun x =>
      setPortQ x (uc.port input) { portQ x (uc.port input) with toks := r }) c t (uc.port input) k) c 0x010A t) := by
  simp only [execLockupTake, hlive, hcfg, huc, if_neg (Nat.not_lt.mpr hin), htaken, htoks, hkind, himp, ne_eq,
    not_true_eq_false, not_false_eq_true, Bool.false_eq_true, if_false, if_true]

/-- A LOCKUP token of the unit's impression is taken, and the unit tries to pass the lock-up (R218). -/
theorem execLockupTake_of_same_imp (himp : k.tok.imp = (tile s t).imp) :
    execLockupTake t fu input s = .next (tryPass (giveCredit (modTile s t fun x =>
      setFu (setPortQ x (uc.port input) { portQ x (uc.port input) with toks := r }) fu { fuOf x fu with
        lockups := nset (fuOf (tile s t) fu).lockups input, lockPayload := k.tok.payload })
      c t (uc.port input) k) c t fu cfg uc) := by
  simp only [execLockupTake, hlive, hcfg, huc, if_neg (Nat.not_lt.mpr hin), htaken, htoks, hkind, himp, ne_eq,
    not_true_eq_false, Bool.false_eq_true, if_false]

end

end

/-- A complete preload stands in the memory tile (R219). -/
theorem execPreloadDone_of_preloading {s : State} {t : Nat} {cfg : TileCfg} (hcfg : (tile s t).active = some cfg)
    (hpre : (tile s t).preloading = true) :
    execPreloadDone t s = .next (modTile s t fun x =>
      { mtWriteBytes x cfg.preloadAddr (cfg.preload.take cfg.preloadLen) with preloading := false }) := by
  simp only [execPreloadDone, hcfg, hpre, if_true]

/-! ### The end of a scan (R225 to R227) -/

section
variable {s : State} {c t ns : Nat} {rec : Bytes} {cmd : Nat × Nat}

/-- The record of a tile pair that fits the pull area is stored in it (R225). -/
theorem execScanDone_of_out (hact : (chase (assertWaiting s c) c).act = .scan t true (some ns) rec cmd) :
    let s' := assertWaiting s c
    let r := scanRecord s' c t ns
    pullUse s' + 64 + r.length ≤ 16777216 →
    execScanDone c s = .next (endScan (replyLive (storePull s' c 0 ns r) cmd.1 cmd.2 St.done 0
      (le 4 (storePull s' c 0 ns r).faults.pullCount ++ le 4 r.length)) c) := by
  intro s' r hfits
  simp only [execScanDone, hact]
  exact congrArg _ (if_neg (Nat.not_lt.mpr hfits))

/-- A record of the forme and impression that the tile pair runs is restored to it (R227). -/
theorem execScanDone_of_in {i : Image} (hact : (chase (assertWaiting s c) c).act = .scan t false (some ns) rec cmd) :
    let s' := assertWaiting s c
    formeOfTile (chase s' c) t = some i → i.formeId = field rec 8 8 → (tile s' t).imp = field rec 18 1 →
    execScanDone c s =
      .next (endScan (replyCmd (setTile s' t (restoreTile s' c t i.body rec)) (some cmd) St.done 0) c) := by
  intro s' hi hforme himp
  simp only [s'] at hi himp ⊢
  simp only [execScanDone, hact, hi, hforme, himp, and_self, if_true]

end

/-- Settles O48, event by event: the shadow load, the lock-up, the switch, the preload and the time limit of a change,
then the two ways that a scan is done. -/
theorem changeEventsComplete : Obligations.ChangeEventsComplete := by
  refine ⟨fun _ _ _ _ _ _ _ _ _ => execShadowLoadDone_of_change,
    fun _ _ _ _ _ _ _ => execLockupInject_of_entered, ?_,
    fun _ _ _ _ _ _ _ _ _ _ => execTileSwitch_of_passed, fun _ _ _ => execPreloadDone_of_preloading,
    fun _ _ _ _ _ _ _ => execChangeTimeout_of_late, fun _ _ _ _ _ _ => execScanDone_of_out,
    fun _ _ _ _ _ _ _ => execScanDone_of_in⟩
  intro s t fu input c cfg uc hlive hcfg huc hin
  exact ⟨execLockupTake_of_taken hlive hcfg huc hin, fun k r => execLockupTake_of_other_imp hlive hcfg huc hin,
    fun k r => execLockupTake_of_same_imp hlive hcfg huc hin⟩

end Sys2Proof.Machine
end

section
/-! SUPPORT. Proofs that a step keeps both memories in canonical form (R239, R249): every command keeps it, and so does
a nanosecond. -/

namespace Sys2Proof.Machine

/-! ### One step and the memories -/

/-- Every command has a next state, with both memories in canonical form. -/
theorem exec_memOk (s : State) (hm : s.memOk) : ∀ i : Instr, ∃ t, exec i s = .next t ∧ t.memOk
  | .hello .. => execHello_memOk (hm := hm) ..
  | .prove .. => execProve_memOk (hm := hm) ..
  | .close .. => execClose_memOk (hm := hm) ..
  | .ping .. => execPing_memOk (hm := hm) ..
  | .sessionInfo .. => execSessionInfo_memOk (hm := hm) ..
  | .claim h pub label => execClaim_memOk h pub label s hm
  | .policySet .. => execPolicySet_memOk (hm := hm) ..
  | .policyGet .. => execPolicyGet_memOk (hm := hm) ..
  | .credSet .. => execCredSet_memOk (hm := hm) ..
  | .readmit .. => execReadmit_memOk (hm := hm) ..
  | .decommission .. => execDecommission_memOk (hm := hm) ..
  | .relaySet .. => execRelaySet_memOk (hm := hm) ..
  | .intakeSet .. => execIntakeSet_memOk (hm := hm) ..
  | .chaseCreate .. => execChaseCreate_memOk (hm := hm) ..
  | .chaseChange .. => execChaseChange_memOk (hm := hm) ..
  | .chaseRelease .. => execChaseRelease_memOk (hm := hm) ..
  | .chaseInfo .. => execChaseInfo_memOk (hm := hm) ..
  | .chaseClaim .. => execChaseClaim_memOk (hm := hm) ..
  | .formeLoad .. => execFormeLoad_memOk (hm := hm) ..
  | .formeStage .. => execFormeStage_memOk (hm := hm) ..
  | .formeFree .. => execFormeFree_memOk (hm := hm) ..
  | .impose .. => execImpose_memOk (hm := hm) ..
  | .change .. => execChange_memOk (hm := hm) ..
  | .serveSet .. => execServeSet_memOk (hm := hm) ..
  | .scanOut .. => execScanOut_memOk (hm := hm) ..
  | .scanIn .. => execScanIn_memOk (hm := hm) ..
  | .formeList .. => execFormeList_memOk (hm := hm) ..
  | .signkeySet .. => execSignkeySet_memOk (hm := hm) ..
  | .formeKeyGet .. => execFormeKeyGet_memOk (hm := hm) ..
  | .objCreate .. => execObjCreate_memOk (hm := hm) ..
  | .put .. => execPut_memOk (hm := hm) ..
  | .seal .. => execSeal_memOk (hm := hm) ..
  | .get .. => execGet_memOk (hm := hm) ..
  | .move .. => execMove_memOk (hm := hm) ..
  | .objFree .. => execObjFree_memOk (hm := hm) ..
  | .windowSet .. => execWindowSet_memOk (hm := hm) ..
  | .objInfo .. => execObjInfo_memOk (hm := hm) ..
  | .score .. => execScore_memOk (hm := hm) ..
  | .generate .. => execGenerate_memOk (hm := hm) ..
  | .fileSubmit .. => execFileSubmit_memOk (hm := hm) ..
  | .cancel .. => execCancel_memOk (hm := hm) ..
  | .resend .. => execResend_memOk (hm := hm) ..
  | .jobOpen .. => execJobOpen_memOk (hm := hm) ..
  | .jobStep .. => execJobStep_memOk (hm := hm) ..
  | .jobRejoin .. => execJobRejoin_memOk (hm := hm) ..
  | .jobClose .. => execJobClose_memOk (hm := hm) ..
  | .readReg .. => execReadReg_memOk (hm := hm) ..
  | .writeReg .. => execWriteReg_memOk (hm := hm) ..
  | .resetReq .. => execResetReq_memOk (hm := hm) ..
  | .resetReadmit .. => execResetReadmit_memOk (hm := hm) ..
  | .healthEventsClear .. => execHealthEventsClear_memOk (hm := hm) ..
  | .colophon .. => execColophon_memOk (hm := hm) ..
  | .powerCap .. => execPowerCap_memOk (hm := hm) ..
  | .pullRead .. => execPullRead_memOk (hm := hm) ..
  | .askestPacket .. => execAskestPacket_memOk (hm := hm) ..
  | .reassemblyTimeout .. => execReassemblyTimeout_memOk (hm := hm) ..
  | .sessionPendingTimeout .. => execSessionPendingTimeout_memOk (hm := hm) ..
  | .sessionIdleTimeout .. => execSessionIdleTimeout_memOk (hm := hm) ..
  | .fileIdleTimeout .. => execFileIdleTimeout_memOk (hm := hm) ..
  | .heldChunkTimeout .. => execHeldChunkTimeout_memOk (hm := hm) ..
  | .policyTakeEffect .. => execPolicyTakeEffect_memOk (hm := hm) ..
  | .portRetrain .. => execPortRetrain_memOk (hm := hm) ..
  | .arpRequest .. => execArpRequest_memOk (hm := hm) ..
  | .neighborSolicitation .. => execNeighborSolicitation_memOk (hm := hm) ..
  | .mkaFrame .. => execMkaFrame_memOk (hm := hm) ..
  | .relayFrame .. => execRelayFrame_memOk (hm := hm) ..
  | .relayReply .. => execRelayReply_memOk (hm := hm) ..
  | .intakeFrame .. => execIntakeFrame_memOk (hm := hm) ..
  | .flowIdleExpiry .. => execFlowIdleExpiry_memOk (hm := hm) ..
  | .flowActiveExpiry .. => execFlowActiveExpiry_memOk (hm := hm) ..
  | .intakeScore => execIntakeScore_memOk (hm := hm) ..
  | .intakeRetry .. => execIntakeRetry_memOk (hm := hm) ..
  | .intakeResult .. => execIntakeResult_memOk (hm := hm) ..
  | .intakeNotify => execIntakeNotify_memOk (hm := hm) ..
  | .imageCheckBegin => execImageCheckBegin_memOk (hm := hm) ..
  | .imageCheckDone => execImageCheckDone_memOk (hm := hm) ..
  | .fenceDrainDone .. => execFenceDrainDone_memOk (hm := hm) ..
  | .scrubDone .. => execScrubDone_memOk (hm := hm) ..
  | .pageLoadDone .. => execPageLoadDone_memOk (hm := hm) ..
  | .shadowLoadDone .. => execShadowLoadDone_memOk (hm := hm) ..
  | .lockupInject .. => execLockupInject_memOk (hm := hm) ..
  | .lockupTake .. => execLockupTake_memOk (hm := hm) ..
  | .tileSwitch .. => execTileSwitch_memOk (hm := hm) ..
  | .preloadDone .. => execPreloadDone_memOk (hm := hm) ..
  | .changeTimeout .. => execChangeTimeout_memOk (hm := hm) ..
  | .tokenEject .. => execTokenEject_memOk (hm := hm) ..
  | .tokenTake .. => execTokenTake_memOk (hm := hm) ..
  | .fire .. => execFire_memOk (hm := hm) ..
  | .branchFire .. => execBranchFire_memOk (hm := hm) ..
  | .selectFire .. => execSelectFire_memOk (hm := hm) ..
  | .steerFire .. => execSteerFire_memOk (hm := hm) ..
  | .mergeFire .. => execMergeFire_memOk (hm := hm) ..
  | .loopFire .. => execLoopFire_memOk (hm := hm) ..
  | .loopEmit .. => execLoopEmit_memOk (hm := hm) ..
  | .emit .. => execEmit_memOk (hm := hm) ..
  | .creditReturn .. => execCreditReturn_memOk (hm := hm) ..
  | .granuleLand .. => execGranuleLand_memOk (hm := hm) ..
  | .bankGrant .. => execBankGrant_memOk (hm := hm) ..
  | .longGutterRoute .. => execLongGutterRoute_memOk (hm := hm) ..
  | .creditToken .. => execCreditToken_memOk (hm := hm) ..
  | .remoteCreditFlush .. => execRemoteCreditFlush_memOk (hm := hm) ..
  | .misregEvent .. => execMisregEvent_memOk (hm := hm) ..
  | .misreg .. => execMisreg_memOk (hm := hm) ..
  | .mov .. => execMov_memOk (hm := hm) ..
  | .ld .. => execLd_memOk (hm := hm) ..
  | .st .. => execSt_memOk (hm := hm) ..
  | .bcr .. => execBcr_memOk (hm := hm) ..
  | .bcc .. => execBcc_memOk (hm := hm) ..
  | .bcs .. => execBcs_memOk (hm := hm) ..
  | .extr .. => execExtr_memOk (hm := hm) ..
  | .ins .. => execIns_memOk (hm := hm) ..
  | .rotr .. => execRotr_memOk (hm := hm) ..
  | .rotc .. => execRotc_memOk (hm := hm) ..
  | .trans .. => execTrans_memOk (hm := hm) ..
  | .bfly .. => execBfly_memOk (hm := hm) ..
  | .add .. => execAdd_memOk (hm := hm) ..
  | .sub .. => execSub_memOk (hm := hm) ..
  | .mul .. => execMul_memOk (hm := hm) ..
  | .fma .. => execFma_memOk (hm := hm) ..
  | .div .. => execDiv_memOk (hm := hm) ..
  | .sqrt .. => execSqrt_memOk (hm := hm) ..
  | .min .. => execMin_memOk (hm := hm) ..
  | .max .. => execMax_memOk (hm := hm) ..
  | .abs .. => execAbs_memOk (hm := hm) ..
  | .neg .. => execNeg_memOk (hm := hm) ..
  | .and .. => execAnd_memOk (hm := hm) ..
  | .or .. => execOr_memOk (hm := hm) ..
  | .xor .. => execXor_memOk (hm := hm) ..
  | .not .. => execNot_memOk (hm := hm) ..
  | .shl .. => execShl_memOk (hm := hm) ..
  | .shr .. => execShr_memOk (hm := hm) ..
  | .exp .. => execExp_memOk (hm := hm) ..
  | .log .. => execLog_memOk (hm := hm) ..
  | .rsqrt .. => execRsqrt_memOk (hm := hm) ..
  | .tanh .. => execTanh_memOk (hm := hm) ..
  | .erf .. => execErf_memOk (hm := hm) ..
  | .cmp .. => execCmp_memOk (hm := hm) ..
  | .sel .. => execSel_memOk (hm := hm) ..
  | .cvt .. => execCvt_memOk (hm := hm) ..
  | .mpop .. => execMpop_memOk (hm := hm) ..
  | .mand .. => execMand_memOk (hm := hm) ..
  | .mor .. => execMor_memOk (hm := hm) ..
  | .mxor .. => execMxor_memOk (hm := hm) ..
  | .mnot .. => execMnot_memOk (hm := hm) ..
  | .rsum .. => execRsum_memOk (hm := hm) ..
  | .rmax .. => execRmax_memOk (hm := hm) ..
  | .rmin .. => execRmin_memOk (hm := hm) ..
  | .gadd .. => execGadd_memOk (hm := hm) ..
  | .vmul .. => execVmul_memOk (hm := hm) ..
  | .vdiv .. => execVdiv_memOk (hm := hm) ..
  | .frd .. => execFrd_memOk (hm := hm) ..
  | .fprd .. => execFprd_memOk (hm := hm) ..
  | .fsum .. => execFsum_memOk (hm := hm) ..
  | .fclr .. => execFclr_memOk (hm := hm) ..
  | .pmac .. => execPmac_memOk (hm := hm) ..
  | .fillStart .. => execFillStart_memOk (hm := hm) ..
  | .fillComplete .. => execFillComplete_memOk (hm := hm) ..
  | .slotRelease .. => execSlotRelease_memOk (hm := hm) ..
  | .slipIn .. => execSlipIn_memOk (hm := hm) ..
  | .slipOut .. => execSlipOut_memOk (hm := hm) ..
  | .drainTake .. => execDrainTake_memOk (hm := hm) ..
  | .drainWrite .. => execDrainWrite_memOk (hm := hm) ..
  | .passBegin .. => execPassBegin_memOk (hm := hm) ..
  | .walkComplete .. => execWalkComplete_memOk (hm := hm) ..
  | .compositorRow .. => execCompositorRow_memOk (hm := hm) ..
  | .commit .. => execCommit_memOk (hm := hm) ..
  | .stepHold .. => execStepHold_memOk (hm := hm) ..
  | .granuleRead .. => execGranuleRead_memOk (hm := hm) ..
  | .granuleWrite .. => execGranuleWrite_memOk (hm := hm) ..
  | .retrainDone .. => execRetrainDone_memOk (hm := hm) ..
  | .softPpr .. => execSoftPpr_memOk (hm := hm) ..
  | .patrolRead .. => execPatrolRead_memOk (hm := hm) ..
  | .granuleJoin .. => execGranuleJoin_memOk (hm := hm) ..
  | .moveComplete .. => execMoveComplete_memOk (hm := hm) ..
  | .windowFill .. => execWindowFill_memOk (hm := hm) ..
  | .faultDetect .. => execFaultDetect_memOk (hm := hm) ..
  | .captureDone .. => execCaptureDone_memOk (hm := hm) ..
  | .pullDrainDone .. => execPullDrainDone_memOk (hm := hm) ..
  | .resetLineAssert .. => execResetLineAssert_memOk (hm := hm) ..
  | .domainResetComplete .. => execDomainResetComplete_memOk (hm := hm) ..
  | .firingWd .. => execFiringWd_memOk (hm := hm) ..
  | .progress .. => execProgress_memOk (hm := hm) ..
  | .commandWd .. => execCommandWd_memOk (hm := hm) ..
  | .packageReset .. => execPackageReset_memOk (hm := hm) ..
  | .wearSample .. => execWearSample_memOk (hm := hm) ..
  | .phaseRetire .. => execPhaseRetire_memOk (hm := hm) ..
  | .discoveryMsg .. => execDiscoveryMsg_memOk (hm := hm) ..
  | .linkFrame .. => execLinkFrame_memOk (hm := hm) ..
  | .frameNak .. => execFrameNak_memOk (hm := hm) ..
  | .laneSpareRetrain .. => execLaneSpareRetrain_memOk (hm := hm) ..
  | .linkRekey .. => execLinkRekey_memOk (hm := hm) ..
  | .rekeyMsg .. => execRekeyMsg_memOk (hm := hm) ..
  | .syncMsg .. => execSyncMsg_memOk (hm := hm) ..
  | .lossOfSignal .. => execLossOfSignal_memOk (hm := hm) ..
  | .joinMsg .. => execJoinMsg_memOk (hm := hm) ..
  | .joinTimeout .. => execJoinTimeout_memOk (hm := hm) ..
  | .fenceMsg .. => execFenceMsg_memOk (hm := hm) ..
  | .rejoinMsg .. => execRejoinMsg_memOk (hm := hm) ..
  | .rejoinAck .. => execRejoinAck_memOk (hm := hm) ..
  | .vinRise => execVinRise_memOk (hm := hm) ..
  | .vinUnder => execVinUnder_memOk (hm := hm) ..
  | .vinOver => execVinOver_memOk (hm := hm) ..
  | .epoN => execEpoN_memOk (hm := hm) ..
  | .thermTripN => execThermTripN_memOk (hm := hm) ..
  | .thermTripRelease .. => execThermTripRelease_memOk (hm := hm) ..
  | .resetN => execResetN_memOk (hm := hm) ..
  | .pwrAlertN => execPwrAlertN_memOk (hm := hm) ..
  | .alertRelease => execAlertRelease_memOk (hm := hm) ..
  | .refclkLoss .. => execRefclkLoss_memOk (hm := hm) ..
  | .refclkReturn .. => execRefclkReturn_memOk (hm := hm) ..
  | .tempSample .. => execTempSample_memOk (hm := hm) ..
  | .thermalFloorEnd => execThermalFloorEnd_memOk (hm := hm) ..
  | .curBinUpdate .. => execCurBinUpdate_memOk (hm := hm) ..
  | .tiFall => execTiFall_memOk (hm := hm) ..
  | .railsSettled .. => execRailsSettled_memOk (hm := hm) ..
  | .limiter .. => execLimiter_memOk (hm := hm) ..
  | .limiterHandback .. => execLimiterHandback_memOk (hm := hm) ..
  | .throttleStep .. => execThrottleStep_memOk (hm := hm) ..
  | .holdEnd .. => execHoldEnd_memOk (hm := hm) ..
  | .overdriveEval .. => execOverdriveEval_memOk (hm := hm) ..
  | .senseCheck .. => execSenseCheck_memOk (hm := hm) ..
  | .laneShort .. => execLaneShort_memOk (hm := hm) ..
  | .aonCheck .. => execAonCheck_memOk (hm := hm) ..
  | .bootStatus => execBootStatus_memOk (hm := hm) ..
  | .bootConfig .. => execBootConfig_memOk (hm := hm) ..
  | .fwChunk .. => execFwChunk_memOk (hm := hm) ..
  | .bootDatagram .. => execBootDatagram_memOk (hm := hm) ..
  | .fwDeliveryTimeout => execFwDeliveryTimeout_memOk (hm := hm) ..
  | .fwVerifyDone => execFwVerifyDone_memOk (hm := hm) ..
  | .bringUpDone .. => execBringUpDone_memOk (hm := hm) ..
  | .rollbackBlow => execRollbackBlow_memOk (hm := hm) ..
  | .claimWindow .. => execClaimWindow_memOk (hm := hm) ..
  | .claimWindowExpiry => execClaimWindowExpiry_memOk (hm := hm) ..
  | .getVersion => execGetVersion_memOk (hm := hm) ..
  | .getCapabilities => execGetCapabilities_memOk (hm := hm) ..
  | .negotiateAlgorithms => execNegotiateAlgorithms_memOk (hm := hm) ..
  | .getDigests => execGetDigests_memOk (hm := hm) ..
  | .getCertificate .. => execGetCertificate_memOk (hm := hm) ..
  | .challenge .. => execChallenge_memOk (hm := hm) ..
  | .getMeasurements .. => execGetMeasurements_memOk (hm := hm) ..
  | .unsupportedRequest .. => execUnsupportedRequest_memOk (hm := hm) ..
  | .scanDone .. => execScanDone_memOk (hm := hm) ..
  | .udsDestroyed => execUdsDestroyed_memOk (hm := hm) ..
  | .ownerFusesBlown => execOwnerFusesBlown_memOk (hm := hm) ..
  | .torusPortTrained .. => execTorusPortTrained_memOk (hm := hm) ..
  | .inputPowerLoss => execInputPowerLoss_memOk s
  | .epoNRelease => execEpoNRelease_memOk (hm := hm) ..
  | .inputOorChange .. => execInputOorChange_memOk (hm := hm) ..
  | .jtagInstruction .. => execJtagInstruction_memOk (hm := hm) ..

/-- Settles O7: with nothing waiting a nanosecond passes, which touches no memory; otherwise the command at the front
runs on the queue's rest and keeps both memories in canonical form. -/
theorem stepKeepsMemory : Obligations.StepKeepsMemory := by
  intro s t hm hst
  cases hq : s.pending with
  | nil =>
    cases (emptyQueueTicks s hq).1.symm.trans hst
    exact tick_memOk s hm
  | cons c rest =>
    obtain ⟨u, hexec, hu⟩ := exec_memOk { s with pending := rest } hm c
    cases hexec.symm.trans ((step_of_pending_cons hq).symm.trans hst)
    exact hu

end Sys2Proof.Machine
end

section
/-! SUPPORT. Proofs about the granules of tiers H and B (R239, R241, R242, R252): a byte string reads back as written,
and a granule that is written leaves every other as it was. -/

namespace Sys2Proof.Machine

/-! ### Byte strings in a memory -/

section
variable {m : List Host.Cell} (hm : Memory.wf m = true)
include hm

/-- A byte away from a write is as it was. -/
theorem memRead_memWriteN_outside {a b : Nat} {bs : Bytes} (hb : b < a ∨ a + bs.length ≤ b) :
    memRead (memWriteN m a bs) b = memRead m b := by
  induction bs generalizing m a with
  | nil => rfl
  | cons x r ih =>
    simp only [List.length_cons] at hb
    rw [memWriteN, ih (memWrite_wf m a x hm) (by omega), memRead_memWrite_other m a b x (by omega) hm]

/-- A byte of a write is read as it was written. -/
theorem memRead_memWriteN_inside (a : Nat) {bs : Bytes} {i : Nat} (hi : i < bs.length) :
    memRead (memWriteN m a bs) (a + i) = bs[i] := by
  induction bs generalizing m a i with
  | nil => exact absurd hi (Nat.not_lt_zero i)
  | cons x r ih =>
    have hw := memWrite_wf m a x hm
    cases i with
    | zero => exact (memRead_memWriteN_outside hw (by omega)).trans (memRead_memWrite_same m a x hm)
    | succ i =>
      have htail := ih hw (a + 1) (Nat.lt_of_succ_lt_succ hi)
      rwa [Nat.add_right_comm] at htail

/-- A byte string reads back as it was written. -/
theorem memReadN_memWriteN_same (a : Nat) (bs : Bytes) : memReadN (memWriteN m a bs) a bs.length = bs := by
  refine List.ext_getElem (by simp [memReadN]) fun i _ hi => ?_
  simpa [memReadN] using memRead_memWriteN_inside hm a hi

/-- A byte string that a write does not meet is read as it was. -/
theorem memReadN_memWriteN_apart {a b n : Nat} {bs : Bytes} (hb : b + n ≤ a ∨ a + bs.length ≤ b) :
    memReadN (memWriteN m a bs) b n = memReadN m b n := by
  refine List.map_congr_left fun i hi => memRead_memWriteN_outside hm ?_
  have := List.mem_range.mp hi
  omega

end

/-! ### Sets of numbers -/

theorem mem_nset {l : List Nat} {k x : Nat} : x ∈ nset l k ↔ x = k ∨ x ∈ l := by
  induction l with
  | nil => simp [nset]
  | cons a r ih =>
    unfold nset
    split
    · next h => simp [h]
    · split
      · simp only [List.mem_cons, ih, or_left_comm]
      · exact List.mem_cons

theorem mem_nput {l : List Nat} {k x : Nat} {on : Bool} : x ∈ nput l k on ↔ if x = k then on = true else x ∈ l := by
  unfold nput
  by_cases h : x = k <;> cases on <;> simp [mem_nset, h]

/-- A number that is put into a set or removed from it is in it accordingly. -/
theorem any_nput_same (l : List Nat) (k : Nat) (on : Bool) : (nput l k on).any (· == k) = on := by
  rw [Bool.eq_iff_iff]
  simp [mem_nput]

/-- Every other number is in the set as before. -/
theorem any_nput_other (l : List Nat) {k x : Nat} (on : Bool) (h : x ≠ k) :
    (nput l k on).any (· == x) = l.any (· == x) := by
  rw [Bool.eq_iff_iff]
  simp [mem_nput, h]

/-! ### Granules (R241, R242) -/

section
variable {m : TierMem} {isH : Bool}

/-- A lost channel delivers zeros spoiled (R244). -/
theorem granuleData_of_lost {a : Nat} (h : isLost m isH a = true) : granuleData m isH a = ⟨zeros 64, true⟩ :=
  if_pos h

/-- A channel that is not lost delivers what is stored. -/
theorem granuleData_of_kept {a : Nat} (h : isLost m isH a = false) :
    granuleData m isH a = ⟨memReadN m.bytes (a / 64 * 64) 64, m.spoil.any (· == a / 64)⟩ :=
  if_neg (Bool.not_eq_true _ ▸ h)

/-- A write leaves the channels that are lost. -/
@[simp] theorem isLost_granulePut (pa a : Nat) (data : Bytes) (spoiled : Bool) :
    isLost (granulePut m isH pa data spoiled) isH a = isLost m isH a := by
  unfold granulePut
  split <;> rfl

/-- A full write of a granule puts its bytes and its spoil mark. -/
theorem granulePut_of_full {pa : Nat} {data : Bytes} {spoiled : Bool} (hlen : data.length = 64)
    (hkept : isLost m isH pa = false) : granulePut m isH pa data spoiled =
      { m with bytes := memWriteN m.bytes pa data, spoil := nput m.spoil (pa / 64) spoiled } := by
  simp only [granulePut, hkept, hlen, Bool.false_eq_true, if_false, if_true]

section
variable {pa : Nat} {data : Bytes} {spoiled : Bool} (hm : Memory.wf m.bytes = true) (hlen : data.length = 64)
  (hpa : pa % 64 = 0) (hkept : isLost m isH pa = false)
include hm hlen hpa hkept

/-- A granule reads back as it was written. -/
theorem granuleData_granulePut_same : granuleData (granulePut m isH pa data spoiled) isH pa = ⟨data, spoiled⟩ := by
  have hbytes := memReadN_memWriteN_same hm pa data
  rw [hlen] at hbytes
  rw [granuleData_of_kept ((isLost_granulePut ..).trans hkept), granulePut_of_full hlen hkept]
  simp only [show pa / 64 * 64 = pa by omega, hbytes, any_nput_same]

/-- A write of one granule leaves every other as it was. -/
theorem granuleData_granulePut_other {a : Nat} (ha : a / 64 ≠ pa / 64) :
    granuleData (granulePut m isH pa data spoiled) isH a = granuleData m isH a := by
  have hlost := isLost_granulePut (m := m) (isH := isH) pa a data spoiled
  cases h : isLost m isH a with
  | true => rw [granuleData_of_lost (hlost.trans h), granuleData_of_lost h]
  | false =>
    rw [granuleData_of_kept (hlost.trans h), granuleData_of_kept h, granulePut_of_full hlen hkept]
    simp only [memReadN_memWriteN_apart hm (show a / 64 * 64 + 64 ≤ pa ∨ pa + data.length ≤ a / 64 * 64 by omega),
      any_nput_other _ _ ha]

end

end

/-- Settles O22: the bytes and the spoil mark of the granule read back, those of every other granule lie apart from the
write, and the write keeps the canonical form. -/
theorem granuleReadsBack : Obligations.GranuleReadsBack := by
  intro m isH pa data spoiled hm hlen hpa hkept
  exact ⟨granuleData_granulePut_same hm hlen hpa hkept, fun _ => granuleData_granulePut_other hm hlen hpa hkept,
    granulePut_wf m isH pa data spoiled hm⟩

end Sys2Proof.Machine
end

section
/-! SUPPORT. Proofs about the events of tiers H and B (R241 to R245, R258, R259, R262), one lemma per event and
outcome. -/

namespace Sys2Proof.Machine

/-! ### Granule accesses (R241, R242, R244) -/

section
variable {s : State} {isH : Bool} {pa c : Nat} {outs : List GranuleOutcome} (hexists : paExists s isH pa = true)
include hexists

section
variable (hholder : chaseOfGranule s isH (granuleOf isH pa) = some c)
include hholder

section
variable {data : Bytes} {strobe : List Bool} {spoiled : Bool}
  (hany : ((List.range 64).any fun i => strobe.getD i false) = true)
include hany

/-- No check of a write holds back one of the chase that holds the granule. -/
theorem granuleWrite_passes : ¬(paExists s isH pa = false ∨ chaseOfGranule s isH (granuleOf isH pa) ≠ some c ∨
    (!(List.range 64).any fun i => strobe.getD i false) = true) := by
  rw [hexists, hholder, hany]
  simp

/-- A write of memory that does not serve waits (R244, R245). -/
theorem execGranuleWrite_of_stall {k : Nat × Nat} (hstall : accessStall s isH pa = some k) :
    execGranuleWrite isH pa c data strobe spoiled outs s = .next (stallMem s c k) := by
  simp only [execGranuleWrite, if_neg (granuleWrite_passes hexists hholder hany), hstall]

section
variable (hstall : accessStall s isH pa = none)
include hstall

/-- A write to a lost channel counts an uncorrectable event (R244). -/
theorem execGranuleWrite_of_lost (hlost : isLost (tier s isH) isH pa = true) :
    execGranuleWrite isH pa c data strobe spoiled outs s = .next (countMem s isH pa 1) := by
  simp only [execGranuleWrite, if_neg (granuleWrite_passes hexists hholder hany), hstall, hlost, if_true]

section
variable {v : State} {o : GranuleOutcome} (hlost : isLost (tier s isH) isH pa = false)
  (htries : accessTries 4 s isH pa outs = (v, some o))
include hlost htries

/-- A write of a whole granule puts its bytes and its spoil mark (R242). -/
theorem execGranuleWrite_of_whole (hall : ((List.range 64).all fun i => strobe.getD i false) = true) :
    execGranuleWrite isH pa c data strobe spoiled outs s =
      .next (setTier v isH (granulePut (tier v isH) isH (pa / 64 * 64) (padTo 64 data) spoiled)) := by
  simp only [execGranuleWrite, if_neg (granuleWrite_passes hexists hholder hany), hstall, hlost, htries, hall,
    Bool.false_eq_true, if_false, if_true]

/-- A write of part of a granule is merged with what a read delivers, and spoils as either does (R242). -/
theorem execGranuleWrite_of_part (hall : ((List.range 64).all fun i => strobe.getD i false) = false) :
    let w := (decodeGranule v isH pa o).1
    let old := granuleData (tier w isH) isH pa
    execGranuleWrite isH pa c data strobe spoiled outs s = .next (setTier w isH (granulePut (tier w isH) isH
      (pa / 64 * 64) ((List.range 64).map fun i => if strobe.getD i false then data.getD i 0 else old.data.getD i 0)
      (old.spoil || spoiled))) := by
  simp only [execGranuleWrite, if_neg (granuleWrite_passes hexists hholder hany), hstall, hlost, htries, hall,
    Bool.false_eq_true, if_false]

end

end

end

/-- A chase's read of memory that does not serve waits (R244, R245). -/
theorem execGranuleRead_of_stall {k : Nat × Nat} (hstall : accessStall s isH pa = some k) :
    execGranuleRead isH pa (some c) outs s = .next (stallMem s c k) := by
  simp only [execGranuleRead, hexists, hholder, hstall, ne_eq, not_true_eq_false, Bool.true_eq_false, if_false]

/-- A chase's read counts a spoiled granule that it delivers (R241, R252). -/
theorem execGranuleRead_of_holder {t : State} {spoil : Option Bool} (hstall : accessStall s isH pa = none)
    (hread : readGranule s isH pa outs = (t, spoil)) :
    execGranuleRead isH pa (some c) outs s = .next (if spoil = some true then countSpoiled t c 1 else t) := by
  simp only [execGranuleRead, hexists, hholder, hstall, hread, ne_eq, not_true_eq_false, Bool.true_eq_false, if_false]
  rcases spoil with _ | _ | _ <;> rfl

end

/-- The controller's own read goes through while its channel serves (R241, R244). -/
theorem execGranuleRead_of_controller (hserves : (tier s isH).retraining.contains (channelOf isH pa) = false)
    (hdie : isH = true → dieInReset s (pa / 2 ^ 30 / 288) = false) :
    execGranuleRead isH pa none outs s = .next (readGranule s isH pa outs).1 := by
  have hreset : (isH && dieInReset s (pa / 2 ^ 30 / 288)) = false := by
    cases isH with
    | false => rfl
    | true => exact hdie rfl
  simp only [execGranuleRead, hexists, hserves, hreset, Bool.true_eq_false, Bool.false_eq_true, Bool.or_self, if_false]

end

/-- The patrol reads its granule and moves on (R243). -/
theorem execPatrolRead_of_read {s v : State} {isH sp : Bool} {outs : List GranuleOutcome} :
    let pa := patrolFrom 6 s isH (tier s isH).patrol
    patrolled s isH pa = true → granuleHeld s isH pa = false → accessStall s isH pa = none →
    (granKeys s isH (granuleOf isH pa)).isSome = true → readGranule s isH pa outs = (v, some sp) →
    execPatrolRead isH outs s = .next (setTier v isH { tier v isH with patrol := patrolFrom 6 v isH (pa + 64) }) := by
  intro pa hpatrolled hheld hstall hkeys hread
  have hkeyed : (granKeys s isH (granuleOf isH pa)).isNone = false := by
    rw [← Option.not_isSome, hkeys, Bool.not_true]
  simp only [pa] at hpatrolled hheld hstall hkeyed hread ⊢
  simp only [execPatrolRead, hpatrolled, hheld, hstall, hkeyed, hread, Bool.not_true, Option.isSome_none, Bool.or_self,
    Bool.false_eq_true, if_false]

/-- A granule joins its chase, zeroed, and the last one ends the CHASE_CREATE (R249). -/
theorem execGranuleJoin_of_creating {s : State} {c g : Nat} {isH : Bool}
    (hcreating : (chase s c).creating.contains (if isH then 1 else 2, g) = true) :
    let t := if isH then 1 else 2
    let v := modChase (setTier s isH (zeroGranule (tier s isH) isH g)) c fun ch =>
      { ch with
        creating := ch.creating.filter (· != (t, g))
        granH := if isH then nset ch.granH g else ch.granH
        granB := if isH then ch.granB else nset ch.granB g }
    execGranuleJoin c isH g s =
      .next (if (chase v c).creating.isEmpty then replyCmd v (liveOfChase v c 0x0020) St.done 0 else v) := by
  simp only [execGranuleJoin, hcreating, if_true]

/-! ### Repair (R244, R245) -/

/-- A tier whose retrain of a channel has ended. -/
def retrained (m : TierMem) (chan : Nat) : TierMem :=
  { m with
    retraining := m.retraining.filter (· != chan)
    shorted := m.shorted.filter fun x => x.1 != chan }

section
variable {s : State} {isH : Bool} {chan : Nat}
  (hretraining : (tier s isH).retraining.contains chan = true)
include hretraining

/-- A channel whose retrain fails is lost (R244). -/
theorem execRetrainDone_of_failed :
    execRetrainDone isH chan false s = .next (memResume (healthEvent (setTier s isH
      { retrained (tier s isH) chan with lost := nset (tier s isH).lost chan }) 2)
      (· == memKey isH chan)) := by
  simp only [execRetrainDone, hretraining, retrained, Bool.not_true, Bool.not_false, Bool.false_eq_true, if_false,
    if_true]

/-- A channel without shorted lanes serves again (R244). -/
theorem execRetrainDone_of_back
    (hlanes : isH = false ∨ ((tier s isH).shorted.countP fun x => x.1 == chan) = 0) :
    execRetrainDone isH chan true s =
      .next (memResume (setTier s isH (retrained (tier s isH) chan)) (· == memKey isH chan)) := by
  have hremap : (isH && decide (0 < (tier s isH).shorted.countP fun x => x.1 == chan)) = false := by
    rcases hlanes with rfl | h
    · rfl
    · rw [h, decide_eq_false (Nat.lt_irrefl 0), Bool.and_false]
  simp only [execRetrainDone, hretraining, hremap, retrained, Bool.not_true, Bool.false_eq_true, if_false]

end

/-- A pseudo-channel with shorted lanes serves again on spare ones (R244, R513). -/
theorem execRetrainDone_of_remapped {s : State} {chan : Nat}
    (hretraining : (tier s true).retraining.contains chan = true)
    (hlanes : 0 < (tier s true).shorted.countP fun x => x.1 == chan) :
    execRetrainDone true chan true s = .next (memResume (healthEvent { setTier s true
      (retrained (tier s true) chan) with
      spares := { s.spares with hbmLanes := lset s.spares.hbmLanes (chan / 32) (s.spares.hbmLanes.getD (chan / 32) 0 +
        (tier s true).shorted.countP fun x => x.1 == chan) } } 4) (· == memKey true chan)) := by
  simp only [execRetrainDone, hretraining, decide_eq_true hlanes, retrained, Bool.not_true, Bool.and_self,
    Bool.false_eq_true, if_false, if_true]

section
variable {s : State} {isH : Bool} {row : Nat} (hdue : rowDue s isH row = true)
include hdue

/-- A row of a bank without a spare row is noted (R245). -/
theorem execSoftPpr_of_noSpare :
    execSoftPpr isH row false s = .next (memResume (setTier s isH
      { tier s isH with noSpare := nset (tier s isH).noSpare row }) (· == memKey isH (rowChannel row))) := by
  simp only [execSoftPpr, hdue, Bool.not_true, Bool.not_false, Bool.false_eq_true, if_false, if_true]

/-- A row is repaired by a spare row, which its stack or channel counts (R245). -/
theorem execSoftPpr_of_spare :
    let m := tier s isH
    let ch := rowChannel row
    execSoftPpr isH row true s = .next (memResume (healthEvent { setTier s isH { m with
        rowEvents := m.rowEvents.map fun e => if e.row = row then { e with mended := true } else e
        repaired := logRow m isH row } with
      spares := if isH then { s.spares with
          hbmRows := lset s.spares.hbmRows (ch / 32) (s.spares.hbmRows.getD (ch / 32) 0 + 1) }
        else { s.spares with ddrRows := lset s.spares.ddrRows ch (s.spares.ddrRows.getD ch 0 + 1) } } 4)
      (· == memKey isH ch)) := by
  cases isH <;> simp only [execSoftPpr, hdue, Bool.not_true, Bool.false_eq_true, if_false, if_true]

end

/-! ### Moves and windows (R258, R259, R262) -/

section
variable {s : State} {c id : Nat} {o : Obj} {m : MoveOp} (hobj : findObj s c id = some o) (hmove : o.move = some m)
include hobj hmove

/-- A move whose memory does not serve waits (R244, R245). -/
theorem execMoveComplete_of_stall {k : Nat × Nat}
    (hstall : copyStall s o.isH (m.tier == 1) (o.blocks.zip m.blocks) = some k) :
    execMoveComplete c id s = .next (stallMem s c k) := by
  simp only [execMoveComplete, hobj, hmove, hstall]

/-- A move ends where it led, and what waited for the object goes on (R258, R259). -/
theorem execMoveComplete_of_copied (hstall : copyStall s o.isH (m.tier == 1) (o.blocks.zip m.blocks) = none) :
    let v := modObj (copyBlocks s o.isH (m.tier == 1) (o.blocks.zip m.blocks)) c id fun o =>
      { o with
        tier := m.tier, homeDie := m.die, blocks := m.blocks, move := none, window := 0, win := [], lastFill := none
        state := if o.isMutable then .idle else .sealed
        oldHomes := if o.readers.isEmpty then o.oldHomes else o.oldHomes ++ [⟨o.tier, o.blocks, o.win, o.readers⟩] }
    let w := (fitMeta v c o.tier (metaDie o.tier o.homeDie o.blocks)).getD v
    execMoveComplete c id s = .next (wakeObj (o.waiters.length + 1) (replyCmd w (some m.cmd) St.done 0) c id) := by
  simp only [execMoveComplete, hobj, hmove, hstall]

end

/-- Block `block` of an object comes into its window next, in the place of block `b` of tier H (R262, R263). -/
structure FillsNext (s : State) (c id block b : Nat) (o : Obj) : Prop where
  obj : findObj s c id = some o
  tierB : o.tier = 2
  whole : o.state = .sealed
  inObject : block < o.blocks.length
  missing : o.win.any (fun e => e.2.1 == some block) = false
  unfenced : (chase s c).fenced = false
  wanted : nextFill s o = some block ∨ fillWanted s o block = true
  place : fillSlot o.win = some b

section
variable {s : State} {c id block b : Nat} {o : Obj} (hfill : FillsNext s c id block b o)
include hfill

/-- No check of a fill holds back one that is due. -/
theorem FillsNext.passes : ¬(o.tier ≠ 2 ∨ o.state ≠ .sealed ∨ o.blocks.length ≤ block ∨
    o.win.any (fun e => e.2.1 == some block) = true ∨ (chase s c).fenced = true ∨
    (nextFill s o ≠ some block ∧ fillWanted s o block = false)) := by
  obtain ⟨-, htier, hstate, hblock, hmissing, hfenced, hwanted, -⟩ := hfill
  simpa [htier, hstate, hblock, hmissing, hfenced, or_iff_not_imp_left] using hwanted

/-- A fill whose memory does not serve waits (R244, R245). -/
theorem execWindowFill_of_stall {k : Nat × Nat}
    (hstall : copyStall s false true [(o.blocks.getD block 0, b)] = some k) :
    execWindowFill c id block s = .next (stallMem s c k) := by
  simp only [execWindowFill, hfill.obj, if_neg hfill.passes, hfill.place, hstall]

/-- The window takes the block, as the last of its stream (R262). -/
theorem execWindowFill_of_copied (hstall : copyStall s false true [(o.blocks.getD block 0, b)] = none) :
    let v := copyBlock s false (o.blocks.getD block 0) true b
    execWindowFill c id block s = .next (modObj v c id fun o => { o with
      win := o.win.map fun e => if e.1 = b then (b, some block, v.now) else e
      lastFill := some block }) := by
  simp only [execWindowFill, hfill.obj, if_neg hfill.passes, hfill.place, hstall]

end

/-- Settles O54, event by event: a write and a read of a granule, a retrained channel, a repaired row, the patrol, a
granule that joins, a move and a fill. -/
theorem memoryEventsComplete : Obligations.MemoryEventsComplete := by
  refine ⟨?_, ?_, fun _ _ _ _ => execGranuleRead_of_controller, ?_, ?_, fun _ _ _ _ _ => execPatrolRead_of_read,
    fun _ _ _ _ => execGranuleJoin_of_creating, ?_, ?_⟩
  · intro s isH pa c data strobe spoiled outs hexists hholder hany all
    exact ⟨fun k => execGranuleWrite_of_stall hexists hholder hany, execGranuleWrite_of_lost hexists hholder hany,
      fun v o hstall hlost htries => ⟨execGranuleWrite_of_whole hexists hholder hany hstall hlost htries,
        execGranuleWrite_of_part hexists hholder hany hstall hlost htries⟩⟩
  · intro s t isH pa c outs spoil hexists hholder
    exact ⟨fun k => execGranuleRead_of_stall hexists hholder, execGranuleRead_of_holder hexists hholder⟩
  · intro s isH chan hretraining lanes m back
    refine ⟨execRetrainDone_of_failed hretraining, execRetrainDone_of_back hretraining, ?_⟩
    rintro rfl hlanes
    exact execRetrainDone_of_remapped hretraining hlanes
  · intro s isH row hdue m ch back
    exact ⟨execSoftPpr_of_noSpare hdue, execSoftPpr_of_spare hdue⟩
  · intro s c id o m hobj hmove
    exact ⟨fun k => execMoveComplete_of_stall hobj hmove, execMoveComplete_of_copied hobj hmove⟩
  · intro s c id block b o hobj htier hstate hblock hmissing hfenced hwanted hplace v
    have hfill : FillsNext s c id block b o := ⟨hobj, htier, hstate, hblock, hmissing, hfenced, hwanted, hplace⟩
    exact ⟨fun k => execWindowFill_of_stall hfill, execWindowFill_of_copied hfill⟩

end Sys2Proof.Machine
end

section
/-! SUPPORT. Proofs about the galley events (R270 to R274, R280 to R286, R475), one lemma per event and outcome. -/

namespace Sys2Proof.Machine

/-! ### Feeders (R270, R271, R276) -/

/-- A feeder whose entry queue has a credit goes on (R167, R287). -/
theorem entryCreditOr_of_free {s : State} {k : InGalley} {go : State → State}
    (hcredit : creditFree s k.d.stile k.d.gport = true) :
    entryCreditOr s k go = go (unstall s k.c (galleyKey k.d.stile k.d.tid)) :=
  if_pos hcredit

/-- It is galley `tid`'s turn at its feeder, which has a fill position free (R276, R277). -/
structure FillTurn (s : State) (feeder t tid : Nat) (k : InGalley) : Prop where
  served : inGalley s t tid = some k
  feeds : feederOf t = feeder
  room : (s.fills.countP fun f => f.feeder == feeder) < 16
  next : nextCyclic (kgetD s.feederPtr feeder 0) (feederGalleys s feeder) = some (4096 * t + tid)

/-- The galley's next chunk takes the slot at HEAD and a fill position, and the feeder's pointer moves on (R272,
R276). -/
def fillTaken (s : State) (feeder t tid : Nat) (k : InGalley) (gs : Option (List Granule)) : State :=
  let m := modGalley s t tid takeHead
  { m with
    fills := m.fills ++ [⟨feeder, k.c, t, tid, k.g.head, k.g.chunk, gs⟩]
    feederPtr := kset m.feederPtr feeder (4096 * t + tid) }

section
variable {s : State} {feeder t tid : Nat} {k : InGalley} (hturn : FillTurn s feeder t tid k)
include hturn

/-- No check of a fill holds back the galley whose turn it is. -/
theorem FillTurn.passes : ¬(feederOf t ≠ feeder ∨ 16 ≤ s.fills.countP (fun f => f.feeder == feeder) ∨
    nextCyclic (kgetD s.feederPtr feeder 0) (feederGalleys s feeder) ≠ some (4096 * t + tid)) := by
  obtain ⟨-, hfeeds, hroom, hnext⟩ := hturn
  simp only [hfeeds, hnext, ne_eq, not_true_eq_false, false_or, or_false, Nat.not_le, hroom]

/-- A fill of the request input takes its bytes from hub SRAM, and the window of the request moves on (R389, R475). -/
theorem execFillStart_of_input {errs : List (Nat × Nat)} {r : Req} (hinput : k.d.gtid = 0xFFF)
    (hreq : req s k.n = some r) :
    let off := k.g.chunk * (k.d.slotg * 64)
    let n := k.chunkLen s k.g.chunk
    execFillStart feeder t tid errs s = .next (grantWindow (modReq (unstall
      (fillTaken s feeder t tid k (some (inputGranules (passInput r k.a).1 off n errs))) k.c (galleyKey t tid)) k.n
      fun q => { q with taken := Nat.max q.taken (off + n) }) k.n) := by
  simp only [execFillStart, hturn.served, if_neg hturn.passes, if_pos hinput, hreq, fillTaken, Option.isSome_some,
    if_true]

section
variable {errs : List (Nat × Nat)} (htensor : k.d.gtid ≠ 0xFFF) (hsource : (k.source s).isSome = true)
include htensor hsource

/-- A fill of a tensor takes the granules that its object gives (R272). -/
theorem execFillStart_of_fetched {v : State} {gs : List Granule} (hfetch : k.fetch s k.g.chunk = .ok (v, gs)) :
    execFillStart feeder t tid errs s =
      .next (unstall (fillTaken v feeder t tid k (some gs)) k.c (galleyKey t tid)) := by
  simp only [execFillStart, hturn.served, if_neg hturn.passes, if_neg htensor,
    Option.isNone_eq_false_iff.mpr hsource, hfetch, fillTaken, Option.isSome_some, Bool.false_eq_true, if_false,
    if_true]

/-- A fill whose source is late takes its position and waits there (R265, R287). -/
theorem execFillStart_of_late {cause : Nat} (hfetch : k.fetch s k.g.chunk = .error cause) :
    execFillStart feeder t tid errs s =
      .next (stall (fillTaken s feeder t tid k none) k.c (galleyKey t tid) cause) := by
  simp only [execFillStart, hturn.served, if_neg hturn.passes, if_neg htensor,
    Option.isNone_eq_false_iff.mpr hsource, hfetch, fillTaken, Option.isSome_none, Bool.false_eq_true, if_false]

end

end

/-- A fill in flight that has its granules is written back as it stands. -/
theorem fills_set_same {s : State} {n : Nat} {f : Fill} (hfill : s.fills[n]? = some f) : s.fills.set n f = s.fills := by
  obtain ⟨hlt, rfl⟩ := List.getElem?_eq_some_iff.mp hfill
  exact List.set_getElem_self hlt

/-- A fill whose chunk is the next in order is injected under a credit and gives up its position; after the last chunk
the galley is done, a request input once its end token has found a credit too (R270, R271). -/
theorem execFillComplete_of_inOrder {s : State} {n : Nat} {f : Fill} {g : InGalley} {gs : List Granule}
    (hfill : s.fills[n]? = some f) (hgrans : f.granules = some gs) (hserved : inGalley s f.tile f.tid = some g)
    (hcredit : creditFree s g.d.stile g.d.gport = true) (horder : f.chunk = g.g.inject) :
    let v := injectChunk (unstall s g.c (galleyKey g.d.stile g.d.tid)) g f.slot f.chunk gs
    execFillComplete n s = .next (
      if f.chunk + 1 ≠ chunkCount g.d (g.stream s).1 then { v with fills := v.fills.erase f }
      else if g.d.gtid ≠ 0xFFF then galleyDone { v with fills := v.fills.erase f } g
      else entryCreditOr v g fun s' => injectEnd { s' with fills := s'.fills.erase f } g (g.stream s).1) := by
  have hsame : { f with granules := some gs } = f := by rw [← hgrans]
  simp only [execFillComplete, hfill, hserved, hgrans, hsame, fills_set_same hfill, if_pos horder,
    entryCreditOr_of_free hcredit, Bool.not_eq_true', decide_eq_false_iff_not, ne_eq]

/-- A slot that the firing is done with is released, and TAIL passes every released slot (R272, R274). -/
theorem execSlotRelease_of_consumed {s : State} {t tid slot c : Nat} {g : Galley} (hlive : liveTile s t = some c)
    (hgalley : galley (tile s t) tid = some g) (htaken : g.slots[slot]? = some .taken)
    (hunnamed : slotNamed (tile s t) tid slot = false) :
    execSlotRelease t tid slot s = .next (modGalley s t tid fun g =>
      advanceTail g.slots.length { g with slots := lset g.slots slot .released }) := by
  have hfree : ¬(g.slots[slot]? ≠ some .taken ∨ slotNamed (tile s t) tid slot = true) := by simp [htaken, hunnamed]
  simp only [execSlotRelease, hlive, hgalley, if_neg hfree]

/-! ### The slip path (R285, R286) -/

section
variable {s : State} {t tid : Nat} {errs : List (Nat × Nat)} {k : InGalley} {r : Req}
  (hserved : inGalley s t tid = some k) (hslips : k.slips s = true) (hthere : (k.stream s).1 ≤ (k.stream s).2)
  (hreq : req s k.n = some r)
include hserved hslips hthere hreq

/-- An empty input, or one whose handle has been injected, only wants its end token. -/
theorem execSlipIn_of_endDue (hend : (k.stream s).1 = 0 ∨ k.g.inject = 1) :
    execSlipIn t tid errs s = .next (entryCreditOr s k fun s' => injectEnd s' k (k.stream s).1) := by
  simp only [execSlipIn, hserved, hslips, decide_eq_false (Nat.not_lt.mpr hthere), hreq, if_pos hend, Bool.not_true,
    Bool.or_self, Bool.false_eq_true, if_false]

/-- An input goes into the EMPTY slot at HEAD; its handle is injected, and its end token once that finds a credit. -/
theorem execSlipIn_of_headEmpty (hsome : (k.stream s).1 ≠ 0) (hfirst : k.g.inject ≠ 1)
    (hempty : k.g.slots[k.g.head]? = some .empty) (hcredit : creditFree s k.d.stile k.d.gport = true) :
    let len := (k.stream s).1
    let u := modReq (unstall s k.c (galleyKey k.d.stile k.d.tid)) k.n fun q => { q with taken := Nat.max q.taken len }
    execSlipIn t tid errs s = .next (entryCreditOr (injectChunk (modGalley u t tid takeHead) k k.g.head 0
      (inputGranules (passInput r k.a).1 0 len errs)) k fun s' => injectEnd s' k len) := by
  have hmore : ¬((k.stream s).1 = 0 ∨ k.g.inject = 1) := not_or.mpr ⟨hsome, hfirst⟩
  simp only [execSlipIn, hserved, hslips, decide_eq_false (Nat.not_lt.mpr hthere), hreq, if_neg hmore, hempty,
    entryCreditOr_of_free hcredit, Bool.not_true, Bool.or_self, Bool.false_eq_true, ne_eq, not_true_eq_false, if_false]

end

/-- A short output that is whole goes to the reply buffer at once (R286, R475). -/
theorem execSlipOut_of_whole {s : State} {t tid : Nat} {errs : List (Nat × Nat)} {k : OutGalley} {a : ArrayPass}
    (hserved : outGalley s t tid = some k) (hpass : k.a = some a) (hslips : k.slips = true)
    (hwhole : outputWhole k.size.2 k.g = true) :
    execSlipOut t tid errs s =
      .next (outputWritten (toReply s a.req (hubRead (k.g.staged.take k.d.outlen) errs)) k) := by
  simp only [execSlipOut, hserved, hpass, hslips, hwhole, Bool.and_self, if_true]

/-! ### Drains (R280 to R282) -/

section
variable {s : State} {t tid : Nat} {k : OutGalley} {q : QTok} {r : List QTok} (hserved : outGalley s t tid = some k)
  (hfront : (portQ (tile s t) k.d.gport).toks = q :: r) (hopen : k.g.lockup = false) (hlanded : q.landed = true)
include hserved hfront hopen hlanded

/-- The drain takes a LOCKUP token (R282). -/
theorem execDrainTake_of_lockup (hkind : q.tok.kind = 4) : execDrainTake t tid s = .next (drainLockup s k r q) := by
  simp only [execDrainTake, hserved, hfront, hopen, hlanded, if_pos hkind, Bool.not_true, Bool.or_self,
    Bool.false_eq_true, if_false]

/-- A token within the output's end is appended to it, and its place in the port's queue is given back (R280, R281). -/
theorem execDrainTake_of_room (hkind : q.tok.kind ≠ 4) (hpass : k.a.isSome = true)
    (hpart : outputWhole k.size.2 k.g = false) (hrest : k.g.rest = []) (hroom : k.g.full.length < k.ring.2) :
    let g := appendToken s t k.ring k.g q.tok
    let v := modTile s t fun x => setPortQ x k.d.gport { portQ x k.d.gport with toks := r }
    let w := unstall (if q.landing.isSome then releaseLanding v k.c t k.d.gport q else giveCredit v k.c t k.d.gport q)
      k.c (galleyKey t tid)
    g.overfull k.size = false → execDrainTake t tid s = .next (modGalley
      (if k.slips then w else modTile w t (stageInMt k.d g)) t tid fun _ => closeOutput k.ring k.size k.slips g) := by
  intro g v w hfits
  simp only [g] at hfits
  simp only [execDrainTake, hserved, hfront, hopen, hlanded, if_neg hkind, Option.isNone_eq_false_iff.mpr hpass, hpart,
    hrest, decide_eq_false (Nat.not_le.mpr hroom), hfits, List.isEmpty_nil, Bool.not_true, Bool.or_self,
    Bool.false_eq_true, if_false, g, v, w]

end

/-- The output of a reply galley goes to no tensor (R281). -/
theorem OutGalley.target_of_reply {k : OutGalley} {s : State} {a : ArrayPass} (hreply : k.d.gtid = 0xFFF) :
    k.target s a = none := by
  simp only [OutGalley.target, decide_eq_true hreply, Bool.true_or, if_true]

/-- The output of a pass whose request goes on goes to the galley's tensor (R281, R333). -/
theorem OutGalley.target_of_tensor {k : OutGalley} {s : State} {a : ArrayPass} {d : TensorCfg} {o : Obj}
    (htensor : k.d.gtid ≠ 0xFFF) (hgoes : reqEnded s a.req = false) (hdesc : tensorOf k.forme.body k.d.gtid = some d)
    (hobj : findObj s k.c d.objId = some o) : k.target s a = some (d, o) := by
  simp only [OutGalley.target, decide_eq_false htensor, hgoes, hdesc, hobj, Bool.or_self, Bool.false_eq_true, if_false,
    Option.bind_some, Option.map_some]

section
variable {s : State} {t tid : Nat} {errs : List (Nat × Nat)} {k : OutGalley} {a : ArrayPass} {off : Nat}
  {b : List (Byte × Bool)} {rest : List (Nat × List (Byte × Bool))} (hserved : outGalley s t tid = some k)
  (hpass : k.a = some a) (hfull : k.g.full = (off, b) :: rest)
include hserved hpass hfull

/-- The oldest slot of a reply galley goes to the reply buffer (R281, R475). -/
theorem execDrainWrite_of_reply (hreply : k.d.gtid = 0xFFF) :
    let g := slotWritten k k.g
    let v := modTile (unstall (modGalley (toReply s a.req (hubRead b errs)) t tid fun _ => g) k.c (galleyKey t tid)) t
      (stageInMt k.d g)
    execDrainWrite t tid errs s =
      .next (if g.full.isEmpty && outputWhole k.size.2 g then outputWritten v k else v) := by
  simp only [execDrainWrite, hserved, hfull, hpass, OutGalley.target_of_reply hreply, if_pos hreply, Option.bind_none]

/-- The oldest slot of a tensor's galley goes to the tensor's object, whose memory serves (R281, R265). -/
theorem execDrainWrite_of_tensor {d : TensorCfg} {o : Obj} (htensor : k.d.gtid ≠ 0xFFF)
    (htarget : k.target s a = some (d, o))
    (hserves : ∀ g ∈ writeGrans (elemWrites d k.part off b), accessStall s o.isH (objPA o (64 * g)) = none) :
    let g := slotWritten k k.g
    let v := modTile (unstall (modGalley (writeTensor s d o k.part off b) t tid fun _ => g) k.c (galleyKey t tid)) t
      (stageInMt k.d g)
    execDrainWrite t tid errs s =
      .next (if g.full.isEmpty && outputWhole k.size.2 g then outputWritten v k else v) := by
  simp only [execDrainWrite, hserved, hfull, hpass, htarget, if_neg htensor, Option.bind_some,
    List.findSome?_eq_none_iff.mpr hserves]

end

/-- Settles O52, event by event: the fills of a feeder and their completion, a released slot, the slip path in both
directions, and the drain's tokens and slots. -/
theorem galleyEventsComplete : Obligations.GalleyEventsComplete := by
  refine ⟨?input, ?tensor, ?inOrder, ?last, fun s t tid slot c g => execSlotRelease_of_consumed,
    fun s t tid errs k r => execSlipIn_of_endDue, fun s t tid errs k r => execSlipIn_of_headEmpty,
    fun s t tid errs k a => execSlipOut_of_whole, ?take, fun s t tid errs k a off b rest => execDrainWrite_of_reply,
    ?write⟩
  case input =>
    intro s feeder t tid errs k r hserved hfeeds hroom hnext
    exact execFillStart_of_input ⟨hserved, hfeeds, hroom, hnext⟩
  case tensor =>
    intro s feeder t tid errs k hserved hfeeds hroom hnext htensor hsource take
    have hturn : FillTurn s feeder t tid k := ⟨hserved, hfeeds, hroom, hnext⟩
    exact ⟨fun v gs => execFillStart_of_fetched hturn htensor hsource,
      fun cause => execFillStart_of_late hturn htensor hsource⟩
  case inOrder =>
    intro s n f g gs hfill hgrans hserved hcredit horder hmore u v
    exact (execFillComplete_of_inOrder hfill hgrans hserved hcredit horder).trans (congrArg _ (if_pos hmore))
  case last =>
    intro s n f g gs hfill hgrans hserved hcredit horder hlast htensor u v
    exact (execFillComplete_of_inOrder hfill hgrans hserved hcredit horder).trans
      (congrArg _ ((if_neg (not_not.mpr hlast)).trans (if_pos htensor)))
  case take =>
    intro s t tid k q r hserved hfront hopen hlanded
    exact ⟨execDrainTake_of_lockup hserved hfront hopen hlanded,
      execDrainTake_of_room hserved hfront hopen hlanded⟩
  case write =>
    intro s t tid errs k a off b rest d o hserved hpass hfull htensor hgoes hdesc hobj
    exact execDrainWrite_of_tensor hserved hpass hfull htensor
      (OutGalley.target_of_tensor htensor hgoes hdesc hobj)

end Sys2Proof.Machine
end

section
/-! SUPPORT. Proofs about serving: the draft length of a round (R322, R325), and the serving events (R256, R300, R312,
R316, R317, R319, R320, R408), one lemma per event and outcome. -/

namespace Sys2Proof.Machine

/-! ### The draft length of a round (R322, R325) -/

section
variable {r : Req} (hdraft : r.drafting = true)
include hdraft

/-- After a verification K follows the count of accepted drafts, up to K_MAX (R325). -/
theorem nextK_verify_k : (nextK r true).k =
    Nat.min (if r.accepted = r.k then r.k + 1 else if 0 < r.accepted then r.accepted + 1 else r.k / 2)
      r.entry.kMax := by
  simp only [nextK, hdraft, Bool.not_true, Bool.false_eq_true, if_false, if_true]

/-- A plain pass short of PROBE_GAP is counted, and nothing else changes (R325). -/
theorem nextK_plain_of_lt (hgap : r.plain + 1 < r.entry.probeGap) : nextK r false = { r with plain := r.plain + 1 } := by
  simp only [nextK, hdraft, Bool.not_true, Bool.false_eq_true, if_false, if_neg (Nat.not_le.mpr hgap)]

/-- The plain pass that reaches PROBE_GAP sets K to 1 and starts the count anew (R325). -/
theorem nextK_plain_of_le (hgap : r.entry.probeGap ≤ r.plain + 1) :
    nextK r false = { r with k := Nat.min 1 r.entry.kMax, plain := 0 } := by
  simp only [nextK, hdraft, Bool.not_true, Bool.false_eq_true, if_false, if_pos hgap]

/-- A round begins with K limited by the tokens and the context that are left (R322). -/
theorem startRound_k : (startRound r).k = Nat.min (Nat.min r.k (r.params.maxTokens - r.tokens.length - 1))
    (r.entry.contextMax - (r.lp + r.tokens.length) - 1) := by
  simp only [startRound, hdraft, if_true]

end

/-- Settles O21: the three outcomes of a verification, the two of a plain pass, and the limit at the round's begin. -/
theorem draftLength : Obligations.DraftLength := by
  intro r hdraft
  refine ⟨?verified, ?counted, ?probed, ?round⟩
  case verified =>
    rintro a rfl
    rw [nextK_verify_k hdraft]
    refine ⟨fun hfull => ?_, fun hsome hpart => ?_, fun hnone hk => ?_⟩
    · rw [if_pos hfull]
    · rw [if_neg hpart.ne, if_pos hsome]
    · rw [if_neg (hnone ▸ hk.symm), if_neg hnone.not_gt]
  case counted =>
    intro hgap
    simp only [nextK_plain_of_lt hdraft hgap, and_self]
  case probed =>
    intro hgap
    simp only [nextK_plain_of_le hdraft hgap]
  case round =>
    rw [startRound_k hdraft]
    exact ⟨(Nat.min_le_left _ _).trans (Nat.min_le_left _ _), (Nat.min_le_left _ _).trans (Nat.min_le_right _ _)⟩

/-! ### A request and its record -/

section
variable {s : State} {n : Nat} {r : Req} (hreq : req s n = some r)
include hreq

/-- Changing a request depends on the request's own record only. -/
theorem modReq_eq_of_req (f : Req → Req) : modReq s n f = modReq s n fun _ => f r := by
  have hget : kget s.reqs n = some r := hreq
  simp only [modReq, kmod, hget]

/-- A changed request reads back as changed. -/
theorem req_modReq_same (f : Req → Req) : req (modReq s n f) n = some (f r) := by
  have hget : kget s.reqs n = some r := hreq
  simp only [req, modReq, kmod, hget, kget_kset_same]

end

/-! ### Passes: walks, holds and turns (R256, R300, R312, R408) -/

/-- The request whose turn it is on an open forme begins its pass, when the monitor lets it go on and its step has its
holds (R330, R408). -/
theorem execPassBegin_of_turn {s : State} {c forme n : Nat} {i : Image} {r : Req} {p : Pass}
    (himage : imageOf (chase s c) forme = some i) (hopen : (chase s c).fenced = false) (hpower : s.power.hold = false)
    (hidle : kget (chase s c).injecting forme = none) (henters : formeEnters s (chase s c) i = true)
    (hreq : req s n = some r) (hpass : r.pass = some p) (hgoes : monitor s n r p = none) (hholds : r.holdsDone = true) :
    let ready := readyOn s c forme i.body
    let top := (ready.map fun e => e.2.prio).foldl Nat.max 0
    nextCyclic (kgetD (chase s c).lastServed (8 * forme + top) 0)
      ((ready.filter fun e => e.2.prio == top).map Prod.fst) = some n →
    execPassBegin c forme s = .next (beginPass s n r p i) := by
  intro ready top hturn
  simp only [ready, top] at hturn
  simp only [execPassBegin, himage, hopen, hpower, hidle, henters, hturn, hreq, hpass, hgoes, hholds,
    Option.isSome_none, Bool.not_true, Bool.or_self, Bool.false_eq_true, if_false, if_true]

/-- A walk that ends takes its hits, and gives back as many of the request's reserved folios (R312). -/
theorem execWalkComplete_of_walking {s : State} {n : Nat} {r : Req} (hreq : req s n = some r)
    (hwalks : r.state = .walking) :
    let hits := matched (chase s r.chase).conc (bucketsOf s r.chase r.entry.concObj) r.entry (promptBlocks s r)
    let m := r.reserved.length - hits.length
    let t := modChase (setConc s r.chase ((chase s r.chase).conc.map fun e =>
      if hits.contains e then { e with refs := e.refs + 1, lastUse := s.now } else e)) r.chase fun ch =>
        freeFolios ch r.entry.poolObj (r.reserved.drop m)
    execWalkComplete n s = .next (readyNext (modReq t n fun r => { r with
      state := .prefill, folios := hits.map fun e => (e.folio, true), reserved := r.reserved.take m
      filled := 16 * hits.length }) n) := by
  simp only [execWalkComplete, hreq, if_neg (not_not.mpr hwalks)]

/-- The step of a live request's ready pass goes on with its holds (R256). -/
theorem execStepHold_of_ready {s : State} {n : Nat} {r : Req} {p : Pass} (hreq : req s n = some r)
    (hpass : r.pass = some p) (hlive : r.state.final = false) (hwalked : r.state ≠ .walking) (hready : p.begun = false)
    (hholds : r.holdsDone = false) (hopen : (chase s r.chase).fenced = false) :
    execStepHold n s = .next (acquire s n r p) := by
  simp only [execStepHold, hreq, hpass, hlive, beq_false_of_ne hwalked, hready, hholds, hopen, Bool.or_self,
    Bool.false_eq_true, if_false]

/-! ### Draws and commits (R316, R317, R319, R320) -/

/-- The Compositor draws for the row whose turn it is, once the row before it is committed (R316, R317). -/
theorem execCompositorRow_of_turn {s : State} {die c : Nat} {k : Compositor} {x : Nat × Nat × Nat} {r : Req} {p : Pass}
    (hcomp : s.comps[die]? = some k) (hturn : nextCyclic k.ptr ((k.rows.map Prod.fst).foldl nset []) = some c)
    (hrow : (k.rows.find? fun x => x.1 == c) = some x) (hreq : req s x.2.1 = some r) (hpass : r.pass = some p)
    (hlive : r.state.final = false) (hfree : r.drawn = none) :
    execCompositorRow die s = .next (drawFor (compWaits { s with
      comps := lmod s.comps die fun k' => { k' with ptr := c, rows := k'.rows.erase x } } die) x.2.1 x.2.2 r p) := by
  simp only [execCompositorRow, hcomp, hturn, hrow, hreq, hpass, hlive, hfree, Option.isSome_none, Bool.false_eq_true,
    if_false]

/-- A request whose drawn token has entered its token log (R319); an accepted draft is counted. -/
def Req.committed (r : Req) (tok : Nat) (sp ends : Bool) : Req :=
  { r with
    tokens := r.tokens ++ [(tok, sp)], spoiled := r.spoiled || sp, drawn := none, state := .decoding
    accepted := if ends then r.accepted else r.accepted + 1 }

/-- A commit puts the drawn token in the log; then a stop reason ends the request, and with none a batch of tokens
leaves and the round goes on or ends (R319, R320, R323). -/
theorem execCommit_of_drawn {s : State} {n tok : Nat} {sp ends : Bool} {r : Req} (hreq : req s n = some r)
    (hdrawn : r.drawn = some (tok, sp, ends)) (hlive : r.state.final = false) :
    let q := r.committed tok sp ends
    let t := modReq s n fun _ => q
    execCommit n s = .next (
      if stopReason q tok ≠ 0 then stopReq t n (stopReason q tok)
      else if ends then endRound (sendPartial t n) n q else sendPartial t n) := by
  intro q t
  have hcommit : modReq s n (Req.committed · tok sp ends) = t := modReq_eq_of_req hreq _
  have hlog : req t n = some q := req_modReq_same hreq _
  simp only [Req.committed] at hcommit
  simp only [execCommit, hreq, hdrawn, hlive, hcommit, hlog, Bool.false_eq_true, if_false]

/-- Settles O53, event by event: a pass begins, a walk ends, a row is drawn, a drawn token is committed, and a step
takes its holds. -/
theorem servingEventsComplete : Obligations.ServingEventsComplete := by
  refine ⟨?begins, fun s n r => execWalkComplete_of_walking, fun s die c k x r p => execCompositorRow_of_turn, ?commits,
    fun s n r p => execStepHold_of_ready⟩
  case begins =>
    intro s c forme n i r p himage hopen hpower hidle henters ready top hturn hreq hpass hgoes hholds
    exact execPassBegin_of_turn himage hopen hpower hidle henters hreq hpass hgoes hholds hturn
  case commits =>
    intro s n tok sp ends r hreq hdrawn hlive q t
    have hcommit := execCommit_of_drawn hreq hdrawn hlive
    exact ⟨fun hstops => hcommit.trans (congrArg _ (if_pos hstops)),
      fun hgoes => hcommit.trans (congrArg _ (if_neg (not_not.mpr hgoes)))⟩

end Sys2Proof.Machine
end

section
/-! SUPPORT. Proofs about the power and temperature controls (R344, R511, R517, R520, R521, R523, R524, R526): what the
settings of bins and rails leave of the sensors, and one lemma per event and outcome. -/

namespace Sys2Proof.Machine

/-! ### What the settings of bins and rails leave of the sensors (R346, R517, R524) -/

/-- Bringing SUST_BIN to its target leaves the sensors and the pins as they are. -/
@[simp] theorem updateSust_thermal_pins (s : State) :
    (updateSust s).thermal = s.thermal ∧ (updateSust s).pins = s.pins := by
  unfold updateSust
  dsimp only
  split_ifs <;> exact ⟨rfl, rfl⟩

/-- Setting the rails leaves the sensors and the pins as they are. -/
@[simp] theorem retarget_thermal_pins (s : State) :
    (retarget s).thermal = s.thermal ∧ (retarget s).pins = s.pins := by
  unfold retarget
  split_ifs <;> exact ⟨rfl, rfl⟩

/-- The end of a grant touches the pins not at all, and of the sensors TJ_PRED alone. -/
theorem endGrant_thermal_pins (s : State) :
    (endGrant s).thermal = { s.thermal with tjPred := (endGrant s).thermal.tjPred } ∧ (endGrant s).pins = s.pins := by
  unfold endGrant
  split_ifs
  · simp only [retarget_thermal_pins, and_self]
  · exact ⟨rfl, rfl⟩

/-! ### Samples of the sensors, and the indices and bins that follow (R344, R517, R526) -/

/-- A sample puts the sensors' registers and the trip pin, and then a grant, SUST_BIN and the rails follow from them
(R344, R526, R527). -/
theorem execTempSample_thermal_pins (sensors : List Nat) (s : State) :
    ∃ t, execTempSample sensors s = .next t ∧
      t.thermal = { s.thermal with
        tjMax := (hottest sensors).1
        hotDie := (hottest sensors).2
        ti := Nat.max (tiOf (hottest sensors).1) s.thermal.ti
        floor := s.thermal.floor || decide (105 ≤ (hottest sensors).1)
        tripOwn := s.thermal.tripOwn || decide (115 ≤ (hottest sensors).1)
        tjPred := t.thermal.tjPred
        tiFallNs := t.thermal.tiFallNs
        coolNs := t.thermal.coolNs } ∧
      t.pins = { s.pins with thermTripN := if 115 ≤ (hottest sensors).1 then false else s.pins.thermTripN } := by
  refine ⟨_, rfl, ?thermal, ?pins⟩
  case thermal =>
    simp only [retarget_thermal_pins, updateSust_thermal_pins]
    rw [(endGrant_thermal_pins _).1]
    split_ifs <;> rfl
  case pins =>
    simp only [retarget_thermal_pins, updateSust_thermal_pins, (endGrant_thermal_pins _).2]
    split_ifs <;> rfl

/-- The hottest sensor has stayed below the limit of temperature index `k` less 6 °C for 1 ms (R344). -/
def tiCool (s : State) (k : Nat) : Bool :=
  match (s.thermal.tiFallNs[k]?).bind id with
  | some t => decide (t + 1000000 ≤ s.now)
  | none => false

theorem tiCool_iff {s : State} {k : Nat} :
    tiCool s k = true ↔ ∃ t, s.thermal.tiFallNs[k]? = some (some t) ∧ t + 1000000 ≤ s.now := by
  rw [tiCool]
  rcases s.thermal.tiFallNs[k]? with _ | _ | t <;> simp

/-- The temperature index falls to the first one that the hottest sensor has been cool enough for. -/
theorem execTiFall_of_find {s : State} {k : Nat} (hfind : (List.range s.thermal.ti).find? (tiCool s) = some k) :
    execTiFall s = .next (retarget (updateSust { s with thermal := { s.thermal with ti := k } })) := by
  change Host.Outcome.next (match (List.range s.thermal.ti).find? (tiCool s) with
    | some k => retarget (updateSust { s with thermal := { s.thermal with ti := k } })
    | none => s) = _
  rw [hfind]

/-- The temperature index falls to the least one whose limit less 6 °C has held for 1 ms (R344). -/
theorem execTiFall_of_least {s : State} {k t0 : Nat} (hlower : k < s.thermal.ti)
    (hcool : s.thermal.tiFallNs[k]? = some (some t0)) (hlong : t0 + 1000000 ≤ s.now)
    (hleast : ∀ j t1, j < k → s.thermal.tiFallNs[j]? = some (some t1) → s.now < t1 + 1000000) :
    execTiFall s = .next (retarget (updateSust { s with thermal := { s.thermal with ti := k } })) := by
  have hnone : ∀ j < k, (!tiCool s j) = true := by
    intro j hj
    rw [Bool.not_eq_true', Bool.eq_false_iff, ne_eq, tiCool_iff]
    rintro ⟨t1, hfall, hpast⟩
    exact (hleast j t1 hj hfall).not_ge hpast
  exact execTiFall_of_find (List.find?_range_eq_some.mpr
    ⟨tiCool_iff.mpr ⟨t0, hcool, hlong⟩, List.mem_range.mpr hlower, hnone⟩)

/-- The thermal floor ends once the hottest sensor has stayed below 95 °C for 10 ms (R526). -/
theorem execThermalFloorEnd_of_cool {s : State} {t0 : Nat} (hfloor : s.thermal.floor = true)
    (hcool : s.thermal.coolNs = some t0) (hlong : t0 + 10000000 ≤ s.now) :
    execThermalFloorEnd s =
      .next (retarget (updateSust { s with thermal := { s.thermal with floor := false } })) := by
  simp only [execThermalFloorEnd, hfloor, hcool, if_pos hlong]

/-- CUR_BIN takes the voltage index of the lowest core rail and the present temperature index (R344). -/
theorem followRails_of_viOf {s : State} {vi : Nat} (hvi : viOf (railMv s) = some vi) :
    followRails s = setBins s (4 * vi + s.thermal.ti) s.power.sustBin := by
  simp only [followRails, hvi]

/-- A core rail below 0.60 V has no bin, and the hold begins (R345, R521). -/
theorem followRails_of_none {s : State} (hlow : viOf (railMv s) = none) : followRails s = enterHold s := by
  simp only [followRails, hlow]

/-- A faster SUST_BIN is written once the rails stand at its voltage index or above (R346). -/
theorem execRailsSettled_of_reached {s : State} {mvs : List Nat} {b vi : Nat} (hnext : s.power.sustNext = some b)
    (hvi : viOf (railMv { s with power := { s.power with railsMv := mvs } }) = some vi) (hreached : b / 4 ≤ vi) :
    execRailsSettled mvs s = .next (setBins { s with
      power := { s.power with railsMv := mvs, sustNext := none } } s.power.curBin b) := by
  simp only [execRailsSettled, hvi]
  simp only [hnext, if_pos hreached]

/-- Rails that settle below 0.60 V begin the hold, whatever bin waits for them (R345, R521). -/
theorem execRailsSettled_of_none {s : State} {mvs : List Nat}
    (hlow : viOf (railMv { s with power := { s.power with railsMv := mvs } }) = none) :
    execRailsSettled mvs s = .next (enterHold { s with power := { s.power with railsMv := mvs } }) := by
  simp only [execRailsSettled, hlow]

/-! ### The limiter (R511, R520) -/

section
variable {s v : State} {p : PowerSample}
  (hv : takeSample p.watts { s with thermal := { s.thermal with pinMgt := p.mgtAvg, pinOwn := p.ownAvg } } = v)
include hv

/-- Above the cap or a rail's limit, the limiter lowers the rails by 1 mV, to 0.61 V at most (log 79). -/
theorem execLimiter_of_over (hset : v.power.setMv ≠ 0) (hover : effCap v < p.watts ∨ railOver v p.amps = true) :
    execLimiter p s = .next { v with
      power := { v.power with
        limiter := true
        limiterCalmNs := none
        setMv := Nat.max 610 (v.power.setMv - 1) } } := by
  simp only [execLimiter, hv, if_pos (And.intro hset hover)]

/-- At or below both limits, or before the converters start, power management sets the rails (R517). -/
theorem execLimiter_of_within
    (hwithin : v.power.setMv = 0 ∨ (p.watts ≤ effCap v ∧ railOver v p.amps = false)) :
    execLimiter p s = .next (retarget v) := by
  have hnot : ¬(v.power.setMv ≠ 0 ∧ (effCap v < p.watts ∨ railOver v p.amps = true)) := by
    rintro ⟨hset, hover⟩
    obtain ⟨hcap, hrail⟩ := hwithin.resolve_left hset
    exact hover.elim hcap.not_gt (Bool.eq_false_iff.mp hrail)
  simp only [execLimiter, hv, if_neg hnot]

end

/-! ### The hold and overdrive (R520, R521, R523) -/

section
variable {s v : State} {watts : Nat} (hv : takeSample watts s = v)
include hv

/-- The limiter hands the rails back after 20 µs at or below 97 % of the cap (R520). -/
theorem execLimiterHandback_of_calm {t0 : Nat} (hlimits : v.power.limiter = true)
    (hcalm : v.power.limiterCalmNs = some t0) (hlong : t0 + 20000 ≤ v.now) :
    execLimiterHandback watts s = .next (retarget { v with
      power := { v.power with limiter := false, limiterCalmNs := none } }) := by
  simp only [execLimiterHandback, hv, hlimits, hcalm, if_pos hlong]

/-- Above the cap at 0.61 V, THROTTLE rises from 0 at once and then every 2 µs (R521). -/
theorem execThrottleStep_of_over (hhold : v.power.hold = true) (hfloor : atFloor v = true) (hover : effCap v < watts)
    (hdue : v.power.throttle = 0 ∨ v.power.throttleNs + 2000 ≤ v.now) :
    execThrottleStep watts s = .next { v with
      power := { v.power with
        throttle := if v.power.throttle = 0 then 1 else Nat.min 7 (v.power.throttle + 1)
        throttleNs := v.now } } := by
  simp only [execThrottleStep, hv, hhold, hfloor, decide_eq_true hover, Bool.not_true, Bool.and_self,
    Bool.false_eq_true, if_false, if_true]
  by_cases hzero : v.power.throttle = 0
  · simp only [if_pos hzero]
  · simp only [if_neg hzero, if_pos (hdue.resolve_left hzero)]

/-- At or below the cap, THROTTLE falls every 10 µs that the average stays at or below 90 % of it (R521). -/
theorem execThrottleStep_of_calm {t0 : Nat} (hhold : v.power.hold = true) (hwithin : watts ≤ effCap v)
    (hcalm : v.power.calmNs = some t0) (hthrottled : 0 < v.power.throttle)
    (hlong : Nat.max t0 v.power.throttleNs + 10000 ≤ v.now) :
    execThrottleStep watts s = .next { v with
      power := { v.power with throttle := v.power.throttle - 1, throttleNs := v.now } } := by
  simp only [execThrottleStep, hv, hhold, decide_eq_false hwithin.not_gt, hcalm,
    if_pos (And.intro hthrottled hlong), Bool.not_true, Bool.and_false, Bool.false_eq_true, if_false]

/-- With the rails at 0.60 V or more, the hold ends when the cap has risen, or after 1 ms of calm without THROTTLE
(R521). -/
theorem execHoldEnd_of_due {t0 : Nat} (hhold : v.power.hold = true) (hrails : 600 ≤ railMv v)
    (hdue : v.power.capRose = true ∨ v.power.throttle = 0 ∧ v.power.calmNs = some t0 ∧
      Nat.max t0 v.power.throttleNs + 1000000 ≤ v.now) :
    execHoldEnd watts s = .next (leaveHold v) := by
  simp only [execHoldEnd, hv, hhold, decide_eq_true hrails]
  obtain hrose | ⟨hzero, hcalm, hlong⟩ := hdue
  · simp only [hrose, Bool.true_or, Bool.and_self, if_true]
  · simp only [hzero, hcalm, decide_eq_true hlong, beq_self_eq_true, Bool.or_true, Bool.and_self, if_true]

/-- Every 1 ms the ledger, TJ_PRED and the grant are set anew, and what a change of the cap asks follows (R523,
R524). -/
theorem execOverdriveEval_eq :
    let pred := tjPredOf v watts
    let ok := odAllowed v && decide (pred ≤ 85 * tjUnit) && v.power.setMv != 0
    execOverdriveEval watts s = .next (capsChanged (effCap v) { v with
      power := { v.power with ledger := ledgerNs v / 1000000, grant := ok }
      thermal := { v.thermal with tjPred := if ok then (pred / tjUnit).toNat else 0 } }) := by
  simp only [execOverdriveEval, hv]

end

/-- Settles O58, event by event: the sensors' sample, the indices and bins that follow, the limiter, the hold, and the
overdrive grant. -/
theorem powerControlsComplete : Obligations.PowerControlsComplete := by
  refine ⟨?sample, fun s t0 => execThermalFloorEnd_of_cool, ?bins, fun s k t0 => execTiFall_of_least,
    fun s mvs b vi => execRailsSettled_of_reached, fun s mvs => execRailsSettled_of_none,
    fun s p => execLimiter_of_over rfl, fun s p => execLimiter_of_within rfl,
    fun s watts t0 => execLimiterHandback_of_calm rfl, fun s watts => execThrottleStep_of_over rfl,
    fun s watts t0 => execThrottleStep_of_calm rfl, fun s watts t0 => execHoldEnd_of_due rfl,
    fun s watts => execOverdriveEval_eq rfl⟩
  case sample =>
    intro s sensors
    obtain ⟨t, hexec, hthermal, hpins⟩ := execTempSample_thermal_pins sensors s
    refine ⟨t, hexec, ?_⟩
    rw [hthermal, hpins]
    exact ⟨rfl, rfl, rfl, fun htrip => ⟨by simp [htrip], if_pos htrip⟩, fun hhot => by simp [hhot]⟩
  case bins =>
    intro s mvs v
    exact ⟨fun vi hvi => congrArg _ (followRails_of_viOf hvi), fun hlow => congrArg _ (followRails_of_none hlow)⟩

end Sys2Proof.Machine
end

section
/-! SUPPORT. Proofs about what a message meets before its command runs: the replay window (R365), the flow key (R379),
and the common checks of host commands (R47, R366, R371, R373, R383, R413, R438). -/

namespace Sys2Proof.Machine

/-! ### The replay window (R365) -/

/-- Refutes O12 at the lower end of the window: with 1,025 the highest number accepted, the model accepts number 1,
which lies within 1,024 below it (R365), where the statement asks that it be rejected. -/
theorem not_replayWindow : ¬ Obligations.ReplayWindow := by
  intro hwindow
  obtain ⟨-, -, hbelow, -⟩ := hwindow { (default : Session) with rxHigh := 1025, rxSeen := [1025] } 1
  exact absurd (hbelow (by decide)) (by decide)

/-! ### The flow key (R379) -/

/-- The lower and the higher endpoint of a flow do not depend on the direction of the packet. -/
theorem flowKey_of_reversed {f g : IntakeFrame} (hsrc : g.srcAddr = f.dstAddr) (hsrcPort : g.srcPort = f.dstPort)
    (hdst : g.dstAddr = f.srcAddr) (hdstPort : g.dstPort = f.srcPort) (hvlan : g.vlan = f.vlan) (hvni : g.vni = f.vni)
    (hv6 : g.v6 = f.v6) (hproto : g.proto = f.proto) : flowKey g = flowKey f := by
  have hmin := Nat.min_comm (endpoint f.dstAddr f.dstPort) (endpoint f.srcAddr f.srcPort)
  have hmax := Nat.max_comm (endpoint f.dstAddr f.dstPort) (endpoint f.srcAddr f.srcPort)
  simpa [flowKey, hsrc, hsrcPort, hdst, hdstPort, hvlan, hvni, hv6, hproto] using ⟨hmin, hmax⟩

/-- The hash of a flow is a function of its key. -/
theorem flowHash_congr {f g : IntakeFrame} (s : State) (c : Nat) (hkey : flowKey g = flowKey f) :
    flowHash s c g = flowHash s c f := by
  simp only [flowHash, hkey]

/-- Settles O13: the key takes the lower and the higher endpoint, whichever of them sends. -/
theorem flowKeyHasNoDirection : Obligations.FlowKeyHasNoDirection := by
  intro s c f g hsrc hsrcPort hdst hdstPort hvlan hvni hv6 hproto
  have hkey := flowKey_of_reversed hsrc hsrcPort hdst hdstPort hvlan hvni hv6 hproto
  exact ⟨hkey, flowHash_congr s c hkey⟩

/-! ### The common checks (R47, R366, R371, R373, R383, R413, R438) -/

/-- A gated command that the gate ignores waits. -/
theorem gatedCmd_of_ignore {s : State} {i : Instr} {h : CmdHdr} {sp : CmdSpec} (hg : gate s h sp = .ignore)
    (run : State → Session → State) : gatedCmd i h sp run s = .next s := by
  simp only [gatedCmd, chunkCmd, requestCmd, hg, ite_self]

/-- A gated command that the gate answers goes no further. -/
theorem gatedCmd_of_answer {s t : State} {i : Instr} {h : CmdHdr} {sp : CmdSpec} (hg : gate s h sp = .answer t)
    (run : State → Session → State) : gatedCmd i h sp run s = .next t := by
  simp only [gatedCmd, chunkCmd, requestCmd, hg, ite_self]

section
variable {s : State} {i : Instr} {h : CmdHdr} {sp : CmdSpec} (hi : gatedBy i = some (h, sp))
include hi

/-- A command whose gate ignores it leaves the state as it is. -/
theorem exec_of_gate_ignore (hg : gate s h sp = .ignore) : exec i s = .next s := by
  obtain ⟨run, hrun⟩ := exec_of_gatedBy hi
  exact (hrun s).trans (gatedCmd_of_ignore hg run)

/-- A command whose gate answers it ends in the answer. -/
theorem exec_of_gate_answer {t : State} (hg : gate s h sp = .answer t) : exec i s = .next t := by
  obtain ⟨run, hrun⟩ := exec_of_gatedBy hi
  exact (hrun s).trans (gatedCmd_of_answer hg run)

/-- A command whose gate refuses it ends in its refusal. -/
theorem exec_of_gate_refuse {t : State} {r : Reply} {se : Session} (hg : gate s h sp = .refuse t r)
    (hse : kget t.sessions h.session = some se) : exec i s = .next (refusal t se i h sp.opcode r) := by
  obtain ⟨run, hrun⟩ := exec_of_gatedBy hi
  exact (hrun s).trans (gatedCmd_of_refuse hg hse run)

end

section
variable {s s₁ : State} {h : CmdHdr} {sp : CmdSpec} {se : Session} (ht : takeDesc s h sp.opcode = some s₁)
include ht

/-- A command of no session is dropped (R366). -/
theorem gate_of_no_session (hse : kget s₁.sessions h.session = none) : gate s h sp = .answer s₁ := by
  simp only [gate, ht, hse]

variable (hse : kget s₁.sessions h.session = some se)
include hse

/-- A retransmission of a live command is answered with its latest reply (R371). -/
theorem gate_of_live {l : LiveCmd} (hl : liveOf s₁ h.session h.reqId = some l) (hop : l.opcode = sp.opcode)
    (hpiece : isChunked sp.opcode = false) : gate s h sp = .answer (resendReply s₁ l.latest) := by
  simp only [gate, ht, hse, hl, if_pos hop, hpiece, Bool.false_eq_true, if_false]

/-- An id that is live under another opcode conflicts (R371). -/
theorem gate_of_conflict {l : LiveCmd} (hl : liveOf s₁ h.session h.reqId = some l) (hop : l.opcode ≠ sp.opcode) :
    gate s h sp = .answer (conflictReply s₁ se (mkReply h.ep h.session sp.opcode h.reqId St.malformed 0x0A0A [])) := by
  simp only [gate, ht, hse, hl, if_neg hop]

variable (hl : liveOf s₁ h.session h.reqId = none)
include hl

/-- A retransmission of a command that has ended is answered with its final reply (R371). -/
theorem gate_of_final {f : Final} (hf : keptFinal s₁ h.session sp.opcode h.reqId = some f)
    (hpiece : isChunked sp.opcode = false) : gate s h sp = .answer (resendReply s₁ (some f.reply)) := by
  simp only [gate, ht, hse, hl, hf, hpiece, Bool.false_eq_true, if_false]

/-- A command that is no retransmission meets the checks of every command. -/
theorem gate_of_new (hk : keptFinal s₁ h.session sp.opcode h.reqId = none) :
    gate s h sp = commonChecks s₁ se h sp true := by
  simp only [gate, ht, hse, hl, hk]

end

section
variable {s : State} {h : CmdHdr} {sp : CmdSpec} {se : Session} {isNew : Bool} (he : entitled se sp = true)
include he

/-- A command of a chase that is released or fenced gets DOMAIN_RESET (R52, R393). -/
theorem commonChecks_of_fenced (hfence : fenceAnswers s se sp.opcode = true) :
    commonChecks s se h sp isNew =
      .refuse s { mkReply h.ep h.session sp.opcode h.reqId St.domainReset 0 [] with dscp := h.dscp } := by
  simp only [commonChecks, he, hfence, Bool.not_true, Bool.false_eq_true, if_false, if_true]

variable (hfence : ¬fenceAnswers s se sp.opcode = true)
include hfence

/-- A device OUT_OF_SERVICE serves only what R383 excepts. -/
theorem commonChecks_of_outOfService (hboot : s.boot.state = 5) (hoos : sp.oosOk = false) :
    commonChecks s se h sp isNew =
      .refuse s { mkReply h.ep h.session sp.opcode h.reqId St.outOfService 0 [] with dscp := h.dscp } := by
  simp only [commonChecks, he, if_neg hfence, if_pos (And.intro hboot hoos), Bool.not_true, Bool.false_eq_true,
    if_false]

variable (hserved : ¬(s.boot.state = 5 ∧ sp.oosOk = false))
include hserved

/-- A body of the wrong length is refused (R373 check 4). -/
theorem commonChecks_of_badLength (hform : h.form = .badLength) : commonChecks s se h sp isNew =
    .refuse s { mkReply h.ep h.session sp.opcode h.reqId St.malformed 0x0A02 [] with dscp := h.dscp } := by
  simp only [commonChecks, he, if_neg hfence, if_neg hserved, hform, Bool.not_true, Bool.false_eq_true, if_false]

/-- A body with a reserved field set is refused (R373 check 4). -/
theorem commonChecks_of_reservedSet (hform : h.form = .reservedSet) : commonChecks s se h sp isNew =
    .refuse s { mkReply h.ep h.session sp.opcode h.reqId St.malformed 0x0A03 [] with dscp := h.dscp } := by
  simp only [commonChecks, he, if_neg hfence, if_neg hserved, hform, Bool.not_true, Bool.false_eq_true, if_false]

/-- A new command finds no room in a session with 1,024 live commands (R371). -/
theorem commonChecks_of_full (hform : h.form = .ok) (hop : isRequestOp sp.opcode = false)
    (hfull : 1024 ≤ s.live.countP fun l => l.session == h.session && !l.isRequest) :
    commonChecks s se h sp true =
      .refuse { s with draws := s.draws + 1 } { mkReply h.ep h.session sp.opcode h.reqId St.busy 0x0A0D [] with
        retryAfter := Config.freeNat s.draws % 2 ^ 32, dscp := h.dscp } := by
  simp only [commonChecks, he, if_neg hfence, if_neg hserved, hform, hop, decide_eq_true hfull, drawNat, Bool.not_true,
    Bool.not_false, Bool.and_self, Bool.false_eq_true, if_false, if_true]

end

/-- Settles O9: each check makes the gate ignore, answer or refuse the command, which ends there. -/
theorem gateAnswers : Obligations.GateAnswers := by
  intro s i h sp hi
  refine ⟨fun hturn => exec_of_gate_ignore hi (by simp only [gate, hturn]), fun s₁ ht =>
    ⟨fun hse => exec_of_gate_answer hi (gate_of_no_session ht hse), fun se hse => ⟨fun l hl =>
      ⟨fun hop hpiece => exec_of_gate_answer hi (gate_of_live ht hse hl hop hpiece),
        fun hop => exec_of_gate_answer hi (gate_of_conflict ht hse hl hop)⟩, fun hl =>
      ⟨fun f hf hpiece => exec_of_gate_answer hi (gate_of_final ht hse hl hf hpiece), fun hk =>
        ⟨fun he => exec_of_gate_refuse hi (gate_of_not_entitled ht hse hl hk he) hse, fun he => ?checks⟩⟩⟩⟩⟩
  have hnew := gate_of_new ht hse hl hk
  refine ⟨fun hfence => exec_of_gate_refuse hi (hnew.trans (commonChecks_of_fenced he hfence)) hse,
    fun hfence hboot hoos =>
      exec_of_gate_refuse hi (hnew.trans (commonChecks_of_outOfService he hfence hboot hoos)) hse,
    fun hfence hserves => ?form⟩
  have hserved : ¬(s₁.boot.state = 5 ∧ sp.oosOk = false) := fun ⟨hboot, hoos⟩ => by simp [hserves hboot] at hoos
  exact ⟨fun hform => exec_of_gate_refuse hi (hnew.trans (commonChecks_of_badLength he hfence hserved hform)) hse,
    fun hform => exec_of_gate_refuse hi (hnew.trans (commonChecks_of_reservedSet he hfence hserved hform)) hse,
    fun hform hop hfull =>
      ⟨_, exec_of_gate_refuse hi (hnew.trans (commonChecks_of_full he hfence hserved hform hop hfull)) hse⟩⟩

end Sys2Proof.Machine
end

section
/-! SUPPORT. Proofs about the commands of sessions, of the owner, of credentials and of chases (R366 to R368, R376, R384
to R386, R393 to R401, R412 to R414, R426), one lemma per command and outcome. -/

namespace Sys2Proof.Machine

/-! ### The session commands (R366 to R369, R384) -/

/-- HELLO in a device that serves, with room for a session, begins a PENDING one and answers in the clear (R367). -/
theorem execHello_of_room {s s₁ : State} {h : CmdHdr} {role chase credId : Nat} {nonce eph : Bytes} {r : Role}
    (ht : takeDesc s h 0x0001 = some s₁) (hboot : s₁.boot.state = 4 ∨ s₁.boot.state = 5) (hform : h.form = .ok)
    (hrole : Role.ofCode role = some r) (hchase : r = .ten ∨ chase = 255) (heph : p384Valid eph = true)
    (hopen : (s₁.sessions.countP fun e => e.2.isOpen) < 4096)
    (hpending : (s₁.sessions.countP fun e => !e.2.isOpen) < 256) :
    let id := freshId { s₁ with draws := s₁.draws + 1 } (s₁.sessions.length + s₁.closedIds.length + 2)
      (Config.freeNat s₁.draws % 2 ^ 32)
    let nonceD := Config.randomBytes (s₁.draws + 1) 32
    let ephPriv := Config.randomBytes (s₁.draws + 2) 56
    let se := newSession h id r role chase credId nonce eph nonceD ephPriv s₁.now
    let t := { s₁ with draws := s₁.draws + 3, sessions := kset s₁.sessions id se }
    execHello h role chase credId nonce eph s = .next (clearReply t h id St.done 0 (nonceD ++ pubOf ephPriv ++
      zeros 1 ++ le 2 (aliasCert t).length ++ zeros 4 ++ aliasSign t se.th ++ aliasCert t)) := by
  have hserves : ¬(s₁.boot.state ≠ 4 ∧ s₁.boot.state ≠ 5) := by tauto
  have hfields : (!p384Valid eph || (r != .ten && chase != 255)) = false := by
    obtain rfl | rfl := hchase <;> simp [heph]
  simp only [execHello, ht, if_neg hserves, hform, hrole, hfields, Bool.false_eq_true, if_false,
    if_neg (Nat.not_le.mpr hopen), if_neg (Nat.not_le.mpr hpending), drawNat, drawBytes]
  rfl

section
variable {s s₁ : State} {h : CmdHdr} {se : Session}

/-- PROVE with a signature that the credential's key verifies, or that is kept for a claim, makes the session OPEN
(R368, R413, R414). -/
theorem execProve_of_verified {sig : Bytes} (t : Taken s h 0x0002 allRoles true s₁ se)
    (hadmitted : roleAdmitted s₁ se.role se.credId = true)
    (hsig : se.credId = 0 ∨ ∃ pub, credKey s₁ se.role se.chase se.credId = some pub ∧
      ecdsaOk pub (proveDigest se) sig = true)
    (hopen : (s₁.sessions.countP fun e => e.2.isOpen) < 4096) :
    execProve h sig s = .next (done { s₁ with sessions := kmod s₁.sessions h.session fun x =>
      { x with isOpen := true, keptSig := if x.credId = 0 then some sig else none, lastNs := s₁.now } }
      h 0x0002 []) := by
  rw [execProve, hostCmd_of_taken t]
  obtain hzero | ⟨pub, hkey, hok⟩ := hsig
  · simp only [hadmitted, beq_iff_eq.mpr hzero, if_neg (Nat.not_le.mpr hopen), Bool.true_or, Bool.and_self,
      Bool.not_true, Bool.false_eq_true, if_false]
  · simp only [hadmitted, hkey, hok, if_neg (Nat.not_le.mpr hopen), Bool.or_true, Bool.and_self, Bool.not_true,
      Bool.false_eq_true, if_false]

/-- CLOSE replies and ends the session (R369). -/
theorem execClose_of_taken (t : Taken s h 0x0003 allRoles true s₁ se) :
    execClose h s = .next (closeSession (done s₁ h 0x0003 []) h.session) :=
  hostCmd_of_taken t _ _

/-- PING answers its own data (R384). -/
theorem execPing_of_short {data : Bytes} (t : Taken s h 0x0004 allRoles true s₁ se) (hlen : data.length ≤ 64) :
    execPing h data s = .next (done s₁ h 0x0004 data) := by
  simp only [execPing, hostCmd_of_taken t, if_neg (Nat.not_lt.mpr hlen)]

/-- SESSION_INFO answers the session's facts; LIVE counts this command as well (R371; log 46). -/
theorem execSessionInfo_of_taken (t : Taken s h 0x0005 allRoles true s₁ se) :
    execSessionInfo h s = .next (done s₁ h 0x0005 (le 1 se.role.code ++ le 1 se.chase ++ zeros 2 ++
      le 4 (maxPayload s₁) ++ le 4 (policy s₁ 0x0106) ++
      le 4 ((s₁.live.countP fun l => l.session == h.session) + 1))) :=
  hostCmd_of_taken t _ _

end

/-- Settles O28, command by command. -/
theorem sessionCommandsComplete : Obligations.SessionCommandsComplete := by
  refine ⟨?hello, fun _ _ _ _ _ => execProve_of_verified, fun _ _ _ _ => execClose_of_taken,
    fun _ _ _ _ _ => execPing_of_short, fun _ _ _ _ => execSessionInfo_of_taken⟩
  intro s s₁ h role chase credId nonce eph r ht hboot hform hrole hchase heph hopen hpending
  exact ⟨_, _, _, execHello_of_room ht hboot hform hrole hchase heph hopen hpending, rfl, rfl, rfl, rfl, rfl, rfl, rfl⟩

/-! ### The owner's commands (R376, R384, R385, R544 to R547) -/

section
variable {s s₁ : State} {h : CmdHdr} {se : Session}

/-- A CLAIM that passes the checks of R544 blows the in-use fuse of its slot and stays live (R546). -/
theorem execClaim_of_allowed {pub label : Bytes} (t : Taken s h 0x0010 [.own] false s₁ se)
    (hprov : se.provisional = true) (hcheck : claimCheck s₁ se pub = none) :
    execClaim h pub label s = .next (enlist (modBoot { s₁ with fuses := { s₁.fuses with
      slots := lmod s₁.fuses.slots ((slotFor s₁ pub).getD 0) fun x => { x with inUse := true } } } fun b =>
        { b with claim := some (h.session, h.reqId, pub) }) h 0x0010 255 false) := by
  simp only [execClaim, hostCmd_of_taken t, hprov, hcheck, Bool.not_true, Bool.false_eq_true, if_false]

/-- POLICY_SET applies every value, when all are valid (R384). -/
theorem execPolicySet_of_valid {entries : List (Nat × Nat)} (t : Taken s h 0x0011 [.own] false s₁ se)
    (hvalid : ∀ e ∈ entries, policyOk e.1 e.2 = true) :
    execPolicySet h entries s = .next (done (entries.foldl (fun s e => applyPolicy s e.1 e.2) s₁) h 0x0011 []) := by
  simp only [execPolicySet, hostCmd_of_taken t, if_pos (List.all_eq_true.mpr hvalid)]

/-- POLICY_GET answers the values as they were last set, those of keys as zero (R384; log 80). -/
theorem execPolicyGet_of_known {ids : List Nat} (t : Taken s h 0x0012 [.own] true s₁ se)
    (hknown : ∀ id ∈ ids, (policyDefault id).isSome = true) :
    execPolicyGet h ids s = .next (done s₁ h 0x0012 (ids.flatMap fun id =>
      le 2 id ++ zeros 6 ++ le 8 (if 0x010B ≤ id ∧ id ≤ 0x010E then 0 else policySaid s₁ id))) := by
  have hall : ¬(ids.any fun id => (policyDefault id).isNone) = true := by
    simpa [Option.isSome_iff_ne_none] using hknown
  simp only [execPolicyGet, hostCmd_of_taken t, if_neg hall]

/-- READMIT returns a device OUT_OF_SERVICE to READY with its package counts cleared (R547). -/
theorem execReadmit_of_outOfService (t : Taken s h 0x0014 [.own] true s₁ se) (hboot : s₁.boot.state = 5) :
    execReadmit h s =
      .next (done (modBoot s₁ fun b => { b with state := 4, pkgResets := [] }) h 0x0014 []) := by
  simp only [execReadmit, hostCmd_of_taken t, if_pos hboot]

/-- DECOMMISSION with its confirmation waits for its fuses, with the key of this firmware run zeroised (R417, R423,
R424). -/
theorem execDecommission_of_confirmed (t : Taken s h 0x0015 [.own] false s₁ se) :
    ∃ v, execDecommission h 0x4445434F4D4D4953 s = .next v ∧ v.boot.decom = some (h.session, h.reqId) ∧
      v.boot.aliasKey = false := by
  rw [execDecommission, hostCmd_of_taken t]
  exact ⟨_, rfl, rfl, rfl⟩

/-- RELAY_SET of other devices of the torus replaces the relay set (R376). -/
theorem execRelaySet_of_others {entries : List RelayEntry} {b : BootConfig} (t : Taken s h 0x0016 [.own] false s₁ se)
    (hlen : entries.length ≤ 512) (hcfg : s₁.boot.cfg = some b)
    (hothers : ∀ e ∈ entries, e.x < b.placement.nx ∧ e.y < b.placement.ny ∧ e.z < b.placement.nz ∧
      ¬(e.x = b.placement.x ∧ e.y = b.placement.y ∧ e.z = b.placement.z)) :
    execRelaySet h entries s = .next (done { s₁ with relaySet := entries } h 0x0016 []) := by
  simp only [execRelaySet, hostCmd_of_taken t, if_neg (Nat.not_lt.mpr hlen), hcfg]
  exact congrArg _ (if_pos (List.all_eq_true.mpr fun e he => decide_eq_true (hothers e he)))

end

/-- Settles O29, command by command. -/
theorem ownerCommandsComplete : Obligations.OwnerCommandsComplete :=
  ⟨fun _ _ _ _ label _ t hprov hcheck => ⟨_, execClaim_of_allowed (label := label) t hprov hcheck, rfl, rfl, rfl⟩,
    fun _ _ _ _ _ => execPolicySet_of_valid, fun _ _ _ _ _ => execPolicyGet_of_known,
    fun _ _ _ _ => execReadmit_of_outOfService, fun _ _ _ _ => execDecommission_of_confirmed,
    fun _ _ _ _ _ _ => execRelaySet_of_others⟩

/-! ### The credential commands (R384, R386, R412, R413, R426, R438) -/

/-- The role `r` and the chase `c` of the credentials that a CRED_SET of a session sets: OWN those of OBS, TEN those of
its own chase (R384, R438). -/
def CredTarget (se : Session) (role chase : Nat) (r : Role) (c : Nat) : Prop :=
  se.role = .own ∧ role = 4 ∧ r = .obs ∧ c = 255 ∨ se.role = .ten ∧ role = 2 ∧ chase = se.chase ∧ r = .ten ∧ c = chase

/-- Whether a credential is the one that a role, a chase and a number name (R412). -/
def Cred.isIt (r : Role) (c credId : Nat) (e : Cred) : Bool := e.role == r && e.chase == c && e.credId == credId

section
variable {s s₁ : State} {h : CmdHdr} {se : Session}

section
variable {role chase credId c : Nat} {r : Role} {pub : Bytes} (t : Taken s h 0x0013 [.own, .ten] false s₁ se)
  (hid : credId ≠ 0) (htarget : CredTarget se role chase r c)
include t hid htarget

/-- A CRED_SET of a credential that the session may set, by its OP. -/
theorem execCredSet_of_target {op : Nat} (hop : op ≤ 1) : execCredSet h op role chase credId pub s = .next (
    if op = 0 then
      if s₁.creds.any (Cred.isIt r c credId) then done { s₁ with
        creds := s₁.creds.map fun e => if Cred.isIt r c credId e then { e with pub := pub } else e } h 0x0013 []
      else if 64 ≤ s₁.creds.countP (fun e => e.role == r && e.chase == c) then rep s₁ h 0x0013 St.noResources 0 []
      else done { s₁ with creds := s₁.creds ++ [⟨r, c, credId, pub⟩] } h 0x0013 []
    else if s₁.creds.any (Cred.isIt r c credId) then
      closeWhere (done { s₁ with creds := s₁.creds.filter fun e => !Cred.isIt r c credId e } h 0x0013 [])
        fun x => x.role == r && x.chase == c && x.credId == credId && !x.provisional
    else rep s₁ h 0x0013 St.notFound 0 []) := by
  have hvalid : ¬(1 < op ∨ credId = 0) := by omega
  rw [execCredSet, hostCmd_of_taken t]
  obtain ⟨hrole, rfl, rfl, rfl⟩ | ⟨hrole, rfl, rfl, rfl, rfl⟩ := htarget <;>
    · simp only [hrole, if_neg hvalid, if_true]
      rfl

/-- CRED_SET with OP 0 gives a credential that exists another key (R384). -/
theorem execCredSet_of_replace (hold : s₁.creds.any (Cred.isIt r c credId) = true) :
    execCredSet h 0 role chase credId pub s = .next (done { s₁ with
      creds := s₁.creds.map fun e => if Cred.isIt r c credId e then { e with pub := pub } else e } h 0x0013 []) := by
  simp only [execCredSet_of_target t hid htarget zero_le_one, hold, if_true]

/-- CRED_SET with OP 0 adds a credential where fewer than 64 stand (R412). -/
theorem execCredSet_of_add (hnew : s₁.creds.any (Cred.isIt r c credId) = false)
    (hroom : (s₁.creds.countP fun e => e.role == r && e.chase == c) < 64) :
    execCredSet h 0 role chase credId pub s =
      .next (done { s₁ with creds := s₁.creds ++ [⟨r, c, credId, pub⟩] } h 0x0013 []) := by
  simp only [execCredSet_of_target t hid htarget zero_le_one, hnew, if_neg (Nat.not_le.mpr hroom), if_true,
    Bool.false_eq_true, if_false]

/-- CRED_SET with OP 1 removes a credential and closes the sessions opened under it (R384). -/
theorem execCredSet_of_remove (hold : s₁.creds.any (Cred.isIt r c credId) = true) :
    execCredSet h 1 role chase credId pub s =
      .next (closeWhere (done { s₁ with creds := s₁.creds.filter fun e => !Cred.isIt r c credId e } h 0x0013 [])
        fun x => x.role == r && x.chase == c && x.credId == credId && !x.provisional) := by
  simp only [execCredSet_of_target t hid htarget le_rfl, if_neg Nat.one_ne_zero, hold, if_true]

end

/-- CHASE_CLAIM under the key that the session's kept signature proves claims the chase (R393, R413, R427). -/
theorem execChaseClaim_of_proved {pub : Bytes} (t : Taken s h 0x0024 [.ten] false s₁ se) (hprov : se.provisional = true)
    (hstate : (chase s₁ se.chase).state = .unclaimed) (hsig : keptSigOk se pub = true) :
    execChaseClaim h pub s = .next (done { modChase s₁ se.chase (fun ch =>
        { ch with state := .claimed, claimPub := some pub, pullKey := some (pullKeyOf ch se.chase pub) }) with
      creds := s₁.creds ++ [⟨.ten, se.chase, 1, pub⟩]
      sessions := kmod s₁.sessions h.session fun x => { x with provisional := false, credId := 1, keptSig := none } }
      h 0x0024 []) := by
  rw [execChaseClaim, hostCmd_of_taken t]
  simp only [hprov, hstate, hsig, ne_eq, not_true_eq_false, Bool.not_true, Bool.false_eq_true, if_false, modChase_creds,
    modChase_sessions]

/-- SIGNKEY_SET with OP 0 puts a signing key in the place of its number's, or beside fewer than 16 (R386). -/
theorem execSignkeySet_of_add {keyId : Nat} {pub : Bytes} (t : Taken s h 0x0039 [.ten] false s₁ se)
    (hroom : (kget (chase s₁ se.chase).signKeys keyId).isSome = true ∨ (chase s₁ se.chase).signKeys.length < 16) :
    execSignkeySet h 0 keyId pub s = .next (done (modChase s₁ se.chase fun ch =>
      { ch with signKeys := kset (chase s₁ se.chase).signKeys keyId pub }) h 0x0039 []) := by
  have hfits : ((kget (chase s₁ se.chase).signKeys keyId).isNone &&
      decide (16 ≤ (chase s₁ se.chase).signKeys.length)) = false := by
    obtain hold | hless := hroom
    · simp [Option.isNone_eq_false_iff.mpr hold]
    · simp [hless]
  rw [execSignkeySet, hostCmd_of_taken t]
  simp only [hfits, Bool.false_eq_true, if_false]

/-- SIGNKEY_SET with OP 1 removes a signing key (R386). -/
theorem execSignkeySet_of_remove {keyId : Nat} {pub : Bytes} (t : Taken s h 0x0039 [.ten] false s₁ se)
    (hold : (kget (chase s₁ se.chase).signKeys keyId).isSome = true) :
    execSignkeySet h 1 keyId pub s = .next (done (modChase s₁ se.chase fun ch =>
      { ch with signKeys := kdel (chase s₁ se.chase).signKeys keyId }) h 0x0039 []) := by
  rw [execSignkeySet, hostCmd_of_taken t]
  simp only [Option.isNone_eq_false_iff.mpr hold, Bool.false_eq_true, if_false]

/-- FORME_KEY_GET answers the chase's forme key under a signature of the device (R426). -/
theorem execFormeKeyGet_of_taken (t : Taken s h 0x003A [.ten] false s₁ se) :
    execFormeKeyGet h s = .next (done s₁ h 0x003A (padTo 97 (formePub (chase s₁ se.chase)) ++ zeros 7 ++
      padTo 96 (aliasSign s₁ (ascii "Z9 forme key" ++ le 1 se.chase ++ le 8 (chase s₁ se.chase).createCount ++
        formePub (chase s₁ se.chase))))) :=
  hostCmd_of_taken t _ _

end

/-- Settles O30, command by command. -/
theorem credentialCommandsComplete : Obligations.CredentialCommandsComplete :=
  ⟨fun _ _ _ _ _ _ _ _ _ _ t hid htarget => ⟨execCredSet_of_replace t hid htarget, execCredSet_of_add t hid htarget,
      execCredSet_of_remove t hid htarget⟩,
    fun _ _ _ _ _ => execChaseClaim_of_proved,
    fun _ _ _ _ pub _ t => ⟨execSignkeySet_of_add t, execSignkeySet_of_remove (pub := pub) t⟩,
    fun _ _ _ _ => execFormeKeyGet_of_taken⟩

/-! ### The chase commands (R386, R393 to R401) -/

/-- Loading the key slots of granules leaves the chases (R249). -/
theorem loadSlots_chases (s : State) (c : Nat) (gs : List (Nat × Nat)) : (loadSlots s c gs).chases = s.chases :=
  List.foldlRecOn gs _ (motive := fun t : State => t.chases = s.chases) rfl
    fun _ ht _ _ => (setTier_chases ..).trans ht

/-- The record of a chase number that was just put. -/
theorem chase_of_kset {s : State} {m : KMap Chase} {c : Nat} {ch : Chase} (hs : s.chases = kset m c ch) :
    chase s c = ch := by
  simp only [chase, kgetD, hs, kget_kset_same, Option.getD_some]

/-- What carries no reply reads as before: the chases. -/
theorem RepliesOnly.chase {s t : State} (hst : RepliesOnly s t) (c : Nat) : Machine.chase t c = Machine.chase s c := by
  rw [hst]
  rfl

/-- A reply to the command at hand changes what carries replies alone. -/
theorem rep_repliesOnly (s : State) (h : CmdHdr) (op status detail : Nat) (body : Bytes) :
    RepliesOnly s (rep s h op status detail body) := emitReply_repliesOnly s _

/-- A command made live with an ACCEPTED changes what carries replies alone (R375). -/
theorem accept_repliesOnly (s : State) (h : CmdHdr) (op c : Nat) (isRequest : Bool) (body : Bytes) :
    RepliesOnly s (accept s h op c isRequest body) :=
  RepliesOnly.trans (t := enlist s h op c isRequest) rfl (rep_repliesOnly ..)

/-- A reply to a live command changes what carries replies alone. -/
theorem replyLive_repliesOnly (s : State) (session reqId status detail : Nat) (body : Bytes) :
    RepliesOnly s (replyLive s session reqId status detail body) := by
  unfold replyLive
  split
  · exact emitReply_repliesOnly ..
  · exact RepliesOnly.refl s

/-- Of two states that differ from one in what carries replies alone, whichever is taken does. -/
theorem RepliesOnly.ite {s t u : State} {p : Prop} [Decidable p] (ht : RepliesOnly s t) (hu : RepliesOnly s u) :
    RepliesOnly s (if p then t else u) := by
  split
  · exact ht
  · exact hu

section
variable {s s₁ : State} {h : CmdHdr} {se : Session}

section
variable {f : ChaseFields} {new : List (Nat × Nat)} (hfields : fieldsOk s₁ f = true)
  (hshare : shareRefusal s₁ f.chase (chase s₁ f.chase) f = none) (hnew : granNew s₁ (chase s₁ f.chase) f = some new)
include hfields hshare hnew

/-- CHASE_CREATE of shares that can be granted makes the chase UNCLAIMED with a root key and its new granules joining
(R393, R397, R423). -/
theorem execChaseCreate_of_granted (t : Taken s h 0x0020 [.own] false s₁ se)
    (hfree : (chase s₁ f.chase).held = false) :
    ∃ v crk seed, execChaseCreate h f s = .next v ∧ chase v f.chase = { Chase.fresh with
      state := .unclaimed, cfg := f, createCount := (chase s₁ f.chase).createCount + 1, crk := some crk, seed := seed
      creating := new } := by
  rw [execChaseCreate, hostCmd_of_taken t]
  simp only [hfields, hfree, hshare, hnew, drawBytes, Bool.not_true, Bool.false_eq_true, if_false]
  exact ⟨_, _, _, rfl, (RepliesOnly.ite (replyLive_repliesOnly ..) (RepliesOnly.refl _)).chase _ |>.trans
    ((accept_repliesOnly ..).chase _ |>.trans (chase_of_kset (loadSlots_chases ..)))⟩

variable (t : Taken s h 0x0021 [.own] false s₁ se) (hstate : (chase s₁ f.chase).state ≠ .free)
  (hstays : (chase s₁ f.chase).state ≠ .releasing)
include t hstate hstays

/-- CHASE_CHANGE of PRIO_MAX and REQ_LIMIT takes effect at once (R398). -/
theorem execChaseChange_of_limits (hlayout : altersLayout (chase s₁ f.chase).cfg f = false) :
    execChaseChange h f s = .next (replyLive (accept (modChase (returnFabric s₁ f.chase) f.chase fun ch =>
      { ch with cfg := f }) h 0x0021 255 false []) h.session h.reqId St.done 0 []) := by
  rw [execChaseChange, hostCmd_of_taken t]
  simp only [hfields, if_neg hstate, if_neg hstays, hlayout, hshare, hnew, Bool.not_true, Bool.false_and,
    Bool.false_eq_true, if_false]

/-- CHASE_CHANGE of the layout waits for the granules that join, and begins its fence when there are none (R398). -/
theorem execChaseChange_of_layout (hlayout : altersLayout (chase s₁ f.chase).cfg f = true)
    (hidle : imposing (chase s₁ f.chase) = false) :
    let v := accept (loadSlots (modChase (returnFabric s₁ f.chase) f.chase fun ch => { ch with
      newCfg := some (f, (h.session, h.reqId)), joining := new.map fun g => (g.1, g.2, false) }) f.chase new)
      h 0x0021 255 false []
    execChaseChange h f s = .next (if new.isEmpty then beginShareFence v f.chase else v) := by
  rw [execChaseChange, hostCmd_of_taken t]
  simp only [hfields, if_neg hstate, if_neg hstays, hlayout, hidle, hshare, hnew, Bool.not_true, Bool.and_false,
    Bool.false_eq_true, if_false, if_true]

end

/-- CHASE_RELEASE begins the release of a chase (R399). -/
theorem execChaseRelease_of_held {c : Nat} (t : Taken s h 0x0022 [.own] false s₁ se) (hc : c ≤ 31)
    (hstate : (chase s₁ c).state ≠ .free) (hstays : (chase s₁ c).state ≠ .releasing) :
    execChaseRelease h c s =
      .next (beginRelease (accept s₁ h 0x0022 255 false []) c (some (h.session, h.reqId))) := by
  simp only [execChaseRelease, hostCmd_of_taken t, if_neg (Nat.not_lt.mpr hc), if_neg hstate, if_neg hstays]

/-- CHASE_INFO answers the fields of a chase, a tenant's always of its own (R386, R393). -/
theorem execChaseInfo_of_held {n c : Nat} (t : Taken s h 0x0023 [.own, .ten] false s₁ se)
    (hc : c = if se.role = .ten then se.chase else n) (hstate : (chase s₁ c).state ≠ .free) :
    execChaseInfo h n s = .next (done s₁ h 0x0023 (chaseBytes (chase s₁ c).cfg ++
      le 1 (b2n (chase s₁ c).claimPub.isSome) ++ zeros 7 ++ (chase s₁ c).claimPub.elim (zeros 48) sha384)) := by
  rw [execChaseInfo, hostCmd_of_taken t]
  simp only [← hc, if_neg hstate]
  cases (chase s₁ c).claimPub <;> rfl

end

/-- Settles O31, command by command. -/
theorem chaseCommandsComplete : Obligations.ChaseCommandsComplete := by
  refine ⟨fun s s₁ h f se new t hfields hfree hshare hnew => ?create,
    fun _ _ _ _ _ _ t hfields hstate hstays hshare hnew =>
      ⟨execChaseChange_of_limits hfields hshare hnew t hstate hstays,
        execChaseChange_of_layout hfields hshare hnew t hstate hstays⟩,
    fun _ _ _ _ _ => execChaseRelease_of_held, fun s s₁ h n c se t hc hstate => ?info⟩
  case create =>
    obtain ⟨v, crk, seed, hexec, hchase⟩ := execChaseCreate_of_granted hfields hshare hnew t hfree
    exact ⟨v, hexec, by rw [hchase], by rw [hchase], by rw [hchase], by rw [hchase], by rw [hchase]; rfl⟩
  case info =>
    refine (execChaseInfo_of_held t hc hstate).trans ?_
    cases (chase s₁ c).claimPub <;> rfl

end Sys2Proof.Machine
end

section
/-! SUPPORT. Proofs about the commands on objects, requests and jobs (R253 to R264, R297 to R304, R327, R333 to R335,
R388 to R390, R463 to R473), one lemma per command and outcome. -/

namespace Sys2Proof.Machine

/-! ### The object commands (R253 to R264, R388) -/

section
variable {s s₁ : State} {h : CmdHdr} {se : Session}

/-- OBJ_CREATE of a well-formed object that its memory and its metadata have room for makes the object (R253, R254). -/
theorem execObjCreate_of_room {id size kind tierNo die : Nat} {bs : List Nat} {v : State}
    (t : Taken s h 0x0040 [.ten] false s₁ se) (hid : id ≠ 0) (hsize : size ≠ 0) (hpages : size % 4096 = 0)
    (hmax : size ≤ 2 ^ 40) (hkind : kind ≤ 1) (hhome : tierNo = 1 ∧ die ≤ 4 ∨ tierNo = 2 ∧ die ≤ 3)
    (hnew : findObj s₁ se.chase id = none) (hmine : (s₁.objs.countP fun o => o.chase == se.chase) < 65536)
    (hall : s₁.objs.length < 262144)
    (hblocks : pickBlocks s₁ se.chase (tierNo == 1) die (ceilDiv size blockBytes) = some bs)
    (hmeta : fitMeta { s₁ with objs := s₁.objs ++ [
      { chase := se.chase, objId := id, isMutable := kind == 1, tier := tierNo, homeDie := die, size := size
        window := 0, state := if kind = 1 then .idle else .isOpen, blocks := bs, win := [], holder := none, readers := []
        waiters := [], oldHomes := [], lastFill := none, winWait := [], move := none }] } se.chase tierNo
        (metaDie tierNo die bs) = some v) :
    execObjCreate h id size kind tierNo die s = .next (done v h 0x0040 []) := by
  have hformed : ¬(id = 0 ∨ size = 0 ∨ size % 4096 ≠ 0 ∨ 2 ^ 40 < size ∨ 1 < kind ∨ (tierNo ≠ 1 ∧ tierNo ≠ 2) ∨
      4 < die ∨ (tierNo = 2 ∧ die = 4)) := by omega
  have hcount : ¬(65536 ≤ (s₁.objs.countP fun o => o.chase == se.chase) ∨ 262144 ≤ s₁.objs.length) := by omega
  rw [execObjCreate, hostCmd_of_taken t]
  simp only [if_neg hformed, hnew, if_neg hcount, hblocks, hmeta, Option.isSome_none, Bool.false_eq_true, if_false]

/-- SEAL seals an object that is open (R257). -/
theorem execSeal_of_open {id : Nat} {o : Obj} (t : Taken s h 0x0042 [.ten] false s₁ se)
    (ho : findObj s₁ se.chase id = some o) (hopen : o.state = .isOpen) (hheld : intakeHolds s₁ se.chase id = false) :
    execSeal h id s = .next (done (modObj s₁ se.chase id fun o => { o with state := .sealed }) h 0x0042 []) := by
  simp only [execSeal, hostCmd_of_taken t, ho, hopen, hheld, ne_eq, not_true_eq_false, Bool.false_eq_true, or_self,
    if_false]

/-- OBJ_FREE drops an object that nothing uses (R257, R305, R306). -/
theorem execObjFree_of_unused {id : Nat} {o : Obj} (t : Taken s h 0x0045 [.ten] false s₁ se)
    (ho : findObj s₁ se.chase id = some o) (hheld : o.state ≠ .held) (hmoving : o.state ≠ .moving)
    (hreaders : o.readers = []) (hwindow : windowFilling s₁ o = false) (hserves : objServes s₁ se.chase id = false) :
    execObjFree h id s = .next (done (dropObj s₁ o) h 0x0045 []) := by
  simp only [execObjFree, hostCmd_of_taken t, ho, hheld, hmoving, hreaders, hwindow, hserves, List.isEmpty_nil,
    Bool.not_true, Bool.false_eq_true, or_self, if_false]

/-- OBJ_INFO answers the fields of an object (R253, R388). -/
theorem execObjInfo_of_known {id : Nat} {o : Obj} (t : Taken s h 0x0047 [.ten] false s₁ se)
    (ho : findObj s₁ se.chase id = some o) (hheld : intakeHolds s₁ se.chase id = false) :
    execObjInfo h id s = .next (done s₁ h 0x0047 (le 1 (b2n o.isMutable) ++ le 1 o.tier ++ le 1 o.homeDie ++
      le 1 o.state.code ++ zeros 4 ++ le 8 o.size ++ le 8 o.window)) := by
  simp only [execObjInfo, hostCmd_of_taken t, ho, hheld, Bool.false_eq_true, if_false]

/-- PUT within an object that is not sealed goes to the object (R388). -/
theorem execPut_of_within {id off : Nat} {data : Bytes} {o : Obj} (t : Taken s h 0x0041 [.ten] false s₁ se)
    (hdata : data ≠ []) (hlen : data.length ≤ 1048576) (ho : findObj s₁ se.chase id = some o)
    (hheld : intakeHolds s₁ se.chase id = false) (hend : off + data.length ≤ o.size) (hsealed : o.state ≠ .sealed) :
    execPut h id off data s =
      .next (atObj (enlist s₁ h 0x0041 se.chase false) h se.chase o 0x41 off 0 data) := by
  simp only [execPut, hostCmd_of_taken t, List.isEmpty_eq_false_iff.mpr hdata, if_neg (Nat.not_lt.mpr hlen), ho, hheld,
    if_neg (Nat.not_lt.mpr hend), if_neg hsealed, Bool.false_eq_true, if_false]

/-- GET within an object goes to the object (R388). -/
theorem execGet_of_within {id off len : Nat} {o : Obj} (t : Taken s h 0x0043 [.ten] false s₁ se)
    (ho : findObj s₁ se.chase id = some o) (hheld : intakeHolds s₁ se.chase id = false) (hlen : len ≤ 1048576)
    (hend : off + len ≤ o.size) :
    execGet h id off len s = .next (atObj (enlist s₁ h 0x0043 se.chase false) h se.chase o 0x43 off len []) := by
  simp only [execGet, hostCmd_of_taken t, ho, hheld, if_neg (Nat.not_lt.mpr hlen), if_neg (Nat.not_lt.mpr hend),
    Bool.false_eq_true, if_false]

/-- MOVE of an object that serves nothing is accepted and goes to the object (R257 to R259). -/
theorem execMove_of_movable {id tierNo die : Nat} {o : Obj} (t : Taken s h 0x0044 [.ten] false s₁ se)
    (ho : findObj s₁ se.chase id = some o) (hhome : tierNo = 1 ∧ die ≤ 4 ∨ tierNo = 2 ∧ die ≤ 3)
    (hopen : o.state ≠ .isOpen) (hserves : objServes s₁ se.chase id = false) :
    execMove h id tierNo die s =
      .next (atObj (accept s₁ h 0x0044 se.chase false []) h se.chase o 0x44 tierNo die []) := by
  have hformed : ¬((tierNo ≠ 1 ∧ tierNo ≠ 2) ∨ 4 < die ∨ (tierNo = 2 ∧ die = 4)) := by omega
  simp only [execMove, hostCmd_of_taken t, ho, if_neg hformed, hopen, hserves, Bool.false_eq_true, or_self, if_false]

/-- WINDOW_SET of whole blocks is accepted and goes to the object (R262, R264). -/
theorem execWindowSet_of_blocks {id window die : Nat} {o : Obj} (t : Taken s h 0x0046 [.ten] false s₁ se)
    (ho : findObj s₁ se.chase id = some o) (hheld : intakeHolds s₁ se.chase id = false)
    (hwindow : window % blockBytes = 0) (hdie : die ≤ 3) :
    execWindowSet h id window die s =
      .next (atObj (accept s₁ h 0x0046 se.chase false []) h se.chase o 0x46 window die []) := by
  have hformed : ¬(window % blockBytes ≠ 0 ∨ 3 < die) := by omega
  simp only [execWindowSet, hostCmd_of_taken t, ho, hheld, if_neg hformed, Bool.false_eq_true, if_false]

end

section
variable {s : State} {h : CmdHdr} {c : Nat} {o : Obj} {op a b : Nat} {data : Bytes}

/-- A command waits at an object that is held, moves, has others waiting or whose memory cannot be accessed (R256, R265,
R388). -/
theorem atObj_objWaits_of_busy (hbusy : o.state = .held ∨ o.state = .moving ∨ o.waiters ≠ [] ∨
      (waitStall s ⟨(c, o.objId), h, op, a, b, data⟩).isSome = true) :
    (atObj s h c o op a b data).objWaits = s.objWaits ++ [⟨(c, o.objId), h, op, a, b, data⟩] := by
  unfold atObj
  split
  · rfl
  · next hfree =>
    have hstalls : (waitStall s ⟨(c, o.objId), h, op, a, b, data⟩).isSome = true := by
      simp only [not_or, Bool.not_eq_true', Bool.not_eq_false, List.isEmpty_iff] at hfree
      tauto
    obtain ⟨k, hk⟩ := Option.isSome_iff_exists.mp hstalls
    simp only [hk]
    rfl

/-- A command at an object that is free, and whose memory can be accessed, runs (R388). -/
theorem atObj_of_free (hheld : o.state ≠ .held) (hmoving : o.state ≠ .moving) (hwaiters : o.waiters = [])
    (haccess : waitStall s ⟨(c, o.objId), h, op, a, b, data⟩ = none) :
    atObj s h c o op a b data = runWait s ⟨(c, o.objId), h, op, a, b, data⟩ := by
  simp only [atObj, hheld, hmoving, hwaiters, haccess, List.isEmpty_nil, Bool.not_true, Bool.false_eq_true, or_self,
    if_false]

end

/-- Settles O33, command by command, and by what a command meets at its object. -/
theorem objectCommandsComplete : Obligations.ObjectCommandsComplete :=
  ⟨fun _ _ _ _ _ _ _ _ _ _ _ => execObjCreate_of_room, fun _ _ _ _ _ _ => execSeal_of_open,
    fun _ _ _ _ _ _ => execObjFree_of_unused, fun _ _ _ _ _ _ => execObjInfo_of_known,
    fun _ _ _ _ _ _ _ _ => execPut_of_within, fun _ _ _ _ _ _ _ _ => execGet_of_within,
    fun _ _ _ _ _ _ _ _ => execMove_of_movable, fun _ _ _ _ _ _ _ _ => execWindowSet_of_blocks,
    fun _ _ _ _ _ _ _ _ => ⟨atObj_objWaits_of_busy, atObj_of_free⟩⟩

/-! ### The request commands (R297 to R304, R327, R333 to R335, R389, R466) -/

/-- A request that the imprimatur admits is live, and goes on (R327). -/
theorem ask_of_admitted {s s₂ : State} {h : CmdHdr} {op n : Nat} {r : Req} {body : Bytes} {go : State → Nat → State}
    (hadmit : imprimatur s r = .admitted s₂ n) : ask s h op r body go = go (enlist s₂ h op r.chase true) n := by
  simp only [ask, hadmit]

section
variable {s s₁ s₂ : State} {h : CmdHdr} {se : Session} {forme deadline n : Nat} {label : Bytes}

/-- A SCORE that the imprimatur admits is live (R297, R327). -/
theorem execScore_of_admitted {input : Bytes} (t : Taken s h 0x0050 [.ten] false s₁ se) (hhold : s₁.power.hold = false)
    (hadmit : imprimatur s₁ { newReq h 0x0050 se.chase (priority s₁ se.chase h) .score forme deadline label with
      total := input.length, input := [(0, input)] } = .admitted s₂ n) :
    execScore h forme deadline label input s = .next (enlist s₂ h 0x0050 se.chase true) := by
  simp only [execScore, requestCmd_of_taken t, hhold, ask_of_admitted hadmit, Bool.false_eq_true, if_false]
  rfl

/-- A GENERATE of as many tokens as it says, and that the imprimatur admits, is live (R297, R318, R327). -/
theorem execGenerate_of_admitted {p : GenParams} (t : Taken s h 0x0051 [.ten] false s₁ se)
    (hlen : p.tokens.length = p.lp) (hhold : s₁.power.hold = false)
    (hadmit : imprimatur s₁ { newReq h 0x0051 se.chase (priority s₁ se.chase h) .generate p.formeId p.deadline
      p.label with gen := some p } = .admitted s₂ n) :
    execGenerate h p s = .next (enlist s₂ h 0x0051 se.chase true) := by
  simp only [execGenerate, requestCmd_of_taken t, hlen, hhold, ask_of_admitted hadmit, ne_eq, not_true_eq_false,
    Bool.false_eq_true, if_false]
  rfl

/-- The first chunk of a FILE_SUBMIT that the imprimatur admits makes the request live with the chunks held for it, and
is answered with the window (R389). -/
theorem firstChunk_of_admitted {total : Nat} {data : Bytes} {r : Req} (hhold : s₁.power.hold = false)
    (hlen : data.length ≤ total)
    (hadmit : imprimatur { s₁ with heldChunks := s₁.heldChunks.filter fun x => !isHeldOf h.session h.reqId x }
      { newReq h 0x0052 se.chase (priority s₁ se.chase h) .file forme deadline label with
        total := total, ahead := total - data.length } = .admitted s₂ n) :
    let t := takeHeld (putChunk (enlist s₂ h 0x0052 se.chase true) n 0 data) se h n
      (s₁.heldChunks.filter (isHeldOf h.session h.reqId))
    req t n = some r → firstChunk s₁ se h forme deadline total label data =
      replyLive (modReq t n fun q => { q with windowEnd := windowFor t r }) h.session h.reqId St.accepted 0
        (le 8 (windowFor t r)) := by
  intro t hr
  simp only [firstChunk, hhold, if_neg (Nat.not_lt.mpr hlen), Bool.false_eq_true, if_false]
  refine (ask_of_admitted hadmit).trans ?_
  simp only [t] at hr ⊢
  simp only [newReq, hr]

/-- FILE_SUBMIT's chunk with OFFSET 0 of a request that is not live is its first (R389). -/
theorem execFileSubmit_of_first {total : Nat} {data : Bytes} (t : Taken s h 0x0052 [.ten] false s₁ se)
    (hnew : liveReq s₁ h.session h.reqId = none) :
    execFileSubmit h forme deadline total 0 label data s =
      .next (markChunk (firstChunk s₁ se h forme deadline total label data) h 0x0052 0) := by
  simp only [execFileSubmit, chunkCmd_of_taken t, hnew, endedChunk_of_noFinal t.noFinal, if_true]

/-- A chunk with another OFFSET, for which no chunk is held yet, is held until the first comes (R389). -/
theorem execFileSubmit_of_early {total off : Nat} {data : Bytes} (t : Taken s h 0x0052 [.ten] false s₁ se)
    (hnew : liveReq s₁ h.session h.reqId = none) (hoff : off ≠ 0) (hend : off + data.length ≤ 4194304)
    (hother : ∀ x ∈ s₁.heldChunks, ¬(x.1 = h.session ∧ x.2.1 = h.reqId ∧ x.2.2.2.1 = off)) :
    execFileSubmit h forme deadline total off label data s =
      .next { s₁ with heldChunks := s₁.heldChunks ++ [(h.session, h.reqId, s₁.now, off, data)] } := by
  have hfirst : ¬(s₁.heldChunks.any fun x => x.1 == h.session && x.2.1 == h.reqId && x.2.2.2.1 == off) = true := by
    rw [List.any_eq_true]
    rintro ⟨x, hx, hsame⟩
    simp only [Bool.and_eq_true, beq_iff_eq, and_assoc] at hsame
    exact hother x hx hsame
  simp only [execFileSubmit, chunkCmd_of_taken t, hnew, endedChunk_of_noFinal t.noFinal, if_neg hoff, earlyChunk,
    if_neg (Nat.not_lt.mpr hend), if_neg hfirst]

/-- A later chunk of a live FILE_SUBMIT passes the common checks without that of the session's room (R371). -/
theorem gate_of_laterChunk {sp : CmdSpec} {l : LiveCmd} (ht : takeDesc s h sp.opcode = some s₁)
    (hse : kget s₁.sessions h.session = some se) (hl : liveOf s₁ h.session h.reqId = some l)
    (hop : l.opcode = sp.opcode) (hchunks : isChunked sp.opcode = true) (he : entitled se sp = true)
    (hfence : fenceAnswers s₁ se sp.opcode = false) (hboot : s₁.boot.state ≠ 5) (hform : h.form = .ok) : gate s h sp = .run s₁ se := by
  simp only [gate, ht, hse, hl, if_pos hop, hchunks, commonChecks, he, hfence, hboot, hform, Bool.not_true,
    Bool.false_and, Bool.false_eq_true, false_and, if_false, if_true]

/-- A later chunk that fits its request and the window adds its bytes, and is answered with the new window (R389). -/
theorem laterChunk_of_fits {off : Nat} {data : Bytes} {r r' : Req} (hr : req s n = some r)
    (hfirst : kget r.input off = none) (hend : off + data.length ≤ r.total)
    (hapart : ∀ e ∈ r.input, overlap off data.length e.1 e.2.length = false) (hwindow : off + data.length ≤ r.windowEnd)
    (hr' : req (putChunk s n off data) n = some r') :
    laterChunk s se h n off data = replyLive (modReq (putChunk s n off data) n fun q =>
      { q with windowEnd := windowFor (putChunk s n off data) r' }) h.session h.reqId St.accepted 0
        (le 8 (windowFor (putChunk s n off data) r')) := by
  have hfits : ¬(r.total < off + data.length ∨
      (r.input.any fun e => overlap off data.length e.1 e.2.length) = true) := by
    rw [not_or, Nat.not_lt, Bool.not_eq_true, List.any_eq_false]
    exact ⟨hend, fun e he => Bool.eq_false_iff.mp (hapart e he)⟩
  simp only [laterChunk, hr, hfirst, if_neg hfits, if_neg (Nat.not_lt.mpr hwindow), hr', Option.isSome_none,
    Bool.false_eq_true, if_false]

/-- CANCEL ends a live request of the session (R333). -/
theorem execCancel_of_live {target : Nat} {r : Req} (t : Taken s h 0x0053 [.ten] false s₁ se)
    (hr : liveReq s₁ h.session target = some (n, r)) :
    execCancel h target s = .next (done (endReq s₁ n .cancelled St.cancelled 0 []) h 0x0053 []) := by
  simp only [execCancel, hostCmd_of_taken t, hr]

/-- RESEND sends the tokens of a live GENERATE again (R389). -/
theorem execResend_of_live {target first : Nat} {r : Req} (t : Taken s h 0x0054 [.ten] false s₁ se)
    (hr : liveReq s₁ h.session target = some (n, r)) (hkind : r.kind = .generate) (hfirst : 1 ≤ first) :
    execResend h target first s = .next (done (resendTokens r.tokens.length s₁ h target r.spoiled first
      ((r.tokens.map Prod.fst).drop (first - 1))) h 0x0054 []) := by
  simp only [execResend, hostCmd_of_taken t, hr, Option.filter_some, hkind, beq_self_eq_true, if_true, List.length_map,
    show Nat.max 1 first = first from Nat.max_eq_right hfirst]

/-- RESEND sends the tokens of a request that ended within 1 s again (R389). -/
theorem execResend_of_ended {target first : Nat} {l : TokenLog} (t : Taken s h 0x0054 [.ten] false s₁ se)
    (hr : liveReq s₁ h.session target = none)
    (hl : (s₁.logs.find? fun l => l.session == h.session && l.reqId == target &&
      decide (s₁.now ≤ l.endNs + 1000000000)) = some l) (hfirst : 1 ≤ first) :
    execResend h target first s = .next (done (resendTokens l.tokens.length s₁ h target l.spoiled first
      (l.tokens.drop (first - 1))) h 0x0054 []) := by
  simp only [execResend, hostCmd_of_taken t, hr, Option.filter_none, hl,
    show Nat.max 1 first = first from Nat.max_eq_right hfirst]

/-- JOB_STEP of a READY job of the chase, that the imprimatur admits, begins the step (R466, R471). -/
theorem execJobStep_of_admitted {jobId : Nat} {input : Bytes} {j : Job} (t : Taken s h 0x0061 [.ten] false s₁ se)
    (hhold : s₁.power.hold = false) (hj : findJob s₁ jobId = some j) (hchase : j.fields.chase = se.chase)
    (hready : j.state = .ready)
    (hadmit : imprimatur s₁ { newReq h 0x0061 se.chase (priority s₁ se.chase h) .score forme deadline label with
      total := input.length, input := [(0, input)], job := some (jobId, j.next) } = .admitted s₂ n) :
    execJobStep h jobId j.next forme deadline label input s =
      .next (beginStep (enlist s₂ h 0x0061 se.chase true) jobId j.next) := by
  simp only [execJobStep, requestCmd_of_taken t, hhold, hj, Option.filter_some, hchase, beq_self_eq_true, hready,
    ask_of_admitted hadmit, ne_eq, not_true_eq_false, or_self, Bool.false_eq_true, reduceCtorEq, if_false, if_true]
  rfl

end

/-- A job that was changed, and not its number, is found changed. -/
theorem findJob_modJob {s : State} {id : Nat} {f : Job → Job} {j : Job} (hj : findJob s id = some j)
    (hid : (f j).fields.jobId = j.fields.jobId) : findJob (modJob s id f) id = some (f j) := by
  simp only [findJob, modJob] at hj ⊢
  generalize s.jobs = js at hj ⊢
  induction js with
  | nil => cases hj
  | cons x xs ih =>
    by_cases hx : x.fields.jobId = id
    · obtain rfl : x = j := by simpa [hx] using hj
      simp [hx, hid]
    · simpa [hx] using ih (by simpa [hx] using hj)

/-- A step begins with the tokens that the torus ports held for it, and their places are announced as free (R466). -/
theorem beginStep_of_job {s : State} {id step : Nat} {j : Job} (hj : findJob s id = some j) :
    let mine := fun u : HeldUnit => u.job == id && u.step == step % 2 ^ 32
    let t := modJob s id fun j => { j with state := .stepping }
    let v := { t with torus := t.torus.map fun p => { p with
      freed := p.freed.mapIdx fun vc k => k + ((p.buffer.filter fun u => mine u && u.vc == vc).map HeldUnit.places).sum
      buffer := p.buffer.filter fun u => !mine u } }
    beginStep s id step = announce ((j.ports.map Prod.fst).foldl (fun s n => relieve s n { j with state := .stepping })
      ((s.torus.flatMap fun p => p.buffer.filter mine).foldl
        (fun s u => deliverUnit s j.fields.chase u.src u.die u.body) v)) := by
  intro mine t v
  have hfound : findJob v id = some { j with state := .stepping } :=
    findJob_modJob (f := fun j => { j with state := .stepping }) hj rfl
  simp only [v, t, mine] at hfound ⊢
  simp only [beginStep, hfound]

/-- Settles O34, command by command. -/
theorem requestCommandsComplete : Obligations.RequestCommandsComplete := by
  refine ⟨fun _ _ _ _ _ _ _ _ _ _ => execScore_of_admitted, fun _ _ _ _ _ _ _ => execGenerate_of_admitted, ?first,
    fun _ _ _ _ _ _ _ _ _ _ => execFileSubmit_of_early, ?later, fun _ _ _ _ _ _ _ => execCancel_of_live,
    fun _ _ _ _ _ _ _ _ => execResend_of_live, fun _ _ _ _ _ _ _ => execResend_of_ended,
    fun _ _ _ _ _ _ _ _ _ _ _ _ => execJobStep_of_admitted, fun _ _ _ _ => beginStep_of_job⟩
  case first =>
    intro s s₁ s₂ h forme deadline total n label data se r t hnew hhold hlen mine hadmit v hr
    exact (execFileSubmit_of_first t hnew).trans
      (congrArg (fun u => Host.Outcome.next (markChunk u h 0x0052 0)) (firstChunk_of_admitted hhold hlen hadmit hr))
  case later =>
    intro s s₁ h forme deadline total off n label data se l r r' ht hse hl hop he hfence hboot hform hlive hr hfirst
      hend hapart hwindow hr'
    have hgate := gate_of_laterChunk (sp := ⟨0x0052, [.ten], false, label.length⟩) ht hse hl hop rfl he hfence hboot
      hform
    refine Eq.trans ?_ (congrArg Host.Outcome.next (laterChunk_of_fits (se := se) hr hfirst hend hapart hwindow hr'))
    change execFileSubmit h forme deadline total off label data s = _
    simp only [execFileSubmit, chunkCmd, hgate, hlive]

/-! ### The job commands (R462 to R473) -/

section
variable {s s₁ : State} {h : CmdHdr} {se : Session}

/-- A JOIN of a job that a port has received before it was opened counts (R464). -/
def countJoin (id : Nat) (s : State) (n : Nat) : State :=
  match (s.torus[n]?).bind TorusPort.join with
  | some m => if m.jobId = id then takeJoin s id n m else s
  | none => s

/-- The job that a JOB_OPEN forms (R464). -/
def openedJob (p : Placement) (f : JobFields) (h : CmdHdr) (now : Nat) : Job :=
  { fields := f, state := .forming, next := 0, epoch := 0
    ports := (blockPorts p f).map fun n => (n, false), peerHalted := false, openedNs := now
    cmds := [(h.session, h.reqId)], aborted := 0, rejoinStep := 0, rejoinFrom := none, acks := [], fail := (0, 0) }

/-- JOB_OPEN of a block that holds this device, by a claimed chase without a job, on ports that are free, holds the
ports and sends JOIN (R463, R464). -/
theorem execJobOpen_of_free {f : JobFields} {cfg : BootConfig} (t : Taken s h 0x0060 [.own] false s₁ se)
    (hx : f.ex ≠ 0) (hy : f.ey ≠ 0) (hz : f.ez ≠ 0) (hcfg : s₁.boot.cfg = some cfg) (hnx : f.ex ≤ cfg.placement.nx)
    (hny : f.ey ≤ cfg.placement.ny) (hnz : f.ez ≤ cfg.placement.nz)
    (hblock : inBlock cfg.placement f cfg.placement.x cfg.placement.y cfg.placement.z = true)
    (hchase : (chase s₁ f.chase).state = .claimed) (hother : jobOfChase s₁ f.chase = none)
    (hnew : findJob s₁ f.jobId = none)
    (hports : ∀ n ∈ blockPorts cfg.placement f, (s₁.torus[n]?).bind TorusPort.job = none) :
    let j := openedJob cfg.placement f h s₁.now
    let a := accept s₁ h 0x0060 f.chase false []
    let v := (blockPorts cfg.placement f).foldl (fun s n => modPort s n fun q => { q with job := some f.jobId })
      { a with jobs := a.jobs ++ [j] }
    execJobOpen h f s = .next (finishJoin ((blockPorts cfg.placement f).foldl (countJoin f.jobId)
      (sendHeld v j none "JOIN" (joinFields v j))) f.jobId) := by
  have hextent : ¬(f.ex = 0 ∨ f.ey = 0 ∨ f.ez = 0) := by tauto
  have hfits : ¬(cfg.placement.nx < f.ex ∨ cfg.placement.ny < f.ey ∨ cfg.placement.nz < f.ez) := by omega
  have hfree : ¬((blockPorts cfg.placement f).any fun n => ((s₁.torus[n]?).bind TorusPort.job).isSome) = true := by
    rw [Bool.not_eq_true, List.any_eq_false]
    exact fun n hn => by simp [hports n hn]
  rw [execJobOpen, hostCmd_of_taken t]
  simp only [if_neg hextent, hcfg, if_neg hfits, hblock, hchase, hother, hnew, if_neg hfree, Option.isSome_none, ne_eq,
    not_true_eq_false, Bool.not_true, Bool.false_eq_true, or_self, if_false]
  rfl

section
variable {jobId step : Nat} {j : Job} (t : Taken s h 0x0062 [.own, .ten] false s₁ se) (hj : findJob s₁ jobId = some j)
  (hrole : se.role = .ten → se.chase = j.fields.chase) (hdetail : rejoinDetail s₁ j step = 0)
include t hj hrole hdetail

/-- A JOB_REJOIN that passes its checks sends REJOIN (R472). -/
theorem execJobRejoin_of_first (hstate : j.state ≠ .rejoining) :
    execJobRejoin h jobId step s = .next (finishRejoin (sendHeld (modJob
      (accept s₁ h 0x0062 j.fields.chase false []) jobId fun j => { j with
        state := .rejoining, rejoinStep := step, rejoinFrom := none, acks := [], cmds := [(h.session, h.reqId)] })
      j none "REJOIN" [jobId, step, (j.epoch + 1) % 256]) jobId) := by
  have hmine : ¬(se.role = .ten ∧ se.chase ≠ j.fields.chase) := by tauto
  simp only [execJobRejoin, hostCmd_of_taken t, hj, if_neg hmine, hdetail, ne_eq, not_true_eq_false, if_false,
    if_neg hstate]

/-- A JOB_REJOIN of a rejoin in progress merges with it (R472). -/
theorem execJobRejoin_of_again (hstate : j.state = .rejoining) :
    execJobRejoin h jobId step s = .next (modJob (accept s₁ h 0x0062 j.fields.chase false []) jobId fun j =>
      { j with cmds := j.cmds ++ [(h.session, h.reqId)] }) := by
  have hmine : ¬(se.role = .ten ∧ se.chase ≠ j.fields.chase) := by tauto
  simp only [execJobRejoin, hostCmd_of_taken t, hj, if_neg hmine, hdetail, ne_eq, not_true_eq_false, if_false,
    if_pos hstate]

end

/-- JOB_CLOSE of a job that forms ends its JOB_OPEN and removes it (R473, R474; log 67). -/
theorem execJobClose_of_forming {jobId : Nat} {j : Job} (t : Taken s h 0x0063 [.own] false s₁ se)
    (hj : findJob s₁ jobId = some j) (hstate : j.state = .forming) :
    execJobClose h jobId s = .next (done (removeJob (endJobCmds s₁ j St.wrongState 0x0D06) jobId) h 0x0063 []) := by
  simp only [execJobClose, hostCmd_of_taken t, hj, if_pos hstate]

/-- JOB_CLOSE of any other job fails it with cause 3 and removes it (R473). -/
theorem execJobClose_of_formed {jobId : Nat} {j : Job} (t : Taken s h 0x0063 [.own] false s₁ se)
    (hj : findJob s₁ jobId = some j) (hstate : j.state ≠ .forming) :
    execJobClose h jobId s = .next (done (removeJob (jobFailure s₁ jobId (myCoord s₁) 3) jobId) h 0x0063 []) := by
  simp only [execJobClose, hostCmd_of_taken t, hj, if_neg hstate]

end

/-- Settles O35, command by command. -/
theorem jobCommandsComplete : Obligations.JobCommandsComplete :=
  ⟨fun _ _ _ _ _ _ => execJobOpen_of_free,
    fun _ _ _ _ _ _ _ t hj hrole hdetail =>
      ⟨execJobRejoin_of_first t hj hrole hdetail, execJobRejoin_of_again t hj hrole hdetail⟩,
    fun _ _ _ _ _ _ t hj => ⟨execJobClose_of_forming t hj, execJobClose_of_formed t hj⟩⟩

end Sys2Proof.Machine
end

section
/-! SUPPORT. Proofs about the commands on registers, the colophon, the caps, the pulls and the intake (R379, R390, R427,
R430, R433, R475, R494, R495, R516, R549 to R555), one lemma per command and outcome. -/

namespace Sys2Proof.Machine

/-! ### The register commands (R390, R494, R495, R549 to R555) -/

/-- What a write of a value to a register does besides its reply (R494, R495, R549, R555). -/
def regEffect (s : State) (addr v : Nat) : State :=
  if addr = 0x00040000 then
    { s with health := { s.health with evOwn := s.health.evOwn - (s.health.evOwn &&& (v % 32)) } }
  else if addr = 0x00040004 then
    { s with health := { s.health with evMgt := s.health.evMgt - (s.health.evMgt &&& (v % 32)) } }
  else if addr = 0x00090000 then resetRequest s (v % 65536)
  else if addr = 0x00090004 then readmitDomain s (v % 65536)
  else s

/-- A write to a mapped word that the role may see has the register's effect and is answered (R551). -/
theorem regWrite_of_visible {s : State} {se : Session} {h : CmdHdr} {addr : Nat} {v : Word} {w : RegWord}
    (haligned : addr % 4 = 0) (hw : regWord s se addr = some w) (hseen : regHidden w se.role = false) :
    regWrite s se h addr v = done (regEffect s addr v.toNat) h 0x0071 [] := by
  simp only [regWrite, haligned, hw, hseen, ne_eq, not_true_eq_false, Bool.false_eq_true, if_false, regEffect]

/-- A write elsewhere than to RESET_REQ, RESET_READMIT and HEALTH_EVENTS is ignored (R20). -/
theorem regEffect_of_other {s : State} {addr v : Nat}
    (hother : addr ∉ [0x00040000, 0x00040004, 0x00090000, 0x00090004]) : regEffect s addr v = s := by
  simp only [List.mem_cons, List.not_mem_nil, or_false, not_or] at hother
  obtain ⟨hown, hmgt, hreset, hreadmit⟩ := hother
  simp only [regEffect, if_neg hown, if_neg hmgt, if_neg hreset, if_neg hreadmit]

section
variable {s s₁ : State} {h : CmdHdr} {se : Session}

/-- READ_REG of mapped words answers what the role may see of them, with a violation for each word that it may not see
at all (R549 to R551; log 30). -/
theorem execReadReg_of_mapped {addr count : Nat} {ws : List RegWord} (t : Taken s h 0x0070 allRoles true s₁ se)
    (haligned : addr % 4 = 0) (hpos : 0 < count) (hmax : count ≤ 64)
    (hws : ((List.range count).map fun i => regWord s₁ se (addr + 4 * i)) = ws.map some) :
    execReadReg h addr count s = .next (done ((List.range (ws.countP fun w => regHidden w se.role)).foldl
      (fun s _ => violation s) s₁) h 0x0070 (ws.flatMap fun w => le 4 (regValue w se.role))) := by
  have hformed : ¬(addr % 4 ≠ 0 ∨ count = 0) := by omega
  have hmapped : ¬((ws.map some).any Option.isNone) = true := by simp
  have hall : (ws.map some).filterMap id = ws := by simp [List.filterMap_map]
  simp only [execReadReg, hostCmd_of_taken t, if_neg hformed, if_neg (Nat.not_lt.mpr hmax), hws, if_neg hmapped, hall]

section
variable {addr : Nat} {v : Word} {w : RegWord} (t : Taken s h 0x0071 allRoles false s₁ se) (haligned : addr % 4 = 0)
  (hw : regWord s₁ se addr = some w) (hseen : regHidden w se.role = false)
include t haligned hw hseen

/-- Behind the common checks, a write to a word that the role may see has the register's effect. -/
theorem hostCmd_regWrite_of_visible : hostCmd h writeSpec (fun s se => regWrite s se h addr v) s =
    .next (done (regEffect s₁ addr v.toNat) h 0x0071 []) :=
  (hostCmd_of_taken t 0 _).trans (congrArg _ (regWrite_of_visible haligned hw hseen))

/-- WRITE_REG to a word that the role may see has the register's effect (R390, R551). -/
theorem execWriteReg_of_visible :
    execWriteReg h addr v s = .next (done (regEffect s₁ addr v.toNat) h 0x0071 []) :=
  hostCmd_regWrite_of_visible t haligned hw hseen

/-- A write to HEALTH_EVENTS has the register's effect (R549, R555). -/
theorem execHealthEventsClear_of_visible (haddr : addr = 0x00040000 ∨ addr = 0x00040004) :
    execHealthEventsClear h addr v s = .next (done (regEffect s₁ addr v.toNat) h 0x0071 []) :=
  (if_pos haddr).trans (hostCmd_regWrite_of_visible t haligned hw hseen)

end

section
variable {v : Word} {w : RegWord} (t : Taken s h 0x0071 allRoles false s₁ se) (hseen : regHidden w se.role = false)
include t hseen

/-- A write to RESET_REQ asks for the reset of a domain, by either command (R495). -/
theorem execWriteReg_resetReq (hw : regWord s₁ se 0x00090000 = some w) :
    execWriteReg h 0x00090000 v s = .next (done (resetRequest s₁ (v.toNat % 65536)) h 0x0071 []) ∧
      execResetReq h 0x00090000 v s = .next (done (resetRequest s₁ (v.toNat % 65536)) h 0x0071 []) :=
  ⟨execWriteReg_of_visible t rfl hw hseen, (if_pos rfl).trans (hostCmd_regWrite_of_visible t rfl hw hseen)⟩

/-- A write to RESET_READMIT readmits a domain, by either command (R494). -/
theorem execWriteReg_resetReadmit (hw : regWord s₁ se 0x00090004 = some w) :
    execWriteReg h 0x00090004 v s = .next (done (readmitDomain s₁ (v.toNat % 65536)) h 0x0071 []) ∧
      execResetReadmit h 0x00090004 v s = .next (done (readmitDomain s₁ (v.toNat % 65536)) h 0x0071 []) :=
  ⟨execWriteReg_of_visible t rfl hw hseen, (if_pos rfl).trans (hostCmd_regWrite_of_visible t rfl hw hseen)⟩

end

/-! ### The colophon, the caps and the pulls (R390, R427, R430, R433, R475, R516) -/

/-- COLOPHON answers the report for the session's role under a signature of the device (R430, R433). -/
theorem execColophon_of_taken {nonce : Bytes} (t : Taken s h 0x0080 [.own, .ten, .mgt, .vnd] true s₁ se) :
    execColophon h nonce s = .next (done s₁ h 0x0080 (colophonBody s₁ se nonce ++
      padTo 96 (aliasSign s₁ (colophonBody s₁ se nonce)))) :=
  hostCmd_of_taken t _ _

/-- POWER_CAP sets the caps of the session's own role (R516, R518). -/
theorem execPowerCap_of_valid {cap alert od : Nat} (t : Taken s h 0x0090 [.own, .mgt] true s₁ se) (hcap : cap ≤ 3200)
    (halert : alert ≤ 3200) (hod : od ≤ 1) :
    execPowerCap h cap alert od s = .next (done (capsChanged (effCap s₁) (endGrant
      { s₁ with power := if se.role = .own then { s₁.power with capOwn := ⟨cap, alert, od == 1⟩ }
        else { s₁.power with capMgt := ⟨cap, alert, od == 1⟩ } })) h 0x0090 []) := by
  have hvalid : ¬(3200 < cap ∨ 3200 < alert ∨ 1 < od) := by omega
  rw [execPowerCap, hostCmd_of_taken t]
  simp only [if_neg hvalid]
  cases se.role <;> rfl

section
variable {id off len : Nat} {errs : List (Nat × Nat)} (t : Taken s h 0x00A0 [.own, .ten] true s₁ se)
include t

/-- PULL_READ with MODE 0 lists the pulls that the role may see (R390, R427). -/
theorem execPullRead_of_list : execPullRead h 0 id off len errs s = .next (done s₁ h 0x00A0
    (let ps := s₁.faults.pulls.filter fun p => se.role == .own || p.chase == se.chase
     le 4 ps.length ++ zeros 4 ++ ps.flatMap (pullEntry se.role))) :=
  hostCmd_of_taken t _ _

variable {p : Pull} (hten : se.role = .ten)
  (hp : (s₁.faults.pulls.find? fun p => p.pullId == id && p.chase == se.chase) = some p)
include hten hp

/-- PULL_READ with MODE 1 answers the bytes of a pull, and marks a reply that met an error in hub SRAM (R475; log
99). -/
theorem execPullRead_of_read :
    let b := hubRead (((p.bytes.drop off).take len).map fun x => (x, false)) errs
    execPullRead h 1 id off len errs s = .next (emitReply s₁ { mkReply h.ep h.session 0x00A0 h.reqId St.done 0
      (b.map Prod.fst) with
        dscp := h.dscp
        flags := b2n (b.any Prod.snd) }) := by
  refine (hostCmd_of_taken t _ _).trans ?_
  simp only [hten, hp, Nat.reduceLT, one_ne_zero, reduceCtorEq, if_false, if_true]

/-- PULL_READ with MODE 2 frees a pull (R390). -/
theorem execPullRead_of_free : execPullRead h 2 id off len errs s = .next (done { s₁ with faults := { s₁.faults with
    pulls := s₁.faults.pulls.filter (· != p) } } h 0x00A0 []) := by
  refine (hostCmd_of_taken t _ _).trans ?_
  simp [hten, hp]

end

/-- PULL_READ of bytes that met no error answers them unmarked (R475). -/
theorem execPullRead_of_clean {id off len : Nat} {p : Pull} (t : Taken s h 0x00A0 [.own, .ten] true s₁ se)
    (hten : se.role = .ten) (hp : (s₁.faults.pulls.find? fun p => p.pullId == id && p.chase == se.chase) = some p) :
    execPullRead h 1 id off len [] s = .next (done s₁ h 0x00A0 ((p.bytes.drop off).take len)) := by
  have hclean (bs : Bytes) : (bs.map fun x => (x, false)).any Prod.snd = false := by simp
  have hbytes (bs : Bytes) : (bs.map fun x => (x, false)).map Prod.fst = bs := by simp [Function.comp_def]
  rw [execPullRead_of_read t hten hp, hubRead_nil, hclean, hbytes]
  rfl

end

/-- Settles O36, command by command. -/
theorem registerCommandsComplete : Obligations.RegisterCommandsComplete := by
  refine ⟨fun _ _ _ _ _ _ _ => execReadReg_of_mapped, fun s s₁ h v se w t => ⟨?other,
    fun hw hseen => execWriteReg_resetReq t hseen hw, fun hw hseen => execWriteReg_resetReadmit t hseen hw,
    fun hw hseen => execHealthEventsClear_of_visible t rfl hw hseen (.inl rfl),
    fun hw hseen => execHealthEventsClear_of_visible t rfl hw hseen (.inr rfl)⟩,
    fun _ _ _ _ _ => execColophon_of_taken, fun _ _ _ _ _ _ _ => execPowerCap_of_valid,
    fun s s₁ h id off len errs se t => ⟨execPullRead_of_list t, fun p hten hp => ⟨execPullRead_of_read t hten hp,
      fun hclean => hclean ▸ execPullRead_of_clean t hten hp, execPullRead_of_free t hten hp⟩⟩⟩
  case other =>
    intro addr haligned hw hseen hother
    exact (execWriteReg_of_visible t haligned hw hseen).trans (by rw [regEffect_of_other hother])

/-! ### INTAKE_SET (R379, R382, R384) -/

/-- A record without what INTAKE_SET keeps of the SCORE that waits for it (R379). -/
def plainRec (e : Nat × FlowRec) : Nat × FlowRec := (e.1, { e.2 with retryAt := none, req := 0 })

/-- What INTAKE_SET may keep of a record's SCORE is no part of the plain record. -/
theorem plainRec_ite (p : Prop) [Decidable p] (e : Nat × FlowRec) (retryAt : Option Nat) (n : Nat) :
    plainRec (if p then (e.1, { e.2 with retryAt := retryAt, req := n }) else e) = plainRec e := by
  split <;> rfl

/-- Filling the intake's doorbell queue changes, of the intake, the records that wait for it alone (R382). -/
theorem fillIntake_intake (s : State) :
    (fillIntake s).intake = { s.intake with ready := (fillIntake s).intake.ready } := rfl

/-- INTAKE_SET of the intake's chase with well-formed fields and objects that hold the table and the payloads takes the
configuration and the records that they hold, and is answered or stays live as the subscription (R379, R382; log 64,
98). -/
theorem execIntakeSet_of_valid {s s₁ : State} {h : CmdHdr} {k : IntakeCfg} {se : Session} {tab pay : Obj}
    (t : Taken s h 0x0017 [.ten] false s₁ se) (hchase : se.chase = policy s₁ 0x010F) (hnrec : nrecOk k.nrec = true)
    (hcapture : k.capture ≤ 1024) (haligned : k.capture % 64 = 0) (hnotify : k.notify ≤ 1) (henable : k.enable ≤ 1)
    (htab : findObj s₁ se.chase k.tableObj = some tab) (hpay : findObj s₁ se.chase k.payloadObj = some pay)
    (htabMut : tab.isMutable = true) (htabH : tab.isH = true) (hpayMut : pay.isMutable = true) (hpayH : pay.isH = true)
    (htabSize : 256 * k.nrec ≤ tab.size) (hpaySize : 2 * k.capture * k.nrec ≤ pay.size) :
    ∃ u : State, execIntakeSet h k s =
        .next (if k.notify = 1 then enlist u h 0x0017 se.chase false else done u h 0x0017 []) ∧
      u.intake.cfg = some k ∧ u.intake.unreported = [] ∧
      u.intake.notifyTo = (if k.notify = 1 then some (h.session, h.reqId) else none) ∧
      u.intake.recs.map plainRec = (readRecs s₁ tab pay k).map plainRec := by
  have hformed : (!nrecOk k.nrec || decide (1024 < k.capture) || k.capture % 64 != 0 || decide (1 < k.notify) ||
      decide (1 < k.enable)) = false := by
    simp [hnrec, haligned, hcapture, hnotify, henable]
  have hsizes : ¬(tab.size < 256 * k.nrec ∨ pay.size < 2 * k.capture * k.nrec) := by omega
  rw [execIntakeSet, hostCmd_of_taken t]
  simp only [hchase.symm, ne_eq, not_true_eq_false, hformed, htab, hpay, htabMut, htabH, hpayMut, hpayH, if_neg hsizes,
    Bool.and_self, Bool.not_true, Bool.false_eq_true, if_false]
  refine ⟨_, rfl, rfl, rfl, rfl, ?_⟩
  rw [fillIntake_intake, List.map_map]
  refine List.map_congr_left fun e _ => ?_
  simp only [Function.comp_apply]
  split
  · exact plainRec_ite ..
  · rfl

/-- Settles O37. -/
theorem intakeSetCompletes : Obligations.IntakeSetCompletes := fun _ _ _ _ _ _ _ => execIntakeSet_of_valid

end Sys2Proof.Machine
end

section
/-! SUPPORT. Proofs about the events of the host ports and the timers of sessions and messages (R358 to R361, R366,
R369, R370, R385, R386, R389, R539). -/

namespace Sys2Proof.Machine

/-! ### The boot link answers address resolution in its own way (R360, R539) -/

/-- Without MACsec and without a VLAN, a port takes an untagged frame whose FCS agrees, and nothing changes (R358,
R360). -/
theorem takeFrame_of_untagged {s : State} {ep : Nat} {frame : Bytes} {e : Eth} {p : HostPort}
    (hframe : frameIn frame = some e) (hport : s.ports[ep]? = some p) (hmacsec : macsecOn s ep = false)
    (hvlan : nbits (policy s 0x0109) (12 * ep) 12 = 0) (htag : e.tag = none) : takeFrame s ep frame = (s, some e) := by
  simp only [takeFrame, hframe, hport, hmacsec, hvlan, htag, Option.isNone_none, Bool.false_eq_true, if_false, if_true]

/-- On the boot link an ARP request for another address than BOOT_ADDR is not answered, and not counted (R539). -/
theorem execArpRequest_of_bootLink {s : State} {ep mac sender ip : Nat} {frame : Bytes} {e : Eth}
    (hboot : bootLink s ep = true) (hframe : bootFrame frame = some e) (harp : arpOf e = some (mac, sender, ip))
    (haddr : bootAddr s false ≠ some ip) : execArpRequest ep frame s = .next s := by
  simp only [execArpRequest, hboot, hframe, Option.bind_some, harp, if_neg haddr, if_true]

/-- A device in AWAIT_FW that boots over HE_0 with BOOT_ADDR 9, whose EP_0 is up in ASKEST mode, and that has no address
by policy. -/
def bootLinked : State := { State.reset with
  boot := { Boot.reset with state := 1, source := 1, cfg := some { (default : BootConfig) with bootAddr := 9 } }
  ports := [{ HostPort.reset with linkUp := true, mode := 1 }] }

/-- The body of an ARP request for address 7, from MAC address 2 with address 3 (RFC 826). -/
def arpBody : Bytes := be 8 0x0001080006040001 ++ be 6 2 ++ be 4 3 ++ zeros 6 ++ be 4 7

/-- That request as a frame to MAC address 1. -/
def arpFrame : Bytes := frameOut (be 6 1 ++ be 6 2 ++ etherData 0 0x0806 arpBody)

/-- What the frame holds: the request, padded to the least length of a frame. -/
def arpEth : Eth := ⟨1, 2, none, 0x0806, arpBody ++ zeros 18⟩

theorem frameIn_arpFrame : frameIn arpFrame = some arpEth := by decide +kernel

theorem takeFrame_bootLinked : takeFrame bootLinked 0 arpFrame = (bootLinked, some arpEth) :=
  takeFrame_of_untagged frameIn_arpFrame rfl (by decide) (by decide) rfl

/-- Refutes O44: its clause on ARP is about every state, and in AWAIT_FW with BOOT_SOURCE 1 the mask ROM runs HE_0. A
request for another address than BOOT_ADDR is then dropped uncounted (R539), where the statement has it counted. -/
theorem not_portEventsComplete : ¬ Obligations.PortEventsComplete := by
  rintro ⟨-, -, -, -, harps, -⟩
  have harp : arpOf arpEth = some (2, 3, 7) := by decide
  obtain ⟨-, hcounted⟩ := harps bootLinked bootLinked 0 2 3 7 arpFrame arpEth (by decide) takeFrame_bootLinked harp
  have hframe : bootFrame arpFrame = some arpEth := by
    simp only [bootFrame, frameIn_arpFrame]
    rfl
  have hexec := execArpRequest_of_bootLink (s := bootLinked) (ep := 0) (by decide) hframe harp (by decide)
  have hsame : bootLinked = countDrop bootLinked 0 0 := Host.Outcome.next.inj (hexec.symm.trans (hcounted (by decide)))
  exact absurd (congrArg (fun v : State => v.ports.map HostPort.drops) hsame) (by decide)

/-! ### The timers of sessions and messages (R366, R369, R370, R385, R386, R389) -/

section
variable {s : State} {session reqId : Nat}

/-- A message that is incomplete 10 ms after its first packet is dropped, counted and answered (R370). -/
theorem execReassemblyTimeout_of_due {opcode : Nat} {x : Reasm}
    (hx : (s.reasm.find? fun x => x.session == session && x.opcode == opcode && x.reqId == reqId) = some x)
    (hdue : x.firstNs + 10000000 ≤ s.now) :
    execReassemblyTimeout session opcode reqId s =
      .next (portReply (countDrop { s with reasm := s.reasm.filter fun y => y != x } x.ep 3) x.ep session opcode reqId
        St.malformed 0x0A05 0) := by
  simp only [execReassemblyTimeout, hx, if_pos hdue]

/-- A session that is PENDING for 100 ms closes (R366). -/
theorem execSessionPendingTimeout_of_due {se : Session} (hse : kget s.sessions session = some se)
    (hpending : se.isOpen = false) (hdue : se.helloNs + 100000000 ≤ s.now) :
    execSessionPendingTimeout session s = .next (closeSession s session) := by
  simp only [execSessionPendingTimeout, hse, hpending, decide_eq_true hdue, Bool.not_false, Bool.and_self, if_true]

/-- An OPEN session without a live command closes after its idle time (R369). -/
theorem execSessionIdleTimeout_of_due {se : Session} (hse : kget s.sessions session = some se)
    (hopen : se.isOpen = true) (hdue : se.lastNs + policy s 0x0106 * 1000000000 ≤ s.now)
    (hlive : ∀ l ∈ s.live, l.session ≠ session) :
    execSessionIdleTimeout session s = .next (closeSession s session) := by
  have hnone : (s.live.any fun l => l.session == session) = false := by simpa using hlive
  simp only [execSessionIdleTimeout, hse, hopen, decide_eq_true hdue, hnone, Bool.not_false, Bool.and_self, if_true]

/-- A FILE_SUBMIT in RECEIVING that had no chunk for FILE_IDLE is cancelled (R389). -/
theorem execFileIdleTimeout_of_receiving {n : Nat} {r : Req} (hr : liveReq s session reqId = some (n, r))
    (hstate : r.state = .receiving) (hdue : r.chunkNs + policy s 0x0107 * 1000000 ≤ s.now) :
    execFileIdleTimeout session reqId s = .next (endReq s n .cancelled St.cancelled 0x0A09 []) := by
  simp only [execFileIdleTimeout, hr, hstate, decide_eq_true hdue, and_self, if_true]

/-- A FORME_LOAD that had no chunk for FILE_IDLE is cancelled (R386). -/
theorem execFileIdleTimeout_of_loading {x : Stage} (hr : liveReq s session reqId = none)
    (hx : (s.stages.find? fun x => x.session == session && x.reqId == reqId && !x.ready) = some x)
    (hdue : x.lastNs + policy s 0x0107 * 1000000 ≤ s.now) :
    execFileIdleTimeout session reqId s = .next { replyLive s session reqId St.cancelled 0x0A09 [] with
      stages := (replyLive s session reqId St.cancelled 0x0A09 []).stages.filter fun y =>
        !(y.session == session && y.reqId == reqId && !y.ready) } := by
  simp only [execFileIdleTimeout, hr, hx, decide_eq_true hdue, if_true]

/-- Chunks held for FILE_IDLE without their first chunk are dropped (R389). -/
theorem execHeldChunkTimeout_of_due {x : Nat × Nat × Nat × Nat × Bytes}
    (hx : s.heldChunks.find? (isHeldOf session reqId) = some x)
    (hdue : x.2.2.1 + policy s 0x0107 * 1000000 ≤ s.now) :
    execHeldChunkTimeout session reqId s = .next (portReply
      { s with heldChunks := s.heldChunks.filter fun y => !isHeldOf session reqId y } 0 session 0x0052 reqId
      St.cancelled 0x0A09 0) := by
  simp only [execHeldChunkTimeout, hx, if_pos hdue]

/-- A policy that waits takes effect 10 ms after it was set (R385). -/
theorem execPolicyTakeEffect_of_due {id : Nat} {e : Nat × Nat × Nat}
    (he : (s.policyDue.find? fun e => e.1 == id && decide (e.2.2 + 10000000 ≤ s.now)) = some e) :
    execPolicyTakeEffect id s =
      .next (putPolicy { s with policyDue := s.policyDue.filter fun x => x != e } id e.2.1) := by
  simp only [execPolicyTakeEffect, he]

end

/-- Settles O45, timer by timer. -/
theorem sessionTimersComplete : Obligations.SessionTimersComplete :=
  ⟨fun _ _ _ _ _ => execReassemblyTimeout_of_due,
    fun _ _ _ hse => ⟨execSessionPendingTimeout_of_due hse, execSessionIdleTimeout_of_due hse⟩,
    fun _ _ _ => ⟨fun _ _ => execFileIdleTimeout_of_receiving, fun _ => execFileIdleTimeout_of_loading⟩,
    fun _ _ _ _ => execHeldChunkTimeout_of_due, fun _ _ _ => execPolicyTakeEffect_of_due⟩

end Sys2Proof.Machine
end

section
/-! SUPPORT. Proofs about the fuses over every step (R412, R415 to R417, R420, R421, R541), the outcome of a step
(log 1), the table of instructions, and the state after reset (R533). -/

namespace Sys2Proof.Machine

/-! ### Fuses only blow (R412, R415, R416, R421) -/

namespace FusesKept

theorem refl (a : Fuses) : FusesKept a a :=
  ⟨le_rfl, le_rfl, id, fun _ x hx hin => ⟨x, hx, hin⟩, fun _ => id, fun _ => id, rfl, ⟨rfl, rfl, rfl⟩, rfl, rfl⟩

theorem trans {a b c : Fuses} (hab : FusesKept a b) (hbc : FusesKept b c) : FusesKept a c where
  lifecycle := hab.lifecycle.trans hbc.lifecycle
  rollback := hab.rollback.trans hbc.rollback
  uds := hab.uds ∘ hbc.uds
  slots i x hx hin :=
    let ⟨y, hy, hyin⟩ := hab.slots i x hx hin
    hbc.slots i y hy hyin
  fwRevoked k := hbc.fwRevoked k ∘ hab.fwRevoked k
  vndRevoked k := hbc.vndRevoked k ∘ hab.vndRevoked k
  tau := hab.tau.trans hbc.tau
  identity := ⟨hab.identity.1.trans hbc.identity.1, hab.identity.2.1.trans hbc.identity.2.1,
    hab.identity.2.2.trans hbc.identity.2.2⟩
  thermal := ⟨hab.thermal.1.trans hbc.thermal.1, hab.thermal.2.trans hbc.thermal.2⟩

/-- The slots that are in use in one list stay in use where an entry is changed that goes on in use. -/
theorem slots_lmod {l : List OwnerSlot} {f : OwnerSlot → OwnerSlot} (hf : ∀ x, x.inUse = true → (f x).inUse = true)
    (j i : Nat) (x : OwnerSlot) (hx : l[i]? = some x) (hin : x.inUse = true) :
    ∃ y, (lmod l j f)[i]? = some y ∧ y.inUse = true := by
  rw [lmod, List.getElem?_modify, hx]
  by_cases hij : j = i
  · exact ⟨f x, by simp [hij], hf x hin⟩
  · exact ⟨x, by simp [hij], hin⟩

/-- Fuses whose fixed part is the same have lost nothing. -/
theorem of_fixed {a b : Fuses} (h : b.fixed = a.fixed) : FusesKept a b := by
  simp only [Fuses.fixed, Prod.mk.injEq] at h
  obtain ⟨⟨hlife, hroll, huds⟩, ⟨hfw, hvnd⟩, htau, ⟨hserial, hnum, hstep⟩, hrth, htth, hslots⟩ := h
  refine ⟨hlife.ge, hroll.ge, huds ▸ id, fun i x hx hin => ?_, fun k => hfw ▸ id, fun k => hvnd ▸ id, htau.symm,
    ⟨hserial.symm, hnum.symm, hstep.symm⟩, hrth.symm, htth.symm⟩
  have hi : (b.slots[i]?).map OwnerSlot.inUse = some true := by
    rw [← List.getElem?_map, hslots, List.getElem?_map, hx, Option.map_some, hin]
  exact Option.map_eq_some_iff.mp hi

end FusesKept

/-- A command that comes to its own effect loses no fuse where that effect loses none. -/
theorem hostCmd_fusesKept {h : CmdHdr} {sp : CmdSpec} {run : State → Session → State} {s : State}
    (hrun : ∀ s se, FusesKept s.fuses (run s se).fuses) :
    ∃ t, hostCmd h sp run s = .next t ∧ FusesKept s.fuses t.fuses := by
  refine ⟨_, rfl, ?_⟩
  have hg := gate_keeps s h sp
  cases hgate : gate s h sp with rw [hgate] at hg
  | ignore => exact .refl _
  | answer s' => exact .of_fixed hg.2
  | refuse s' r => exact .of_fixed ((emitReply_keeps ..).2.trans hg.2)
  | run s' se => exact (FusesKept.of_fixed hg.2).trans (hrun s' se)

/-- CLAIM blows at most the in-use fuse of a slot (R416). -/
theorem execClaim_fusesKept (h : CmdHdr) (pub label : Bytes) (s : State) :
    ∃ t, execClaim h pub label s = .next t ∧ FusesKept s.fuses t.fuses := by
  refine hostCmd_fusesKept fun s se => ?_
  split_ifs
  · exact .of_fixed (by simp)
  · exact .of_fixed (by simp)
  · split
    · exact .of_fixed (by split_ifs <;> simp)
    · exact { FusesKept.refl s.fuses with slots := FusesKept.slots_lmod (fun _ _ => rfl) _ }

/-- OWNER_FUSES_BLOWN raises the lifecycle to OWNED and blows a slot's key (R412, R416). -/
theorem execOwnerFusesBlown_fusesKept (s : State) :
    ∃ t, execOwnerFusesBlown s = .next t ∧ FusesKept s.fuses t.fuses := by
  refine ⟨_, rfl, ?_⟩
  split
  · exact .refl _
  · next session reqId pub hclaim =>
    refine FusesKept.trans (b := { s.fuses with
      lifecycle := Nat.max s.fuses.lifecycle 2, ownerPub := some pub
      slots := lmod s.fuses.slots ((slotFor s pub).getD 0) fun x => { x with key := pub } }) ?blown
      (.of_fixed (by simp))
    exact { FusesKept.refl s.fuses with
      lifecycle := Nat.le_max_left _ _
      slots := FusesKept.slots_lmod (f := fun x => { x with key := pub }) (fun _ hin => hin) _ }

/-- UDS_DESTROYED raises the lifecycle to DECOMMISSIONED and ends the UDS (R417). -/
theorem execUdsDestroyed_fusesKept (s : State) : ∃ t, execUdsDestroyed s = .next t ∧ FusesKept s.fuses t.fuses := by
  refine ⟨_, rfl, ?_⟩
  split
  · exact .refl _
  · refine FusesKept.trans (b := { s.fuses with lifecycle := Nat.max s.fuses.lifecycle 3, udsIntact := false }) ?blown
      (.of_fixed (by simp))
    exact { FusesKept.refl s.fuses with
      lifecycle := Nat.le_max_left _ _
      uds := fun hgone => absurd hgone Bool.noConfusion }

/-- ROLLBACK_BLOW raises the rollback floor by one, or does nothing (R421). -/
theorem execRollbackBlow_fusesKept (s : State) : ∃ t, execRollbackBlow s = .next t ∧ FusesKept s.fuses t.fuses := by
  refine ⟨_, rfl, ?_⟩
  split
  · split_ifs
    · exact { FusesKept.refl s.fuses with rollback := Nat.le_succ _ }
    · exact .refl _
  · exact .refl _

/-- Every command has a next state, and loses no fuse. -/
theorem exec_fusesKept (i : Instr) (s : State) : ∃ t, exec i s = .next t ∧ FusesKept s.fuses t.fuses := by
  cases hb : blowsFuses i with
  | false =>
    obtain ⟨t, he, -, hfixed⟩ := exec_keeps s i hb
    exact ⟨t, he, .of_fixed hfixed⟩
  | true =>
    cases i
    case claim h pub label => exact execClaim_fusesKept h pub label s
    case rollbackBlow => exact execRollbackBlow_fusesKept s
    case udsDestroyed => exact execUdsDestroyed_fusesKept s
    case ownerFusesBlown => exact execOwnerFusesBlown_fusesKept s
    all_goals cases hb

/-- Settles O6: a tick leaves the fuses as they are, and the command at the front loses none. -/
theorem stepKeepsFuses : Obligations.StepKeepsFuses := by
  intro s t hst
  cases hq : s.pending with
  | nil =>
    obtain ⟨htick, -, hfixed⟩ := emptyQueueTicks s hq
    cases htick.symm.trans hst
    exact .of_fixed hfixed
  | cons c rest =>
    obtain ⟨u, he, hkept⟩ := exec_fusesKept c { s with pending := rest }
    cases he.symm.trans ((step_of_pending_cons hq).symm.trans hst)
    exact hkept

/-! ### One step, the table, and the state after reset -/

/-- Settles O8: a tick is a next state, and so is the outcome of every command. -/
theorem stepAlwaysGoesOn : Obligations.StepAlwaysGoesOn := by
  intro s
  cases hq : s.pending with
  | nil => exact ⟨tick s, step_of_pending_nil hq⟩
  | cons c rest =>
    obtain ⟨t, he, -⟩ := exec_pending c { s with pending := rest }
    exact ⟨t, (step_of_pending_cons hq).trans he⟩

/-- Settles O3: the table's rows give no bits, so no word decodes. -/
theorem noWordSpellsACommand : Obligations.NoWordSpellsACommand := fun _ _ _ => ⟨rfl, rfl⟩

/-- Settles O4: every field at its value after reset, and the empty memories are in canonical form. -/
theorem resetState : Obligations.ResetState := by
  refine ⟨rfl, rfl, rfl, rfl, rfl, rfl, rfl, rfl, rfl, rfl, rfl, rfl, ?ports, ?torus, ⟨rfl, rfl⟩, .refl _⟩
  case ports =>
    intro p hp
    rw [List.eq_of_mem_replicate hp]
    rfl
  case torus =>
    intro p hp
    rw [List.eq_of_mem_replicate hp]
    rfl

end Sys2Proof.Machine
end

section
/-! SUPPORT. Proofs about the always-on domain (R532, R533): its start-up state, its fuses and its pins are as before
after the shared operations that end commands, close sessions, fence chases and run discovery again. -/

namespace Sys2Proof.Machine

/-! ### What leaves the always-on domain as it is -/

/-- The always-on domain of `t` is that of `s`: the start-up state, the fuses and the pins. -/
structure AonKept (s t : State) : Prop where
  boot : t.boot = s.boot
  fuses : t.fuses = s.fuses
  pins : t.pins = s.pins

namespace AonKept

theorem refl (s : State) : AonKept s s := ⟨rfl, rfl, rfl⟩

theorem trans {s t u : State} (hst : AonKept s t) (htu : AonKept t u) : AonKept s u :=
  ⟨htu.boot.trans hst.boot, htu.fuses.trans hst.fuses, htu.pins.trans hst.pins⟩

/-- Every step of a fold leaves the always-on domain, and so does the fold. -/
theorem foldl {α : Type} {f : State → α → State} (hf : ∀ s x, AonKept s (f s x)) (l : List α) (s : State) :
    AonKept s (l.foldl f s) := by
  induction l generalizing s with
  | nil => exact refl s
  | cons x l ih => exact (hf s x).trans (ih (f s x))

/-- Of two states that keep the always-on domain, whichever is taken does. -/
theorem ite {s t u : State} {p : Prop} [Decidable p] (ht : AonKept s t) (hu : AonKept s u) :
    AonKept s (if p then t else u) := by
  split
  · exact ht
  · exact hu

end AonKept

/-- What changes only what carries replies leaves the always-on domain. -/
theorem RepliesOnly.aonKept {s t : State} (h : RepliesOnly s t) : AonKept s t := by
  rw [h]
  exact ⟨rfl, rfl, rfl⟩

/-! ### Replies, objects and their memories -/

theorem replyLive_aonKept (s : State) (session reqId status detail : Nat) (body : Bytes) :
    AonKept s (replyLive s session reqId status detail body) := (replyLive_repliesOnly ..).aonKept

theorem replyCmd_aonKept (s : State) (cmd : Option (Nat × Nat)) (status detail : Nat) :
    AonKept s (replyCmd s cmd status detail) := by
  cases cmd with
  | none => exact .refl s
  | some c => exact replyLive_aonKept ..

theorem setTier_aonKept (s : State) (isH : Bool) (m : TierMem) : AonKept s (setTier s isH m) :=
  ⟨setTier_boot .., setTier_fuses .., setTier_pins ..⟩

theorem objWrite_aonKept (s : State) (o : Obj) (off : Nat) (data : List (Byte × Bool)) :
    AonKept s (objWrite s o off data) := setTier_aonKept ..

/-- Metadata that fits leaves the always-on domain, as does what stands in for it when it does not. -/
theorem fitMeta_getD_aonKept {s t d : State} {c tierNo die : Nat} (ht : AonKept s t) (hd : AonKept s d) :
    AonKept s ((fitMeta t c tierNo die).getD d) := by
  unfold fitMeta
  extract_lets need have' drop f k
  split
  · exact ht.trans ⟨rfl, rfl, rfl⟩
  · split
    · exact ht.trans ⟨rfl, rfl, rfl⟩
    · exact hd

theorem concReread_aonKept (s : State) (c id off len : Nat) : AonKept s (concReread s c id off len) := by
  unfold concReread
  extract_lets ch pool
  split
  · exact .refl s
  · split
    · exact .refl s
    · exact ⟨rfl, rfl, rfl⟩

theorem countErr_aonKept (s : State) (k : Nat) : AonKept s (countErr s k) :=
  .ite ⟨rfl, rfl, rfl⟩ ⟨rfl, rfl, rfl⟩

theorem countMem_aonKept (s : State) (isH : Bool) (pa k : Nat) : AonKept s (countMem s isH pa k) := by
  unfold countMem
  extract_lets t s'
  have hs' : AonKept s s' := countErr_aonKept ..
  split
  · exact .ite hs' (hs'.trans ⟨rfl, rfl, rfl⟩)
  · exact hs'

theorem countLost_aonKept (s : State) (gs : List (Bool × Nat)) : AonKept s (countLost s gs) :=
  .foldl (fun s _ => .ite (countMem_aonKept ..) (.refl s)) gs s

/-! ### Commands that reach their object (R256, R258, R264, R388) -/

theorem doPut_aonKept (s : State) (c id off : Nat) (data : Bytes) (session reqId : Nat) :
    AonKept s (doPut s c id off data session reqId) := by
  unfold doPut
  split
  · exact replyLive_aonKept ..
  · exact .ite (replyLive_aonKept ..) ((objWrite_aonKept ..).trans
      ((concReread_aonKept ..).trans ((countLost_aonKept ..).trans (replyLive_aonKept ..))))

theorem doGet_aonKept (s : State) (c id off len : Nat) (session reqId : Nat) :
    AonKept s (doGet s c id off len session reqId) := by
  unfold doGet
  split
  · split
    extract_lets s'
    have hs' : AonKept s s' := .ite (.refl s) ⟨rfl, rfl, rfl⟩
    exact hs'.trans ((countLost_aonKept ..).trans (emitReply_repliesOnly ..).aonKept)
  · exact replyLive_aonKept ..

theorem doWindow_aonKept (s : State) (c id window die : Nat) (session reqId : Nat) :
    AonKept s (doWindow s c id window die session reqId) := by
  unfold doWindow
  split
  · exact replyLive_aonKept ..
  · extract_lets n put fresh
    have hput (w) : AonKept s (put w) := AonKept.trans (t := modObj s c id _) ⟨rfl, rfl, rfl⟩ (replyLive_aonKept ..)
    have hrefused (status) : AonKept s (replyLive s session reqId status 0 []) := replyLive_aonKept ..
    refine .ite (hrefused _) (.ite (hrefused _) (.ite ⟨rfl, rfl, rfl⟩ (.ite ?moved (.ite (hput _) ?grown))))
    all_goals
      split
      · exact hput _
      · exact hrefused _

theorem settleWindow_aonKept (s : State) (c id : Nat) : AonKept s (settleWindow s c id) := by
  unfold settleWindow
  split
  · exact .refl s
  · exact .ite (.refl s)
      (AonKept.trans (t := modObj s c id _) ⟨rfl, rfl, rfl⟩ (.foldl (fun s w => doWindow_aonKept s ..) _ _))

theorem doMove_aonKept (s : State) (c id tierNo die : Nat) (session reqId : Nat) :
    AonKept s (doMove s c id tierNo die session reqId) := by
  unfold doMove
  split
  · exact replyLive_aonKept ..
  · split
    · exact replyLive_aonKept ..
    · exact fitMeta_getD_aonKept ⟨rfl, rfl, rfl⟩ (replyLive_aonKept ..)

theorem runWait_aonKept (s : State) (w : ObjWait) : AonKept s (runWait s w) := by
  unfold runWait
  extract_lets s'
  have hs' : AonKept s s' := ⟨rfl, rfl, rfl⟩
  split
  · exact hs'.trans (doPut_aonKept ..)
  · exact hs'.trans (doGet_aonKept ..)
  · exact hs'.trans (doWindow_aonKept ..)
  · exact hs'.trans (doMove_aonKept ..)

theorem wakeObj_aonKept (fuel : Nat) (s : State) (c id : Nat) : AonKept s (wakeObj fuel s c id) := by
  induction fuel generalizing s with
  | zero => exact .refl s
  | succ n ih =>
    unfold wakeObj
    split
    · exact .refl s
    · refine .ite (.refl s) ?_
      split
      · exact .refl s
      · exact ⟨rfl, rfl, rfl⟩
      · split
        · exact AonKept.trans (t := modObj s c id _) ⟨rfl, rfl, rfl⟩ (ih _)
        · split
          · exact ⟨rfl, rfl, rfl⟩
          · exact AonKept.trans (t := modObj s c id _) ⟨rfl, rfl, rfl⟩ ((runWait_aonKept ..).trans (ih _))

theorem releaseHold_aonKept (s : State) (c n id : Nat) : AonKept s (releaseHold s c n id) := by
  unfold releaseHold
  split
  · exact .ite (AonKept.trans (t := modObj s c id _) ⟨rfl, rfl, rfl⟩ (wakeObj_aonKept ..)) (.refl s)
  · exact .refl s

theorem endReads_aonKept (s : State) (c : Nat) (ids : List Nat) (gone : Nat → Bool) :
    AonKept s (endReads s c ids gone) := by
  unfold endReads
  extract_lets s'
  have hs' : AonKept s s' := ⟨rfl, rfl, rfl⟩
  exact hs'.trans (.foldl (fun s _ => settleWindow_aonKept s ..) ids s')

/-! ### The ends of requests (R303, R307, R310, R333) -/

theorem sendFinal_aonKept (s : State) (r : Req) (status detail : Nat) (extra : Bytes) :
    AonKept s (sendFinal s r status detail extra) := by
  unfold sendFinal
  refine .ite (.refl s) ?_
  split
  · exact .refl s
  · exact (emitReply_repliesOnly ..).aonKept

theorem concPut_aonKept (s : State) (c : Nat) (e : ConcEntry) (b : Bytes) : AonKept s (concPut s c e b) := by
  unfold concPut
  split
  · exact objWrite_aonKept ..
  · exact .refl s

theorem setConc_aonKept (s : State) (c : Nat) (new : List ConcEntry) : AonKept s (setConc s c new) :=
  (AonKept.foldl (fun s _ => concPut_aonKept s ..) _ s).trans
    ((AonKept.foldl (fun s _ => concPut_aonKept s ..) _ _).trans ⟨rfl, rfl, rfl⟩)

theorem releaseReq_aonKept (s : State) (n : Nat) : AonKept s (releaseReq s n) := by
  unfold releaseReq
  split
  · exact .refl s
  · extract_lets priv shared s₁ s₂ held s₃ s₄ s₅
    have h₁ : AonKept s s₁ := (setConc_aonKept s ..).trans ⟨rfl, rfl, rfl⟩
    have h₂ : AonKept s₁ s₂ := ⟨rfl, rfl, rfl⟩
    have h₃ : AonKept s₂ s₃ := .foldl (fun s _ => releaseHold_aonKept s ..) held s₂
    have h₅ : AonKept s₃ s₅ := ⟨rfl, rfl, rfl⟩
    exact h₁.trans (h₂.trans (h₃.trans (h₅.trans ⟨rfl, rfl, rfl⟩)))

theorem fillRest_aonKept (s : State) (n : Nat) : AonKept s (fillRest s n) := by
  unfold fillRest
  split
  · exact .ite ⟨rfl, rfl, rfl⟩ (.refl s)
  · exact .refl s

theorem endReq_aonKept (s : State) (n : Nat) (st : ReqState) (status detail : Nat) (extra : Bytes) :
    AonKept s (endReq s n st status detail extra) := by
  unfold endReq
  split
  · exact .refl s
  · refine .ite (.refl s) ?_
    extract_lets s₁ s₂ s₃ s₄ s₅
    have hjob : AonKept s₂ s₃ := by
      dsimp only [s₃]
      split
      · exact .ite (.refl s₂) ⟨rfl, rfl, rfl⟩
      · exact .refl s₂
    have hlog : AonKept s₃ s₄ := .ite ⟨rfl, rfl, rfl⟩ (.refl s₃)
    have h₅ : AonKept s s₅ :=
      (sendFinal_aonKept ..).trans (AonKept.trans (t := s₂) ⟨rfl, rfl, rfl⟩ (hjob.trans (hlog.trans ⟨rfl, rfl, rfl⟩)))
    exact .ite (h₅.trans (fillRest_aonKept ..)) (h₅.trans (releaseReq_aonKept ..))

/-! ### Jobs that fail, chases that are fenced, sessions that close (R52, R369, R468 to R470) -/

theorem sendHeld_aonKept (s : State) (j : Job) (except : Option Nat) (name : String) (fields : List Nat) :
    AonKept s (sendHeld s j except name fields) := by
  refine .foldl (fun s p => .ite (.refl s) ?_) _ s
  split
  · exact .ite ⟨rfl, rfl, rfl⟩ (.refl s)
  · exact .refl s

theorem flushJob_aonKept (s : State) (id : Nat) : AonKept s (flushJob s id) := by
  unfold flushJob
  extract_lets mine runs s'
  have hs' : AonKept s s' := ⟨rfl, rfl, rfl⟩
  refine hs'.trans (AonKept.trans (.foldl (fun s r => ?_) runs s') ⟨rfl, rfl, rfl⟩)
  split
  · exact ⟨rfl, rfl, rfl⟩
  · exact .refl s

theorem abortStep_aonKept (s : State) (id coord cause : Nat) : AonKept s (abortStep s id coord cause) := by
  unfold abortStep
  split
  · exact .refl s
  · exact endReq_aonKept ..

theorem endJobCmds_aonKept (s : State) (j : Job) (status detail : Nat) : AonKept s (endJobCmds s j status detail) :=
  .foldl (fun s _ => replyLive_aonKept s ..) _ s

theorem haltJob_aonKept (s : State) (id coord cause : Nat) : AonKept s (haltJob s id coord cause) := by
  unfold haltJob
  split
  · exact .refl s
  · split
    · exact .refl s
    · exact .refl s
    · exact (endJobCmds_aonKept ..).trans ⟨rfl, rfl, rfl⟩
    · exact (abortStep_aonKept ..).trans ((flushJob_aonKept ..).trans ⟨rfl, rfl, rfl⟩)

theorem failJobAs_aonKept (s : State) (id coord cause : Nat) : AonKept s (failJobAs s id coord cause) := by
  unfold failJobAs
  split
  · exact .refl s
  · exact .ite (.refl s) ((sendHeld_aonKept ..).trans (haltJob_aonKept ..))

theorem endShare_aonKept (s : State) (c : Nat) : AonKept s (endShare s c) := by
  unfold endShare
  split
  · exact .refl s
  · exact AonKept.trans (t := modChase (dropJoining s c) c _) ⟨rfl, rfl, rfl⟩ (replyCmd_aonKept ..)

theorem endOrders_aonKept (s : State) (c : Nat) : AonKept s (endOrders s c) :=
  AonKept.trans (t := modChase s c _) ⟨rfl, rfl, rfl⟩ (.foldl (fun s _ => replyCmd_aonKept s ..) _ _)

theorem endActivity_aonKept (s : State) (c : Nat) : AonKept s (endActivity s c) := by
  unfold endActivity
  extract_lets s'
  have hs' : AonKept s s' := (endOrders_aonKept ..).trans ((endShare_aonKept ..).trans ⟨rfl, rfl, rfl⟩)
  have hnone : AonKept s' (modChase s' c fun ch => { ch with act := .none }) := ⟨rfl, rfl, rfl⟩
  split
  · exact hs'
  all_goals exact hs'.trans (hnone.trans (replyCmd_aonKept ..))

theorem endMoves_aonKept (s : State) (c : Nat) : AonKept s (endMoves s c) := by
  refine .foldl (fun s o => ?_) _ s
  refine AonKept.trans ?_ ((replyCmd_aonKept ..).trans (wakeObj_aonKept ..))
  split
  · exact fitMeta_getD_aonKept ⟨rfl, rfl, rfl⟩ ⟨rfl, rfl, rfl⟩
  · exact ⟨rfl, rfl, rfl⟩

/-- The fence of a chase leaves the always-on domain (R52, R533). -/
theorem fenceChase_aonKept (s : State) (c : Nat) : AonKept s (fenceChase s c) := by
  unfold fenceChase
  extract_lets s₁ s₂ s₃ s₄ s₅ s₆ s₇
  have h₂ : AonKept s s₂ := (endActivity_aonKept ..).trans ⟨rfl, rfl, rfl⟩
  have h₃ : AonKept s₂ s₃ := by
    dsimp only [s₃]
    split
    · exact failJobAs_aonKept ..
    · exact .refl s₂
  have h₄ : AonKept s₃ s₄ := .foldl (fun s _ => endReq_aonKept s ..) _ s₃
  have h₅ : AonKept s₄ s₅ := .foldl (fun s _ => releaseReq_aonKept s ..) _ s₄
  have h₆ : AonKept s₅ s₆ := endReads_aonKept ..
  have h₇ : AonKept s₆ s₇ := endMoves_aonKept ..
  clear_value s₇
  exact h₂.trans (h₃.trans (h₄.trans (h₅.trans (h₆.trans (h₇.trans ⟨rfl, rfl, rfl⟩)))))

theorem fenceForFault_aonKept (s : State) (c : Nat) : AonKept s (fenceForFault s c) := by
  unfold fenceForFault
  extract_lets ids changing s'
  have hs' : AonKept s s' := fenceChase_aonKept s c
  clear_value s'
  exact hs'.trans ⟨rfl, rfl, rfl⟩

theorem fenceAll_aonKept (s : State) : AonKept s (fenceAll s) := .foldl fenceChase_aonKept _ s

theorem jobFailure_aonKept (s : State) (id coord cause : Nat) : AonKept s (jobFailure s id coord cause) := by
  unfold jobFailure
  split
  · exact .refl s
  · exact .ite ((failJobAs_aonKept ..).trans (fenceForFault_aonKept ..)) (failJobAs_aonKept ..)

/-- A new discovery of the torus leaves the always-on domain (R456). -/
theorem rediscover_aonKept (s : State) (train : Bool) (cause : Nat) : AonKept s (rediscover s train cause) := by
  refine .foldl (fun s n => ?_) _ s
  split
  · exact .refl s
  · next p _ =>
    extract_lets s'
    have hs' : AonKept s s' := by
      dsimp only [s']
      split
      · exact jobFailure_aonKept ..
      · exact .refl s
    exact .ite (hs'.trans ⟨rfl, rfl, rfl⟩) (.ite (hs'.trans ⟨rfl, rfl, rfl⟩) (.ite (hs'.trans ⟨rfl, rfl, rfl⟩) hs'))

/-- A session that closes leaves the always-on domain (R369). -/
theorem closeSession_aonKept (s : State) (id : Nat) : AonKept s (closeSession s id) := by
  unfold closeSession
  extract_lets mine intake s₁ s₂ s₃
  have h₁ : AonKept s s₁ := ⟨rfl, rfl, rfl⟩
  have h₂ : AonKept s₁ s₂ := .foldl (fun s _ => endReq_aonKept s ..) mine s₁
  exact h₁.trans (h₂.trans ⟨rfl, rfl, rfl⟩)

theorem closeWhere_aonKept (s : State) (p : Session → Bool) : AonKept s (closeWhere s p) :=
  .foldl closeSession_aonKept _ s

end Sys2Proof.Machine
end

section
/-! SUPPORT. Proofs about attestation, the test access port, and the last steps of CLAIM and DECOMMISSION (R412, R416 to
R418, R435, R535). -/

namespace Sys2Proof.Machine

/-! ### What a sideband message changes (R435, R535) -/

/-- `v` is `s` but for the transcript, what the sideband delivers, and the count of draws. -/
def SidebandOnly (s v : State) : Prop :=
  v = { s with
    sbOut := v.sbOut
    draws := v.draws
    boot := { s.boot with spdm := v.boot.spdm } }

namespace SidebandOnly

theorem trans {s t v : State} (hst : SidebandOnly s t) (htv : SidebandOnly t v) : SidebandOnly s v := by
  unfold SidebandOnly at hst htv ⊢
  rw [hst] at htv
  exact htv

/-- Of two states that differ from one in what messages change alone, whichever is taken does. -/
theorem ite {s t u : State} {p : Prop} [Decidable p] (ht : SidebandOnly s t) (hu : SidebandOnly s u) :
    SidebandOnly s (if p then t else u) := by
  split
  · exact ht
  · exact hu

theorem side (s : State) (msg : String) (accepted : Bool) (body : Bytes) :
    SidebandOnly s (side s msg accepted body) := by
  unfold Machine.side
  split <;> rfl

theorem spdmReply (s : State) (msg : String) (code : Nat) (body : Bytes) :
    SidebandOnly s (spdmReply s msg code body) :=
  trans (t := { s with boot := { s.boot with spdm := s.boot.spdm ++ [code] } }) rfl (side ..)

theorem spdmError (s : State) (msg : String) : SidebandOnly s (spdmError s msg) := side ..

end SidebandOnly

/-- A challenge draws a nonce and is answered with a signature, or with an error (R435). -/
theorem execChallenge_sidebandOnly (slot : Nat) (nonce : Bytes) (s : State) :
    ∃ v, execChallenge slot nonce s = .next v ∧ SidebandOnly s v :=
  ⟨_, rfl, .ite (SidebandOnly.trans (t := (drawBytes s 32).2) rfl (.spdmReply ..)) (.spdmError ..)⟩

/-- A request for measurements draws a nonce and is answered with a signature, or with an error (R435). -/
theorem execGetMeasurements_sidebandOnly (index : Nat) (nonce : Bytes) (s : State) :
    ∃ v, execGetMeasurements index nonce s = .next v ∧ SidebandOnly s v :=
  ⟨_, rfl, .ite (SidebandOnly.trans (t := (drawBytes s 32).2) rfl (.spdmReply ..)) (.spdmError ..)⟩

/-- A request of attestation or BOOT_STATUS changes the transcript, what the sideband delivers, and the count of draws
alone. -/
theorem attestation_sidebandOnly {s : State} {i : Instr} (hi : i = .getVersion ∨ i = .getCapabilities ∨
    i = .negotiateAlgorithms ∨ i = .getDigests ∨ (∃ a b c, i = .getCertificate a b c) ∨ (∃ a b, i = .challenge a b) ∨
    (∃ a b, i = .getMeasurements a b) ∨ (∃ a, i = .unsupportedRequest a) ∨ i = .bootStatus) :
    ∃ v, exec i s = .next v ∧ SidebandOnly s v := by
  obtain rfl | rfl | rfl | rfl | ⟨slot, offset, len, rfl⟩ | ⟨slot, nonce, rfl⟩ | ⟨index, nonce, rfl⟩ | ⟨code, rfl⟩ |
    rfl := hi
  · exact ⟨_, rfl, SidebandOnly.trans (t := { s with boot := { s.boot with spdm := [] } }) rfl (.spdmReply ..)⟩
  · exact ⟨_, rfl, .spdmReply ..⟩
  · exact ⟨_, rfl, .spdmReply ..⟩
  · exact ⟨_, rfl, .ite (.spdmReply ..) (.spdmError ..)⟩
  · exact ⟨_, rfl, .ite (.spdmReply ..) (.spdmError ..)⟩
  · exact execChallenge_sidebandOnly ..
  · exact execGetMeasurements_sidebandOnly ..
  · exact ⟨_, rfl, .side ..⟩
  · exact ⟨_, rfl, .side ..⟩

/-- Settles O25: each request ends in messages of the sideband. -/
theorem attestationFrame : Obligations.AttestationFrame := by
  intro s v i hi hexec
  obtain ⟨w, hw, honly⟩ := attestation_sidebandOnly (s := s) hi
  cases hw.symm.trans hexec
  exact honly

/-! ### What the requests of attestation answer (R435) -/

/-- With input power present a message leaves by the sideband (R535). -/
theorem side_of_power {s : State} (hpower : s.boot.underVolt = false) (msg : String) (accepted : Bool) (body : Bytes) :
    side s msg accepted body = { s with sbOut := s.sbOut ++ [⟨msg, accepted, body⟩] } :=
  if_neg (Bool.eq_false_iff.mp hpower)

theorem spdmReply_sbOut {s : State} (hpower : s.boot.underVolt = false) (msg : String) (code : Nat) (body : Bytes) :
    (spdmReply s msg code body).sbOut = s.sbOut ++ [⟨msg, true, body⟩] :=
  congrArg State.sbOut (side_of_power (s := { s with boot := { s.boot with spdm := s.boot.spdm ++ [code] } }) hpower ..)

section
variable {s : State}

section
variable (hkey : s.boot.aliasKey = true)
include hkey

theorem execGetDigests_of_key : execGetDigests s = .next (spdmReply s "DIGESTS" 0x81 (sha384 (spdmChain s))) :=
  congrArg _ (if_pos hkey)

theorem execGetCertificate_of_key (offset len : Nat) : execGetCertificate 0 offset len s =
    .next (spdmReply s "CERTIFICATE" 0x82 (((spdmChain s).drop offset).take len)) := congrArg _ (if_pos ⟨rfl, hkey⟩)

theorem execChallenge_of_key (hpower : s.boot.underVolt = false) (nonce : Bytes) :
    ∃ t m, execChallenge 0 nonce s = .next t ∧ t.sbOut = s.sbOut ++ [m] ∧ m.msg = "CHALLENGE_AUTH" ∧
      m.accepted = true :=
  ⟨_, _, congrArg Host.Outcome.next (if_pos ⟨rfl, hkey⟩), spdmReply_sbOut (s := (drawBytes s 32).2) hpower .., rfl, rfl⟩

theorem execGetMeasurements_of_key (hpower : s.boot.underVolt = false) {index : Nat} (nonce : Bytes)
    (hindex : index ≤ 5 ∨ index = 255) : ∃ t m, execGetMeasurements index nonce s = .next t ∧
      t.sbOut = s.sbOut ++ [m] ∧ m.msg = "MEASUREMENTS" ∧ m.accepted = true :=
  ⟨_, _, congrArg Host.Outcome.next (if_pos (by simpa [hkey] using hindex)),
    spdmReply_sbOut (s := (drawBytes s 32).2) hpower .., rfl, rfl⟩

end

section
variable (hnone : s.boot.aliasKey = false)
include hnone

theorem execGetDigests_of_no_key : execGetDigests s = .next (spdmError s "DIGESTS") :=
  congrArg _ (if_neg (Bool.eq_false_iff.mp hnone))

theorem execGetCertificate_of_no_key (slot offset len : Nat) :
    execGetCertificate slot offset len s = .next (spdmError s "CERTIFICATE") :=
  congrArg _ (if_neg fun h => Bool.eq_false_iff.mp hnone h.2)

theorem execChallenge_of_no_key (slot : Nat) (nonce : Bytes) :
    execChallenge slot nonce s = .next (spdmError s "CHALLENGE_AUTH") :=
  congrArg _ (if_neg fun h => Bool.eq_false_iff.mp hnone h.2)

theorem execGetMeasurements_of_no_key (index : Nat) (nonce : Bytes) :
    execGetMeasurements index nonce s = .next (spdmError s "MEASUREMENTS") :=
  congrArg _ (if_neg (by simp [hnone]))

end

/-! ### The last steps of DECOMMISSION and CLAIM, and the test access port (R412, R416 to R418) -/

/-- The UDS is gone and the state fuse is blown; the reply and the end of the session leave both so (R417). -/
theorem execUdsDestroyed_of_decom {session reqId : Nat} (hdecom : s.boot.decom = some (session, reqId)) :
    ∃ t, execUdsDestroyed s = .next t ∧
      t.fuses = { s.fuses with lifecycle := Nat.max s.fuses.lifecycle 3, udsIntact := false } ∧
      t.boot.decom = none := by
  have hkept (u : State) : AonKept u (closeSession (replyLive u session reqId St.done 0 []) session) :=
    (replyLive_aonKept ..).trans (closeSession_aonKept ..)
  simp only [execUdsDestroyed, hdecom]
  refine ⟨_, rfl, (hkept _).fuses, ?_⟩
  rw [(hkept _).boot]
  rfl

/-- The owner's fuses are blown and the claim ends; the reply and the new discovery leave both so (R412, R416). -/
theorem execOwnerFusesBlown_of_claim {session reqId : Nat} {pub : Bytes}
    (hclaim : s.boot.claim = some (session, reqId, pub)) : ∃ t, execOwnerFusesBlown s = .next t ∧
      t.fuses.lifecycle = Nat.max s.fuses.lifecycle 2 ∧ t.fuses.ownerPub = some pub ∧ t.boot.claim = none ∧
      t.boot.claimEnd = none := by
  have hkept (u : State) : AonKept u (rediscover (replyLive u session reqId St.done 0 []) false 2) :=
    (replyLive_aonKept ..).trans (rediscover_aonKept ..)
  simp only [execOwnerFusesBlown, hclaim]
  refine ⟨_, rfl, ?_⟩
  rw [(hkept _).fuses, (hkept _).boot]
  exact ⟨rfl, rfl, rfl, rfl⟩

theorem execJtagInstruction_of_standard {code : Nat} (hcode : code ≤ 2) :
    execJtagInstruction code s = .next { s with boot := { s.boot with jtag := code } } := congrArg _ (if_pos hcode)

theorem execJtagInstruction_of_extest :
    execJtagInstruction 3 s = .next { s with boot := { s.boot with jtag := if s.boot.fw.isNone then 3 else 0 } } := rfl

theorem execJtagInstruction_of_open {code : Nat} (hcode : 3 < code) (hopen : debugOpen s = true) :
    execJtagInstruction code s = .next { s with boot := { s.boot with jtag := code } } := by
  simp only [execJtagInstruction, if_neg (show ¬code ≤ 2 by omega), if_neg hcode.ne', hopen, if_true]

/-- While locked an instruction beyond EXTEST acts as BYPASS, and counts a violation where the device is not in
MANUFACTURE or DECOMMISSIONED (R418). -/
theorem execJtagInstruction_of_locked {code : Nat} (hcode : 3 < code) (hlocked : debugOpen s = false) :
    ∃ t, execJtagInstruction code s = .next t ∧ t.boot.jtag = 0 ∧
      ((s.fuses.lifecycle = 1 ∨ s.fuses.lifecycle = 2) → t.health.viol = (violation s).health.viol) := by
  simp only [execJtagInstruction, if_neg (show ¬code ≤ 2 by omega), if_neg hcode.ne', hlocked, Bool.false_eq_true,
    if_false]
  refine ⟨_, rfl, rfl, fun hlife => ?_⟩
  rw [if_pos hlife]

end

/-- Settles O60, request by request. -/
theorem attestationComplete : Obligations.AttestationComplete := by
  refine ⟨fun s => ⟨rfl, rfl, rfl, fun _ => rfl⟩, fun s hkey => ⟨execGetDigests_of_key hkey,
      execGetCertificate_of_key hkey, fun nonce hpower => execChallenge_of_key hkey hpower nonce,
      fun index nonce hpower => execGetMeasurements_of_key hkey hpower nonce⟩,
    fun s hnone => ⟨execGetDigests_of_no_key hnone, execGetCertificate_of_no_key hnone, execChallenge_of_no_key hnone,
      execGetMeasurements_of_no_key hnone⟩,
    fun s session reqId => execUdsDestroyed_of_decom, fun s session reqId pub => execOwnerFusesBlown_of_claim,
    fun s code => ⟨execJtagInstruction_of_standard, ?extest, execJtagInstruction_of_open,
      execJtagInstruction_of_locked⟩⟩
  case extest =>
    rintro rfl
    exact execJtagInstruction_of_extest

end Sys2Proof.Machine
end

section
/-! SUPPORT. Proofs about the start-up events (R420, R421, R532, R536, R538 to R545), one lemma per event and
outcome. -/

namespace Sys2Proof.Machine

section
variable {s : State}

/-! ### The mask ROM and the sideband messages (R532, R536, R542) -/

theorem execAonCheck_of_failure {romFail : Nat} (haon : s.boot.state = 0) (hfail : romFail ≠ 0) :
    execAonCheck romFail s = .next (modBoot s fun b => { b with state := 6, failCode := romFail % 256 }) := by
  simp only [execAonCheck, haon, ne_eq, not_true_eq_false, if_false, hfail, not_false_eq_true, if_true]

theorem execAonCheck_of_clocks (haon : s.boot.state = 0) (hclocks : ∀ r ∈ s.pins.refclk, r = true) :
    execAonCheck 0 s = .next (modBoot s fun b => { b with state := 1 }) := by
  have hall : s.pins.refclk.all id = true := List.all_eq_true.mpr hclocks
  simp only [execAonCheck, haon, ne_eq, not_true_eq_false, if_false, hall, if_true]

theorem execBootConfig_of_badField {c : BootConfig} {i : Nat} (hpower : s.boot.underVolt = false)
    (hbad : badField c = some i) : execBootConfig c s = .next (side s "BOOT_CONFIG" false (le 1 i)) := by
  simp only [execBootConfig, hpower, hbad, Bool.false_eq_true, if_false]

/-- A configuration is in force, and input power is present. -/
structure Configured (c : BootConfig) (s : State) : Prop where
  cfg : s.boot.cfg = some c
  power : s.boot.underVolt = false

namespace Configured

theorem of_aonKept {c : BootConfig} {t : State} (h : Configured c s) (hkept : AonKept s t) : Configured c t :=
  ⟨(congrArg Boot.cfg hkept.boot).trans h.cfg, (congrArg Boot.underVolt hkept.boot).trans h.power⟩

theorem ite {c : BootConfig} {t u : State} {p : Prop} [Decidable p] (ht : Configured c t) (hu : Configured c u) :
    Configured c (if p then t else u) := by
  split
  · exact ht
  · exact hu

end Configured

/-- A configuration in range replaces the one before, and the message is accepted (R456, R536). -/
theorem execBootConfig_of_valid {c : BootConfig} (hpower : s.boot.underVolt = false) (hvalid : badField c = none) :
    ∃ t, execBootConfig c s = .next t ∧ t.boot.cfg = some (numberedCreds c) ∧
      ∃ m, t.sbOut.getLast? = some m ∧ m.msg = "BOOT_CONFIG" ∧ m.accepted = true := by
  rw [execBootConfig, if_neg (Bool.eq_false_iff.mp hpower), hvalid]
  extract_lets c' old s₁ gone s₂ s₃ s₄ s₅
  have h₁ : Configured c' s₁ := ⟨rfl, hpower⟩
  have h₂ : Configured c' s₂ := h₁.of_aonKept (closeWhere_aonKept ..)
  have h₃ : Configured c' s₃ := .ite ⟨h₂.cfg, h₂.power⟩ h₂
  have h₄ : Configured c' s₄ := .ite ⟨h₃.cfg, h₃.power⟩ h₃
  have h₅ : Configured c' s₅ := .ite (h₄.of_aonKept (rediscover_aonKept ..)) h₄
  exact ⟨_, congrArg _ (side_of_power h₅.power ..), h₅.cfg, _, List.getLast?_concat, rfl, rfl⟩

theorem execClaimWindow_of_unowned {seconds : Nat} (hpower : s.boot.underVolt = false) (hready : s.boot.state = 4)
    (hlife : s.fuses.lifecycle = 1) (hmax : seconds ≤ 3600) : execClaimWindow seconds s =
      .next (side (modBoot s fun b => { b with
        claimEnd := if seconds = 0 then none else some (s.now + seconds * 1000000000) }) "CLAIM_WINDOW" true
        (le 8 (s.now + seconds * 1000000000))) := by
  have hend : (if seconds = 0 then s.now else s.now + seconds * 1000000000) = s.now + seconds * 1000000000 := by
    split_ifs with hzero
    · simp [hzero]
    · rfl
  simp only [execClaimWindow, hpower, hready, hlife, hmax.not_gt, hend, ne_eq, not_true_eq_false, or_self,
    Bool.false_eq_true, if_false]

theorem execClaimWindowExpiry_of_due {e : Nat} (hend : s.boot.claimEnd = some e) (hdue : e ≤ s.now) :
    execClaimWindowExpiry s = .next (modBoot s fun b => { b with claimEnd := none }) := by
  simp only [execClaimWindowExpiry, hend, if_pos hdue]

/-! ### The delivery of the firmware (R538, R539) -/

theorem execFwChunk_of_awaited {offset : Nat} {data : Bytes} (hawait : s.boot.state = 1) (hsource : s.boot.source = 0)
    (hsome : 1 ≤ data.length) (hmax : data.length ≤ 4096) : execFwChunk offset data s =
      .next (side (putImageBytes s offset data) "FW_CHUNK" true
        (le 8 (bytesHeld (putImageBytes s offset data).boot.image))) :=
  congrArg _ (if_pos ⟨hawait, hsource, hsome, hmax⟩)

theorem execFwChunk_of_unawaited {offset : Nat} {data : Bytes}
    (hnot : s.boot.state ≠ 1 ∨ s.boot.source ≠ 0 ∨ data.length = 0 ∨ 4096 < data.length) :
    execFwChunk offset data s = .next (side s "FW_CHUNK" false []) :=
  congrArg _ (if_neg (by omega))

theorem execBootDatagram_of_peer {frame : Bytes} {c : BootConfig} {e : Eth} {d : Datagram} (hcfg : s.boot.cfg = some c)
    (hlink : bootLink s 0 = true) (hframe : bootFrame frame = some e) (hkind : e.kind = ipKind c.bootV6)
    (hdatagram : datagramOf c.bootV6 e.body = some d) (hdst : d.dst = c.bootAddr) (hsrc : d.src = c.bootPeer)
    (hport : d.dstPort = c.bootUdp) (hmin : 9 ≤ d.data.length) (hmax : d.data.length ≤ 8200) :
    execBootDatagram frame s = .next (putImageBytes (modBoot s fun b => { b with peerAt := some e.src })
      (field d.data 0 8) (d.data.drop 8)) := by
  simp only [execBootDatagram, hcfg, hframe, if_pos hkind, hdatagram]
  rw [if_pos ⟨hlink, hdst, hsrc, hport, hmin, hmax⟩]

theorem execFwDeliveryTimeout_of_due (hawait : s.boot.state = 1) (hfirst : s.boot.firstNs.isSome = true)
    (hdue : s.boot.lastNs + 10000000000 ≤ s.now) : execFwDeliveryTimeout s = .next (rejectImage s 7) :=
  congrArg _ (if_pos ⟨hawait, hfirst, hdue⟩)

/-! ### Verification and bring-up (R420, R421, R423, R540 to R543) -/

theorem execFwVerifyDone_of_failure {k : Nat} (hverify : s.boot.state = 2)
    (hfail : manifestCheck s (prefixEnd s.boot.image) s.boot.image = some k) :
    execFwVerifyDone s = .next (rejectImage s k) := by
  simp only [execFwVerifyDone, hverify, ne_eq, not_true_eq_false, if_false, hfail]

theorem tellPeer_aonKept (s : State) : AonKept s (tellPeer s) := by
  unfold tellPeer
  split
  · exact ⟨rfl, rfl, rfl⟩
  · exact .refl s

/-- An image that passes every check is the firmware, and bring-up begins with the key that attests it (R420, R423,
R540). -/
theorem execFwVerifyDone_of_verified (hverify : s.boot.state = 2)
    (hpass : manifestCheck s (prefixEnd s.boot.image) s.boot.image = none) :
    ∃ t f, execFwVerifyDone s = .next t ∧ t.boot.state = 3 ∧ t.boot.fw = some f ∧
      t.boot.aliasKey = s.fuses.udsIntact ∧ t.boot.image = [] ∧ t.fuses = s.fuses := by
  have hports (u : State) : AonKept u ((List.range 6).foldl (fun s n =>
      if portUsable s n then modPort s n fun p => { p with state := 1 } else s) (tellPeer u)) := by
    refine (tellPeer_aonKept u).trans (.foldl (fun s n => ?_) _ _)
    exact .ite ⟨rfl, rfl, rfl⟩ (.refl s)
  simp only [execFwVerifyDone, hverify, ne_eq, not_true_eq_false, if_false, hpass]
  exact ⟨_, _, rfl, congrArg Boot.state (hports _).boot, congrArg Boot.fw (hports _).boot,
    congrArg Boot.aliasKey (hports _).boot, congrArg Boot.image (hports _).boot, (hports _).fuses⟩

/-- Bring-up with a failure code or an open sense pair ends in START_FAILED (R512, R542). -/
theorem execBringUpDone_of_failure {r : BringUpResult} (hbring : s.boot.state = 3)
    (hfail : r.failCode ≠ 0 ∨ r.senseOpen % 64 ≠ 0) : ∃ t, execBringUpDone r s = .next t ∧ t.boot.state = 6 ∧
      t.boot.failCode = if r.failCode ≠ 0 then r.failCode % 256 else 7 :=
  ⟨_, congrArg Host.Outcome.next ((if_neg (not_not.mpr hbring)).trans (if_pos hfail)), rfl, rfl⟩

/-- Bring-up that passes ends in READY or OUT_OF_SERVICE, with a patrol key drawn (R423, R543). -/
theorem execBringUpDone_of_passed {r : BringUpResult} (hbring : s.boot.state = 3) (hcode : r.failCode = 0)
    (hsense : r.senseOpen % 64 = 0) : ∃ t, execBringUpDone r s = .next t ∧
      (t.boot.state = 4 ∨ t.boot.state = 5) ∧ t.boot.patrolKey.isSome = true := by
  have hpass : ¬(r.failCode ≠ 0 ∨ r.senseOpen % 64 ≠ 0) := not_or.mpr ⟨not_not.mpr hcode, not_not.mpr hsense⟩
  have hstate (full : Bool) : (if full = true then 5 else 4) = 4 ∨ (if full = true then 5 else 4) = 5 := by
    cases full
    · exact .inl rfl
    · exact .inr rfl
  exact ⟨_, congrArg Host.Outcome.next ((if_neg (not_not.mpr hbring)).trans (if_neg hpass)), hstate _, rfl⟩

theorem execRollbackBlow_of_behind {f : Firmware} (hfw : s.boot.fw = some f) (hready : s.boot.state = 4)
    (hlife : s.fuses.lifecycle ≠ 0) (hbehind : s.fuses.rollback < f.svn) (hroom : s.fuses.rollback < 64) :
    execRollbackBlow s = .next { s with fuses := { s.fuses with rollback := s.fuses.rollback + 1 } } := by
  simp only [execRollbackBlow, hfw]
  rw [if_pos ⟨hready, hlife, hbehind, hroom⟩]

end

/-- Settles O59, event by event. -/
theorem startUpEventsComplete : Obligations.StartUpEventsComplete :=
  ⟨fun _ _ haon => ⟨execAonCheck_of_failure haon, fun hpass hclocks => hpass ▸ execAonCheck_of_clocks haon hclocks⟩,
    fun _ => rfl, fun _ _ hpower => ⟨fun _ => execBootConfig_of_badField hpower, execBootConfig_of_valid hpower⟩,
    fun _ _ _ => execFwChunk_of_awaited, fun _ _ _ => execFwChunk_of_unawaited,
    fun _ _ _ _ _ => execBootDatagram_of_peer, fun _ => execFwDeliveryTimeout_of_due,
    fun _ hverify => ⟨fun _ => execFwVerifyDone_of_failure hverify, execFwVerifyDone_of_verified hverify⟩,
    fun _ _ => execBringUpDone_of_failure, fun _ _ => execBringUpDone_of_passed,
    fun _ _ => execRollbackBlow_of_behind, fun _ _ => execClaimWindow_of_unowned,
    fun _ _ => execClaimWindowExpiry_of_due⟩

end Sys2Proof.Machine
end

section
/-! SUPPORT. Proofs about the power and temperature controls, the pins and the stopped state (R344 to R346, R507, R512,
R513, R516 to R534, R567, R570). -/

namespace Sys2Proof.Machine

/-! ### What power and temperature controls change (R517, R520, R523, R524, R526) -/

/-- `v` is `s` but for the registers of power and of temperature, and the pins. -/
def PowerOnly (s v : State) : Prop := v = { s with power := v.power, thermal := v.thermal, pins := v.pins }

namespace PowerOnly

theorem refl (s : State) : PowerOnly s s := rfl

theorem trans {s t v : State} (hst : PowerOnly s t) (htv : PowerOnly t v) : PowerOnly s v := by
  unfold PowerOnly at hst htv ⊢
  rw [hst] at htv
  exact htv

/-- Of two states that differ from one in power, temperature and pins alone, whichever is taken does. -/
theorem ite {s t u : State} {p : Prop} [Decidable p] (ht : PowerOnly s t) (hu : PowerOnly s u) :
    PowerOnly s (if p then t else u) := by
  split
  · exact ht
  · exact hu

theorem set (s : State) (p : Power) (h : Thermal) : PowerOnly s { s with power := p, thermal := h } := rfl

theorem setBins (s : State) (cur sust : Nat) : PowerOnly s (setBins s cur sust) := rfl

theorem updateSust (s : State) : PowerOnly s (updateSust s) := .ite rfl (.ite rfl rfl)

theorem retarget (s : State) : PowerOnly s (retarget s) := .ite rfl (.ite rfl (.ite rfl rfl))

theorem enterHold (s : State) : PowerOnly s (enterHold s) := .ite rfl rfl

theorem endGrant (s : State) : PowerOnly s (endGrant s) :=
  .ite (trans (t := { s with
    power := { s.power with grant := false }
    thermal := { s.thermal with tjPred := 0 } }) rfl (.retarget _)) rfl

theorem capsChanged (old : Nat) (s : State) : PowerOnly s (capsChanged old s) := by
  unfold Machine.capsChanged
  extract_lets s₁ new s₂ power s₃
  have h₁ : PowerOnly s s₁ := .updateSust s
  have h₂ : PowerOnly s₁ s₂ := .ite (.enterHold s₁) (.refl s₁)
  have h₃ : PowerOnly s₂ s₃ := .ite rfl (.refl s₂)
  exact h₁.trans (h₂.trans (h₃.trans (.retarget s₃)))

/-- A sample of the input power changes what the controls remember of it (R520, R521, R523, R524). -/
theorem takeSample (watts : Nat) (s : State) : PowerOnly s (takeSample watts s) := by
  unfold Machine.takeSample
  extract_lets since cap overSince high power thermal s'
  have hs' : PowerOnly s s' := trans (t := { s with thermal := _, power := _ }) rfl (.endGrant _)
  clear_value s' overSince
  cases overSince with
  | some t => exact .ite (hs'.trans (.enterHold s')) hs'
  | none => exact hs'

theorem followRails (s : State) : PowerOnly s (followRails s) := by
  unfold Machine.followRails
  split
  · exact .enterHold s
  · exact .setBins ..

end PowerOnly

section
variable (s : State)

theorem execTempSample_powerOnly (sensors : List Nat) : ∃ v, execTempSample sensors s = .next v ∧ PowerOnly s v := by
  refine ⟨_, rfl, ?_⟩
  refine PowerOnly.trans ?sampled ((PowerOnly.endGrant _).trans ((PowerOnly.updateSust _).trans (.retarget _)))
  exact .ite rfl rfl

theorem execThermalFloorEnd_powerOnly : ∃ v, execThermalFloorEnd s = .next v ∧ PowerOnly s v := by
  refine ⟨_, rfl, ?_⟩
  split
  · exact .ite (PowerOnly.trans (t := { s with thermal := { s.thermal with floor := false } }) rfl
      ((PowerOnly.updateSust _).trans (.retarget _))) (.refl s)
  · exact .refl s

theorem execTiFall_powerOnly : ∃ v, execTiFall s = .next v ∧ PowerOnly s v := by
  refine ⟨_, rfl, ?_⟩
  extract_lets cool
  split
  · next k _ =>
    exact PowerOnly.trans (t := { s with thermal := { s.thermal with ti := k } }) rfl
      ((PowerOnly.updateSust _).trans (.retarget _))
  · exact .refl s

theorem execRailsSettled_powerOnly (railsMv : List Nat) :
    ∃ v, execRailsSettled railsMv s = .next v ∧ PowerOnly s v := by
  refine ⟨_, rfl, ?_⟩
  extract_lets power s'
  have hs' : PowerOnly s s' := rfl
  split
  · exact hs'.trans (.enterHold s')
  · exact .ite rfl hs'
  · exact hs'

theorem execHoldEnd_powerOnly (watts : Nat) : ∃ v, execHoldEnd watts s = .next v ∧ PowerOnly s v :=
  ⟨_, rfl, (PowerOnly.takeSample watts s).trans (.ite rfl (.refl _))⟩

theorem execLimiter_powerOnly (p : PowerSample) : ∃ v, execLimiter p s = .next v ∧ PowerOnly s v :=
  ⟨_, rfl, PowerOnly.trans (t := { s with thermal := { s.thermal with pinMgt := p.mgtAvg, pinOwn := p.ownAvg } }) rfl
    ((PowerOnly.takeSample ..).trans (.ite rfl (.retarget _)))⟩

theorem execLimiterHandback_powerOnly (watts : Nat) : ∃ v, execLimiterHandback watts s = .next v ∧ PowerOnly s v := by
  refine ⟨_, rfl, (PowerOnly.takeSample watts s).trans ?_⟩
  generalize takeSample watts s = u
  dsimp only
  split
  · exact .ite (PowerOnly.trans (t := { u with power := { u.power with limiter := false, limiterCalmNs := none } }) rfl
      (.retarget _)) (.refl u)
  · exact .refl u

theorem execThrottleStep_powerOnly (watts : Nat) : ∃ v, execThrottleStep watts s = .next v ∧ PowerOnly s v := by
  refine ⟨_, rfl, (PowerOnly.takeSample watts s).trans ?_⟩
  generalize takeSample watts s = u
  refine .ite (.refl u) (.ite (.ite rfl (.ite rfl (.refl u))) ?_)
  split
  · exact .ite rfl (.refl u)
  · exact .refl u

theorem execOverdriveEval_powerOnly (watts : Nat) : ∃ v, execOverdriveEval watts s = .next v ∧ PowerOnly s v :=
  ⟨_, execOverdriveEval_eq rfl, (PowerOnly.takeSample watts s).trans ((PowerOnly.set ..).trans (.capsChanged ..))⟩

theorem execSenseCheck_powerOnly (pair far near : Nat) :
    ∃ v, execSenseCheck pair far near s = .next v ∧ PowerOnly s v := by
  refine ⟨_, rfl, .ite ?_ (.refl s)⟩
  refine PowerOnly.trans (t := { s with thermal := { s.thermal with senseOpen := s.thermal.senseOpen + 2 ^ pair } }) rfl
    ((PowerOnly.endGrant _).trans (.ite ((PowerOnly.set _ _ _).trans (.followRails _)) (.refl _)))

theorem execPwrAlertN_powerOnly : ∃ v, execPwrAlertN s = .next v ∧ PowerOnly s v :=
  ⟨_, rfl, PowerOnly.trans (t := { s with
    pins := { s.pins with pwrAlertN := false }
    power := { s.power with alert := true } }) rfl ((PowerOnly.endGrant _).trans (.capsChanged ..))⟩

end

/-- A control of power or of temperature changes the registers of power and of temperature and the pins alone. -/
theorem powerControl_powerOnly {s : State} {i : Instr} (hi : (∃ l, i = .tempSample l) ∨ i = .thermalFloorEnd ∨
    (∃ n, i = .curBinUpdate n) ∨ i = .tiFall ∨ (∃ n, i = .railsSettled n) ∨ (∃ n, i = .holdEnd n) ∨
    (∃ n, i = .limiter n) ∨ (∃ n, i = .limiterHandback n) ∨ (∃ n, i = .throttleStep n) ∨ (∃ n, i = .overdriveEval n) ∨
    (∃ n a b, i = .senseCheck n a b) ∨ i = .pwrAlertN ∨ i = .alertRelease ∨ (∃ n, i = .inputOorChange n)) :
    ∃ v, exec i s = .next v ∧ PowerOnly s v := by
  obtain ⟨sensors, rfl⟩ | rfl | ⟨mvs, rfl⟩ | rfl | ⟨mvs, rfl⟩ | ⟨watts, rfl⟩ | ⟨p, rfl⟩ | ⟨watts, rfl⟩ | ⟨watts, rfl⟩ |
    ⟨watts, rfl⟩ | ⟨pair, far, near, rfl⟩ | rfl | rfl | ⟨vin, rfl⟩ := hi
  · exact execTempSample_powerOnly ..
  · exact execThermalFloorEnd_powerOnly s
  · exact ⟨_, rfl, PowerOnly.trans (t := { s with power := { s.power with railsMv := mvs } }) rfl (.followRails _)⟩
  · exact execTiFall_powerOnly s
  · exact execRailsSettled_powerOnly ..
  · exact execHoldEnd_powerOnly ..
  · exact execLimiter_powerOnly ..
  · exact execLimiterHandback_powerOnly ..
  · exact execThrottleStep_powerOnly ..
  · exact execOverdriveEval_powerOnly ..
  · exact execSenseCheck_powerOnly ..
  · exact execPwrAlertN_powerOnly s
  · exact ⟨_, rfl, PowerOnly.trans (t := { s with
      pins := { s.pins with pwrAlertN := true }
      power := { s.power with alert := false } }) rfl (.capsChanged ..)⟩
  · exact ⟨_, rfl, PowerOnly.trans (t := { s with
      thermal := { s.thermal with vin := vin, inputOor := decide (vin < 3200 ∨ 4000 < vin) } }) rfl (.endGrant _)⟩

/-- Settles O24: each control ends in settings of power, of temperature and of the pins. -/
theorem powerFrame : Obligations.PowerFrame := by
  intro s v i hi hexec
  obtain ⟨w, hw, honly⟩ := powerControl_powerOnly (s := s) hi
  cases hw.symm.trans hexec
  exact honly

/-! ### The stopped state and RESET_N (R529, R533, R570) -/

/-- The device stops, whatever state it was in, and its pins stay as they are (R529). -/
theorem stopDevice_state_pins (cause : Option Nat) (s : State) :
    (stopDevice cause s).boot.state = 7 ∧ (stopDevice cause s).pins = s.pins := by
  unfold stopDevice
  split_ifs with hstop
  · exact ⟨hstop, rfl⟩
  · exact ⟨rfl, (fenceAll_aonKept s).pins⟩

section
variable {s : State}

theorem execResetN_of_absent (habsent : s.boot.underVolt = true ∨ s.pins.epoN = false) : execResetN s = .next s :=
  congrArg _ (if_pos (by simpa using habsent))

section
variable (hpower : s.boot.underVolt = false) (hepo : s.pins.epoN = true)
include hpower hepo

theorem execResetN_of_running (hrun : s.boot.state ≠ 7) :
    execResetN s = .next (packageReset s 0x0704 0x7000 s.now) := by
  simp only [execResetN, hpower, hepo, hrun, Bool.not_true, Bool.or_self, Bool.false_eq_true, if_false]

theorem execResetN_of_stopped (hstop : s.boot.state = 7) (htrip : s.pins.thermTripN = true) :
    execResetN s = .next (startUp s) := by
  simp only [execResetN, hpower, hepo, hstop, htrip, Bool.not_true, Bool.or_self, Bool.false_eq_true, if_false, if_true]

theorem execResetN_of_tripped (hstop : s.boot.state = 7) (htrip : s.pins.thermTripN = false) :
    execResetN s = .next s := by
  simp only [execResetN, hpower, hepo, hstop, htrip, Bool.not_true, Bool.or_self, Bool.false_eq_true, if_false, if_true]

end

/-- Settles O19: RESET_N meets EPO_N first, then the stopped state, then THERM_TRIP_N; the other two pins stop the
device. -/
theorem resetLeavesStopped : Obligations.ResetLeavesStopped := by
  intro s hpower
  have hepoLow (hlow : s.pins.epoN = false) : execResetN s = .next s := execResetN_of_absent (.inr hlow)
  refine ⟨fun hstop hepo htrip => ⟨execResetN_of_stopped hpower hepo hstop htrip, rfl⟩, fun hstop hlow => ?_, hepoLow,
    ?epo, ?trip⟩
  · obtain hlow | htrip := hlow
    · exact hepoLow hlow
    · cases hepo : s.pins.epoN with
      | false => exact hepoLow hepo
      | true => exact execResetN_of_tripped hpower hepo hstop htrip
  case epo =>
    obtain ⟨hstate, hpins⟩ := stopDevice_state_pins (some 1) { s with pins := { s.pins with epoN := false } }
    exact ⟨_, rfl, hstate, congrArg Pins.epoN hpins⟩
  case trip =>
    obtain ⟨hstate, hpins⟩ := stopDevice_state_pins (some (if s.thermal.tripOwn then 2 else 3))
      { s with pins := { s.pins with thermTripN := false } }
    exact ⟨_, rfl, hstate, congrArg Pins.thermTripN hpins⟩

/-! ### The pin events (R507, R512, R519, R527) -/

theorem execThermTripRelease_of_released {t : Nat} (h : s.thermal.tripOwn = false ∨ t < 90) :
    execThermTripRelease t s = .next { s with
      thermal := { s.thermal with tripOwn := false }
      pins := { s.pins with thermTripN := true } } := by
  refine congrArg _ (if_neg ?_)
  rw [Bool.and_eq_true, decide_eq_true_eq]
  rintro ⟨hown, hhot⟩
  obtain hnot | hcool := h
  · exact Bool.eq_false_iff.mp hnot hown
  · exact hcool.not_ge hhot

/-- The alert, the grant and the pins of `t` are those of `s`. -/
structure AlertKept (s t : State) : Prop where
  alert : t.power.alert = s.power.alert
  grant : t.power.grant = s.power.grant
  pins : t.pins = s.pins

namespace AlertKept

theorem refl (s : State) : AlertKept s s := ⟨rfl, rfl, rfl⟩

theorem trans {s t u : State} (hst : AlertKept s t) (htu : AlertKept t u) : AlertKept s u :=
  ⟨htu.alert.trans hst.alert, htu.grant.trans hst.grant, htu.pins.trans hst.pins⟩

theorem ite {s t u : State} {p : Prop} [Decidable p] (ht : AlertKept s t) (hu : AlertKept s u) :
    AlertKept s (if p then t else u) := by
  split
  · exact ht
  · exact hu

theorem retarget (s : State) : AlertKept s (retarget s) :=
  .ite (.refl s) (.ite ⟨rfl, rfl, rfl⟩ (.ite ⟨rfl, rfl, rfl⟩ ⟨rfl, rfl, rfl⟩))

/-- What follows a change of the caps is neither the alert nor the grant (R517, R521, R522). -/
theorem capsChanged (old : Nat) (s : State) : AlertKept s (capsChanged old s) := by
  unfold Machine.capsChanged
  extract_lets s₁ new s₂ power s₃
  have h₁ : AlertKept s s₁ := .ite ⟨rfl, rfl, rfl⟩ (.ite ⟨rfl, rfl, rfl⟩ ⟨rfl, rfl, rfl⟩)
  have h₂ : AlertKept s₁ s₂ := .ite (.ite (.refl s₁) ⟨rfl, rfl, rfl⟩) (.refl s₁)
  have h₃ : AlertKept s₂ s₃ := .ite ⟨rfl, rfl, rfl⟩ (.refl s₂)
  exact h₁.trans (h₂.trans (h₃.trans (.retarget s₃)))

end AlertKept

/-- An alert ends a grant, and leaves itself and the pins (R523, R524). -/
theorem endGrant_of_alert (halert : s.power.alert = true) : (endGrant s).power.alert = true ∧
    (endGrant s).power.grant = false ∧ (endGrant s).pins = s.pins := by
  have hdenied : odAllowed s = false := by
    simp only [odAllowed, halert, Bool.not_true, Bool.and_false, Bool.false_and]
  unfold endGrant
  split_ifs with hgrant
  · have hkept := AlertKept.retarget { s with
      power := { s.power with grant := false }
      thermal := { s.thermal with tjPred := 0 } }
    exact ⟨hkept.alert.trans halert, hkept.grant, hkept.pins⟩
  · exact ⟨halert, by simpa [hdenied] using hgrant, rfl⟩

/-- PWR_ALERT_N puts the alert in force and ends a grant (R519, R524). -/
theorem execPwrAlertN_alert (s : State) : ∃ t, execPwrAlertN s = .next t ∧ t.pins.pwrAlertN = false ∧
    t.power.alert = true ∧ t.power.grant = false := by
  obtain ⟨halert, hgrant, hpins⟩ := endGrant_of_alert (s := { s with
    pins := { s.pins with pwrAlertN := false }
    power := { s.power with alert := true } }) rfl
  have hkept := AlertKept.capsChanged (effCap s) (endGrant { s with
    pins := { s.pins with pwrAlertN := false }
    power := { s.power with alert := true } })
  exact ⟨_, rfl, congrArg Pins.pwrAlertN (hkept.pins.trans hpins), hkept.alert.trans halert, hkept.grant.trans hgrant⟩

/-- The release of PWR_ALERT_N ends the alert (R519). -/
theorem execAlertRelease_alert (s : State) :
    ∃ t, execAlertRelease s = .next t ∧ t.pins.pwrAlertN = true ∧ t.power.alert = false := by
  have hkept := AlertKept.capsChanged (effCap s) { s with
    pins := { s.pins with pwrAlertN := true }
    power := { s.power with alert := false } }
  exact ⟨_, rfl, congrArg Pins.pwrAlertN hkept.pins, hkept.alert⟩

section
variable {pair far near : Nat} (hfar : far + 50 < near ∨ near + 50 < far) (hpair : pair < 6)
  (hclosed : nbit s.thermal.senseOpen pair = false)
include hfar hpair hclosed

/-- A sense pair that opens is marked, which may end a grant (R512, R524); a core rail then reports its local sense. -/
theorem execSenseCheck_of_open : execSenseCheck pair far near s = .next (
    let v := endGrant { s with thermal := { s.thermal with senseOpen := s.thermal.senseOpen + 2 ^ pair } }
    if 1 ≤ pair ∧ pair ≤ 4 ∧ v.power.setMv ≠ 0 then
      followRails { v with power := { v.power with railsMv := lset v.power.railsMv (pair - 1) near } }
    else v) := congrArg _ (if_pos ⟨hfar, hpair, hclosed⟩)

end

end

/-- Settles O57, event by event. -/
theorem pinEventsComplete : Obligations.PinEventsComplete := by
  refine ⟨fun _ => rfl, fun s => ⟨(stopDevice_state_pins none s).1, rfl⟩, fun _ => rfl, fun _ => rfl, fun _ => rfl,
    fun _ _ => execThermTripRelease_of_released, fun _ => rfl,
    fun _ hpower hepo => ⟨execResetN_of_running hpower hepo, execResetN_of_stopped hpower hepo⟩, ?loss,
    fun _ _ => rfl, fun _ _ => rfl, execPwrAlertN_alert, execAlertRelease_alert, fun _ _ => rfl, ?sense,
    fun _ _ _ => ⟨rfl, rfl, rfl, rfl⟩⟩
  case loss => exact fun s => ⟨_, rfl, rfl, rfl, rfl, (interruptClaim_keeps s).1, rfl, rfl⟩
  case sense =>
    intro s pair far near hfar hpair hclosed v
    have hopen := execSenseCheck_of_open hfar hpair hclosed
    refine ⟨fun hother => hopen.trans (congrArg _ (if_neg ?_)),
      fun hmin hmax hset => hopen.trans (congrArg _ (if_pos ⟨hmin, hmax, hset⟩))⟩
    rintro ⟨hmin, hmax, hset⟩
    obtain hzero | hfive | hoff := hother
    · omega
    · omega
    · exact hset hoff

end Sys2Proof.Machine
end

section
/-! SUPPORT. Proofs about the shape of a torus (R453) and about the line of a reset (R482). -/

namespace Sys2Proof.Machine

/-! ### The coordinate index and short axes (R453) -/

/-- On an axis of dimension 1 a port may not leave DOWN (R453). -/
theorem portUsable_of_axisDim_one {s : State} {cfg : BootConfig} {n : Nat} (hcfg : s.boot.cfg = some cfg)
    (hdim : axisDim cfg.placement n = 1) : portUsable s n = false := by
  simp [portUsable, hcfg, hdim]

/-- Around an axis of dimension 2 one step either way ends at the same coordinate. -/
theorem step_mod_two {x d : Nat} (hd : d = 2) : (x + 1) % d = (x + d - 1) % d := by
  subst hd
  rfl

/-- A port and the one it faces are the two of one axis (R441). -/
theorem ne_facing (n : Nat) : n ≠ facing n := by
  unfold facing
  split <;> omega

/-- On an axis of dimension 2 both ports reach the same neighbour (R453). -/
theorem neighbour_facing {p : Placement} {n : Nat} (hn : n < 6) (hdim : axisDim p n = 2) :
    neighbour p n = neighbour p (facing n) := by
  match n, hn with
  | 0, _ => exact congrArg (·, p.y, p.z) (step_mod_two hdim)
  | 1, _ => exact congrArg (·, p.y, p.z) (step_mod_two hdim).symm
  | 2, _ => exact congrArg (p.x, ·, p.z) (step_mod_two hdim)
  | 3, _ => exact congrArg (p.x, ·, p.z) (step_mod_two hdim).symm
  | 4, _ => exact congrArg (p.x, p.y, ·) (step_mod_two hdim)
  | 5, _ => exact congrArg (p.x, p.y, ·) (step_mod_two hdim).symm

/-- Settles O18, axis by axis. -/
theorem torusCoordinates : Obligations.TorusCoordinates :=
  ⟨fun _ _ _ => rfl, fun _ _ _ hcfg _ => portUsable_of_axisDim_one hcfg,
    fun _ n hn hdim _ _ _ => ⟨neighbour_facing hn hdim, ne_facing n⟩⟩

/-! ### The line of the reset of a torus port (R453, R482) -/

/-- A reset of the torus port 0, which began at time 0 and whose line is not yet asserted. -/
def portReset : ResetOp where
  domain := 6 * 4096
  code := 0x0601
  secondary := []
  tile := 0x7FF
  ns := 0
  chases := []
  esc := false
  captured := false
  capNs := 0
  heads := []
  scrubbed := []
  drained := false
  line := false

/-- The state after reset, 200 ns after a reset of the torus port 0 began: no placement record is in force. -/
def unplacedPortReset : State := { State.reset with
  now := 200
  faults := { Faults.reset with resets := [portReset] } }

/-- The port whose line is asserted stays DOWN, as no placement record is in force (R453). -/
theorem execResetLineAssert_unplacedPortReset : ∃ t, execResetLineAssert (6 * 4096) unplacedPortReset = .next t ∧
    t.torus[0]?.map TorusPort.state = some 0 := ⟨_, rfl, rfl⟩

/-- Refutes O55 at `unplacedPortReset`: the line of its reset leaves a torus port that no placement record makes usable
in DOWN (state 0), and the statement puts it in TRAINING (state 1). -/
theorem not_faultEventsComplete : ¬ Obligations.FaultEventsComplete := by
  intro h
  obtain ⟨-, hreset, -⟩ := h
  obtain ⟨-, -, -, hline, -⟩ := hreset unplacedPortReset (6 * 4096) portReset rfl
  obtain ⟨-, hport⟩ := hline rfl (by decide)
  obtain ⟨t, ht, hdown⟩ := execResetLineAssert_unplacedPortReset
  cases ht.symm.trans (hport rfl)
  exact absurd hdown (by decide)

end Sys2Proof.Machine
end

section
/-! SUPPORT. Proofs about the torus events (R445 to R474), one lemma per event and outcome. -/

namespace Sys2Proof.Machine

/-! ### Changes of one port -/

/-- Of two changes of a port, only the value they give it counts. -/
theorem modPort_congr {s : State} {port : Nat} {p : TorusPort} {f g : TorusPort → TorusPort}
    (hp : s.torus[port]? = some p) (hfg : f p = g p) : modPort s port f = modPort s port g := by
  have htorus : s.torus.modify port f = s.torus.modify port g := by
    apply List.ext_getElem?
    intro i
    rw [List.getElem?_modify, List.getElem?_modify]
    by_cases hi : port = i
    · subst hi
      simp [hp, hfg]
    · simp [hi]
  simp only [modPort, lmod, htorus]

/-- A change of a port that gives it what it was changes nothing. -/
theorem modPort_of_eq {s : State} {port : Nat} {p : TorusPort} {f : TorusPort → TorusPort}
    (hp : s.torus[port]? = some p) (hf : f p = p) : modPort s port f = s := by
  rw [modPort_congr (g := id) hp hf]
  simp [modPort, lmod]

/-! ### What sending leaves of a port (R445) -/

/-- The state and the lanes of a port. -/
def TorusPort.lanes (p : TorusPort) : Nat × Bool × List Nat × Nat :=
  (p.state, p.retraining, p.lanesFailed, p.sparesUsed)

/-- The torus ports of `t` have the states and the lanes that those of `s` have. -/
def LanesKept (s t : State) : Prop := t.torus.map TorusPort.lanes = s.torus.map TorusPort.lanes

namespace LanesKept

theorem refl (s : State) : LanesKept s s := rfl

theorem trans {s t u : State} (hst : LanesKept s t) (htu : LanesKept t u) : LanesKept s u := Eq.trans htu hst

theorem modPort {f : TorusPort → TorusPort} (hf : ∀ p, (f p).lanes = p.lanes) (s : State) (n : Nat) :
    LanesKept s (modPort s n f) := map_lmod_same _ _ hf _ _

theorem freePlaces (s : State) (port vc k : Nat) : LanesKept s (freePlaces s port vc k) := .modPort (fun _ => by rfl) ..

theorem sendRuns (fuel n vc : Nat) (s : State) : LanesKept s (sendRuns fuel s n vc) := by
  induction fuel generalizing s with
  | zero => exact .refl s
  | succ fuel ih =>
    unfold Machine.sendRuns
    split
    · next r p _ _ =>
      extract_lets k us s₁ f s₂ left s₃
      have h₁ : LanesKept s s₁ := .modPort (fun _ => by rfl) s n
      have h₂ : LanesKept s₁ s₂ := by
        unfold s₂
        split
        · exact .freePlaces ..
        · exact .refl s₁
      have h₃ : LanesKept s₂ s₃ := rfl
      split
      · exact .refl s
      · exact h₁.trans (h₂.trans (h₃.trans (ih s₃)))
    · exact .refl s

theorem pump (s : State) (n : Nat) : LanesKept s (pump s n) := (sendRuns ..).trans (sendRuns ..)

/-- The IDLE frames of a port leave its lanes. -/
theorem idles (is : List Nat) (p : TorusPort) : (is.foldl
    (fun p _ => if 4 ≤ p.state ∧ p.freed.any (0 < ·) then p.idle else p) p).lanes = p.lanes := by
  induction is generalizing p with
  | nil => rfl
  | cons i is ih =>
    rw [List.foldl_cons, ih]
    split <;> rfl

theorem announce (s : State) : LanesKept s (announce s) := by
  unfold LanesKept Machine.announce
  rw [List.map_map]
  exact List.map_congr_left fun p _ => idles _ p

/-- A port whose lanes are kept is there with its lanes. -/
theorem port {s t : State} (h : LanesKept s t) {n : Nat} {p : TorusPort} (hp : s.torus[n]? = some p) :
    ∃ q, t.torus[n]? = some q ∧ q.lanes = p.lanes := by
  have hn := congrArg (·[n]?) h
  simpa [hp] using hn

end LanesKept

section
variable {s : State} {port : Nat} {p : TorusPort} (hp : s.torus[port]? = some p)
include hp

/-! ### Training and discovery (R445, R454, R455) -/

theorem execTorusPortTrained_of_training {failed : List Nat} (hstate : p.state = 1) :
    let v := modPort s port fun q => { q with
      lanesFailed := failed, retraining := false
      sparesUsed := (pickLanes s port failed).countP fun l => decide (8 ≤ l) }
    execTorusPortTrained port failed s =
      .next (if (pickLanes s port failed).length < 8 then portDown v port 11 else startDiscovery v port) := by
  simp only [execTorusPortTrained, hp, hstate, true_or, if_true]

section
variable {cfg : BootConfig} (hcfg : s.boot.cfg = some cfg)
include hcfg

section
variable {m : DiscoveryMsg} (hstate : p.state = 2)
include hstate

/-- A neighbour that does not agree closes the port, which says why (R455). -/
theorem execDiscoveryMsg_of_cause {cause : Nat} (hcause : discoveryCause s cfg.placement port m = some cause) :
    execDiscoveryMsg port m s =
      .next (modPort s port fun p => { p with state := 3, cause := cause, disc := none }) := by
  simp only [execDiscoveryMsg, hp, hcfg, hstate, hcause, ne_eq, not_true_eq_false, if_false]

/-- A neighbour that agrees brings the port up, with the keys of both directions (R455). -/
theorem execDiscoveryMsg_of_agreed {nonce eph : Bytes} (hcause : discoveryCause s cfg.placement port m = none)
    (hdisc : p.disc = some (nonce, eph)) :
    let keys := linkKeys (myIndex s) (coordIndex m.x m.y m.z) nonce m.nonce eph m.eph
    execDiscoveryMsg port m s = .next (modPort s port fun p => { p.unlinked with
      state := if m.lifecycle = 2 ∧ s.fuses.lifecycle = 2 then 5 else 4
      keyTx := some keys.1, keyRx := some keys.2, peerPub := some (m.certs.take 97)
      keyNs := s.now, upNs := s.now }) := by
  simp only [execDiscoveryMsg, hp, hcfg, hstate, hcause, hdisc, ne_eq, not_true_eq_false, if_false]

end

/-! ### Loss of signal (R468, R505) -/

theorem execLossOfSignal_of_up (hstate : p.state ≠ 0) :
    let nb := neighbour cfg.placement port
    let v := modPort s port fun p => { p with state := 0 }
    execLossOfSignal port s = .next (portDown (match p.job with
      | some id => jobFailure v id (coordWord (coordIndex nb.1 nb.2.1 nb.2.2)) 1
      | none => v) port 11) := by
  simp only [execLossOfSignal, hp, hcfg, hstate, if_false] <;> rfl

/-! ### The messages of a re-key (R429, R451) -/

/-- The peer's message gives the keys of both directions; the boundary of the own direction may follow at once. -/
theorem execRekeyMsg_of_signed {nonce eph sig n e pub : Bytes} (hstate : 4 ≤ p.state) (hpeer : p.peerPub = some pub)
    (hsig : ecdsaOk pub (sha384 (nonce ++ eph)) sig = true) (hrekey : p.rekeying = true)
    (hdisc : p.disc = some (n, e)) :
    let nb := neighbour cfg.placement port
    let ks := linkKeys (myIndex s) (coordIndex nb.1 nb.2.1 nb.2.2) n nonce e eph
    execRekeyMsg port nonce eph sig s =
      .next (boundaryTx (modPort s port fun _ =>
        { p with newTx := some ks.1, newRx := some ks.2, disc := none }) port) := by
  have hauth : p.peerPub.any (fun k => ecdsaOk k (sha384 (nonce ++ eph)) sig) = true := by
    rw [hpeer]
    exact hsig
  simp only [execRekeyMsg, hp, hcfg, hauth, hstate.not_gt, Bool.true_eq_false, or_self, if_false, if_pos hrekey]
  exact congrArg (fun t => Host.Outcome.next (boundaryTx t port)) (modPort_congr hp (by simp only [hdisc]))

end

theorem execRekeyMsg_of_unsigned {nonce eph sig : Bytes}
    (hsig : p.peerPub.any (fun k => ecdsaOk k (sha384 (nonce ++ eph)) sig) = false) :
    execRekeyMsg port nonce eph sig s = .next s := by
  unfold execRekeyMsg
  cases hcfg : s.boot.cfg <;> simp only [hp, hsig, or_true, if_true]

/-- The own direction keeps its key while frames sent under it are not acknowledged (R451). -/
theorem boundaryTx_of_unacked (hacked : p.acked ≠ p.txSeq) : boundaryTx s port = s :=
  modPort_of_eq hp (if_neg fun h => hacked h.2)

/-- The boundary of the own direction, once every earlier frame is acknowledged (R424, R451). -/
theorem boundaryTx_of_acked (hnew : p.newTx.isSome = true) (hacked : p.acked = p.txSeq) :
    (boundaryTx s port).torus[port]? = some ({ p with
      keyTx := p.newTx, newTx := none, genTx := p.genTx + 1, txSeq := 0, acked := 0, replay := [], keyNs := s.now
      rekeying := p.newRx.isSome }.emit 0 0 0 0 true [] []) :=
  (modPort_get _ _ _ _ hp).trans (congrArg some (if_pos ⟨hnew, hacked⟩))

/-! ### Frames (R446 to R451) -/

section
variable (hstate : 4 ≤ p.state)
include hstate

theorem execLinkRekey_of_due (hrekey : p.rekeying = false)
    (hdue : 2147483648 ≤ p.txSeq ∨ 2147483648 ≤ p.rxSeq ∨ p.keyNs + 3600000000000 ≤ s.now) :
    execLinkRekey port s = .next (sendRekey s port) := by
  simp only [execLinkRekey, hp, hstate, hrekey, hdue, and_self, if_true]

theorem execLinkFrame_of_unreadable (side : List (Bool × Bool)) :
    execLinkFrame port none side s = .next (sendCtl s port "NAK" [p.rxSeq + 1]) := by
  simp only [execLinkFrame, hp, hstate.not_gt, if_false]

section
variable {side : List (Bool × Bool)} {b : Bytes} {q : TorusPort}
  (hq : q = if (headOf b).rekey = true ∧ p.newRx.isSome = true then p.boundaryRx else p)
include hq

theorem execLinkFrame_of_closed (hclosed : (q.keyRx.bind fun k => openFrame k q.genRx b) = none) :
    execLinkFrame port (some b) side s = .next (badFrame s port p) := by
  subst hq
  simp only [execLinkFrame, hp, hstate.not_gt, hclosed, if_false]

section
variable {data : Bytes} (hopen : (q.keyRx.bind fun k => openFrame k q.genRx b) = some data)
include hopen

theorem execLinkFrame_of_skipped (hseq : (headOf b).seq ≠ q.rxSeq + 1) :
    execLinkFrame port (some b) side s = .next (sendCtl s port "NAK" [p.rxSeq + 1]) := by
  subst hq
  simp only [execLinkFrame, hp, hstate.not_gt, hopen, hseq, ne_eq, not_false_eq_true, if_false, if_true]

/-- A frame in sequence is accepted, its units are taken, and what it makes possible follows (R446, R449). -/
theorem execLinkFrame_of_next (hseq : (headOf b).seq = q.rxSeq + 1) :
    let v := modPort s port fun _ => q.accept (headOf b)
    execLinkFrame port (some b) side s = .next (answerFrame
      (if (headOf b).type = 1 then takeUnits v port (headOf b) (splitUnits data side) else v)
      port (headOf b).type) := by
  subst hq
  simp only [execLinkFrame, hp, hstate.not_gt, hopen, hseq, ne_eq, not_true_eq_false, if_false]

end

end

theorem execFrameNak_of_held {seq : Nat} (hheld : (p.replay.filter fun f => decide (seq ≤ f.seq)) ≠ []) :
    execFrameNak port seq s = .next (modPort s port fun q => { q with
      frames := q.frames ++ (p.replay.filter fun f => decide (seq ≤ f.seq)).map fun f => (f.bytes, f.side)
      counts := bump q.counts 0 }) := by
  have hagain : (p.replay.filter fun f => decide (seq ≤ f.seq)).map (fun f => (f.bytes, f.side)) ≠ [] := by
    simpa only [ne_eq, List.map_eq_nil_iff] using hheld
  simp only [execFrameNak, hp, hstate.not_gt, hagain, or_self, if_false]

/-! ### Time (R457) -/

theorem execSyncMsg_of_up (leader hops t1 t2 t3 : Nat) :
    let cur := if s.health.hops = 0 then myIndex s else s.health.leader
    let v := modPort s port fun p => { p with oneWay := Nat.min 4095 ((t3 - t1) / 2) }
    let synced := decide (p.upNs + 10000000 ≤ s.now)
    execSyncMsg port leader hops t1 t2 t3 s = .next (if leader < cur ∨ (leader = cur ∧ leader < myIndex s) then elapse
        { v with
          draws := s.draws + 1
          health := { v.health with leader := leader, hops := Nat.min 127 (hops + 1), synced := synced } }
        (Nat.min 100 (Nat.min (t2 + (t3 - t1) / 2 - t3) (Config.slew s.draws)))
      else { v with
        health := { v.health with
          leader := cur, hops := if cur = myIndex s then 0 else v.health.hops, synced := synced } }) := by
  simp only [execSyncMsg, hp, hstate.not_gt, if_false] <;> rfl

/-! ### JOIN (R464) -/

theorem execJoinMsg_of_up (m : JoinMsg) :
    let v := modPort s port fun p => { p with join := some m }
    execJoinMsg port m s = .next (match p.job with
      | none => v
      | some id => match findJob v id with
        | none => v
        | some j =>
          if j.state = .forming then takeJoin v id port m
          else if m.jobId = id then sendCtl v port "JOIN" (joinFields v j)
          else v) := by
  simp only [execJoinMsg, hp, hstate.not_gt, if_false] <;> rfl

end

/-- The units of a job that holds an open port are taken one by one, and what does not fit is relieved (R450, R466). -/
theorem takeUnits_of_job {id : Nat} {j : Job} (h : FrameHead) (units : List LinkUnit) (hopen : p.state = 5)
    (hjob : p.job = some id) (hj : findJob s id = some j) : takeUnits s port h units =
      relieve (units.foldl (fun s u => takeUnit s port j h u) s) port j := by
  simp only [takeUnits, hp, Option.bind_some, hopen, hjob, hj, if_true]

/-! ### Lanes (R445) -/

section
variable {lane : Nat} {ok : Bool} (hup : p.state ≠ 0)
include hup

theorem execLaneSpareRetrain_of_failed
    (hfail : ok = false ∨ (pickLanes s port (nset p.lanesFailed lane)).length < 8) :
    execLaneSpareRetrain port lane ok s = .next (portDown
      (modPort s port fun q => { q with lanesFailed := nset p.lanesFailed lane, retraining := false }) port 11) := by
  have hcond : (!ok || decide ((pickLanes s port (nset p.lanesFailed lane)).length < 8)) = true := by simpa using hfail
  simp only [execLaneSpareRetrain, hp, hup, hcond, if_false, if_true]

/-- A spare takes the place of a failing lane; what then leaves the port changes neither its state nor its lanes. -/
theorem execLaneSpareRetrain_of_spared (hok : ok = true)
    (hlanes : 8 ≤ (pickLanes s port (nset p.lanesFailed lane)).length) :
    ∃ t q, execLaneSpareRetrain port lane ok s = .next t ∧ t.torus[port]? = some q ∧ q.lanes =
      (p.state, false, nset p.lanesFailed lane,
        (pickLanes s port (nset p.lanesFailed lane)).countP fun l => decide (8 ≤ l)) := by
  have hcond : (!ok || decide ((pickLanes s port (nset p.lanesFailed lane)).length < 8)) = false := by
    simp [hok, hlanes]
  simp only [execLaneSpareRetrain, hp, hup, hcond, Bool.false_eq_true, if_false]
  generalize hv : (modPort s port fun p' => _) = v
  have hvp := hv ▸ modPort_get s port _ p hp
  obtain ⟨q, hq, hql⟩ := ((LanesKept.pump v port).trans (.announce _)).port hvp
  refine ⟨_, q, rfl, ?_, hql⟩
  split
  · exact hq
  · exact hq

end

end

/-! ### The messages of a job (R464, R469, R472) -/

section
variable {s : State} {id : Nat} {j : Job} (hj : findJob s id = some j)
include hj

theorem execJoinTimeout_of_due (hforming : j.state = .forming) (hdue : j.openedNs + 10000000000 ≤ s.now) :
    execJoinTimeout id s = .next (removeJob (endJobCmds s j St.wrongState 0x0D06) id) := by
  simp only [execJoinTimeout, hj, hforming, hdue, and_self, if_true]

theorem execFenceMsg_of_running (port step coord cause : Nat) (hrun : j.state = .ready ∨ j.state = .stepping) :
    let v := haltJob (sendHeld s j (some port) "FENCE" [id, step, coord, cause]) id coord cause
    execFenceMsg port id step coord cause s = .next (if j.state = .stepping ∧ (chase v j.fields.chase).fenced = false
      then fenceForFault v j.fields.chase else v) := by
  have hgo : ¬ (j.state = .halted ∨ j.state = .rejoining ∨ j.state = .forming) := by
    rintro (h | h | h) <;> simp [h] at hrun
  simp only [execFenceMsg, hj, hgo, if_false]

theorem execRejoinMsg_of_halted (port step epoch : Nat) (hhalt : j.state = .halted) :
    let v := sendCtl (sendHeld s j (some port) "REJOIN" [id, step, epoch]) port "REJOIN_ACK"
      [id, myIndex (sendHeld s j (some port) "REJOIN" [id, step, epoch]), rejoinDetail s j step]
    execRejoinMsg port id step epoch s = .next (if rejoinDetail s j step ≠ 0 then v else
      resumeJob (modJob v id fun j => { j with rejoinFrom := some port, rejoinStep := step }) id step epoch) := by
  simp only [execRejoinMsg, hj, hhalt, reduceCtorEq, false_and, if_false]

section
variable {port device detail : Nat}

theorem execRejoinAck_of_elsewhere {p : Nat} (hfrom : j.rejoinFrom = some p) (hne : p ≠ port) :
    execRejoinAck port id device detail s = .next (sendCtl s p "REJOIN_ACK" [id, device, detail]) := by
  simp only [execRejoinAck, hj, hfrom, hne, if_false]

section
variable (hfrom : j.rejoinFrom = none) (hstate : j.state = .rejoining)
include hfrom hstate

theorem execRejoinAck_of_passed (hpass : detail = 0) : execRejoinAck port id device detail s =
    .next (finishRejoin (modJob s id fun j => { j with acks := nset j.acks device }) id) := by
  simp only [execRejoinAck, hj, hfrom, hstate, hpass, ne_eq, not_true_eq_false, if_false]

theorem execRejoinAck_of_failed (hfail : detail ≠ 0) :
    let v := modJob (endJobCmds s j St.wrongState detail) id fun j =>
      { j with state := .halted, cmds := [], acks := [] }
    execRejoinAck port id device detail s = .next (sendHeld v j none "FENCE" [id, j.rejoinStep, myCoord v, 0]) := by
  simp only [execRejoinAck, hj, hfrom, hstate, hfail, ne_eq, not_true_eq_false, not_false_eq_true, if_false, if_true]

end

end

end

/-- Settles O56, event by event. -/
theorem torusEventsComplete : Obligations.TorusEventsComplete := by
  refine ⟨?discovery, ?frame, fun _ _ _ _ hp hup => execFrameNak_of_held hp hup, ?lanes,
    fun _ _ _ => execLinkRekey_of_due, ?rekey, fun _ _ _ _ _ _ hp => execRekeyMsg_of_unsigned hp,
    fun _ => ⟨rfl, rfl, rfl, rfl, rfl⟩, ?sync, ?loss, ?lossJob, ?join, fun _ _ _ => execJoinTimeout_of_due,
    fun _ port _ step coord cause _ hj => execFenceMsg_of_running hj port step coord cause,
    fun _ port _ step epoch _ hj => execRejoinMsg_of_halted hj port step epoch,
    fun _ _ _ _ _ _ hj => ⟨fun _ => execRejoinAck_of_elsewhere hj, execRejoinAck_of_passed hj,
      execRejoinAck_of_failed hj⟩, ?trained⟩
  case discovery =>
    intro s port p cfg m hp hcfg hstate
    exact ⟨fun _ => execDiscoveryMsg_of_cause hp hcfg hstate, fun nonce eph hcause hdisc =>
      ⟨_, _, execDiscoveryMsg_of_agreed hp hcfg hstate hcause hdisc, modPort_get _ _ _ _ hp, rfl,
        rfl, rfl, rfl, rfl, rfl⟩⟩
  case frame =>
    intro s port p side hp hstate
    refine ⟨execLinkFrame_of_unreadable hp hstate side, fun b => ?_⟩
    intro h q
    refine ⟨execLinkFrame_of_closed hp hstate rfl, fun data hopen =>
      ⟨execLinkFrame_of_skipped hp hstate rfl hopen, fun hseq => ?_⟩⟩
    have hframe := execLinkFrame_of_next (side := side) hp hstate rfl hopen hseq
    have hv := modPort_get s port (fun _ => q.accept h) p hp
    refine ⟨fun htype => hframe.trans (by rw [if_neg htype]), fun id j htype hfive hjob hj => hframe.trans ?_⟩
    rw [if_pos htype, htype, takeUnits_of_job hv _ _ hfive hjob hj]
  case lanes =>
    intro s port lane ok p hp hup
    refine ⟨execLaneSpareRetrain_of_failed hp hup, fun hok hlanes => ?_⟩
    obtain ⟨t, q, ht, hq, hql⟩ := execLaneSpareRetrain_of_spared hp hup hok hlanes
    simp only [TorusPort.lanes, Prod.mk.injEq] at hql
    exact ⟨t, q, ht, hq, hql⟩
  case rekey =>
    intro s port nonce eph sig p cfg n e pub hp hcfg hstate hpeer hsig hrekey hdisc nb ks
    have hmsg := execRekeyMsg_of_signed hp hcfg hstate hpeer hsig hrekey hdisc
    have hnew := modPort_get s port (fun _ => { p with newTx := some ks.1, newRx := some ks.2, disc := none }) p hp
    exact ⟨fun hacked => hmsg.trans (congrArg _ (boundaryTx_of_unacked hnew hacked)), fun hacked =>
      ⟨_, _, hmsg, boundaryTx_of_acked hnew rfl hacked, rfl, rfl, rfl, rfl, rfl, rfl, rfl, rfl, rfl, rfl⟩⟩
  case sync =>
    intro s port leader hops t1 t2 t3 p hp hstate cur v synced
    have hmsg := execSyncMsg_of_up hp hstate leader hops t1 t2 t3
    exact ⟨fun hlead => hmsg.trans (congrArg _ (if_pos hlead)), fun hown => hmsg.trans (congrArg _ (if_neg hown))⟩
  case loss =>
    intro s port p cfg hp hcfg hup hjob
    exact (execLossOfSignal_of_up hp hcfg hup).trans (by simp only [hjob])
  case lossJob =>
    intro s port id p cfg hp hcfg hup hjob
    exact (execLossOfSignal_of_up hp hcfg hup).trans (by simp only [hjob])
  case join =>
    intro s port p m hp hstate v
    have hmsg := execJoinMsg_of_up hp hstate m
    refine ⟨fun hfree => hmsg.trans (by rw [hfree]), fun id j hjob hj => ?_⟩
    simp only [hjob, v, hj] at hmsg
    exact ⟨fun hforming => hmsg.trans (congrArg _ (if_pos hforming)), fun hformed hid =>
      hmsg.trans ((congrArg _ (if_neg hformed)).trans (congrArg _ (if_pos hid)))⟩
  case trained =>
    intro s port failed p hp hstate picks v
    have htrained := execTorusPortTrained_of_training (failed := failed) hp hstate
    exact ⟨fun henough => htrained.trans (congrArg _ (if_neg henough.not_gt)),
      fun hfew => htrained.trans (congrArg _ (if_pos hfew))⟩

end Sys2Proof.Machine
end
